-- ==== Sys2Proof/Word.lean ====
section
/-! DEFINITION. The word types of the ZH-P4 (R3, R164, R26). -/
namespace Sys2Proof

/-- One byte. -/
abbrev Byte := BitVec 8

/-- A 16-bit quantity: FSTAT, a packed element (R54, R64). -/
abbrev Half := BitVec 16

/-- One 32-bit word: a v register of one position, an instruction word (R151, R164). -/
abbrev Word := BitVec 32

/-- One 64-bit word: an s, k register, an address, a structure word (R164). -/
abbrev Dword := BitVec 64

/-- A set of positions: bit `e * W + l` stands for position `(l, e)` (R25). -/
abbrev Mask := BitVec 256

/-- A group identifier (R26). -/
abbrev Gid := BitVec 40

end Sys2Proof
end

