-- ==== Sys2Proof/Config.lean ====
section
/-! DEFINITION. Fixed figures of the part (01 R11, R15) and the free values: what the spec leaves open, held by constants
without a body so that no proof can rest on a value. -/
namespace Sys2Proof.Config

/-- Cores enabled on a die, cores, partitions per core (R11). -/
def coresPerDie : Nat := 256
def partsPerCore : Nat := 4

/-- Rows of a register-file half, tiles of a partition, resident groups of a partition, blocks of a core (R11, R26, R34). -/
def rowsPerHalf : Nat := 1024
def tilesPerPart : Nat := 64
def groupsPerPart : Nat := 32
def blocksPerCore : Nat := 16

/-- Bytes of a block's and core's scratchpad (R11, R41). -/
def scratchBytes : Nat := 262144

/-- Lines of a core's L1 and 8-byte words of its constant and instruction caches, of 64, 32 and 64 KiB (R11). -/
def l1Lines : Nat := 512
def constWords : Nat := 4096
def codeWords : Nat := 8192

/-- Lines of a die's L2 in its base half of 64 MiB, and dirty lines of a stacked layer (R15, R114). -/
def l2BaseLines : Nat := 524288
def layerDirtyLines : Nat := 8192

/-- Installed HBM of a die, 6 stacks of 2^36 bytes, and the span of a die's addresses (R15, R106). -/
def hbmPerDie : Nat := 412316860416
def dieSpan : Nat := 2 ^ 39

/-- Cores of die 0 in minimal mode (R377). -/
def minimalCores : Nat := 64

/-- A free value for the n-th open value of a run (log entry 10). -/
opaque freeValue : Nat → Dword

/-- A free number for the n-th open choice or count of a run: which of several moves comes next, how many cycles pass
beyond the stated cost, which L2 way takes a line (log entries 10, 11). -/
opaque freeNat : Nat → Nat

/-- Which entry of a full cache gives way to a new one, by the keys it holds (log entry 57). -/
opaque freeVictim : List Nat → Nat

/-- Which of the values an aligned 8-byte word has held a fetch reads, by its address over 8, the names given so far and the
core's cycles (log entry 62). -/
opaque freeCode : Nat → Nat → Nat → Nat

/-- The result bits of FSFN function `fn` at an operand that R198's table of exact cases does not list (log entry 12). -/
opaque fsfn : Nat → Word → Word

/-- Does a firmware image or repair map verify under Farelholt's key (R379, log entry 30)? The key is fused in the package. -/
opaque verifies : List Byte → Bool

/-- The SHA-512 digest function as the report uses it (R381, log entry 30). -/
opaque digest : List Byte → List Byte

/-- The module's serial number, 16 bytes (R381, log entry 30). -/
opaque serial : List Byte

/-- The RSASSA-PSS signature of a report by the module's identity key, 512 bytes (R380, R381, log entry 30). -/
opaque signature : List Byte → List Byte

end Sys2Proof.Config
end

