-- ==== Sys2Proof/Syntax.lean ====
section
/-! DEFINITION. The instructions and steps of the ZH-P4: one constructor for each row of the opcode table (11 R167, R168;
95). The first 151 are 32-bit words and carry the word's fields; the others are steps of the part or acts of the outside
world that have no word, and carry what identifies the step or what the world supplies (a management command
stands in the state's command register). -/
namespace Sys2Proof

/-- A fabric packet: the 16-byte header of R309 as two words, and its payload of 0-256 bytes. -/
structure Packet where
  w0 : Dword
  w1 : Dword
  payload : List Byte
  deriving DecidableEq, Repr

/-- A flit as it arrives on a link (R309, R311): its virtual channel, the sequence number and CRC verdict of the framing,
and its 64 bytes. -/
structure Flit where
  vc : BitVec 2
  seq : Nat
  crcOk : Bool
  data : List Byte
  deriving DecidableEq, Repr

/-- A management command: eight 64-bit words (R375). -/
structure Cmd where
  w0 : Dword
  w1 : Dword
  w2 : Dword
  w3 : Dword
  w4 : Dword
  w5 : Dword
  w6 : Dword
  w7 : Dword
  deriving DecidableEq, Repr

/-- The units that write a stop record (R347, R352): group, product array of a partition, copy, halo and request engine of
a core, route engine of a die, ring sequencers, readout engine of a partition, block. -/
inductive StopUnit where
  | group (gid : Gid)
  | array (p : Nat)
  | copy (core : Nat)
  | halo (core : Nat)
  | request (core : Nat)
  | route (die : Nat)
  | ring
  | readout (p : Nat)
  | block (uid : Nat)
  deriving DecidableEq, Repr

/-- Where an uncorrectable error is detected (R362). -/
inductive ErrorSite where
  /-- A clean line met by the in-flight access `id`. -/
  | cleanLine (id : Nat)
  /-- A dirty line at physical address `pa` of tier T1, or T2 when `host`, met by work of function `vf`. -/
  | dirtyLine (host : Bool) (pa : Nat) (vf : Nat)
  /-- Registers of a group. -/
  | registers (gid : Gid)
  /-- The scratchpad of a resident block. -/
  | scratchpad (block : Nat)
  /-- The accumulator tiles of a group. -/
  | tiles (gid : Gid)
  deriving DecidableEq, Repr

/-- What the surroundings decide in a start (R377, R13, R16): the step that fails with its cause, if one does, and what
self-test finds unusable, as (die, number): physical core slots 0-271, physical weight-store banks 0-64, of which 64 is the
spare. -/
structure StartEnv where
  failure : Option (Nat × BitVec 8)
  badSlots : List (Nat × Nat)
  badBanks : List (Nat × Nat)
  deriving DecidableEq, Repr

/-- A value travelling in a ring chunk (R339): the wire form of an exact sum, a rounded sum or extreme, a count, or a sorted
list, each carried exactly. -/
inductive RingItem where
  /-- A word of the element's format: FP32 rounded sum, integer or FP extreme, RS24 triple. -/
  | bits (v : Dword)
  /-- An exact partial sum: value `int * 2 ^ exp`, and the NAN, PINF, NINF flags. -/
  | exact (int : Int) (exp : Int) (nan pinf ninf : Bool)
  /-- The values of one point merged in ascending order, NaN left out. -/
  | sorted (vs : List Dword)
  /-- An exact partial as its wire form of R87, which the receiver checks. -/
  | wire (bs : List Byte)
  deriving DecidableEq, Repr

/-- A ring chunk in transit (R339, R340): its region and index, the entry fields every chunk packet carries, the ring
position it reaches, whether it makes its second, writing round, and its partial result in point order; its carriageway (R313), and
whether it waits at its source while that is held (R315). -/
structure RingMsg where
  vf : Nat
  region : Nat
  chunk : Nat
  op : BitVec 4
  type : BitVec 3
  pv : Nat
  cpts : Nat
  npts : Nat
  len : Nat
  pos : Nat
  visited : Nat
  writing : Bool
  items : List RingItem
  cw : Nat := 0
  waits : Bool := false
  deriving DecidableEq, Repr

/-- A clause header's fields (R152). -/
structure ClauseHeader where
  n : Nat
  cls : BitVec 3
  ms : Bool
  epol : Bool
  wtk : Bool
  wcq : Bool
  wpa : Bool
  wst : Bool
  deriving DecidableEq, Repr

/-- A prefix word's fields (R157); `rz` is the reserved field {3:0}. -/
structure Prefix where
  mask : BitVec 4
  inv : Bool
  zero : Bool
  rnd : BitVec 3
  creg : BitVec 7
  cp : Bool
  epa : Bool
  epb : Bool
  epc : Bool
  sat : Bool
  rz : BitVec 4
  deriving DecidableEq, Repr

/-- What an instruction without a prefix meets: MASK m0, every other field zero (R158). -/
def Prefix.none : Prefix :=
  { mask := 0, inv := false, zero := false, rnd := 0, creg := 0, cp := false, epa := false, epb := false, epc := false,
    sat := false, rz := 0 }

/-- The instructions and steps. Fields of a word bear the names of the opcode table. -/
inductive Instr where
  /-- VADD (R184): Adds a and b at each executing position, wrapping or saturating. -/
  | vadd (d : BitVec 7) (a : BitVec 7) (b : BitVec 7) (f : BitVec 3) (s : BitVec 1)
  /-- VSUB (R184): Subtracts b from a at each executing position. -/
  | vsub (d : BitVec 7) (a : BitVec 7) (b : BitVec 7) (f : BitVec 3) (s : BitVec 1)
  /-- VMUL (R184): Writes the low n bits of a times b at each position. -/
  | vmul (d : BitVec 7) (a : BitVec 7) (b : BitVec 7) (f : BitVec 3) (s : BitVec 1)
  /-- VMULH (R184): Writes the high n bits of the exact 2n-bit product at each position. -/
  | vmulh (d : BitVec 7) (a : BitVec 7) (b : BitVec 7) (f : BitVec 3) (s : BitVec 1)
  /-- VMAD (R184): Writes a times b plus d, or plus the fourth operand c, at each position. -/
  | vmad (d : BitVec 7) (a : BitVec 7) (b : BitVec 7) (f : BitVec 3) (s : BitVec 1)
  /-- VMIN (R184): Writes the lesser of a and b, compared as the type. -/
  | vmin (d : BitVec 7) (a : BitVec 7) (b : BitVec 7) (f : BitVec 3) (s : BitVec 1)
  /-- VMAX (R184): Writes the greater of a and b, compared as the type. -/
  | vmax (d : BitVec 7) (a : BitVec 7) (b : BitVec 7) (f : BitVec 3) (s : BitVec 1)
  /-- VABSD (R184): Writes the exact absolute difference of a and b as an unsigned value. -/
  | vabsd (d : BitVec 7) (a : BitVec 7) (b : BitVec 7) (f : BitVec 3) (s : BitVec 1)
  /-- VAND (R184): Writes the bitwise and of a and b. -/
  | vand (d : BitVec 7) (a : BitVec 7) (b : BitVec 7) (f : BitVec 2) (s : BitVec 1)
  /-- VOR (R184): Writes the bitwise or of a and b. -/
  | vor (d : BitVec 7) (a : BitVec 7) (b : BitVec 7) (f : BitVec 2) (s : BitVec 1)
  /-- VXOR (R184): Writes the bitwise xor of a and b. -/
  | vxor (d : BitVec 7) (a : BitVec 7) (b : BitVec 7) (f : BitVec 2) (s : BitVec 1)
  /-- VANDN (R184): Writes a and not b. -/
  | vandn (d : BitVec 7) (a : BitVec 7) (b : BitVec 7) (f : BitVec 2) (s : BitVec 1)
  /-- VSHL (R185): Shifts a left by a count taken from b. -/
  | vshl (d : BitVec 7) (a : BitVec 7) (b : BitVec 7) (f : BitVec 3) (s : BitVec 1)
  /-- VSHR (R185): Shifts a right logically by a count taken from b. -/
  | vshr (d : BitVec 7) (a : BitVec 7) (b : BitVec 7) (f : BitVec 3) (s : BitVec 1)
  /-- VSAR (R185): Shifts a right arithmetically by a count taken from b. -/
  | vsar (d : BitVec 7) (a : BitVec 7) (b : BitVec 7) (f : BitVec 3) (s : BitVec 1)
  /-- VROT (R185): Rotates a left by a count taken from b. -/
  | vrot (d : BitVec 7) (a : BitVec 7) (b : BitVec 7) (f : BitVec 3) (s : BitVec 1)
  /-- VBFX (R185): Extracts a bit field of a at offset and width given by b. -/
  | vbfx (d : BitVec 7) (a : BitVec 7) (b : BitVec 7) (f : BitVec 1) (s : BitVec 1)
  /-- VBFI (R185): Inserts the low bits of a into a field of d given by b. -/
  | vbfi (d : BitVec 7) (a : BitVec 7) (b : BitVec 7) (f : BitVec 1) (s : BitVec 1)
  /-- VPOPC (R184): Writes the number of set bits of a. -/
  | vpopc (d : BitVec 7) (a : BitVec 7) (f : BitVec 2)
  /-- VCLZ (R184): Writes the number of leading zero bits of a. -/
  | vclz (d : BitVec 7) (a : BitVec 7) (f : BitVec 2)
  /-- VCMP (R188): Compares a with b at each active position and writes the result into a mask register. -/
  | vcmp (t : BitVec 2) (m : BitVec 4) (a : BitVec 7) (b : BitVec 7) (c : BitVec 3) (s : BitVec 1)
  /-- VSEL (R190): Selects a or b at each position by a mask named as the fourth operand. -/
  | vsel (d : BitVec 7) (a : BitVec 7) (b : BitVec 7) (f : BitVec 2) (s : BitVec 1)
  /-- VMOV (R184): Copies b, or broadcasts an s register, into d. -/
  | vmov (d : BitVec 7) (b : BitVec 7) (f : BitVec 2) (s : BitVec 1)
  /-- VADDI (R186): Adds a sign-extended immediate to a. -/
  | vaddi (d : BitVec 7) (a : BitVec 7) (i : BitVec 8) (f : BitVec 2)
  /-- VSHLI (R186): Shifts a left by an immediate count. -/
  | vshli (d : BitVec 7) (a : BitVec 7) (i : BitVec 8) (f : BitVec 3)
  /-- VSHRI (R186): Shifts a right by an immediate count, arithmetically or logically by type. -/
  | vshri (d : BitVec 7) (a : BitVec 7) (i : BitVec 8) (f : BitVec 3)
  /-- VANDI (R186): Ands a with a zero-extended immediate. -/
  | vandi (d : BitVec 7) (a : BitVec 7) (i : BitVec 8) (f : BitVec 2)
  /-- VCMPI (R188): Compares a with a sign-extended immediate and writes a mask register. -/
  | vcmpi (t : BitVec 2) (m : BitVec 4) (a : BitVec 7) (i : BitVec 8) (c : BitVec 3)
  /-- VMOVI (R186): Writes a sign-extended immediate into d. -/
  | vmovi (d : BitVec 7) (i : BitVec 8) (f : BitVec 2)
  /-- FADD (R192): Adds a and b with one rounding. -/
  | fadd (d : BitVec 7) (a : BitVec 7) (b : BitVec 7) (f : BitVec 2) (s : BitVec 1)
  /-- FSUB (R192): Subtracts b from a with one rounding. -/
  | fsub (d : BitVec 7) (a : BitVec 7) (b : BitVec 7) (f : BitVec 2) (s : BitVec 1)
  /-- FMUL (R192): Multiplies a and b with one rounding. -/
  | fmul (d : BitVec 7) (a : BitVec 7) (b : BitVec 7) (f : BitVec 2) (s : BitVec 1)
  /-- FFMA (R192): Computes a times b plus d or c with one rounding. -/
  | ffma (d : BitVec 7) (a : BitVec 7) (b : BitVec 7) (f : BitVec 2) (s : BitVec 1)
  /-- FMIN (R194): Writes the lesser of a and b without rounding. -/
  | fmin (d : BitVec 7) (a : BitVec 7) (b : BitVec 7) (f : BitVec 2) (s : BitVec 1)
  /-- FMAX (R194): Writes the greater of a and b without rounding. -/
  | fmax (d : BitVec 7) (a : BitVec 7) (b : BitVec 7) (f : BitVec 2) (s : BitVec 1)
  /-- FSGN (R194): Gives a the sign selected from b by a sign operation. -/
  | fsgn (d : BitVec 7) (a : BitVec 7) (b : BitVec 7) (f : BitVec 3) (s : BitVec 1)
  /-- FCMP (R195): Compares floating-point a and b and writes a mask register. -/
  | fcmp (t : BitVec 1) (m : BitVec 4) (a : BitVec 7) (b : BitVec 7) (c : BitVec 3) (s : BitVec 1)
  /-- FCVT (R196): Converts a between floating-point and integer types. -/
  | fcvt (d : BitVec 7) (a : BitVec 7) (e : BitVec 1) (t : BitVec 3) (f : BitVec 3)
  /-- FCLASS (R194): Writes a one-hot class word for a. -/
  | fclass (d : BitVec 7) (a : BitVec 7) (f : BitVec 1)
  /-- FSFN (R198): Computes a special function of an f32 operand within its stated error. -/
  | fsfn (d : BitVec 7) (a : BitVec 7) (f : BitVec 3)
  /-- FDIV (R192): Divides a by b with one rounding. -/
  | fdiv (d : BitVec 7) (a : BitVec 7) (b : BitVec 7) (f : BitVec 2) (s : BitVec 1)
  /-- FSQRT (R192): Takes the square root of a with one rounding. -/
  | fsqrt (d : BitVec 7) (a : BitVec 7) (f : BitVec 2)
  /-- FRND (R192): Rounds a to an integral value in the mode. -/
  | frnd (d : BitVec 7) (a : BitVec 7) (f : BitVec 2)
  /-- FLDEXP (R192): Scales a by 2 to the power b. -/
  | fldexp (d : BitVec 7) (a : BitVec 7) (b : BitVec 7) (f : BitVec 2) (s : BitVec 1)
  /-- FDOT2 (R193): Writes an f32 two-element dot product plus addend with one rounding. -/
  | fdot2 (d : BitVec 7) (a : BitVec 7) (b : BitVec 7) (f : BitVec 1) (s : BitVec 1)
  /-- XCLR (R199): Resets an exact accumulator and frees its long slot. -/
  | xclr (d : BitVec 2)
  /-- XADD (R199): Adds term a exactly to an accumulator. -/
  | xadd (d : BitVec 2) (a : BitVec 7) (f : BitVec 3)
  /-- XFMA (R199): Adds the exact product a times b to an accumulator. -/
  | xfma (d : BitVec 2) (a : BitVec 7) (b : BitVec 7) (f : BitVec 3)
  /-- XSUB (R199): Adds the term minus a exactly to an accumulator. -/
  | xsub (d : BitVec 2) (a : BitVec 7) (f : BitVec 3)
  /-- XRD (R199): Reads an accumulator out with one rounding into v registers. -/
  | xrd (d : BitVec 7) (a : BitVec 2) (f : BitVec 3)
  /-- XMRG (R199): Merges one accumulator into another. -/
  | xmrg (d : BitVec 2) (a : BitVec 2)
  /-- XST (R200): Writes an accumulator's 192-bit image into six v registers. -/
  | xst (d : BitVec 7) (a : BitVec 2)
  /-- XLD (R200): Loads an accumulator from a 192-bit image in six v registers. -/
  | xld (d : BitVec 2) (a : BitVec 7)
  /-- QSWZ (R202): Reads a from another lane of the quad. -/
  | qswz (d : BitVec 7) (a : BitVec 7) (f : BitVec 3)
  /-- QDIFF (R203): Forms an f32 difference between lanes of a quad. -/
  | qdiff (d : BitVec 7) (a : BitVec 7) (f : BitVec 3)
  /-- SHFL (R204): Copies a value from a computed lane of the same member. -/
  | shfl (d : BitVec 7) (a : BitVec 7) (b : BitVec 7) (f : BitVec 3) (s : BitVec 1)
  /-- VRED (R206): Reduces a over the active lanes of each member and writes the result to them. -/
  | vred (d : BitVec 7) (a : BitVec 7) (o : BitVec 3) (f : BitVec 3)
  /-- VSCAN (R207): Forms an inclusive or exclusive running result along each member's lanes. -/
  | vscan (d : BitVec 7) (a : BitVec 7) (x : BitVec 1) (o : BitVec 3) (f : BitVec 3)
  /-- VBALLOT (R208): Writes a mask of active positions whose a is nonzero. -/
  | vballot (m : BitVec 4) (a : BitVec 7)
  /-- VBALLOT_CNT (R208): Writes the count of active positions whose a is nonzero into an s register. -/
  | vballotCnt (d : BitVec 6) (a : BitVec 7)
  /-- VMATCH (R209): Writes for each position the lanes whose a equals its own. -/
  | vmatch (d : BitVec 7) (a : BitVec 7) (f : BitVec 3)
  /-- MXCH_BC (R210): Broadcasts a source member's register to every member of the lane. -/
  | mxchBc (d : BitVec 7) (a : BitVec 7) (b : BitVec 7) (f : BitVec 1) (s : BitVec 1)
  /-- MXCH_RED (R210): Reduces a across the active members of each lane. -/
  | mxchRed (d : BitVec 7) (a : BitVec 7) (u : BitVec 1) (o : BitVec 3) (f : BitVec 3)
  /-- SADD (R212): Adds two scalar registers. -/
  | sadd (d : BitVec 6) (a : BitVec 6) (b : BitVec 6) (f : BitVec 1) (k : BitVec 1)
  /-- SSUB (R212): Subtracts two scalar registers. -/
  | ssub (d : BitVec 6) (a : BitVec 6) (b : BitVec 6) (f : BitVec 1) (k : BitVec 1)
  /-- SMUL (R212): Writes the low or high 64 bits of a scalar product. -/
  | smul (d : BitVec 6) (a : BitVec 6) (b : BitVec 6) (f : BitVec 2) (k : BitVec 1)
  /-- SMAD (R212): Writes a times b plus d modulo 2^64. -/
  | smad (d : BitVec 6) (a : BitVec 6) (b : BitVec 6) (k : BitVec 1)
  /-- SAND (R212): Scalar bitwise and. -/
  | sand (d : BitVec 6) (a : BitVec 6) (b : BitVec 6) (k : BitVec 1)
  /-- SOR (R212): Scalar bitwise or. -/
  | sor (d : BitVec 6) (a : BitVec 6) (b : BitVec 6) (k : BitVec 1)
  /-- SXOR (R212): Scalar bitwise xor. -/
  | sxor (d : BitVec 6) (a : BitVec 6) (b : BitVec 6) (k : BitVec 1)
  /-- SSHL (R212): Scalar shift left. -/
  | sshl (d : BitVec 6) (a : BitVec 6) (b : BitVec 6) (k : BitVec 1)
  /-- SSHR (R212): Scalar logical shift right. -/
  | sshr (d : BitVec 6) (a : BitVec 6) (b : BitVec 6) (k : BitVec 1)
  /-- SSAR (R212): Scalar arithmetic shift right. -/
  | ssar (d : BitVec 6) (a : BitVec 6) (b : BitVec 6) (k : BitVec 1)
  /-- SCMP (R212): Writes 1 or 0 from a scalar comparison. -/
  | scmp (d : BitVec 6) (a : BitVec 6) (b : BitVec 6) (c : BitVec 3) (k : BitVec 1)
  /-- SSEL (R212): Selects a or b by whether d is nonzero. -/
  | ssel (d : BitVec 6) (a : BitVec 6) (b : BitVec 6) (k : BitVec 1)
  /-- SMOV (R212): Copies an s or k register into an s register. -/
  | smov (d : BitVec 6) (b : BitVec 6) (k : BitVec 1)
  /-- SADDI (R212): Adds a sign-extended immediate to a scalar register. -/
  | saddi (d : BitVec 6) (a : BitVec 6) (i : BitVec 8) (f : BitVec 1)
  /-- SMIN (R212): Writes the lesser of two scalar registers. -/
  | smin (d : BitVec 6) (a : BitVec 6) (b : BitVec 6) (t : BitVec 1) (k : BitVec 1)
  /-- SMAX (R212): Writes the greater of two scalar registers. -/
  | smax (d : BitVec 6) (a : BitVec 6) (b : BitVec 6) (t : BitVec 1) (k : BitVec 1)
  /-- SRD (R214): Reads a special register into an s register. -/
  | srd (d : BitVec 6) (a : BitVec 6) (i : BitVec 8)
  /-- SRD_CLR (R214): Reads a member's FSTAT and clears exactly the bits returned. -/
  | srdClr (d : BitVec 6) (a : BitVec 6)
  /-- BRA (R216): Moves the issuing path to the target when its condition holds. -/
  | bra (c : BitVec 6) (o : BitVec 3) (d : BitVec 16)
  /-- BDIV (R217): Splits the issuing path by a mask into taken and fall-through paths. -/
  | bdiv (m : BitVec 4) (n : BitVec 1) (d : BitVec 16)
  /-- CALL (R219): Writes the return clause address and moves the path to the target. -/
  | call (c : BitVec 6) (d : BitVec 16)
  /-- RET (R219): Moves the path to the address in an s register as the end of a call. -/
  | ret (c : BitVec 6)
  /-- JMPI (R219): Moves the path to the address in an s register. -/
  | jmpi (c : BitVec 6)
  /-- LD (R223): Loads from a uniform global address into each member's positions. -/
  | ld (d : BitVec 7) (s : BitVec 6) (o : BitVec 8) (z : BitVec 2) (x : BitVec 1) (h : BitVec 1)
  /-- ST (R223): Stores to a uniform global address from each active position. -/
  | st (d : BitVec 7) (s : BitVec 6) (o : BitVec 8) (z : BitVec 2)
  /-- LDX (R223): Loads from a per-position indexed global address. -/
  | ldx (d : BitVec 7) (s : BitVec 6) (v : BitVec 7) (z : BitVec 2) (x : BitVec 1) (h : BitVec 1) (c : BitVec 1)
  /-- STX (R223): Stores to a per-position indexed global address. -/
  | stx (d : BitVec 7) (s : BitVec 6) (v : BitVec 7) (z : BitVec 2) (c : BitVec 1)
  /-- LDS (R225): Loads from the scratchpad at an indexed address. -/
  | lds (d : BitVec 7) (s : BitVec 6) (v : BitVec 7) (z : BitVec 2) (x : BitVec 1) (h : BitVec 1) (c : BitVec 1)
  /-- STS (R225): Stores to the scratchpad at an indexed address. -/
  | sts (d : BitVec 7) (s : BitVec 6) (v : BitVec 7) (z : BitVec 2) (c : BitVec 1)
  /-- LDW (R223): Loads from the VF's weight-store region of the die. -/
  | ldw (d : BitVec 7) (s : BitVec 6) (v : BitVec 7) (z : BitVec 2) (x : BitVec 1) (h : BitVec 1) (c : BitVec 1)
  /-- LDC (R100): Loads a global address through the constant cache. -/
  | ldc (d : BitVec 7) (s : BitVec 6) (v : BitVec 7) (z : BitVec 2) (x : BitVec 1) (h : BitVec 1) (c : BitVec 1)
  /-- ATOM (R230): Performs an atomic at each position's global address, returning the old value unless NR. -/
  | atom (d : BitVec 7) (a : BitVec 7) (r : BitVec 1) (g : BitVec 1) (o : BitVec 3) (f : BitVec 3)
  /-- RED (R230): Performs a reduction atomic without return at each position's global address. -/
  | red (d : BitVec 7) (a : BitVec 7) (g : BitVec 1) (o : BitVec 3) (f : BitVec 3)
  /-- ATOMS (R230): Performs an atomic at each position's scratchpad address. -/
  | atoms (d : BitVec 7) (a : BitVec 7) (r : BitVec 1) (g : BitVec 1) (o : BitVec 3) (f : BitVec 3)
  /-- FENCE (R233): Orders the group's accesses at a scope and acts on aggregation buffers at device and system scope. -/
  | fence (q : BitVec 1) (s : BitVec 3)
  /-- QSET_BASE (R236): Writes a stream register's base and sets its position to 0. -/
  | qsetBase (q : BitVec 3) (a : BitVec 6)
  /-- QSET_SHAPE (R236): Writes a stream register's shape and strides and sets its position to 0. -/
  | qsetShape (q : BitVec 3) (a : BitVec 6) (b : BitVec 6) (k : BitVec 1)
  /-- QBIND (R237): Binds a stream to an operand slot and register name. -/
  | qbind (q : BitVec 3) (a : BitVec 6) (f : BitVec 2)
  /-- QBIND_OFF (R237): Unbinds a stream register. -/
  | qbindOff (q : BitVec 3)
  /-- QPOS_RD (R240): Reads a stream register's position word. -/
  | qposRd (d : BitVec 6) (q : BitVec 3)
  /-- QPOS_WR (R240): Sets a stream register's position. -/
  | qposWr (q : BitVec 3) (a : BitVec 6)
  /-- CPY (R244): Submits a copy request to the core's copy engine. -/
  | cpy (t : BitVec 6) (r : BitVec 6) (k : BitVec 6)
  /-- CPYM (R246): Submits a multicast copy into the shares of selected blocks of the cluster. -/
  | cpym (t : BitVec 6) (r : BitVec 6) (k : BitVec 6)
  /-- HALO (R247): Submits a halo descriptor to fetch a tile with its halo into scratchpad. -/
  | halo (t : BitVec 6) (r : BitVec 6) (k : BitVec 6)
  /-- HALO_ALLM (R249): Submits a halo descriptor performed once per member. -/
  | haloAllm (t : BitVec 6) (r : BitVec 6) (k : BitVec 6)
  /-- KICK (R250): Starts the request engine on a list of copy entries in scratchpad. -/
  | kick (t : BitVec 6) (r : BitVec 6)
  /-- MIGH_HOT (R251): Hints a range of pages for tier T1. -/
  | mighHot (t : BitVec 6) (r : BitVec 6)
  /-- MIGH_COLD (R251): Hints a range of pages for tier T2. -/
  | mighCold (t : BitVec 6) (r : BitVec 6)
  /-- MIGH_CLR (R251): Clears migration hints over a range of pages. -/
  | mighClr (t : BitVec 6) (r : BitVec 6)
  /-- RTSEND (R322): Submits a token to the die's route engine for its first or second choice expert. -/
  | rtsend (t : BitVec 6) (r : BitVec 6)
  /-- RTRECV_FILL (R328): Returns a receive table entry's CAP and FILL. -/
  | rtrecvFill (t : BitVec 6) (r : BitVec 6)
  /-- RTRECV_NEXT (R328): Hands out the next allocated slot address and advances TAKE. -/
  | rtrecvNext (t : BitVec 6) (r : BitVec 6)
  /-- RTRECV_LAND (R328): Returns the entry's LAND count. -/
  | rtrecvLand (t : BitVec 6) (r : BitVec 6)
  /-- RTRECV_RESET (R328): Waits until LAND equals FILL, then zeroes FILL, TAKE and LAND. -/
  | rtrecvReset (t : BitVec 6) (r : BitVec 6)
  /-- MMA (R265): Multiplies A by shared B and adds exact terms into the tile set. -/
  | mma (t : BitVec 4) (k : BitVec 6) (a : BitVec 7) (b : BitVec 7) (u : BitVec 1)
  /-- MMAG (R268): Multiplies A by B rows gathered by index and accumulates. -/
  | mmag (t : BitVec 4) (k : BitVec 6) (a : BitVec 7) (b : BitVec 7) (u : BitVec 1)
  /-- ACLR (R269): Resets the accumulators of n tiles. -/
  | aclr (t : BitVec 4) (n : BitVec 4)
  /-- ARD (R270): Reads tiles out with one rounding into v registers. -/
  | ard (t : BitVec 4) (k : BitVec 6) (d : BitVec 7) (g : BitVec 3)
  /-- ARDS (R271): Reads tiles out through the epilogue into a readout buffer entry for storing. -/
  | ards (t : BitVec 4) (k : BitVec 6) (p : BitVec 7) (b : BitVec 7)
  /-- RQCVT (R275): Converts an FP32 K-block row into residue codes and an E8 scale. -/
  | rqcvt (d : BitVec 7) (a : BitVec 7) (k : BitVec 2) (f : BitVec 3)
  /-- TARM (R283): Arms an action in the lowest free slot of a task record. -/
  | tarm (a : BitVec 6) (b : BitVec 6)
  /-- TARM_CLR (R283): Disarms all four actions of a task record. -/
  | tarmClr (a : BitVec 6)
  /-- TARM_INIT (R283): Sets a task record's counter and disarms every slot. -/
  | tarmInit (a : BitVec 6) (b : BitVec 6) (k : BitVec 1)
  /-- TADD (R284): Applies one update to a task record's counter. -/
  | tadd (a : BitVec 6) (b : BitVec 6) (k : BitVec 1)
  /-- TADD_R (R284): Applies one update and returns the counter before it. -/
  | taddR (d : BitVec 6) (a : BitVec 6) (b : BitVec 6) (k : BitVec 1)
  /-- ARRIVE (R285): Joins the record's waiter chain, decrements its counter and parks the group. -/
  | arrive (a : BitVec 6)
  /-- ARRIVE_ADD (R285): Joins the waiter chain with an update by a register value and parks. -/
  | arriveAdd (a : BitVec 6) (b : BitVec 6) (k : BitVec 1)
  /-- ARRIVE_WAIT (R285): Joins the waiter chain without changing the counter and parks. -/
  | arriveWait (a : BitVec 6)
  /-- POLL (R286): Loads a 64-bit word, compares it with a register and sets the back-off level. -/
  | poll (d : BitVec 6) (a : BitVec 6) (b : BitVec 6) (k : BitVec 1)
  /-- CAPENTER (R292): Acquires, adopts or finds busy a capsule record's lock. -/
  | capenter (d : BitVec 6) (a : BitVec 6)
  /-- CAPSTEP (R293): Commits the capsule step's buffered stores and checkpoint, or is displaced. -/
  | capstep (d : BitVec 6) (a : BitVec 6)
  /-- CAPEXIT (R294): Commits the last step, writes the result and releases the lock. -/
  | capexit (d : BitVec 6) (a : BitVec 6)
  /-- CAPRES (R295): Delivers the adopter's result to a displaced holder. -/
  | capres (d : BitVec 6) (a : BitVec 6)
  /-- REGREL (R299): Returns the group's top n registers to the partition pool. -/
  | regrel (n : BitVec 8)
  /-- REGCLM (R299): Claims n registers from the pool or parks the group. -/
  | regclm (n : BitVec 8)
  /-- TSPAWN (R287): Submits a launch record to the VF's spawn queue. -/
  | tspawn (a : BitVec 6)
  /-- SYS_TRAP (R301): Raises the software-trap fault with a code and the halt line. -/
  | sysTrap (i : BitVec 8)
  /-- SYS_BRK (R301): Raises the breakpoint fault with a code and the halt line. -/
  | sysBrk (i : BitVec 8)
  /-- SYS_PMRD (R301): Reads one of the core's performance counters. -/
  | sysPmrd (d : BitVec 6) (c : BitVec 2)
  /-- SYS_CYC (R301): Reads the core's local cycle counter. -/
  | sysCyc (d : BitVec 6)
  /-- SYS_EVSIG (R301): Writes an event entry of source 0 to the VF's event queue. -/
  | sysEvsig (a : BitVec 6) (i : BitVec 8)
  /-- CLAUSE_FETCH (R151): A PC slot reaches a clause header; the clause is fetched, translated and decoded whole, or the group parks on a miss. -/
  | clauseFetch (p : Nat)
  /-- CLAUSE_WAIT_RELEASE (R153): Every wait condition of a waiting clause header comes to hold and the slot becomes ready. -/
  | clauseWaitRelease (gid : Gid) (path : Nat)
  /-- LEG_ISSUE (R36): A partition's issue slot is arbitrated and the winning PC slot runs its leg. -/
  | legIssue (p : Nat)
  /-- BACK_OFF_AGEING (R37): A slot passed over by 4b legs of its class is arbitrated at level 0. -/
  | backOffAgeing (gid : Gid) (path : Nat)
  /-- CLASS_AGEING (R37): A slot ready for 65,536 core cycles is arbitrated in class 0 for its next leg. -/
  | classAgeing (gid : Gid) (path : Nat)
  /-- YIELD_RELEASE (R221): A yielded slot becomes ready once the other ready slots have begun a leg or 64 cycles pass. -/
  | yieldRelease (gid : Gid) (path : Nat)
  /-- REGISTER_FILL (R166): A returning value is written into an empty destination, marking it full and readying a blocked slot. -/
  | registerFill (id : Nat)
  /-- HOME_REPLY (R279): A record home's reply to TARM, CAP or TADD.r arrives and the waiting leg becomes ready. -/
  | homeReply (gid : Gid) (path : Nat)
  /-- STORE_ACKNOWLEDGE (R112): A home acknowledges a store, RED or atomic of a core. -/
  | storeAcknowledge (id : Nat)
  /-- GLOBAL_ACCESS_AT_HOME (R120): A global load, store, atomic or RED arrives and is performed at its line's L2 home. -/
  | globalAccessAtHome (id : Nat)
  /-- SCRATCHPAD_REMOTE_ACCESS (R94): A remote scratchpad access or atomic message is performed at the owning bank. -/
  | scratchpadRemoteAccess (id : Nat)
  /-- FAULT_QUEUE_ENTRY_WRITE (R360): A parking entry that found the fault queue full is written when room appears. -/
  | faultQueueEntryWrite (vf : Nat)
  /-- RESUME_ENTRY (R359): A resume entry is read and its parked work retries or takes the named fault. -/
  | resumeEntry (vf : Nat)
  /-- LAYER_WAKE (R115): A gated or retention layer wakes and completes the pending hit. -/
  | layerWake (layer : Nat)
  /-- LAYER_GATE (R115): The management controller clock-gates an idle layer or holds it at retention after write-back. -/
  | layerGate (layer : Nat) (mode : BitVec 2)
  /-- WEIGHT_REFRESH_WINDOW (R97): A weight-store refresh window ends and the next bank begins refreshing; waiting reads complete. -/
  | weightRefreshWindow (die : Nat)
  /-- HBM_REFRESH (R118): A DRAM layer is refreshed at the rate its sensors set. -/
  | hbmRefresh (stack : Nat) (layer : Nat)
  /-- MIGRATION_PERIOD (R376): A migration engine period ends and candidate pages begin moving. -/
  | migrationPeriod (die : Nat) (vf : Nat)
  /-- PAGE_MOVE_COMPLETE (R107): A page move ends: the entry changes atomically and stalled accesses proceed at the new frame. -/
  | pageMoveComplete (id : Nat)
  /-- AGG_BUFFER_AGE_EXPIRY (R141): A buffer's oldest entry reaches the age limit and the buffer departs. -/
  | aggBufferAgeExpiry (id : Nat)
  /-- FENCE_COMPLETE (R233): A fence that could not complete at issue completes and its leg becomes ready. -/
  | fenceComplete (gid : Gid) (path : Nat)
  /-- ENGINE_REQUEST_ACCEPT (R241): An engine takes a request from a group's copy request slot. -/
  | engineRequestAccept (gid : Gid)
  /-- ENGINE_LINE_LAND (R135): An engine line is performed at its destination, applying the arrival operator and clearing pending bits. -/
  | engineLineLand (id : Nat)
  /-- ENGINE_REQUEST_COMPLETE (R137): Every write of a request is performed; the ticket is filled and records counted down. -/
  | engineRequestComplete (id : Nat)
  /-- KICK_ENTRY_START (R252): The request engine reads, checks and starts the next list entry when fewer than 8 are in flight. -/
  | kickEntryStart (id : Nat)
  /-- STREAM_ELEMENT_ARRIVAL (R239): Prefetched stream elements arrive and the waiting consumer becomes ready. -/
  | streamElementArrival (gid : Gid) (q : Nat)
  /-- MATRIX_OPERATION (R263): A partition's slice takes the next queued matrix operation and performs it member by member. -/
  | matrixOperation (p : Nat)
  /-- MATRIX_OPERATION_COMPLETE (R267): A matrix operation completes and its accumulator changes become visible. -/
  | matrixOperationComplete (p : Nat)
  /-- SLICE_HANG (R363): A slice not ending a K-step within 4,096 cycles is reset and contexts with live tiles halt. -/
  | sliceHang (p : Nat)
  /-- READOUT_ENTRY_WRITE (R273): The readout engine writes an entry's rows in member then lane order. -/
  | readoutEntryWrite (id : Nat)
  /-- TASK_UPDATE (R47): One update of a task record is applied atomically at its home and fires crossed actions. -/
  | taskUpdate (id : Nat)
  /-- SPAWN_QUEUE_ENTRY (R287): A held spawn action enters the spawn queue when room appears. -/
  | spawnQueueEntry (vf : Nat)
  /-- LAUNCH_RECORD_ACCEPT (R41): A dispatcher reads the next launch record and its uniform table and accepts, holds or rejects it. -/
  | launchRecordAccept (vf : Nat) (spawn : Bool)
  /-- BLOCK_PLACEMENT (R44): Room appears and a dispatcher places a block of the next cluster of a queue. -/
  | blockPlacement (die : Nat) (vf : Nat) (spawn : Bool) (core : Nat)
  /-- DISPATCH_AGEING (R394): A queue's next cluster has waited 65,536 base-die cycles and the die serves no other queue. -/
  | dispatchAgeing (die : Nat) (vf : Nat) (spawn : Bool)
  /-- GRID_COMPLETION (R43): The grid's last block has exited and its writes are acknowledged; DONE is updated by -1. -/
  | gridCompletion (launch : Nat)
  /-- UNIT_STOP (R347): A unit reaches its stop point within its skid bound, writes its stop record and acknowledges the collector. -/
  | unitStop (vf : Nat) (u : StopUnit)
  /-- COLLECTOR_COMPLETE (R355): Every unit has acknowledged, records and directory are written and resources return. -/
  | collectorComplete (vf : Nat)
  /-- UNCORRECTABLE_ERROR (R362): An uncorrectable error is detected in a line, registers, scratchpad or tiles. -/
  | uncorrectableError (site : ErrorSite)
  /-- CORRECTABLE_RATE_THRESHOLD (R362): A unit's correctable-error rate crosses its threshold and retirement becomes pending. -/
  | correctableRateThreshold (source : BitVec 8) (die : BitVec 2) (unit : BitVec 10)
  /-- CORE_RETIREMENT (R13): At the next context boundary a retiring core moves to a spare slot, or spare exhausted is reported. -/
  | coreRetirement (core : Nat)
  /-- LAYER_THERMAL_LOSS (R364): A stacked layer is cut before its flush completes and its unwritten dirty lines are lost. -/
  | layerThermalLoss (layer : Nat)
  /-- LOOP_LOSS (R21): A cooling loop loses flow and the operating table is chosen. -/
  | loopLoss (top : Bool)
  /-- LOOP_RESTORED (R22): A lost loop has held normal flow for 60 seconds and the device returns to nominal. -/
  | loopRestored (top : Bool)
  /-- COLD_START (R377): Power-on start runs boot, verification, self-test, training, bring-up and ready. -/
  | coldStart (env : StartEnv)
  /-- WARM_RESTART (R377): A warm restart runs the start sequence, keeping repair map and attempt counter. -/
  | warmRestart (env : StartEnv)
  /-- START_STEP_TIMEOUT (R377): A start step running longer than 10 seconds fails with cause step timeout. -/
  | startStepTimeout (stage : Nat)
  /-- HBMT_REFRESH (R383): The management controller refreshes an HBM layer's sensor word. -/
  | hbmtRefresh (index : Nat) (value : Half)
  /-- LANE_FAILURE (R308): A link lane fails; cut packets are discarded and replayed. -/
  | laneFailure (port : Nat) (outbound : Bool)
  /-- LANE_WIDTH_CHANGE (R330): A direction whose lane set changes switches width at its packet boundary and idles. -/
  | laneWidthChange (port : Nat) (outbound : Bool)
  /-- WIDTH_CHANGE_IDLE_END (R330): The 64-cycle idle after a width change ends and traffic resumes. -/
  | widthChangeIdleEnd (port : Nat) (outbound : Bool)
  /-- FLIT_RECEIVE (R311): A flit arrives, its CRC and sequence are checked, and receive buffers fill. -/
  | flitReceive (port : Nat) (f : Flit)
  /-- REPLAY_REQUEST (R311): A receiver's replay request makes the sender resend from the first missing flit. -/
  | replayRequest (port : Nat) (seq : Nat)
  /-- FLIT_ACKNOWLEDGE (R311): A framing acknowledgement releases flits from the replay buffer. -/
  | flitAcknowledge (port : Nat) (seq : Nat)
  /-- LINK_RETRAIN (R311): Eight consecutive failed replays of a flit retrain the link. -/
  | linkRetrain (port : Nat)
  /-- LINK_PAUSE (R312): A pause for a virtual channel stops that channel at a flit boundary. -/
  | linkPause (port : Nat) (vc : BitVec 2)
  /-- LINK_RESUME (R312): A resume for a virtual channel restarts it. -/
  | linkResume (port : Nat) (vc : BitVec 2)
  /-- LINK_DEATH (R315): A carriageway's link dies and firmware holds, drains and remaps the carriageway. Link `port` of this device, or
  `port - 18` of another device of the domain. -/
  | linkDeath (port : Nat)
  /-- CARRIAGEWAY_DRAIN_COMPLETE (R315): A held carriageway has drained; its entry is written, requests resent and it is released. -/
  | carriagewayDrainComplete (cw : BitVec 4)
  /-- FABRIC_TIMEOUT (R315): A request without response for 2^24 interface cycles completes with fabric-timeout. -/
  | fabricTimeout (id : Nat)
  /-- READ (R319): A read packet is checked against import windows and answered with read data or status. -/
  | read (pkt : Packet)
  /-- READ_DATA (R310): Read data returns and fills the issuing positions. -/
  | readData (pkt : Packet)
  /-- WRITE (R310): A write packet performs a masked line write at the destination. -/
  | write (pkt : Packet)
  /-- AGGREGATED (R319): An aggregated packet's entries are performed and acknowledged, listing faulted elements. -/
  | aggregated (pkt : Packet)
  /-- ATOMIC (R318): An atomic packet's entries, including task updates, are performed in order and old values returned. -/
  | atomic (pkt : Packet)
  /-- ATOMIC_DATA (R310): Atomic data returns old values to the issuing positions. -/
  | atomicData (pkt : Packet)
  /-- ACKNOWLEDGE (R310): An acknowledgement completes a write or aggregated packet. -/
  | acknowledge (pkt : Packet)
  /-- ELEMENT_FAULTS (R319): Faulted aggregated elements are placed in their groups' aggregation fault logs. -/
  | elementFaults (pkt : Packet)
  /-- STATUS (R319): A status packet answers a request in place of its normal answer, parking or faulting the issuer. -/
  | status (pkt : Packet)
  /-- DISCARDED_PACKET (R310): A packet of reserved kind or wrong channel is discarded and counted. -/
  | discardedPacket (port : Nat) (pkt : Packet)
  /-- ROUTE_TOKEN_ACCEPT (R323): The route engine takes an RTSEND request while it holds fewer than 256 tokens. -/
  | routeTokenAccept (die : Nat)
  /-- ROUTE_TOKEN (R325): A token's first packet is accepted into a slot or refused at the receive table entry. -/
  | routeToken (pkt : Packet)
  /-- ROUTE_TOKEN_HEADER_WRITE (R326): An accepted token's bytes are performed and its header is written. -/
  | routeTokenHeaderWrite (id : Nat)
  /-- ROUTE_TOKEN_LAND (R326): The header is performed; LAND increments, TREC counts down and the reply is sent. -/
  | routeTokenLand (id : Nat)
  /-- ROUTE_REPLY (R323): A route reply settles the token, tries its second choice or drops it. -/
  | routeReply (pkt : Packet)
  /-- RING_CHUNK (R339): A ring chunk arrives, is combined with the member's ready chunk and passed on. -/
  | ringChunk (msg : RingMsg)
  /-- RING_RESULT_WRITE (R342): A chunk's result writes are performed and TREC is counted down by their bytes. -/
  | ringResultWrite (vf : Nat) (region : Nat) (chunk : Nat)
  /-- HOST_SNOOP (R370): A CXL host snoop or write to a tier T2 line is answered by its L2 home. -/
  | hostSnoop (addr : Nat) (data : List Byte)
  /-- RING_PI_WRITE (R374): A producer count write rings a doorbell or is ignored and counted when too far ahead. -/
  | ringPiWrite (fn : Nat) (ring : Nat) (value : Word)
  /-- RING_CI_WRITE (R374): A consumer count write frees places in a device-produced ring. -/
  | ringCiWrite (fn : Nat) (ring : Nat) (value : Word)
  /-- RING_CONTROL_WRITE (R372): A write to RCTL sets LOG2 and EN, clearing PI, CI and OVF on enable. -/
  | ringControlWrite (fn : Nat) (ring : Nat) (value : Dword)
  /-- REGISTER_WRITE_OTHER (R373): A write to a register without behaviour of its own is stored or ignored. -/
  | registerWriteOther (fn : Nat) (offset : Nat) (width : Nat) (value : Dword)
  /-- ILLEGAL_INSTRUCTION (R169): A word of reserved opcode, or with a reserved FN or COND value, reaches issue and raises illegal-instruction with the halt line. -/
  | illegalInstruction (w : Word)
  /-- NORMAL_FLOW_RETURN (R22): A lost cooling loop regains normal flow and the management controller begins counting the 60-second hold shown in THSTAT HELD. -/
  | normalFlowReturn (top : Bool)
  /-- LINK_TRAINING_END (R311): Retraining of a link ends; lanes that failed training are lost under R308 and the link carries traffic again. -/
  | linkTrainingEnd (port : Nat) (lostOut lostIn : Nat)
  /-- JOIN (R218): Removes a child path and releases its parent when both children have joined. -/
  | join
  /-- EXIT (R220): Removes the issuing path's positions and ends the group when no path remains. -/
  | exit
  /-- NOP (R221): Does nothing. -/
  | nop
  /-- YIELD (R221): Ends the leg and keeps the slot out of arbitration for a while. -/
  | yield
  /-- FLUSHAGG (R234): Makes every buffer holding the group's entries depart without waiting. -/
  | flushagg
  /-- FLUSHAGG_WAIT (R234): Makes the group's buffers depart, waits for acknowledgement and checks the fault log. -/
  | flushaggWait
  /-- SYS_HALT (R301): Raises program-halt and the halt line. -/
  | sysHalt
  /-- TABLE_CHANGE (R22): A change of operating table takes effect once every group is at a leg boundary. -/
  | tableChange
  /-- SETCTX_ROOT (R101): Sets the context's page-table root frame. -/
  | setctxRoot
  /-- SETCTX_WINDOW (R108): Sets a member window's base, limit and stride. -/
  | setctxWindow
  /-- SETCTX_AGEL (R141): Sets the aggregation age limit. -/
  | setctxAgel
  /-- SETCTX_ROUTE (R320): Sets the route words and route domain. -/
  | setctxRoute
  /-- SETCTX_REGION (R334): Writes a reduction-region entry, refusing an illegal enabled entry. -/
  | setctxRegion
  /-- SETCTX_SAVEBASE (R351): Sets the context's save area address. -/
  | setctxSavebase
  /-- SETCTX_WEIGHT_REGION (R95): Sets a die's weight-store region base and size for the VF. -/
  | setctxWeightRegion
  /-- SETCTX_MIGRATION_POLICY (R376): Sets the context's migration policy word. -/
  | setctxMigrationPolicy
  /-- SETCTX_FRAME_POOL (R376): Sets the context's migration frame pool list. -/
  | setctxFramePool
  /-- SETCTX_T2_LIMIT (R106): Sets the context's tier T2 limit. -/
  | setctxT2Limit
  /-- INVAL (R105): Invalidates translations of a range, completing when old-entry accesses complete. -/
  | inval
  /-- PREEMPT (R355): Pre-empts a context, completing when the collector completes. -/
  | preempt
  /-- RESUME (R357): Resumes a context from its save area on any allowed cores. -/
  | resume
  /-- ENDCTX (R375): Discards a halted or switched-out context. -/
  | endctx
  /-- LSPLIT (R307): Sets a port's lane split. -/
  | lsplit
  /-- DBGRD (R365): Reads memory of a halted context for a debugger. -/
  | dbgrd
  /-- PMCTL (R385): Enables counters for one VF, applies selections and clears all counters. -/
  | pmctl
  /-- REPLAY (R386): Runs a launch N times with different counter selections, capturing and restoring memory. -/
  | replay
  /-- REPLAY_PASS_END (R386): A replay pass ends; its result record is written and memory restored for the next pass. -/
  | replayPassEnd
  /-- ATTEST (R381): Writes a signed attestation report to the host. -/
  | attest
  /-- FWLOAD (R379): Verifies and stores a firmware image for the next start. -/
  | fwload
  /-- FULLSTART (R377): Clears the attempt counter and performs a warm restart. -/
  | fullstart
  /-- FABCFG_IMPORT_WINDOW (R316): Writes one of the device's import windows. -/
  | fabcfgImportWindow
  /-- FABCFG_RESPONSE_LOG (R315): Places the device's fabric response log. -/
  | fabcfgResponseLog
  /-- UNKNOWN_OP (R375): A management command with an unknown OP, SETCTX field or VF is answered invalid and changes nothing. -/
  | unknownOp
  /-- POWER_LOSS (R378): Module power is lost, discarding all state except the kept fields such as BOOTST's causes and the attempt counter. -/
  | powerLoss
  deriving DecidableEq, Repr

end Sys2Proof
end

