-- ==== Sys2Proof/Machine/State.lean ====
section
/-! DEFINITION. The state of the ZH-P4: all the spec gives the machine, as plain data. Group state is that of 25 R353 and
R164; context state that of 27 R375; the rest follows the rule each structure cites. -/
namespace Sys2Proof.Machine

/-- A finite map by number in canonical form: keys strictly rising, no entry equal to the map's default. -/
abbrev FMap (α : Type) := List (Nat × α)

/-! ### Addresses and accesses -/

/-- Where an access is performed (R120): an HBM byte address, a host or CXL memory byte address (R106), a byte of a peer
device (R106), a scratchpad offset of a resident block (R91), a byte of a die's weight store (R95). -/
inductive Loc where
  | hbm (pa : Nat)
  | host (pa : Nat)
  | peer (dev : Nat) (pa : Nat)
  | scr (block : Nat) (ofs : Nat)
  | weight (die : Nat) (addr : Nat)
  deriving DecidableEq, Repr

/-- A register write that a returning value makes: a v register of a position (its shadow when `shadow`), an s register
(R166), an element of a stream as set at `since` (R239), a POLL's value with the value it is compared with (R286), or a
word of code of a peer page for a path (R151). -/
inductive FillItem where
  | v (shadow : Bool) (reg pos : Nat) (value : Word)
  | s (reg : Nat) (value : Dword)
  | q (reg key since : Nat) (value : Dword)
  | poll (reg : Nat) (value cmp : Dword)
  | code (path addr : Nat) (value : Word)
  deriving DecidableEq, Repr

/-- A value on its way to empty registers (R166). -/
structure Fill where
  id : Nat
  gid : Gid
  items : List FillItem
  deriving DecidableEq, Repr

/-- Where a returning load, atomic or POLL writes (R166, R224): nothing, v registers of the listed positions with the
given sign extension, an s register (with its sign extension in capsule mode), a POLL comparing with a value, a stream
element, a word of code of a path. -/
inductive Dest where
  | none
  | v (reg : Nat) (pair : Bool) (signed : Bool) (helpers : Mask)
  | s (reg : Nat) (signed : Bool)
  | poll (reg : Nat) (cmp : Dword)
  | elem (reg key since : Nat)
  | code (path addr : Nat)
  deriving DecidableEq, Repr

/-- What an access does (R223, R229). -/
inductive AccKind where
  | load
  | store
  | atomic (op type : Nat) (ret : Bool)
  deriving DecidableEq, Repr

/-- One position's part of an access: its position, its operand and its compare value (R230). -/
structure PosOp where
  pos : Nat
  x : Dword
  c : Dword
  deriving DecidableEq, Repr

/-- An access that has issued and is not yet performed (R120): its performing point, size and parts, and where its value
goes. `addr` is the word that issued it, `va` the data address, `const` marks an LDC. `line` is the issuing path with its ancestors at issue,
`after` names the accesses that are kept before it (R123, R124); `helper` says that it serves helper positions only and takes no part in
ordering (R123); `l1` says when a store was written into its core's L1, where its core's groups observe it (R125). -/
structure Access where
  id : Nat
  gid : Gid
  vf : Nat
  core : Nat
  kind : AccKind
  loc : Loc
  va : Nat
  size : Nat
  ops : List PosOp
  dest : Dest
  addr : Nat
  const : Bool
  line : List Nat := []
  after : List Nat := []
  helper : Bool := false
  l1 : Option Nat := none
  deriving DecidableEq, Repr

/-! ### Exact accumulators -/

/-- A short exact accumulator (R80). `long` is the slot that holds its value when LONG is 1. -/
structure Xa where
  long : Option Nat
  ninf : Bool
  pinf : Bool
  nan : Bool
  anchor : Option Int
  int : Int
  deriving DecidableEq, Repr

/-- The reset values of R80. -/
def Xa.reset : Xa := { long := none, ninf := false, pinf := false, nan := false, anchor := none, int := 0 }

/-- A long record in its slot (R81): its integer L, of value `val * 2 ^ -2148`. Its flags are those of the short image
that names the slot, which read the same (R88). -/
structure LongRec where
  val : Int
  deriving DecidableEq, Repr

/-! ### Paths, clauses, waits -/

/-- A decoded clause (R151): its header's address, its header and its words. -/
structure Clause where
  base : Nat
  hdr : ClauseHeader
  words : List Word
  deriving DecidableEq, Repr

/-- What a slot waits for before it is ready again (R36, R37, R153). -/
inductive Wait where
  | none
  /-- The clause header's wait bits (R153). -/
  | clause
  /-- Registers to be full: v registers, shadows, s registers (R36, R166). -/
  | regs (v : List (Nat × Mask)) (sh : List (Nat × Mask)) (s : Dword)
  /-- Room in the group's copy request slot (R241). -/
  | copySlot
  /-- Room in the slice's queue of the partition (R255). -/
  | slice
  /-- A free readout entry (R273). -/
  | readout
  /-- The group's queued matrix operations on tiles `lo` to `hi - 1` (R255). -/
  | tiles (lo hi : Nat)
  /-- Room in the spawn queue (R287). -/
  | spawn
  /-- The reply of a record's home (R279). -/
  | reply
  /-- Earlier accesses of the group performed at device scope (R133, R138); `stall` says that the whole group stands still meanwhile (R133). -/
  | order (stall : Bool)
  /-- No engine's write of a line on its way (R134, R135). -/
  | line (l : Loc)
  /-- Listed accesses and fabric requests completed at a scope (R128, R143); `check` says that the aggregation fault log is then
  checked. -/
  | fence (ids : List Nat) (scope : Nat) (check : Bool)
  /-- Elements of a stream, by key (R239). -/
  | stream (q : Nat) (keys : List Nat)
  /-- YIELD: the slots that must begin a leg, and the cycle it began (R221). -/
  | yield (others : List (Gid × Nat)) (since : Nat)
  /-- A result to be delivered to a displaced holder (R295). -/
  | capres
  /-- Words of the clause at the path's PC, on their way from a peer page (R151). -/
  | code
  deriving DecidableEq, Repr

/-- A path of a group (R29): its clause header address, mask, reconvergence PC, pending count and parent, with the state of
the slot it issues from (R36, R37, R50, R156). `fetched` is the decoded clause and `widx` the next word, `entered` says that a leg has ended at its first word, `code` the words of a peer page that have come; `pre` the prefix
read before the word, if one stands there. `resumeAt` is the word at which a resumed path goes on in its
clause (R348). `joinNext` is the clause after the JOIN that a join path's children have reached (R30). `only` restricts a re-execution
to the positions that missed (R117). `starts` are leg starts not yet entered
in the signature, `takenStarts` and `fallStarts` those of children that have joined (R392). -/
structure Path where
  id : Nat
  pc : Nat
  mask : Mask
  rpc : Nat
  pending : Nat
  parent : Option Nat
  takenChild : Bool
  joinNext : Option Nat
  fetched : Option Clause
  code : FMap Word
  widx : Nat
  entered : Bool
  resumeAt : Nat
  count : Nat
  fresh : Bool
  wait : Wait
  readyAt : Nat
  lastLeg : Nat
  passed : Nat
  aged : Bool
  classAged : Bool
  only : Option Mask
  starts : List Nat
  takenStarts : List Nat
  fallStarts : List Nat
  deriving DecidableEq, Repr

/-! ### Streams, engines, matrix -/

/-- A stream pattern register (R235): three words, POS, the binding to a slot (0 a, 1 b, 2 c) and a register (R237), and
the elements fetched ahead, by `8 * index + member` (R239); `since` is the group's program order at the word that last set
position or binding. -/
structure Stream where
  q0 : Dword
  q1 : Dword
  q2 : Dword
  pos : Nat
  bind : Option (Nat × Nat)
  fetched : FMap Dword
  since : Nat
  deriving DecidableEq, Repr

def Stream.reset : Stream := { q0 := 0, q1 := 0, q2 := 0, pos := 0, bind := none, fetched := [], since := 0 }

/-- A request in a group's copy request slot (R241, R353): opcode and FN, the four request words, the value of s(TASK), the
ticket register and the word's address. -/
structure EngReq where
  opcode : Nat
  fn : Nat
  r0 : Dword
  r1 : Dword
  r2 : Dword
  r3 : Dword
  task : Dword
  tkt : Nat
  addr : Nat
  deriving DecidableEq, Repr

/-- A fault as a stop record names it (R350, R352). -/
structure FaultInfo where
  code : Nat
  cause : Nat
  pos : Option (Nat × Nat)
  shd : Bool
  faddr : Nat
  daddr : Nat
  deriving DecidableEq, Repr

/-- The view in which scratchpad addresses of a group are taken (R91): its launch, cluster and block numbers, the cluster's
BLOCKS and SCR. -/
structure Share where
  launch : Nat
  cluster : Nat
  blockNo : Nat
  blocks : Nat
  scr : Nat
  deriving DecidableEq, Repr

/-- How an engine request stands: in its group's copy request slot, running, waiting for a fabric answer, parked on a miss
under a token, stopped by a fault, finished. -/
inductive XferState where
  | queued
  | running
  | remote (req : Nat)
  | parked (token : Nat)
  | faulted (f : FaultInfo)
  | finished
  deriving DecidableEq, Repr

/-- A request of a copy, halo, request, migration or route engine (R241, R347), from its issue: the group's E and view, the
prefix of destination bytes performed, source bytes of peers that have arrived. A KICK entry names its KICK and index; a
KICK counts the entries started and completed, their bytes, and the index of an entry that faulted (R250). `owed` holds pieces of a multicast for blocks
that have not started: block, offset, bytes (R246). -/
structure Xfer where
  id : Nat
  gid : Gid
  vf : Nat
  core : Nat
  share : Share
  e : Nat
  req : EngReq
  st : XferState
  bytes : Nat
  inbuf : FMap Byte
  kick : Option Nat
  entry : Nat
  started : Nat
  completed : Nat
  totalBytes : Nat
  bad : Option (Nat × FaultInfo)
  tag : Dword
  owed : List (Nat × Nat × List Byte) := []
  deriving DecidableEq, Repr

/-- What a queued matrix operation is (R253): MMA, MMAG, ACLR. -/
inductive MatKind where
  | mma
  | mmag
  | aclr (n : Nat)
  deriving DecidableEq, Repr

/-- A matrix operation in a slice's queue with every operand read at issue (R262): its words and address, tile base, FBO, the
positions active and those zeroed, the bit string of A's row by position, the bit strings of B's fragments by quarter, the A
scale bytes by position, the values of its operand pairs, the index values of an MMAG; the fault it met, if any; the K-steps performed
before a stop (R263). -/
structure MatOp where
  gid : Gid
  vf : Nat
  kind : MatKind
  word : Word
  pre : Word
  addr : Nat
  atb : Nat
  fbo : Dword
  act : Mask
  zeroed : Mask
  a : FMap Nat
  b : List Nat
  asc : FMap Byte
  pairs : List Dword
  idx : List Word
  fault : Option FaultInfo
  steps : Nat := 0
  deriving DecidableEq, Repr

/-- The REUSE latch (R261): what names the fragments, and the fragments. -/
structure Latch where
  bop : Nat
  bkind : Nat
  bfmt : Nat
  kb : Nat
  pair : List Dword
  idx : List Word
  b : List Nat
  deriving DecidableEq, Repr

/-- One row of a readout entry (R271, R277): its lane and member, its address before windows, the bytes of its 8 elements. -/
structure RoRow where
  lane : Nat
  member : Nat
  addr : Nat
  bytes : List Byte
  abs : Bool := false
  deriving DecidableEq, Repr

/-- A readout buffer entry (R273, R274): the rows not yet written, in member then lane order (`abs` marks what is left of a row, its address
already through the windows); `line` is the issuing path with its ancestors, `reqs` its writes to peers that have no acknowledgement; `first` says that its rows are written before the
group's first leg after a resumption (R274). -/
structure Readout where
  id : Nat
  gid : Gid
  vf : Nat
  part : Nat
  share : Share
  scratch : Bool
  target : Nat
  rows : List RoRow
  reqs : List Nat
  parked : Option Nat
  pinned : Option FaultInfo
  first : Bool
  addr : Nat
  tag : Dword
  line : List Nat := []
  deriving DecidableEq, Repr

/-! ### Task updates -/

/-- Where a task record lies, resolved by its user: a scratchpad offset of a block, a virtual address of a function (R241,
R280), or a physical address that a peer named (R318). -/
inductive RecLoc where
  | scr (block : Nat) (ofs : Nat)
  | glob (vf : Nat) (va : Nat)
  | phys (pa : Nat)
  deriving DecidableEq, Repr

/-- Where an update of a task record comes from (R46, R288). -/
inductive UpdSrc where
  | engine
  | action
  | route
  | ring
  | done
  /-- A `sys.evsig` entry that waits for its group's earlier accesses (R289, R301): the code. -/
  | evsig (gid : Gid) (code : Nat)
  deriving DecidableEq, Repr

/-- An update that waits to be applied at its record's home (R47). `after` names what it waits for (R138). -/
structure Update where
  id : Nat
  vf : Nat
  target : RecLoc
  d : Int
  src : UpdSrc
  tag : Dword
  after : List Nat
  parked : Option Nat
  deriving DecidableEq, Repr

/-! ### Faults as state -/

/-- Why a group is parked (R353). A REGCLM names its n, its path, and where that path goes on once the claim is granted: clause, word,
and whether a leg begins there (R299). -/
inductive Park where
  | none
  | arrive
  | regclm (n path pc word : Nat) (fresh : Bool)
  | miss
  deriving DecidableEq, Repr

/-- The step's capsule state of a group (R291): roles 0 none, 1 holder, 2 adopter, 3 displaced holder. `inMode` says that
the group is in capsule mode, `path` which path entered. `buffer` holds the step's stores by physical address, `vas` their
virtual addresses. `regs` and `resume` are what a restart of the step restores
(R297). -/
structure CapState where
  record : Nat
  seq : Nat
  stage : Nat
  role : Nat
  holder : Gid
  inMode : Bool
  path : Nat
  stalled : Bool
  delivered : Bool
  result : List Dword
  buffer : FMap Byte
  vas : FMap Nat
  lines : List Nat
  regs : List Dword
  resume : Nat
  code : Nat
  deriving DecidableEq, Repr

def CapState.none : CapState :=
  { record := 0, seq := 0, stage := 0, role := 0, holder := 0, inMode := false, path := 0, stalled := false, delivered := false,
    result := [], buffer := [], vas := [], lines := [], regs := [], resume := 0, code := 0 }

/-- A place of the aggregation fault log (R144, R319): an element's E0 word, index and cause. -/
structure AggFault where
  e0 : Dword
  index : Nat
  cause : Nat
  deriving DecidableEq, Repr

/-! ### Groups, blocks, launches -/

/-- A group (R24-R39, R164, R353). `slot` is its resident index on the partition. `v` maps a register to its values by position; `vEmpty` to the positions at which it is
empty; `sh`, `shEmpty`, `shLive` are the helper shadows, their empty bits and the positions at which they are not
discarded (R33), `shOwner` the path (plus 1) for which a position last wrote its shadow of a register, by `256 * register + position`. `seen` names the stores of its core that its loads have observed in the L1 (R125, R128). `x` maps `4 * position + i`, `tiles` maps `((tile * 8 + member) * 64) + 8 * row + column`. -/
structure Group where
  gid : Gid
  vf : Nat
  launch : Nat
  block : Nat
  part : Nat
  slot : Nat
  cluster : Nat
  blockNo : Nat
  groupNo : Nat
  w : Nat
  e : Nat
  laneOff : Nat
  vregs : Nat
  vcur : Nat
  helpers : Bool
  atiles : Nat
  xext : Nat
  dstack : Nat
  blocks : Nat
  groups : Nat
  round : Nat
  prio : Nat
  tag : Dword
  k : List Dword
  v : FMap (List Word)
  vEmpty : FMap Mask
  sh : FMap (List Word)
  shEmpty : FMap Mask
  shLive : FMap Mask
  shOwner : FMap Nat
  s : FMap Dword
  sEmpty : Dword
  sTicket : Dword
  m : FMap Mask
  q : FMap Stream
  x : FMap Xa
  tiles : FMap Xa
  slots : FMap LongRec
  fstat : FMap Half
  paths : List Path
  nextPath : Nat
  backoff : Nat
  polling : Option Nat
  park : Park
  tokens : List Nat
  chain : Gid
  cap : CapState
  aggLost : Nat
  aggLog : List AggFault
  latch : Option Latch
  fault : Option FaultInfo
  stopped : Bool
  sig : Dword
  seen : List Nat := []
  deriving DecidableEq, Repr

/-- A resident block (R24, R51, R92): its core, its scratchpad program area and how many of its groups remain; `arrivals` names the accesses and engine
requests that stalled on it before it started, these with their progress then. -/
structure Block where
  uid : Nat
  vf : Nat
  launch : Nat
  cluster : Nat
  blockNo : Nat
  core : Nat
  scr : Nat
  dstk : Nat
  xext : Nat
  ngroups : Nat
  started : Bool
  left : Nat
  data : FMap Byte
  arrivals : List (Nat × Nat) := []
  deriving DecidableEq, Repr

/-- A cluster whose block 0 is placed while others are not (R45): its die, its number in the grid, the block that comes next, the cores
that have taken a block of it (R24). -/
structure ClusterRun where
  die : Nat
  cluster : Nat
  next : Nat
  cores : List Nat
  deriving DecidableEq, Repr

/-- An accepted launch (R40, R43, R44, R394). `nextCluster` is the cluster that is to begin next, `progress` those in progress;
`gids` the groups placed, `cores` the cores that have taken a block of it. `waitSince` holds for each die the
base-die cycle from which the next cluster waits (R394). -/
structure Launch where
  id : Nat
  vf : Nat
  spawn : Bool
  recAddr : Nat
  entry : Nat
  shape : Dword
  grid : Dword
  alloc : Dword
  doneRec : Dword
  tag : Dword
  k : List Dword
  nextCluster : Nat
  progress : List ClusterRun
  waitSince : FMap Nat
  blocksLeft : Nat
  replay : Bool
  gids : List Gid
  cores : List Nat
  deriving DecidableEq, Repr

/-! ### Cores, partitions, dies -/

/-- A line of a core's L1 (R112): whether it is a host line, its 128-byte line number, the validity of its 32 words, and
the words. -/
structure L1Line where
  host : Bool
  line : Nat
  valid : Word
  data : FMap Word
  deriving DecidableEq, Repr

/-- A core (R11, R19, R44, R384). `cc` is the constant cache: words by 8-byte address of a function (R100); `ic` the instruction
cache: words of code by place. `served` lists the groups that the core's engines have served in their turn, with the engine's opcode (R241). -/
structure Core where
  cycles : Nat
  pm : FMap Dword
  l1 : List L1Line
  cc : FMap Dword
  ic : FMap Dword
  accepted : Nat
  retiring : Bool
  served : List (Nat × Gid) := []
  deriving DecidableEq, Repr

def Core.reset : Core := { cycles := 0, pm := [], l1 := [], cc := [], ic := [], accepted := 0, retiring := false }

/-- The leg that holds a partition's issue slot (R36, R39): the winner's group and path, a unison partner's, and whether
the partner's turn comes next; `paid` says that the word before it issued jointly, so that the partner's costs nothing more, `passed` names
the slots that each of its legs has passed over (R50). -/
structure Run where
  gid : Gid
  path : Nat
  partner : Option (Gid × Nat)
  turn : Bool
  paid : Bool
  passed : List (Gid × Nat)
  deriving DecidableEq, Repr

/-- A partition (R26, R35, R255): the GEN to give at each resident index, the running leg, a partner whose leg comes
next, the parked claims (group, path, n) oldest first, the slice's queue and the operation in progress, and the core cycles at which the
issue slot (R27) and the slice (R263) are free. -/
structure Part where
  gens : FMap Nat
  run : Option Run
  next : Option (Gid × Nat)
  claims : List (Gid × Nat × Nat)
  queue : List MatOp
  busy : Option MatOp
  freeAt : Nat
  sliceAt : Nat
  deriving DecidableEq, Repr

def Part.reset : Part := { gens := [], run := none, next := none, claims := [], queue := [], busy := none, freeAt := 0, sliceAt := 0 }

/-- A token of a route engine at its sender (R322, R323), in the order of its send list: the issuing core and die, the
request, the choice in progress, its number in the list, the row once read (`inbuf` the bytes of peers that have arrived,
`reading` the read in progress), whether its first packet has left, the later packets without acknowledgement, the refusal
causes so far, whether it is being dropped and the count that the drop log then showed (R327). -/
structure Token where
  id : Nat
  vf : Nat
  gid : Gid
  core : Nat
  req : EngReq
  choice : Nat
  lslot : Nat
  bytes : Option (List Byte)
  inbuf : FMap Byte
  reading : Option Nat
  sent : Bool
  left : List Nat
  causes : List Nat
  dropping : Bool
  dropCount : Option Nat := none
  parked : Option Nat
  tag : Dword
  deriving DecidableEq, Repr

/-- A token accepted by this device and landing (R325, R326): the packet that the reply answers, the slot and its address, the
route header, the bytes received of `need`; whether the header is written, LAND counted, the update of TREC it waits for,
the fault that lost it. -/
structure Landing where
  id : Nat
  vf : Nat
  src : Nat
  cw : Nat
  pseq : Nat
  expert : Nat
  slot : Nat
  addr : Nat
  header : List Dword
  bytes : List Byte
  need : Nat
  whole : Bool
  headerDone : Bool
  landed : Bool
  upd : Option Nat
  lost : Option FaultInfo
  parked : Option Nat
  deriving DecidableEq, Repr

/-- A page move in progress (R107): the page and its size, its entry's address, the target frame and tier, the pool word taken. -/
structure Move where
  id : Nat
  vf : Nat
  die : Nat
  va : Nat
  pteAddr : Nat
  frame : Nat
  tier : Nat
  size : Nat
  poolWord : Nat
  deriving DecidableEq, Repr

/-- A die (R19, R97, R323, R376): base-die cycles, the weight store's window, the cycles gone of it and its refresh mode, a pending change
of mode, the next number of each send list, the queues that the dispatcher has visited in its turn and its ageing (R394), the groups that the die's
migration and route engines have served in their turn (R241). -/
structure Die where
  cycles : Nat
  window : Nat
  phase : Nat
  hot : Bool
  hotNext : Bool
  lists : FMap Nat
  visited : List (Nat × Bool)
  agedFor : Option (Nat × Bool)
  served : List (Nat × Gid) := []
  deriving DecidableEq, Repr

def Die.reset : Die :=
  { cycles := 0, window := 0, phase := 0, hot := false, hotNext := false, lists := [], visited := [], agedFor := none }

/-- A dirty line of an L2 (R114, R15), the least recently written first in the list: where it lies, the stacked layer 0-15 or 16 + d
for the base half of die d, whether it is a line of tier T2, and its 128-byte line number. -/
structure DirtyLine where
  layer : Nat
  host : Bool
  line : Nat
  deriving DecidableEq, Repr

/-! ### Contexts and rings -/

/-- A ring of a function (R371, R372). -/
structure Ring where
  base : Dword
  log2 : Nat
  en : Bool
  pi : Word
  ci : Word
  ovf : Word
  deriving DecidableEq, Repr

def Ring.reset : Ring := { base := 0, log2 := 0, en := false, pi := 0, ci := 0, ovf := 0 }

/-- How a function's context stands (R346, R355, R375): no work resident or running; stopping under a halt or a
pre-emption; halted; switched out. -/
inductive CtxState where
  | live
  | stopping (preempt : Bool)
  | halted
  | switched
  deriving DecidableEq, Repr

/-- What work a parking entry parks (R117, R42, R358): a group, an engine request, a readout entry, a route token, a
landing token, a task update, a launch of a ring or spawn queue, a chunk's result or a chunk's read (R337), a fabric
request that missed at its destination (R319), an access that met an error in a clean line (R362). -/
inductive Parked where
  | group (gid : Gid)
  | xfer (id : Nat)
  | readout (id : Nat)
  | token (id : Nat)
  | landing (id : Nat)
  | update (id : Nat)
  | launch (spawn : Bool)
  | result (region chunk : Nat)
  | chunk (region chunk : Nat)
  | request (id : Nat)
  | access (id : Nat)
  deriving DecidableEq, Repr

/-- A parking entry of the fault queue (R358), kept while its work is parked; `written` when it stands in the ring, `word` the address of a
group's word that missed (R348). -/
structure ParkEntry where
  token : Nat
  words : List Dword
  written : Bool
  work : Parked
  word : Nat := 0
  deriving DecidableEq, Repr

/-- Everything a stop keeps (R351-R354): the groups, blocks and unfinished work of the context, accesses that what else
stops keeps from being performed, the bytes written to the save area with the offset of each record. -/
structure Saved where
  groups : List Group
  blocks : List Block
  xfers : List Xfer
  ops : List (Nat × MatOp)
  readouts : List Readout
  tokens : List Token
  held : List Access
  image : List Byte
  offsets : List Nat
  deriving DecidableEq, Repr

def Saved.none : Saved :=
  { groups := [], blocks := [], xfers := [], ops := [], readouts := [], tokens := [], held := [], image := [],
    offsets := [] }

/-- The context of a function, PF 0 or VF 1-63 (R375): its state fields, rings, queues and parked work. `regions` maps
`8 * n + i` to word RRi of entry n (R333); `counts` maps a chunk key to its byte count and `ready` lists ready, unread
chunks (R338), `rounds` how often a chunk has been read (and, from 2^40 on by region, histograms written), `ringBuf` bytes of peers read by its
sequencers; `heldLaunch` lists the queues held (spawn queue or ring) with the TOKEN of the miss (R42), `launchBuf` the
words of peers read for a launch, by `2 * address + (1 for the spawn queue)`; `hints` maps a page number to 1 hot or 2 cold (R376); `heat` counts accesses by page and
`periods` holds the base-die cycle at which each die's period began (R376). -/
structure Ctx where
  root : Nat
  windows : FMap Dword
  agel : Nat
  rxtab : Dword
  dlbase : Dword
  dlcap : Dword
  regions : FMap Dword
  saveBase : Dword
  weight : FMap Nat
  migPolicy : Dword
  poolAddr : Dword
  poolCount : Dword
  t2limit : Nat
  st : CtxState
  first : Option StopUnit
  firstFault : Option FaultInfo
  acked : List StopUnit
  saved : Saved
  keptResume : List (Dword × Dword)
  token : Nat
  parks : List ParkEntry
  spawnq : List Nat
  heldSpawns : List Nat
  heldLaunch : List (Bool × Nat)
  launchBuf : FMap Dword
  counts : FMap Nat
  ready : List Nat
  rounds : FMap Nat
  ringBuf : FMap Byte
  hints : FMap Nat
  heat : FMap Nat
  periods : FMap Nat
  rings : FMap Ring
  lateFault : Option FaultInfo
  deriving DecidableEq, Repr

def Ctx.reset : Ctx :=
  { root := 0, windows := [], agel := 64, rxtab := 0, dlbase := 0, dlcap := 0, regions := [], saveBase := 0, weight := [],
    migPolicy := 0, poolAddr := 0, poolCount := 0, t2limit := 0, st := .live, first := none, firstFault := none, acked := [],
    saved := Saved.none, keptResume := [], token := 1, parks := [], spawnq := [], heldSpawns := [], heldLaunch := [], launchBuf := [],
    counts := [], ready := [], rounds := [], ringBuf := [], hints := [], heat := [], periods := [], rings := [], lateFault := none }

/-- A cached translation (R105): the function, the 4 KiB page that used it first, the leaf entry, its address and the bytes it maps. -/
structure Tlb where
  vf : Nat
  page : Nat
  pte : Dword
  pteAddr : Nat
  span : Nat
  deriving DecidableEq, Repr

/-! ### Fabric -/

/-- A fabric port (R306-R312, R330): good lanes, LSPLIT, lanes in each direction, whether the link is up, training or dead;
idle and pending width changes; the replay buffer and sequence numbers; pause state and receive occupancy by channel;
packets waiting to be framed, with `prog` the flits already sent of each channel's first; the flits put on the wire, in order;
the flits held of a packet being received by channel, `missing` the sequence numbers of flits discarded with a cut packet.
`cut` says that a lane loss has cut a packet being sent, `resendAt` from which flit the port sends again; `lastAsk` and `sentFails`
count the replays of one flit that the far end asks for, `askedReplay` and `fails` those that this port asks for; the error
counter. -/
structure Port where
  good : Nat
  lsplit : Nat
  out : Nat
  inn : Nat
  dead : Bool
  training : Bool
  idleOut : Bool
  idleIn : Bool
  newOut : Option Nat
  newIn : Option Nat
  replay : List Flit
  sendSeq : Nat
  recvSeq : Nat
  fails : Nat
  rtt : Nat
  thresh : Nat
  occ : FMap Nat
  pausedTx : BitVec 4
  pausedRx : BitVec 4
  txq : List Packet
  prog : FMap Nat
  wire : List Flit
  held : FMap (List Flit)
  missing : List Nat
  cut : Bool
  resendAt : Option Nat
  lastAsk : Option Nat
  sentFails : Nat
  askedReplay : Option Nat
  errors : Nat
  lostOut : Bool := false
  lostIn : Bool := false
  farDead : Bool := false
  deriving DecidableEq, Repr

/-- A port as start-up leaves it: 16 good lanes, 8 each way (R306, R307); its round trip is measured at training. -/
def Port.reset : Port :=
  { good := 16, lsplit := 8, out := 8, inn := 8, dead := false, training := false, idleOut := false, idleIn := false,
    newOut := none, newIn := none, replay := [], sendSeq := 0, recvSeq := 0, fails := 0, rtt := 44, thresh := 160, occ := [],
    pausedTx := 0, pausedRx := 0, txq := [], prog := [], wire := [], held := [], missing := [], cut := false,
    resendAt := none, lastAsk := none, sentFails := 0, askedReplay := none, errors := 0 }

/-- An entry waiting in an aggregation buffer or sent in a packet (R318): its two words, the group and function it serves, the issuing path
with its ancestors. -/
structure AggEntry where
  e0 : Dword
  e1 : Dword
  gid : Gid
  vf : Nat := 0
  line : List Nat := []
  deriving DecidableEq, Repr

/-- An aggregation buffer in use (R140): its core and (device, carriageway) pair, entries in arrival order, when it was
last used. -/
structure AggBuf where
  id : Nat
  core : Nat
  dev : Nat
  cw : Nat
  entries : List AggEntry
  used : Nat
  deriving DecidableEq, Repr

/-- Whose work a fabric request carries (R317): accesses of groups, aggregated entries, an engine line written or read, a
readout row, a task update, a route token's first or later packets or the read of its row, the read of a launch record or
uniform table, a ring sequencer's read or result write; nothing any more, when whom it served has gone. -/
inductive ReqBody where
  | access (ids : List Access)
  | agg (entries : List AggEntry)
  | line (xfer : Nat) (bytes : Nat)
  | lineRead (xfer va : Nat)
  | row (readout : Nat) (r : RoRow)
  | task (gid : Gid) (path : Nat) (reg : Option Nat) (faddr va : Nat)
  | update (u : Update)
  | token (id : Nat) (first : Bool)
  | tokenRead (id va : Nat)
  | tokenDrop (id : Nat)
  | launchRead (vf : Nat) (spawn : Bool) (va : Nat)
  | ringRead (vf region chunk va : Nat)
  | ringWrite (vf region chunk : Nat)
  | dropped
  deriving DecidableEq, Repr

/-- A request of this device (R315): waiting at its source, or sent with its PSEQ and without response. `after` are requests
whose responses come first (R142), `parked` the TOKEN of a miss at the destination (R319). -/
structure FabReq where
  id : Nat
  vf : Nat
  dev : Nat
  cw : Nat
  pseq : Nat
  kind : Nat
  rw : Nat
  addr : Nat
  payload : List Byte
  body : ReqBody
  after : List Nat
  parked : Option Nat
  deriving DecidableEq, Repr

/-- A response kept in the response log (R315): source, carriageway, PSEQ and its packet, and the base of the log area that holds
it (R376). -/
structure LogEntry where
  src : Nat
  cw : Nat
  pseq : Nat
  pkt : Packet
  area : Dword
  deriving DecidableEq, Repr

/-- A chunk result waiting to be written and counted down (R339, R342): `bytes` still to write, `size` the whole, `reqs` its
writes to peers without acknowledgement. -/
structure RingResult where
  vf : Nat
  region : Nat
  chunk : Nat
  addr : Nat
  bytes : List Byte
  size : Nat
  reqs : List Nat
  parked : Option Nat
  deriving DecidableEq, Repr

/-- The histogram of a rank region's round (R336, R339): its bins and how many chunks it has taken. -/
structure RankHist where
  vf : Nat
  region : Nat
  bins : FMap Nat
  chunks : Nat
  deriving DecidableEq, Repr

/-! ### Management -/

/-- A measurement replay in progress (R386): the command, the pass, first-touch captures as (key, bytes), the pass
signatures, the cycle of die 0 at which the pass began, whether the shadow area was found full. -/
structure Replay where
  cmd : Cmd
  pass : Nat
  captured : List (Loc × List Byte)
  sels : List Word
  psig1 : Dword
  psig : Dword
  startCycle : Nat
  full : Bool
  deriving DecidableEq, Repr

/-- The start-up and thermal state of the module (R21, R377-R383). `stage` is the start's step, 6 ready, 0 none; `tableNext` a
change of operating table that waits, 3 for the thermal stop; `thermal` says that a thermal stop powered the module down; `cxl`
that the host link is trained as CXL 3.x (R370); `layers` gives a stacked layer's state: 0 in service, 1 clock-gated, 2 retention, 3 held
by table T1, 4 held by a thermal lock (R382). The repair map is `repair`, the logical cores that stand on a spare slot as
(die, index, slot), with the slots and the physical weight-store banks found bad, as (die, number) (R13, R16). -/
structure Manage where
  mode : Nat
  stage : Nat
  cause0 : BitVec 8
  cause1 : BitVec 8
  cause2 : BitVec 8
  failStep : Nat
  attempt : Nat
  topOk : Bool
  botOk : Bool
  topHeld : Bool
  botHeld : Bool
  table : Nat
  tableNext : Option Nat
  changes : Nat
  poweredDown : Bool
  thermal : Bool
  cxl : Bool
  layers : FMap Nat
  hbmt : FMap Half
  repair : List (Nat × Nat × Nat)
  badSlots : List (Nat × Nat)
  badBanks : List (Nat × Nat)
  firmware : List Byte
  fwNext : List Byte
  pmctl : Dword
  nerr : FMap Nat
  deriving DecidableEq, Repr

/-! ### The state -/

/-- What the schedule makes happen next: the partition that issues a word, the next management command, or a step. -/
inductive Act where
  | issue (p : Nat)
  | command
  | run (i : Instr)
  deriving DecidableEq, Repr

/-- An aligned 8-byte word as it was before a write during a grid (R149): in host memory or HBM, `word` its address over 8,
`stamp` the state's `nextId` at the write. -/
structure CodeOld where
  stamp : Nat
  host : Bool
  word : Nat
  old : Dword
  deriving DecidableEq, Repr

/-- The whole state. `agenda` lists what happens next, in order: the acts of the outside world and the order of agents,
which no rule fixes; when it is empty the scheduler chooses among what is due. `hostOld` holds, by 8-byte word, what host memory
held before a host write that the device may not see yet (R370), `codeOld` what words held that a fetch may still read (R149). `poisoned` and `lost` name lines, of tier T2 when the first part is true (R362, R364). `free` counts open values, `nextId` names in-flight items, `cur` is the partition whose word is issuing, `cmd` the management command being performed. -/
structure State where
  dev : Nat
  manage : Manage
  dies : FMap Die
  cores : FMap Core
  parts : FMap Part
  ctxs : FMap Ctx
  launches : List Launch
  blocks : List Block
  groups : List Group
  hbm : FMap Byte
  host : FMap Byte
  hostOld : FMap Dword
  codeOld : List CodeOld
  weights : FMap Byte
  poisoned : List (Bool × Nat)
  lost : List (Bool × Nat)
  dirty : List DirtyLine
  tlb : List Tlb
  flight : List Access
  unacked : List Access
  fills : List Fill
  updates : List Update
  xfers : List Xfer
  readouts : List Readout
  moves : List Move
  tokens : List Token
  landings : List Landing
  agg : List AggBuf
  reqs : List FabReq
  waitReqs : List FabReq
  arrived : List (Nat × Packet)
  ports : FMap Port
  remap : FMap Nat
  heldCw : List Nat
  pseq : FMap Nat
  accepted : FMap Nat
  rlogBase : Dword
  rlogSize : Dword
  rlog : List LogEntry
  withheld : List LogEntry
  iwin : FMap Dword
  chunks : List RingMsg
  results : List RingResult
  hists : List RankHist
  replay : Option Replay
  pending : List Cmd
  cmd : Option Cmd
  agenda : List Act
  cur : Option Nat
  nextId : Nat
  free : Nat
  deriving DecidableEq, Repr

/-- A module as a cold start that completes leaves it (R377): ready, nominal table, both loops normal (R382), attempt
counter cleared, the repair map without substitutions (log entry 4). -/
def Manage.reset : Manage :=
  { mode := 1, stage := 6, cause0 := 0, cause1 := 0, cause2 := 0, failStep := 0, attempt := 0, topOk := true, botOk := true,
    topHeld := false, botHeld := false, table := 0, tableNext := none, changes := 0, poweredDown := false, thermal := false, cxl := true,
    layers := [], hbmt := [], repair := [], badSlots := [], badBanks := [], firmware := [], fwNext := [], pmctl := 0, nerr := [] }

/-- The machine right after reset: a cold start has reached ready, no context is set up, nothing is resident, memory lists
nothing. -/
def State.reset : State :=
  { dev := 0, manage := Manage.reset, dies := [], cores := [], parts := [], ctxs := [], launches := [], blocks := [],
    groups := [], hbm := [], host := [], hostOld := [], codeOld := [], weights := [], poisoned := [], lost := [], dirty := [], tlb := [], flight := [],
    unacked := [], fills := [], updates := [], xfers := [], readouts := [], moves := [], tokens := [], landings := [],
    agg := [], reqs := [], waitReqs := [], arrived := [], ports := [], remap := [], heldCw := [], pseq := [], accepted := [],
    rlogBase := 0, rlogSize := 0, rlog := [], withheld := [], iwin := [], chunks := [], results := [], hists := [],
    replay := none, pending := [], cmd := none, agenda := [], cur := none, nextId := 0, free := 0 }

/-! ### How a step can stop -/

/-- Why the machine stops. The faults of the spec (R350) are no constructors here: they raise the halt line, which is
state. -/
inductive Fault where
  /-- A word or step of a partition is run while that partition has no group at that point of a leg: no such step of the
  part exists in this state. Raised by the meanings of instruction words and leg steps. Safe. -/
  | noIssuer
  /-- A step of the part, or act of the outside world, is run although the condition the spec gives for it does not hold
  (the request, access, entry, packet or unit it names is absent or not at that point). Raised by the meanings of steps
  without a word. Safe: the spec has no such step there. -/
  | notDue
  /-- The module has lost power or has powered down after a thermal stop (R21): nothing runs until a start. Raised by the
  step function and by every meaning but the starts. Safe. -/
  | poweredDown
  deriving DecidableEq, Repr

/-- Why an instruction has no meaning here. -/
inductive Refusal where
  /-- Not modelled, by the mnemonic of the opcode table. Raised by no meaning. Safe. -/
  | notModelled (mnemonic : String)
  deriving DecidableEq, Repr

end Sys2Proof.Machine
end

