-- ==== Sys2Proof/Machine/Bits.lean ====
section
/-! DEFINITION. Finite maps in canonical form, bit fields, two's complement, lists by index: the plain operations the
meanings are built from. -/
namespace Sys2Proof.Machine

/-! ### Finite maps -/

/-- The value at `k`, `d` when unlisted. -/
def fget {α : Type} (d : α) : FMap α → Nat → α
  | [], _ => d
  | (j, v) :: m, k => if j = k then v else fget d m k

/-- Insert `v` at `k`, keeping keys rising. -/
def finsert {α : Type} (k : Nat) (v : α) : FMap α → FMap α
  | [] => [(k, v)]
  | (j, w) :: m => if k < j then (k, v) :: (j, w) :: m else if k = j then (k, v) :: m else (j, w) :: finsert k v m

/-- Remove `k`. -/
def fremove {α : Type} (k : Nat) : FMap α → FMap α
  | [] => []
  | (j, w) :: m => if j = k then fremove k m else (j, w) :: fremove k m

/-- Set `k` to `v`, keeping the canonical form for default `d`. -/
def fset {α : Type} [DecidableEq α] (d : α) (m : FMap α) (k : Nat) (v : α) : FMap α :=
  if v = d then fremove k m else finsert k v m

/-- Keys strictly rise from above `lo`. -/
def fsortedFrom {α : Type} : Nat → FMap α → Bool
  | _, [] => true
  | lo, (j, _) :: m => lo ≤ j && fsortedFrom (j + 1) m

/-- The canonical form of a map with default `d`. -/
def fwf {α : Type} [DecidableEq α] (d : α) (m : FMap α) : Bool :=
  fsortedFrom 0 m && m.all (fun e => e.2 != d)

/-! ### Bit fields and numbers -/

/-- x{hi:lo} as a number (R3). -/
def field (x hi lo : Nat) : Nat := x / 2 ^ lo % 2 ^ (hi + 1 - lo)

/-- x{hi:lo} of a 64-bit word (R3). -/
def dfield (x : Dword) (hi lo : Nat) : Nat := field x.toNat hi lo

/-- x{n} of a 64-bit word (R3). -/
def dbit (x : Dword) (n : Nat) : Bool := x.toNat.testBit n

/-- `v` placed at bit `lo`. -/
def at' (v lo : Nat) : Nat := v * 2 ^ lo

/-- A Boolean as a bit. -/
def b2n (b : Bool) : Nat := if b then 1 else 0

/-- A 64-bit word from a number, modulo 2^64. -/
def dw (n : Nat) : Dword := BitVec.ofNat 64 n

/-- The signed value of an `n`-bit pattern. -/
def toSigned (n : Nat) (v : Nat) : Int := if v % 2 ^ n < 2 ^ (n - 1) then ((v % 2 ^ n : Nat) : Int) else (v % 2 ^ n : Nat) - 2 ^ n

/-- The `n`-bit pattern of an integer, modulo 2^n (R62). -/
def ofSigned (n : Nat) (i : Int) : Nat := (i % 2 ^ n).toNat

/-- The integer value of an `n`-bit pattern under a signed or unsigned type (R62). -/
def typed (signed : Bool) (n v : Nat) : Int := if signed then toSigned n v else ((v % 2 ^ n : Nat) : Int)

/-- Least and greatest value of a type (R62). -/
def typeMin (signed : Bool) (n : Nat) : Int := if signed then -(2 ^ (n - 1) : Nat) else 0
def typeMax (signed : Bool) (n : Nat) : Int := if signed then (2 ^ (n - 1) : Nat) - 1 else (2 ^ n : Nat) - 1

/-- Clamp to a type's range, saying whether it clamped (R62). -/
def clampTo (signed : Bool) (n : Nat) (i : Int) : Int × Bool :=
  if i < typeMin signed n then (typeMin signed n, true)
  else if typeMax signed n < i then (typeMax signed n, true)
  else (i, false)

/-- How many bits a number has; 0 for 0. -/
def bitLen (n : Nat) : Nat := if n = 0 then 0 else n.log2 + 1

/-- The exponent of a positive number's lowest set bit, looking at most `fuel` bits. -/
def lowBit : Nat → Nat → Nat
  | 0, _ => 0
  | fuel + 1, n => if n % 2 = 1 then 0 else lowBit fuel (n / 2) + 1

/-- Set bits among the lowest `fuel` bits. -/
def popCount : Nat → Nat → Nat
  | 0, _ => 0
  | fuel + 1, n => n % 2 + popCount fuel (n / 2)

/-- Rounded-up division. -/
def cdiv (a b : Nat) : Nat := (a + b - 1) / b

/-! ### Lists -/

/-- The list of `f 0, …, f (n-1)`. -/
def tab {α : Type} (n : Nat) (f : Nat → α) : List α := (List.range n).map f

/-- Replace the elements satisfying `p`. -/
def updWhere {α : Type} (p : α → Bool) (f : α → α) : List α → List α
  | [] => []
  | a :: as => (if p a then f a else a) :: updWhere p f as

/-- Does a mask hold position `i`? -/
def has (m : Mask) (i : Nat) : Bool := m.toNat.testBit i

/-- The mask of the positions below `n` that satisfy `f`. -/
def maskOf (n : Nat) (f : Nat → Bool) : Mask :=
  BitVec.ofNat 256 ((List.range n).foldl (fun acc i => if f i then acc + 2 ^ i else acc) 0)

/-- The mask of listed positions. -/
def maskAt (l : List Nat) : Mask := l.foldl (fun m p => m ||| BitVec.ofNat 256 (2 ^ p)) 0

/-- The mask of the `n` lowest positions. -/
def lowMask (n : Nat) : Mask := BitVec.ofNat 256 (2 ^ n - 1)

/-- The positions of a mask below `n`, ascending. -/
def positions (n : Nat) (m : Mask) : List Nat := (List.range n).filter (has m)

/-- The first element satisfying `p`, with its index counted from `i`. -/
def findIdx' {α : Type} (p : α → Bool) : List α → Nat → Option (Nat × α)
  | [], _ => none
  | a :: as, i => if p a then some (i, a) else findIdx' p as (i + 1)

/-- Little-endian bytes of a number as a list (R3). -/
def bytesOf (n v : Nat) : List Byte := leBytes' n v
where
  leBytes' : Nat → Nat → List Byte
    | 0, _ => []
    | n + 1, v => BitVec.ofNat 8 v :: leBytes' n (v / 256)

/-- The number of little-endian bytes (R3). -/
def numOf : List Byte → Nat
  | [] => 0
  | b :: bs => b.toNat + 256 * numOf bs

end Sys2Proof.Machine
end

