-- ==== Sys2Proof/Machine/Flags.lean ====
section
/-! DEFINITION. The FP status word FSTAT of each member (05 R64): its flags, raising and clearing them. -/
namespace Sys2Proof.Machine

/-- FSTAT flags (R64): invalid, division by zero, overflow, underflow, inexact, saturated, void A code, void B code, void A
scale, void B scale, a long slot taken. -/
def fNV : Half := 0x0001
def fDZ : Half := 0x0002
def fOF : Half := 0x0004
def fUF : Half := 0x0008
def fNX : Half := 0x0010
def fSAT : Half := 0x0020
def fVA : Half := 0x0040
def fVB : Half := 0x0080
def fVSA : Half := 0x0100
def fVSB : Half := 0x0200
def fWID : Half := 0x0400

/-- FSTAT of a member (R64); a member index at or above E reads zero (R214). -/
def Group.flags (g : Group) (e : Nat) : Half := fget 0 g.fstat e

/-- Set flags in a member's FSTAT; they stay until cleared (R64). -/
def Group.raiseFlags (g : Group) (e : Nat) (f : Half) : Group := { g with fstat := fset 0 g.fstat e (g.flags e ||| f) }

/-- Clear exactly the flags returned (R214). -/
def Group.clearFlags (g : Group) (e : Nat) (f : Half) : Group := { g with fstat := fset 0 g.fstat e (g.flags e &&& ~~~f) }

/-- Set flags in every member's FSTAT (R212). -/
def Group.raiseAll (g : Group) (f : Half) : Group := (List.range g.e).foldl (fun g e => g.raiseFlags e f) g

end Sys2Proof.Machine
end

