-- ==== Sys2Proof/Machine/Float.lean ====
section
/-! DEFINITION. Floating-point formats and arithmetic (05 R52-R63, 13 R191-R198): every operation forms its exact result as
an integer times a power of two, or a quotient or root with a sticky bit, and rounds once. Patterns are numbers; flags are
FSTAT bits (R64). -/
namespace Sys2Proof.Machine

/-- A format by the widths of its exponent and fraction (R52). -/
structure Fmt where
  eb : Nat
  fb : Nat
  deriving DecidableEq, Repr

def f64 : Fmt := ⟨11, 52⟩
def f32 : Fmt := ⟨8, 23⟩
def f16 : Fmt := ⟨5, 10⟩
def bf16 : Fmt := ⟨8, 7⟩

/-- Width, bias, smallest normal exponent, exponent of the smallest subnormal, largest exponent of a format (R52). -/
def fmtWidth (f : Fmt) : Nat := f.eb + f.fb + 1
def fmtBias (f : Fmt) : Nat := 2 ^ (f.eb - 1) - 1
def fmtEmin (f : Fmt) : Int := 1 - (fmtBias f : Int)
def fmtLow (f : Fmt) : Int := fmtEmin f - f.fb
def fmtEmax (f : Fmt) : Int := fmtBias f

/-- What a pattern encodes (R52): a NaN with sign and fraction, an infinity, or `(-1)^sign * m * 2^e`. -/
inductive FVal where
  | nan (sign : Bool) (frac : Nat)
  | inf (sign : Bool)
  | fin (sign : Bool) (m : Nat) (e : Int)
  deriving DecidableEq, Repr

/-- The value of a pattern (R52). -/
def fval (f : Fmt) (x : Nat) : FVal :=
  let s := x.testBit (f.eb + f.fb)
  let ex := field x (f.eb + f.fb - 1) f.fb
  let fr := x % 2 ^ f.fb
  if ex = 2 ^ f.eb - 1 then (if fr = 0 then .inf s else .nan s fr)
  else if ex = 0 then .fin s fr (fmtLow f)
  else .fin s (fr + 2 ^ f.fb) ((ex : Int) - fmtBias f - f.fb)

/-- The pattern of sign, exponent field and fraction. -/
def fpack (f : Fmt) (s : Bool) (ex fr : Nat) : Nat := b2n s * 2 ^ (f.eb + f.fb) + ex * 2 ^ f.fb + fr

/-- Infinity, largest finite, zero, default NaN (R52). -/
def fInf (f : Fmt) (s : Bool) : Nat := fpack f s (2 ^ f.eb - 1) 0
def fMax (f : Fmt) (s : Bool) : Nat := fpack f s (2 ^ f.eb - 2) (2 ^ f.fb - 1)
def fZero (f : Fmt) (s : Bool) : Nat := fpack f s 0 0
def fDefNaN (f : Fmt) : Nat := fpack f false (2 ^ f.eb - 1) (2 ^ (f.fb - 1))

/-- Is a pattern a NaN, a signalling NaN (R52)? -/
def isNaN (f : Fmt) (x : Nat) : Bool := match fval f x with | .nan _ _ => true | _ => false
def isSNaN (f : Fmt) (x : Nat) : Bool := match fval f x with | .nan _ fr => !fr.testBit (f.fb - 1) | _ => false

/-- A NaN made quiet (R59). -/
def quiet (f : Fmt) (x : Nat) : Nat := if x.testBit (f.fb - 1) then x else x + 2 ^ (f.fb - 1)

/-- Does a magnitude `q + r / d` (with `r < d`) round up to `q + 1` in a mode (R55)? Modes: 1 rn, 2 rz, 3 ru, 4 rd, 5 rna. -/
def roundsUp (mode : Nat) (s : Bool) (q r d : Nat) : Bool :=
  if r = 0 then false
  else match mode with
    | 2 => false
    | 3 => !s
    | 4 => s
    | 5 => d ≤ 2 * r
    | _ => if 2 * r = d then q % 2 = 1 else d < 2 * r

/-- `m * 2^e` rounded to a multiple of `2^q`: the multiple, and whether it is inexact. -/
def roundAt (mode : Nat) (s : Bool) (m : Nat) (e q : Int) : Nat × Bool :=
  if q ≤ e then (m * 2 ^ (e - q).toNat, false)
  else
    let d := 2 ^ (q - e).toNat
    (m / d + b2n (roundsUp mode s (m / d) (m % d) d), m % d ≠ 0)

/-- The result of overflow in a mode (R56). -/
def overflowTo (f : Fmt) (mode : Nat) (s : Bool) : Nat :=
  match mode with
  | 2 => fMax f s
  | 3 => if s then fMax f s else fInf f s
  | 4 => if s then fInf f s else fMax f s
  | _ => fInf f s

/-- `(-1)^s * m * 2^e`, rounded once to a format, with its flags (R55-R57). `m = 0` gives the zero of the sign. -/
def roundTo (f : Fmt) (mode : Nat) (s : Bool) (m : Nat) (e : Int) : Nat × Half :=
  if m = 0 then (fZero f s, 0)
  else
    let qu : Int := e + bitLen m - (f.fb + 1)
    let (mu, _) := roundAt mode s m e qu
    let top : Int := qu + bitLen mu - 1
    let tiny := top < fmtEmin f
    let q := if qu < fmtLow f then fmtLow f else qu
    let (r, nx) := roundAt mode s m e q
    if fmtEmax f < top then (overflowTo f mode s, fOF ||| fNX)
    else
      let fl : Half := (if nx then fNX else 0) ||| (if tiny && nx then fUF else 0)
      let (r, q) := if bitLen r = f.fb + 2 then (r / 2, q + 1) else (r, q)
      if r < 2 ^ f.fb then (fpack f s 0 r, fl)
      else (fpack f s (q + f.fb + fmtBias f).toNat (r - 2 ^ f.fb), fl)

/-- The first NaN of the operands made quiet, with invalid when any operand signals (R59). -/
def nanOf (f : Fmt) : List Nat → Option (Nat × Half)
  | xs => match xs.find? (isNaN f) with
    | none => none
    | some x => some (quiet f x, if xs.any (isSNaN f) then fNV else 0)

/-- The signed integer of a sign and magnitude. -/
def signed' (s : Bool) (m : Nat) : Int := if s then -(m : Int) else m

/-- The sum of two finite values, rounded once, with the zero of R61. -/
def addFin (f : Fmt) (mode : Nat) (s1 : Bool) (m1 : Nat) (e1 : Int) (s2 : Bool) (m2 : Nat) (e2 : Int) : Nat × Half :=
  let e := if e1 < e2 then e1 else e2
  let t := signed' s1 (m1 * 2 ^ (e1 - e).toNat) + signed' s2 (m2 * 2 ^ (e2 - e).toNat)
  if t = 0 then
    if m1 = 0 && m2 = 0 && s1 == s2 then (fZero f s1, 0) else (fZero f (mode == 4), 0)
  else roundTo f mode (t < 0) t.natAbs e

/-- a + b (R192). -/
def fpAdd (f : Fmt) (mode a b : Nat) : Nat × Half :=
  match nanOf f [a, b] with
  | some r => r
  | none =>
    match fval f a, fval f b with
    | .inf s, .inf t => if s == t then (fInf f s, 0) else (fDefNaN f, fNV)
    | .inf s, _ => (fInf f s, 0)
    | _, .inf t => (fInf f t, 0)
    | .fin s m e, .fin t n g => addFin f mode s m e t n g
    | _, _ => (fDefNaN f, fNV)

/-- A pattern with its sign changed. -/
def fpNeg (f : Fmt) (x : Nat) : Nat := if x.testBit (f.eb + f.fb) then x - 2 ^ (f.eb + f.fb) else x + 2 ^ (f.eb + f.fb)

/-- a - b (R192): a NaN operand keeps its own sign (R59). -/
def fpSub (f : Fmt) (mode a b : Nat) : Nat × Half :=
  match nanOf f [a, b] with
  | some r => r
  | none => fpAdd f mode a (fpNeg f b)

/-- a × b (R192). -/
def fpMul (f : Fmt) (mode a b : Nat) : Nat × Half :=
  match nanOf f [a, b] with
  | some r => r
  | none =>
    match fval f a, fval f b with
    | .inf s, .inf t => (fInf f (s != t), 0)
    | .inf s, .fin t n _ => if n = 0 then (fDefNaN f, fNV) else (fInf f (s != t), 0)
    | .fin s m _, .inf t => if m = 0 then (fDefNaN f, fNV) else (fInf f (s != t), 0)
    | .fin s m e, .fin t n g => roundTo f mode (s != t) (m * n) (e + g)
    | _, _ => (fDefNaN f, fNV)

/-- a × b + c with one rounding; NaN order a, b, then the addend (R59, R192). -/
def fpFma (f : Fmt) (mode a b c : Nat) : Nat × Half :=
  match nanOf f [a, b, c] with
  | some r => r
  | none =>
    let prod : FVal := match fval f a, fval f b with
      | .inf s, .inf t => .inf (s != t)
      | .inf s, .fin t n _ => if n = 0 then .nan false 0 else .inf (s != t)
      | .fin s m _, .inf t => if m = 0 then .nan false 0 else .inf (s != t)
      | .fin s m e, .fin t n g => .fin (s != t) (m * n) (e + g)
      | _, _ => .nan false 0
    match prod, fval f c with
    | .inf s, .inf t => if s == t then (fInf f s, 0) else (fDefNaN f, fNV)
    | .inf s, .fin _ _ _ => (fInf f s, 0)
    | .fin _ _ _, .inf t => (fInf f t, 0)
    | .fin s m e, .fin t n g => addFin f mode s m e t n g
    | _, _ => (fDefNaN f, fNV)

/-- a ÷ b (R192): the quotient to enough bits, with a sticky bit below. -/
def fpDiv (f : Fmt) (mode a b : Nat) : Nat × Half :=
  match nanOf f [a, b] with
  | some r => r
  | none =>
    match fval f a, fval f b with
    | .inf _, .inf _ => (fDefNaN f, fNV)
    | .inf s, .fin t _ _ => (fInf f (s != t), 0)
    | .fin s _ _, .inf t => (fZero f (s != t), 0)
    | .fin s m e, .fin t n g =>
      if n = 0 then (if m = 0 then (fDefNaN f, fNV) else (fInf f (s != t), fDZ))
      else
        let k := f.fb + 4 + bitLen n
        let num := m * 2 ^ k
        roundTo f mode (s != t) (2 * (num / n) + b2n (num % n ≠ 0)) (e - g - k - 1)
    | _, _ => (fDefNaN f, fNV)

/-- The integer square root, `fuel` bits of it. -/
def isqrt : Nat → Nat → Nat
  | 0, _ => 0
  | fuel + 1, n =>
    let r := 2 * isqrt fuel (n / 4)
    if (r + 1) * (r + 1) ≤ n then r + 1 else r

/-- √a (R192); −0 gives −0. -/
def fpSqrt (f : Fmt) (mode a : Nat) : Nat × Half :=
  match nanOf f [a] with
  | some r => r
  | none =>
    match fval f a with
    | .inf s => if s then (fDefNaN f, fNV) else (fInf f false, 0)
    | .fin s m e =>
      if m = 0 then (fZero f s, 0)
      else if s then (fDefNaN f, fNV)
      else
        let k0 := 2 * (f.fb + 4)
        let k := if (e - k0) % 2 = 0 then k0 else k0 + 1
        let n := m * 2 ^ k
        let r := isqrt (bitLen n) n
        roundTo f mode false (2 * r + b2n (r * r ≠ n)) ((e - k) / 2 - 1)
    | _ => (fDefNaN f, fNV)

/-- A finite value rounded to an integer in a mode: magnitude and inexactness (R55). -/
def roundInt (mode : Nat) (s : Bool) (m : Nat) (e : Int) : Nat × Bool := roundAt mode s m e 0

/-- a rounded to an integral value; only a signalling NaN raises a flag (R192). -/
def fpRnd (f : Fmt) (mode a : Nat) : Nat × Half :=
  match nanOf f [a] with
  | some r => r
  | none =>
    match fval f a with
    | .fin s m e => ((roundTo f mode s (roundInt mode s m e).1 0).1, 0)
    | _ => (a, 0)

/-- a × 2^b (R192). -/
def fpLdexp (f : Fmt) (mode a : Nat) (b : Int) : Nat × Half :=
  match nanOf f [a] with
  | some r => r
  | none =>
    match fval f a with
    | .fin s m e => roundTo f mode s m (e + b)
    | _ => (a, 0)

/-- The comparison of two patterns that are not NaNs: less, equal, greater; −0 equals +0 (R195). -/
def fpCompare (f : Fmt) (a b : Nat) : Ordering :=
  match fval f a, fval f b with
  | .inf s, .inf t => if s == t then .eq else if s then .lt else .gt
  | .inf s, _ => if s then .lt else .gt
  | _, .inf t => if t then .gt else .lt
  | .fin s m e, .fin t n g =>
    let l := if e < g then e else g
    compare (signed' s (m * 2 ^ (e - l).toNat)) (signed' t (n * 2 ^ (g - l).toNat))
  | _, _ => .eq

/-- a < b with −0 < +0 (R194), neither a NaN. -/
def fpLess (f : Fmt) (a b : Nat) : Bool :=
  match fpCompare f a b with
  | .lt => true
  | .gt => false
  | .eq => a.testBit (f.eb + f.fb) && !b.testBit (f.eb + f.fb)

/-- FMIN and FMAX (R194): when the operands compare equal under −0 < +0, a. -/
def fpMin (f : Fmt) (a b : Nat) : Nat × Half :=
  match nanOf f [a, b] with
  | some r => r
  | none => (if fpLess f b a then b else a, 0)
def fpMax (f : Fmt) (a b : Nat) : Nat × Half :=
  match nanOf f [a, b] with
  | some r => r
  | none => (if fpLess f a b then b else a, 0)

/-- FCMP's conditions (R195): truth and flags. -/
def fpCmp (f : Fmt) (c a b : Nat) : Bool × Half :=
  let un := isNaN f a || isNaN f b
  let sn : Half := if isSNaN f a || isSNaN f b then fNV else 0
  let loud : Half := if un then fNV else 0
  let o := fpCompare f a b
  match c with
  | 0 => (!un && o == .eq, sn)
  | 1 => (un || o != .eq, sn)
  | 2 => (!un && o == .lt, loud)
  | 3 => (!un && o != .gt, loud)
  | 4 => (!un && o == .gt, loud)
  | 5 => (!un && o != .lt, loud)
  | 6 => (un, sn)
  | _ => (!un, sn)

/-- FCLASS's bit (R194). -/
def fpClass (f : Fmt) (a : Nat) : Nat :=
  match fval f a with
  | .nan _ fr => if fr.testBit (f.fb - 1) then 0x200 else 0x100
  | .inf s => if s then 0x001 else 0x080
  | .fin s m _ =>
    if m = 0 then (if s then 0x008 else 0x010)
    else if m < 2 ^ f.fb then (if s then 0x004 else 0x020)
    else (if s then 0x002 else 0x040)

/-- A NaN in another format (R60). -/
def nanConv (f g : Fmt) (s : Bool) (fr : Nat) : Nat :=
  let fr' := if g.fb < f.fb then fr / 2 ^ (f.fb - g.fb) else fr * 2 ^ (g.fb - f.fb)
  quiet g (fpack g s (2 ^ g.eb - 1) fr')

/-- FP to FP (R58, R60). -/
def fpConv (f g : Fmt) (mode a : Nat) : Nat × Half :=
  match fval f a with
  | .nan s fr => (nanConv f g s fr, if isSNaN f a then fNV else 0)
  | .inf s => (fInf g s, 0)
  | .fin s m e => roundTo g mode s m e

/-- A finite value to an integer type, rounded in the mode, clamped and flagged (R63). -/
def finToInt (signed : Bool) (n mode : Nat) (s : Bool) (m : Nat) (e : Int) : Nat × Half :=
  let (q, nx) := roundInt mode s m e
  let (i, cl) := clampTo signed n (signed' s q)
  (ofSigned n i, if cl then fNV ||| fSAT else if nx then fNX else 0)

/-- FP to integer (R63). -/
def fpToInt (f : Fmt) (signed : Bool) (n mode a : Nat) : Nat × Half :=
  match fval f a with
  | .nan _ _ => (0, fNV)
  | .inf s => (ofSigned n (if s then typeMin signed n else typeMax signed n), fNV ||| fSAT)
  | .fin s m e => finToInt signed n mode s m e

/-- Integer to FP (R63). -/
def intToFp (g : Fmt) (mode : Nat) (i : Int) : Nat × Half := roundTo g mode (i < 0) i.natAbs 0

/-- FDOT2 (R193): a₀b₀ + a₁b₁ + d with one rounding to FP32; NaN order a₀, b₀, a₁, b₁, d. -/
def fpDot2 (f : Fmt) (mode a0 b0 a1 b1 d : Nat) : Nat × Half :=
  let wide (x : Nat) : Nat := match fval f x with
    | .nan s fr => fpack f32 s 255 (fr * 2 ^ (23 - f.fb))
    | _ => (fpConv f f32 1 x).1
  match nanOf f32 [wide a0, wide b0, wide a1, wide b1, d] with
  | some r => r
  | none =>
    let prod (x y : Nat) : FVal := match fval f x, fval f y with
      | .inf s, .inf t => .inf (s != t)
      | .inf s, .fin t n _ => if n = 0 then .nan false 0 else .inf (s != t)
      | .fin s m _, .inf t => if m = 0 then .nan false 0 else .inf (s != t)
      | .fin s m e, .fin t n g => .fin (s != t) (m * n) (e + g)
      | _, _ => .nan false 0
    let ts := [prod a0 b0, prod a1 b1, fval f32 d]
    let isn (v : FVal) : Bool := match v with | .nan _ _ => true | _ => false
    let infs := ts.filterMap (fun v => match v with | .inf s => some s | _ => none)
    if ts.any isn || (infs.contains true && infs.contains false) then (fDefNaN f32, fNV)
    else match infs with
      | s :: _ => (fInf f32 s, 0)
      | [] =>
        let fins := ts.filterMap (fun v => match v with | .fin s m e => some (s, m, e) | _ => none)
        let lo := fins.foldl (fun l t => if t.2.2 < l then t.2.2 else l) 0
        let tot : Int := fins.foldl (fun acc t => acc + signed' t.1 (t.2.1 * 2 ^ (t.2.2 - lo).toNat)) 0
        if tot = 0 then
          if fins.all (fun t => t.2.1 = 0 && t.1) then (fZero f32 true, 0)
          else if fins.all (fun t => t.2.1 = 0 && !t.1) then (fZero f32 false, 0)
          else (fZero f32 (mode == 4), 0)
        else roundTo f32 mode (tot < 0) tot.natAbs lo

/-! ### FSFN -/

/-- Is the operand a power of two, `2^k`, or `4^k` when the exponent must be even? -/
def powerOf (m : Nat) (e : Int) : Option Int :=
  if m = 2 ^ (bitLen m - 1) && m ≠ 0 then some (e + bitLen m - 1) else none

/-- The integer value of a finite operand, if it is one. -/
def integral (s : Bool) (m : Nat) (e : Int) : Option Int :=
  if 0 ≤ e then some (signed' s (m * 2 ^ e.toNat))
  else if m % 2 ^ (-e).toNat = 0 then some (signed' s (m / 2 ^ (-e).toNat)) else none

/-- The exact cases of FSFN (R198's table), with their flags; none where the table lists no case. -/
def fsfnExact (fn a : Nat) : Option (Nat × Half) :=
  match fval f32 a with
  | .nan _ _ => nanOf f32 [a]
  | .inf s =>
    match fn with
    | 0 => some (fZero f32 s, 0)
    | 1 => some (if s then (fDefNaN f32, fNV) else (fZero f32 false, 0))
    | 2 => some (if s then fZero f32 false else fInf f32 false, 0)
    | 3 => some (if s then (fDefNaN f32, fNV) else (fInf f32 false, 0))
    | 6 => some (fpack f32 s 127 0, 0)
    | _ => some (fDefNaN f32, fNV)
  | .fin s m e =>
    if m = 0 then
      match fn with
      | 0 => some (fInf f32 s, fDZ)
      | 1 => some (fInf f32 s, fDZ)
      | 2 => some (fpack f32 false 127 0, 0)
      | 3 => some (fInf f32 true, fDZ)
      | 4 => some (fZero f32 s, 0)
      | 5 => some (fpack f32 false 127 0, 0)
      | _ => some (fZero f32 s, 0)
    else
      match fn with
      | 0 => match powerOf m e with
        | some k => if -127 ≤ k then (if k ≤ 149 then some (roundTo f32 1 s 1 (-k)) else none) else none
        | none => none
      | 1 => if s then some (fDefNaN f32, fNV) else match powerOf m e with
        | some k => if k % 2 = 0 then some (roundTo f32 1 false 1 (-(k / 2))) else none
        | none => none
      | 2 => match integral s m e with
        | some k => if -149 ≤ k && k ≤ 127 then some (roundTo f32 1 false 1 k) else none
        | none => none
      | 3 => if s then some (fDefNaN f32, fNV) else match powerOf m e with
        | some k => some (roundTo f32 1 (k < 0) k.natAbs 0)
        | none => none
      | _ => none

end Sys2Proof.Machine
end

