-- ==== Sys2Proof/Machine/Special.lean ====
section
/-! DEFINITION. The special functions of FSFN (13 R198): a fixed function of the operand's bits that the spec bounds and does not state: a
free pattern within the bound. The exact value is formed to some 2^-60 of itself, from series and the constants of mathematics (log entry
12). -/
namespace Sys2Proof.Machine

/-- A real number, `(-1)^neg * m * 2^e`. -/
structure Real2 where
  neg : Bool
  m : Nat
  e : Int
  deriving DecidableEq, Repr

/-- π in units of 2^-288; ln 2 and 2 / ln 2 in units of 2^-128. -/
def piFix : Nat := 0x3243f6a8885a308d313198a2e03707344a4093822299f31d0082efa98ec4e6c89452821e6
def ln2Fix : Nat := 0xb17217f7d1cf79abc9e3b39803f2f6af
def twoLog2eFix : Nat := 0x2e2a8eca5705fc2eefa1ffb41a474fa23

/-- Units of the fixed-point numbers below: 2^-120. -/
def unit120 : Nat := 2 ^ 120

/-- The sum of the `n` terms after `t` of a series in which term `k + 1` is term `k` by `y / (k + 1)`. -/
def expTerms (y : Nat) : Nat → Nat → Nat → Nat
  | 0, _, _ => 0
  | n + 1, k, t => let u := t * y / unit120 / (k + 1); u + expTerms y n (k + 1) u

/-- 2^x for `x` in units of 2^-120. -/
def exp2Fix (x : Int) : Real2 :=
  let f := (x % unit120).toNat
  { neg := false, m := unit120 + expTerms (f * ln2Fix / 2 ^ 128) 40 0 unit120, e := x / unit120 - 120 }

/-- The next `n` binary places of log₂ of `x`, in units of 2^-120 from 1 to below 2. -/
def log2Bits : Nat → Nat → Nat
  | 0, _ => 0
  | n + 1, x =>
    let y := x * x / unit120
    if 2 * unit120 ≤ y then 2 ^ n + log2Bits n (y / 2) else log2Bits n y

/-- The alternating sum of a sine's or cosine's series: `n` terms from the one of degree `k`, which is `t`, for argument squared `q`. -/
def sinTerms (q : Int) : Nat → Int → Int → Int
  | 0, _, _ => 0
  | n + 1, k, t => t + sinTerms q n (k + 2) (-(t * q / (unit120 : Int)) / ((k + 1) * (k + 2)))

/-- A fixed-point number as a real. -/
def fixReal (v : Int) (e : Int) : Real2 := { neg := decide (v < 0), m := v.natAbs, e := e }

/-- The exact value of function `fn` at `(-1)^s * m * 2^e`, a finite nonzero f32 operand; none where no f32 value lies near it. -/
def sfnValue (fn : Nat) (s : Bool) (m : Nat) (e : Int) : Option Real2 :=
  let l : Int := e + bitLen m
  match fn with
  | 0 => some { neg := s, m := 2 ^ (bitLen m + 64) / m, e := -e - bitLen m - 64 }
  | 1 =>
    let k := bitLen m + 160
    let t := if (e + k) % 2 = 0 then k else k + 1
    let n := 2 ^ t / m
    some { neg := false, m := isqrt (bitLen n) n, e := (-e - t) / 2 }
  | 2 =>
    if 8 < l then (if s then some { neg := false, m := 0, e := 0 } else none)
    else
      let a := if 0 ≤ e + 120 then m * 2 ^ (e + 120).toNat else m / 2 ^ (-(e + 120)).toNat
      some (exp2Fix (signed' s a))
  | 3 => some (fixReal ((l - 1) * 2 ^ 60 + log2Bits 60 (m * 2 ^ (121 - bitLen m))) (-60))
  | 6 =>
    if l ≤ -12 then
      let q := if 0 ≤ 2 * e + 200 then m * m * 2 ^ (2 * e + 200).toNat / 3 else 0
      some { neg := s, m := m * (2 ^ 200 - q), e := e - 200 }
    else if 5 < l then some { neg := s, m := 1, e := 0 }
    else
      let t := exp2Fix (-((m * 2 ^ (e + 120).toNat * twoLog2eFix / 2 ^ 128 : Nat) : Int))
      let t := t.m / 2 ^ (-(t.e + 120)).toNat
      some { neg := s, m := (unit120 - t) * 2 ^ 100 / (unit120 + t), e := -100 }
  | _ =>
    let r := m * 2 ^ (e + 288).toNat % (2 * piFix)
    let x : Int := ((r : Int) - (if piFix < r then 2 * (piFix : Int) else 0)) / 2 ^ 168
    let x := signed' s 1 * x
    let q := x * x / (unit120 : Int)
    some (fixReal (if fn = 4 then sinTerms q 40 1 x else sinTerms q 40 0 unit120) (-120))

/-- How far a result may lie from the value (R198): units in the last place, or 2^-22. -/
def sfnBound (fn : Nat) (m : Nat) (e : Int) : Option Nat :=
  match fn with
  | 0 => some 1
  | 1 => some 1
  | 2 => some 2
  | 3 => if e + bitLen m = 0 || e + bitLen m = 1 then none else some 2
  | 6 => some 2
  | _ => none

/-- Does a pattern lie within the bound of a value? -/
def withinBound (v : Real2) (ulps : Option Nat) (r : Nat) : Bool :=
  match fval f32 r with
  | .fin t n g =>
    let top : Int := v.e + bitLen v.m - 1
    let u : Int := if v.m = 0 || top < fmtEmin f32 then fmtLow f32 else top - 23
    let b : Nat × Int := match ulps with | some k => (k, u) | none => (1, -22)
    let c := min b.2 (min v.e g)
    let at_ (m : Nat) (e : Int) : Nat := m * 2 ^ (e - c).toNat
    decide ((signed' v.neg (at_ v.m v.e) - signed' t (at_ n g)).natAbs ≤ at_ b.1 b.2)
  | _ => false

/-- The flags of an inexact FSFN result: underflow too when it is below the normal range (R57). -/
def sfnFlags (r : Nat) : Half := if r % 2 ^ 31 < 2 ^ 23 then fNX ||| fUF else fNX

/-- A result beyond the largest finite value (R56): infinity or that value, which the table of R56 gives by mode; FSFN has none, and its
result is fixed by the operand's bits, so that the choice is free (log entry 12). -/
def sfnOverflow (neg : Bool) (free : Nat) : Nat × Half :=
  (if free % 2 = 0 then fInf f32 neg else fInf f32 neg - 1, fNX ||| fOF)

/-- FSFN (R198): the exact cases; else a free pattern within the bound, with inexact and what R56 and R57 add (R192). -/
def fpSfn (fn a : Nat) : Nat × Half :=
  match fsfnExact fn a with
  | some r => r
  | none =>
    let r := (Config.fsfn fn (BitVec.ofNat 32 a)).toNat
    match fval f32 a with
    | .fin s m e => match sfnValue fn s m e with
      | none => sfnOverflow false r
      | some v =>
        if fmtEmax f32 < v.e + bitLen v.m - 1 then sfnOverflow v.neg r
        else if withinBound v (sfnBound fn m e) r then (r, sfnFlags r)
        else
          let q := roundTo f32 1 v.neg v.m v.e
          (q.1, q.2 ||| sfnFlags q.1)
    | _ => (r, fNX)

end Sys2Proof.Machine
end

