-- ==== Sys2Proof/Decode.lean ====
section
/-! DEFINITION. Decoding and encoding: instruction words (11 R160, R167, R168), clause headers (R152), prefixes (R157),
management commands (27 R375). Code and memory are little-endian (00 R3). -/
namespace Sys2Proof

/-- Bits `lo + n - 1 : lo` of a word, numbered as R3 numbers them. -/
def fld (w lo n : Nat) : BitVec n := BitVec.ofNat n (w / 2 ^ lo)

/-- Why a word is no instruction of its own. -/
inductive Reject where
  /-- Opcode 0x1D-0x1F, 0x6F or 0x7F (R167). -/
  | reservedOpcode
  /-- Opcode 0x7E: a prefix, which modifies the next word (R157). -/
  | prefixWord
  /-- A field that must be zero is not, or FN or COND selects nothing (R168, R169). -/
  | badField
  deriving DecidableEq, Repr

/-- Does the field `lo + n - 1 : lo` hold `v`? -/
def bits (w lo n v : Nat) : Bool := w / 2 ^ lo % 2 ^ n == v

/-- Integer vector instructions, 0x00-0x1C. -/
def decodeInt (op w : Nat) : Option Instr :=
  match op with
  | 0x00 => some (.vadd (fld w 18 7) (fld w 11 7) (fld w 4 7) (fld w 1 3) (fld w 0 1))
  | 0x01 => some (.vsub (fld w 18 7) (fld w 11 7) (fld w 4 7) (fld w 1 3) (fld w 0 1))
  | 0x02 => some (.vmul (fld w 18 7) (fld w 11 7) (fld w 4 7) (fld w 1 3) (fld w 0 1))
  | 0x03 => some (.vmulh (fld w 18 7) (fld w 11 7) (fld w 4 7) (fld w 1 3) (fld w 0 1))
  | 0x04 => some (.vmad (fld w 18 7) (fld w 11 7) (fld w 4 7) (fld w 1 3) (fld w 0 1))
  | 0x05 => some (.vmin (fld w 18 7) (fld w 11 7) (fld w 4 7) (fld w 1 3) (fld w 0 1))
  | 0x06 => some (.vmax (fld w 18 7) (fld w 11 7) (fld w 4 7) (fld w 1 3) (fld w 0 1))
  | 0x07 => some (.vabsd (fld w 18 7) (fld w 11 7) (fld w 4 7) (fld w 1 3) (fld w 0 1))
  | 0x08 => if bits w 3 1 0 then some (.vand (fld w 18 7) (fld w 11 7) (fld w 4 7) (fld w 1 2) (fld w 0 1)) else none
  | 0x09 => if bits w 3 1 0 then some (.vor (fld w 18 7) (fld w 11 7) (fld w 4 7) (fld w 1 2) (fld w 0 1)) else none
  | 0x0A => if bits w 3 1 0 then some (.vxor (fld w 18 7) (fld w 11 7) (fld w 4 7) (fld w 1 2) (fld w 0 1)) else none
  | 0x0B => if bits w 3 1 0 then some (.vandn (fld w 18 7) (fld w 11 7) (fld w 4 7) (fld w 1 2) (fld w 0 1)) else none
  | 0x0C => some (.vshl (fld w 18 7) (fld w 11 7) (fld w 4 7) (fld w 1 3) (fld w 0 1))
  | 0x0D => some (.vshr (fld w 18 7) (fld w 11 7) (fld w 4 7) (fld w 1 3) (fld w 0 1))
  | 0x0E => some (.vsar (fld w 18 7) (fld w 11 7) (fld w 4 7) (fld w 1 3) (fld w 0 1))
  | 0x0F => some (.vrot (fld w 18 7) (fld w 11 7) (fld w 4 7) (fld w 1 3) (fld w 0 1))
  | 0x10 => if bits w 2 2 0 then some (.vbfx (fld w 18 7) (fld w 11 7) (fld w 4 7) (fld w 1 1) (fld w 0 1)) else none
  | 0x11 => if bits w 2 2 0 then some (.vbfi (fld w 18 7) (fld w 11 7) (fld w 4 7) (fld w 1 1) (fld w 0 1)) else none
  | 0x12 => if bits w 0 1 0 && bits w 3 8 0 then some (.vpopc (fld w 18 7) (fld w 11 7) (fld w 1 2)) else none
  | 0x13 => if bits w 0 1 0 && bits w 3 8 0 then some (.vclz (fld w 18 7) (fld w 11 7) (fld w 1 2)) else none
  | 0x14 => if bits w 24 1 0 then some (.vcmp (fld w 22 2) (fld w 18 4) (fld w 11 7) (fld w 4 7) (fld w 1 3) (fld w 0 1)) else none
  | 0x15 => if bits w 3 1 0 then some (.vsel (fld w 18 7) (fld w 11 7) (fld w 4 7) (fld w 1 2) (fld w 0 1)) else none
  | 0x16 => if bits w 3 1 0 && bits w 11 7 0 then some (.vmov (fld w 18 7) (fld w 4 7) (fld w 1 2) (fld w 0 1)) else none
  | 0x17 => if bits w 2 1 0 then some (.vaddi (fld w 18 7) (fld w 11 7) (fld w 3 8) (fld w 0 2)) else none
  | 0x18 => some (.vshli (fld w 18 7) (fld w 11 7) (fld w 3 8) (fld w 0 3))
  | 0x19 => some (.vshri (fld w 18 7) (fld w 11 7) (fld w 3 8) (fld w 0 3))
  | 0x1A => if bits w 2 1 0 then some (.vandi (fld w 18 7) (fld w 11 7) (fld w 3 8) (fld w 0 2)) else none
  | 0x1B => if bits w 24 1 0 then some (.vcmpi (fld w 22 2) (fld w 18 4) (fld w 11 7) (fld w 3 8) (fld w 0 3)) else none
  | 0x1C => if bits w 2 1 0 && bits w 11 7 0 then some (.vmovi (fld w 18 7) (fld w 3 8) (fld w 0 2)) else none
  | _ => none

/-- Floating-point, exact-accumulator and cross-lane instructions, 0x20-0x3F. MXCH with FN 0 and 1 is the broadcast,
with any other FN the reduction (R210). -/
def decodeFp (op w : Nat) : Option Instr :=
  match op with
  | 0x20 => if bits w 3 1 0 then some (.fadd (fld w 18 7) (fld w 11 7) (fld w 4 7) (fld w 1 2) (fld w 0 1)) else none
  | 0x21 => if bits w 3 1 0 then some (.fsub (fld w 18 7) (fld w 11 7) (fld w 4 7) (fld w 1 2) (fld w 0 1)) else none
  | 0x22 => if bits w 3 1 0 then some (.fmul (fld w 18 7) (fld w 11 7) (fld w 4 7) (fld w 1 2) (fld w 0 1)) else none
  | 0x23 => if bits w 3 1 0 then some (.ffma (fld w 18 7) (fld w 11 7) (fld w 4 7) (fld w 1 2) (fld w 0 1)) else none
  | 0x24 => if bits w 3 1 0 then some (.fmin (fld w 18 7) (fld w 11 7) (fld w 4 7) (fld w 1 2) (fld w 0 1)) else none
  | 0x25 => if bits w 3 1 0 then some (.fmax (fld w 18 7) (fld w 11 7) (fld w 4 7) (fld w 1 2) (fld w 0 1)) else none
  | 0x26 => some (.fsgn (fld w 18 7) (fld w 11 7) (fld w 4 7) (fld w 1 3) (fld w 0 1))
  | 0x27 => if bits w 23 2 0 then some (.fcmp (fld w 22 1) (fld w 18 4) (fld w 11 7) (fld w 4 7) (fld w 1 3) (fld w 0 1)) else none
  | 0x28 => if bits w 0 1 0 && bits w 8 3 0 then some (.fcvt (fld w 18 7) (fld w 11 7) (fld w 7 1) (fld w 4 3) (fld w 1 3)) else none
  | 0x29 => if bits w 0 1 0 && bits w 2 9 0 then some (.fclass (fld w 18 7) (fld w 11 7) (fld w 1 1)) else none
  | 0x2A => if bits w 0 1 0 && bits w 4 7 0 then some (.fsfn (fld w 18 7) (fld w 11 7) (fld w 1 3)) else none
  | 0x2B => if bits w 3 1 0 then some (.fdiv (fld w 18 7) (fld w 11 7) (fld w 4 7) (fld w 1 2) (fld w 0 1)) else none
  | 0x2C => if bits w 0 1 0 && bits w 3 8 0 then some (.fsqrt (fld w 18 7) (fld w 11 7) (fld w 1 2)) else none
  | 0x2D => if bits w 0 1 0 && bits w 3 8 0 then some (.frnd (fld w 18 7) (fld w 11 7) (fld w 1 2)) else none
  | 0x2E => if bits w 3 1 0 then some (.fldexp (fld w 18 7) (fld w 11 7) (fld w 4 7) (fld w 1 2) (fld w 0 1)) else none
  | 0x2F => if bits w 2 2 1 then some (.fdot2 (fld w 18 7) (fld w 11 7) (fld w 4 7) (fld w 1 1) (fld w 0 1)) else none
  | 0x30 => if bits w 0 18 0 && bits w 20 5 0 then some (.xclr (fld w 18 2)) else none
  | 0x31 => if bits w 0 1 0 && bits w 4 7 0 && bits w 20 5 0 then some (.xadd (fld w 18 2) (fld w 11 7) (fld w 1 3)) else none
  | 0x32 => if bits w 0 1 0 && bits w 20 5 0 then some (.xfma (fld w 18 2) (fld w 11 7) (fld w 4 7) (fld w 1 3)) else none
  | 0x33 => if bits w 0 1 0 && bits w 4 7 0 && bits w 20 5 0 then some (.xsub (fld w 18 2) (fld w 11 7) (fld w 1 3)) else none
  | 0x34 => if bits w 0 1 0 && bits w 4 7 0 && bits w 13 5 0 then some (.xrd (fld w 18 7) (fld w 11 2) (fld w 1 3)) else none
  | 0x35 => if bits w 0 11 0 && bits w 13 5 0 && bits w 20 5 0 then some (.xmrg (fld w 18 2) (fld w 11 2)) else none
  | 0x36 => if bits w 0 11 0 && bits w 13 5 0 then some (.xst (fld w 18 7) (fld w 11 2)) else none
  | 0x37 => if bits w 0 11 0 && bits w 20 5 0 then some (.xld (fld w 18 2) (fld w 11 7)) else none
  | 0x38 => if bits w 0 1 0 && bits w 4 7 0 then some (.qswz (fld w 18 7) (fld w 11 7) (fld w 1 3)) else none
  | 0x39 => if bits w 0 1 0 && bits w 4 7 0 then some (.qdiff (fld w 18 7) (fld w 11 7) (fld w 1 3)) else none
  | 0x3A => some (.shfl (fld w 18 7) (fld w 11 7) (fld w 4 7) (fld w 1 3) (fld w 0 1))
  | 0x3B => if bits w 0 1 0 && bits w 7 4 0 then some (.vred (fld w 18 7) (fld w 11 7) (fld w 4 3) (fld w 1 3)) else none
  | 0x3C => if bits w 0 1 0 && bits w 7 3 0 then some (.vscan (fld w 18 7) (fld w 11 7) (fld w 10 1) (fld w 4 3) (fld w 1 3)) else none
  | 0x3D => if bits w 0 11 0 && bits w 22 3 0 then some (.vballot (fld w 18 4) (fld w 11 7)) else if bits w 0 11 2 && bits w 24 1 0 then some (.vballotCnt (fld w 18 6) (fld w 11 7)) else none
  | 0x3E => if bits w 0 1 0 && bits w 4 7 0 then some (.vmatch (fld w 18 7) (fld w 11 7) (fld w 1 3)) else none
  | 0x3F => if bits w 2 2 0 then some (.mxchBc (fld w 18 7) (fld w 11 7) (fld w 4 7) (fld w 1 1) (fld w 0 1)) else if bits w 0 1 0 && bits w 7 2 0 && bits w 10 1 0 then some (.mxchRed (fld w 18 7) (fld w 11 7) (fld w 9 1) (fld w 4 3) (fld w 1 3)) else none
  | _ => none

/-- Scalar, control and memory instructions, 0x40-0x5F. -/
def decodeScalar (op w : Nat) : Option Instr :=
  match op with
  | 0x40 => if bits w 0 3 0 && bits w 5 2 0 then some (.sadd (fld w 19 6) (fld w 13 6) (fld w 7 6) (fld w 4 1) (fld w 3 1)) else none
  | 0x41 => if bits w 0 3 0 && bits w 5 2 0 then some (.ssub (fld w 19 6) (fld w 13 6) (fld w 7 6) (fld w 4 1) (fld w 3 1)) else none
  | 0x42 => if bits w 0 3 0 && bits w 6 1 0 then some (.smul (fld w 19 6) (fld w 13 6) (fld w 7 6) (fld w 4 2) (fld w 3 1)) else none
  | 0x43 => if bits w 0 3 0 && bits w 4 3 0 then some (.smad (fld w 19 6) (fld w 13 6) (fld w 7 6) (fld w 3 1)) else none
  | 0x44 => if bits w 0 3 0 && bits w 4 3 0 then some (.sand (fld w 19 6) (fld w 13 6) (fld w 7 6) (fld w 3 1)) else none
  | 0x45 => if bits w 0 3 0 && bits w 4 3 0 then some (.sor (fld w 19 6) (fld w 13 6) (fld w 7 6) (fld w 3 1)) else none
  | 0x46 => if bits w 0 3 0 && bits w 4 3 0 then some (.sxor (fld w 19 6) (fld w 13 6) (fld w 7 6) (fld w 3 1)) else none
  | 0x47 => if bits w 0 3 0 && bits w 4 3 0 then some (.sshl (fld w 19 6) (fld w 13 6) (fld w 7 6) (fld w 3 1)) else none
  | 0x48 => if bits w 0 3 0 && bits w 4 3 0 then some (.sshr (fld w 19 6) (fld w 13 6) (fld w 7 6) (fld w 3 1)) else none
  | 0x49 => if bits w 0 3 0 && bits w 4 3 0 then some (.ssar (fld w 19 6) (fld w 13 6) (fld w 7 6) (fld w 3 1)) else none
  | 0x4A => if bits w 0 3 0 then some (.scmp (fld w 19 6) (fld w 13 6) (fld w 7 6) (fld w 4 3) (fld w 3 1)) else none
  | 0x4B => if bits w 0 3 0 && bits w 4 3 0 then some (.ssel (fld w 19 6) (fld w 13 6) (fld w 7 6) (fld w 3 1)) else none
  | 0x4C => if bits w 0 3 0 && bits w 4 3 0 && bits w 13 6 0 then some (.smov (fld w 19 6) (fld w 7 6) (fld w 3 1)) else none
  | 0x4D => if bits w 0 2 0 && bits w 3 2 0 then some (.saddi (fld w 19 6) (fld w 13 6) (fld w 5 8) (fld w 2 1)) else none
  | 0x4E => if bits w 0 3 0 && bits w 4 1 0 && bits w 6 1 0 then some (.smin (fld w 19 6) (fld w 13 6) (fld w 7 6) (fld w 5 1) (fld w 3 1)) else if bits w 0 3 0 && bits w 4 1 1 && bits w 6 1 0 then some (.smax (fld w 19 6) (fld w 13 6) (fld w 7 6) (fld w 5 1) (fld w 3 1)) else none
  | 0x4F => if bits w 0 5 0 then some (.srd (fld w 19 6) (fld w 13 6) (fld w 5 8)) else if bits w 0 13 228 then some (.srdClr (fld w 19 6) (fld w 13 6)) else none
  | 0x50 => some (.bra (fld w 19 6) (fld w 16 3) (fld w 0 16))
  | 0x51 => if bits w 17 2 0 && bits w 23 2 0 then some (.bdiv (fld w 19 4) (fld w 16 1) (fld w 0 16)) else none
  | 0x52 => if bits w 0 25 0 then some (.join) else none
  | 0x53 => if bits w 16 3 0 then some (.call (fld w 19 6) (fld w 0 16)) else none
  | 0x54 => if bits w 0 19 0 then some (.ret (fld w 19 6)) else none
  | 0x55 => if bits w 0 19 0 then some (.jmpi (fld w 19 6)) else none
  | 0x56 => if bits w 0 25 0 then some (.exit) else none
  | 0x57 => if bits w 0 25 0 then some (.nop) else if bits w 0 25 65536 then some (.yield) else none
  | 0x58 => some (.ld (fld w 18 7) (fld w 12 6) (fld w 4 8) (fld w 2 2) (fld w 1 1) (fld w 0 1))
  | 0x59 => if bits w 0 2 0 then some (.st (fld w 18 7) (fld w 12 6) (fld w 4 8) (fld w 2 2)) else none
  | 0x5A => some (.ldx (fld w 18 7) (fld w 12 6) (fld w 5 7) (fld w 3 2) (fld w 2 1) (fld w 1 1) (fld w 0 1))
  | 0x5B => if bits w 1 2 0 then some (.stx (fld w 18 7) (fld w 12 6) (fld w 5 7) (fld w 3 2) (fld w 0 1)) else none
  | 0x5C => some (.lds (fld w 18 7) (fld w 12 6) (fld w 5 7) (fld w 3 2) (fld w 2 1) (fld w 1 1) (fld w 0 1))
  | 0x5D => if bits w 1 2 0 then some (.sts (fld w 18 7) (fld w 12 6) (fld w 5 7) (fld w 3 2) (fld w 0 1)) else none
  | 0x5E => some (.ldw (fld w 18 7) (fld w 12 6) (fld w 5 7) (fld w 3 2) (fld w 2 1) (fld w 1 1) (fld w 0 1))
  | 0x5F => some (.ldc (fld w 18 7) (fld w 12 6) (fld w 5 7) (fld w 3 2) (fld w 2 1) (fld w 1 1) (fld w 0 1))
  | _ => none

/-- Atomics, streams, engines, matrix, sync and system instructions, 0x60-0x7D. QBIND with FN 3 is the unbinding form
(R237). -/
def decodeSync (op w : Nat) : Option Instr :=
  match op with
  | 0x60 => if bits w 0 1 0 && bits w 9 2 0 then some (.atom (fld w 18 7) (fld w 11 7) (fld w 8 1) (fld w 7 1) (fld w 4 3) (fld w 1 3)) else none
  | 0x61 => if bits w 0 1 0 && bits w 8 3 0 then some (.red (fld w 18 7) (fld w 11 7) (fld w 7 1) (fld w 4 3) (fld w 1 3)) else none
  | 0x62 => if bits w 0 1 0 && bits w 9 2 0 then some (.atoms (fld w 18 7) (fld w 11 7) (fld w 8 1) (fld w 7 1) (fld w 4 3) (fld w 1 3)) else none
  | 0x63 => if bits w 0 5 0 && bits w 9 16 0 then some (.fence (fld w 8 1) (fld w 5 3)) else none
  | 0x64 => if bits w 0 25 0 then some (.flushagg) else if bits w 0 25 32 then some (.flushaggWait) else none
  | 0x65 => if bits w 0 13 0 && bits w 22 3 0 then some (.qsetBase (fld w 19 3) (fld w 13 6)) else if bits w 0 3 0 && bits w 4 3 1 && bits w 22 3 0 then some (.qsetShape (fld w 19 3) (fld w 13 6) (fld w 7 6) (fld w 3 1)) else none
  | 0x66 => if bits w 0 19 48 && bits w 22 3 0 then some (.qbindOff (fld w 19 3)) else if bits w 0 4 0 && bits w 6 7 0 && bits w 22 3 0 && !bits w 4 2 3 then some (.qbind (fld w 19 3) (fld w 13 6) (fld w 4 2)) else none
  | 0x67 => if bits w 0 13 0 && bits w 16 3 0 then some (.qposRd (fld w 19 6) (fld w 13 3)) else if bits w 0 13 16 && bits w 22 3 0 then some (.qposWr (fld w 19 3) (fld w 13 6)) else none
  | 0x68 => if bits w 0 7 0 then some (.cpy (fld w 19 6) (fld w 13 6) (fld w 7 6)) else none
  | 0x69 => if bits w 0 7 0 then some (.cpym (fld w 19 6) (fld w 13 6) (fld w 7 6)) else none
  | 0x6A => if bits w 0 7 0 then some (.halo (fld w 19 6) (fld w 13 6) (fld w 7 6)) else if bits w 0 7 1 then some (.haloAllm (fld w 19 6) (fld w 13 6) (fld w 7 6)) else none
  | 0x6B => if bits w 0 13 0 then some (.kick (fld w 19 6) (fld w 13 6)) else none
  | 0x6C => if bits w 0 13 0 then some (.mighHot (fld w 19 6) (fld w 13 6)) else if bits w 0 13 1 then some (.mighCold (fld w 19 6) (fld w 13 6)) else if bits w 0 13 2 then some (.mighClr (fld w 19 6) (fld w 13 6)) else none
  | 0x6D => if bits w 0 13 0 then some (.rtsend (fld w 19 6) (fld w 13 6)) else none
  | 0x6E => if bits w 0 13 0 then some (.rtrecvFill (fld w 19 6) (fld w 13 6)) else if bits w 0 13 1 then some (.rtrecvNext (fld w 19 6) (fld w 13 6)) else if bits w 0 13 2 then some (.rtrecvLand (fld w 19 6) (fld w 13 6)) else if bits w 0 13 3 then some (.rtrecvReset (fld w 19 6) (fld w 13 6)) else none
  | 0x70 => some (.mma (fld w 21 4) (fld w 15 6) (fld w 8 7) (fld w 1 7) (fld w 0 1))
  | 0x71 => some (.mmag (fld w 21 4) (fld w 15 6) (fld w 8 7) (fld w 1 7) (fld w 0 1))
  | 0x72 => if bits w 0 1 0 && bits w 5 16 0 then some (.aclr (fld w 21 4) (fld w 1 4)) else none
  | 0x73 => if bits w 0 1 0 && bits w 4 4 0 then some (.ard (fld w 21 4) (fld w 15 6) (fld w 8 7) (fld w 1 3)) else none
  | 0x74 => if bits w 0 1 0 then some (.ards (fld w 21 4) (fld w 15 6) (fld w 8 7) (fld w 1 7)) else none
  | 0x75 => if bits w 0 1 0 && bits w 6 5 0 then some (.rqcvt (fld w 18 7) (fld w 11 7) (fld w 4 2) (fld w 1 3)) else none
  | 0x76 => if bits w 0 7 0 && bits w 19 6 0 then some (.tarm (fld w 13 6) (fld w 7 6)) else if bits w 0 13 16 && bits w 19 6 0 then some (.tarmClr (fld w 13 6)) else if bits w 0 3 0 && bits w 4 3 2 && bits w 19 6 0 then some (.tarmInit (fld w 13 6) (fld w 7 6) (fld w 3 1)) else none
  | 0x77 => if bits w 0 3 0 && bits w 4 3 0 && bits w 19 6 0 then some (.tadd (fld w 13 6) (fld w 7 6) (fld w 3 1)) else if bits w 0 3 0 && bits w 4 3 1 then some (.taddR (fld w 19 6) (fld w 13 6) (fld w 7 6) (fld w 3 1)) else none
  | 0x78 => if bits w 0 13 0 && bits w 19 6 0 then some (.arrive (fld w 13 6)) else if bits w 0 3 0 && bits w 4 3 1 && bits w 19 6 0 then some (.arriveAdd (fld w 13 6) (fld w 7 6) (fld w 3 1)) else if bits w 0 13 32 && bits w 19 6 0 then some (.arriveWait (fld w 13 6)) else none
  | 0x79 => if bits w 0 3 0 && bits w 4 3 0 then some (.poll (fld w 19 6) (fld w 13 6) (fld w 7 6) (fld w 3 1)) else none
  | 0x7A => if bits w 0 13 0 then some (.capenter (fld w 19 6) (fld w 13 6)) else if bits w 0 13 16 then some (.capstep (fld w 19 6) (fld w 13 6)) else if bits w 0 13 32 then some (.capexit (fld w 19 6) (fld w 13 6)) else if bits w 0 13 48 then some (.capres (fld w 19 6) (fld w 13 6)) else none
  | 0x7B => if bits w 0 5 0 && bits w 13 12 0 then some (.regrel (fld w 5 8)) else if bits w 0 5 4 && bits w 13 12 0 then some (.regclm (fld w 5 8)) else none
  | 0x7C => if bits w 0 13 0 && bits w 19 6 0 then some (.tspawn (fld w 13 6)) else none
  | 0x7D => if bits w 0 5 0 && bits w 13 12 0 then some (.sysTrap (fld w 5 8)) else if bits w 0 5 4 && bits w 13 12 0 then some (.sysBrk (fld w 5 8)) else if bits w 0 25 8 then some (.sysHalt) else if bits w 0 5 12 && bits w 7 12 0 then some (.sysPmrd (fld w 19 6) (fld w 5 2)) else if bits w 0 19 16 then some (.sysCyc (fld w 19 6)) else if bits w 0 5 20 && bits w 19 6 0 then some (.sysEvsig (fld w 13 6) (fld w 5 8)) else none
  | _ => none

/-- The instruction of a word, from its opcode and its bits, by the fields and fixed bits of the formats (R160, R167,
R168). A field of a register number, type or code is not judged here: reserved values raise illegal-instruction at issue
(R169). -/
def decodeOp (op w : Nat) : Option Instr :=
  if op < 0x20 then decodeInt op w else if op < 0x40 then decodeFp op w
  else if op < 0x60 then decodeScalar op w else decodeSync op w

/-- The opcode, word{31:25} (R160). -/
def opcodeOf (w : Nat) : Nat := w / 2 ^ 25 % 2 ^ 7

/-- Is the opcode one that R167 marks reserved? -/
def reservedOpcode (op : Nat) : Bool := (0x1D ≤ op && op ≤ 0x1F) || op == 0x6F || op == 0x7F

/-- Decoding of one instruction word, total, rejecting by name. -/
def decode (w : Word) : Except Reject Instr :=
  match decodeOp (opcodeOf w.toNat) w.toNat with
  | some i => .ok i
  | none =>
    if opcodeOf w.toNat = 0x7E then .error .prefixWord
    else if reservedOpcode (opcodeOf w.toNat) then .error .reservedOpcode
    else .error .badField

/-- A field's contribution to its word. -/
def put {n : Nat} (v : BitVec n) (lo : Nat) : Nat := v.toNat * 2 ^ lo

/-- A word from its fixed bits and its fields' contributions. -/
def word (fixed : Nat) : List Nat → Nat
  | [] => fixed
  | f :: fs => f + word fixed fs

/-- The word of an instruction as a number; steps of the part have none (R160, R167). -/
def encodeNat (i : Instr) : Option Nat :=
  match i with
  | .vadd d a b f s => some (word 0x00000000 [put d 18, put a 11, put b 4, put f 1, put s 0])
  | .vsub d a b f s => some (word 0x02000000 [put d 18, put a 11, put b 4, put f 1, put s 0])
  | .vmul d a b f s => some (word 0x04000000 [put d 18, put a 11, put b 4, put f 1, put s 0])
  | .vmulh d a b f s => some (word 0x06000000 [put d 18, put a 11, put b 4, put f 1, put s 0])
  | .vmad d a b f s => some (word 0x08000000 [put d 18, put a 11, put b 4, put f 1, put s 0])
  | .vmin d a b f s => some (word 0x0A000000 [put d 18, put a 11, put b 4, put f 1, put s 0])
  | .vmax d a b f s => some (word 0x0C000000 [put d 18, put a 11, put b 4, put f 1, put s 0])
  | .vabsd d a b f s => some (word 0x0E000000 [put d 18, put a 11, put b 4, put f 1, put s 0])
  | .vand d a b f s => some (word 0x10000000 [put d 18, put a 11, put b 4, put f 1, put s 0])
  | .vor d a b f s => some (word 0x12000000 [put d 18, put a 11, put b 4, put f 1, put s 0])
  | .vxor d a b f s => some (word 0x14000000 [put d 18, put a 11, put b 4, put f 1, put s 0])
  | .vandn d a b f s => some (word 0x16000000 [put d 18, put a 11, put b 4, put f 1, put s 0])
  | .vshl d a b f s => some (word 0x18000000 [put d 18, put a 11, put b 4, put f 1, put s 0])
  | .vshr d a b f s => some (word 0x1A000000 [put d 18, put a 11, put b 4, put f 1, put s 0])
  | .vsar d a b f s => some (word 0x1C000000 [put d 18, put a 11, put b 4, put f 1, put s 0])
  | .vrot d a b f s => some (word 0x1E000000 [put d 18, put a 11, put b 4, put f 1, put s 0])
  | .vbfx d a b f s => some (word 0x20000000 [put d 18, put a 11, put b 4, put f 1, put s 0])
  | .vbfi d a b f s => some (word 0x22000000 [put d 18, put a 11, put b 4, put f 1, put s 0])
  | .vpopc d a f => some (word 0x24000000 [put d 18, put a 11, put f 1])
  | .vclz d a f => some (word 0x26000000 [put d 18, put a 11, put f 1])
  | .vcmp t m a b c s => some (word 0x28000000 [put t 22, put m 18, put a 11, put b 4, put c 1, put s 0])
  | .vsel d a b f s => some (word 0x2A000000 [put d 18, put a 11, put b 4, put f 1, put s 0])
  | .vmov d b f s => some (word 0x2C000000 [put d 18, put b 4, put f 1, put s 0])
  | .vaddi d a i f => some (word 0x2E000000 [put d 18, put a 11, put i 3, put f 0])
  | .vshli d a i f => some (word 0x30000000 [put d 18, put a 11, put i 3, put f 0])
  | .vshri d a i f => some (word 0x32000000 [put d 18, put a 11, put i 3, put f 0])
  | .vandi d a i f => some (word 0x34000000 [put d 18, put a 11, put i 3, put f 0])
  | .vcmpi t m a i c => some (word 0x36000000 [put t 22, put m 18, put a 11, put i 3, put c 0])
  | .vmovi d i f => some (word 0x38000000 [put d 18, put i 3, put f 0])
  | .fadd d a b f s => some (word 0x40000000 [put d 18, put a 11, put b 4, put f 1, put s 0])
  | .fsub d a b f s => some (word 0x42000000 [put d 18, put a 11, put b 4, put f 1, put s 0])
  | .fmul d a b f s => some (word 0x44000000 [put d 18, put a 11, put b 4, put f 1, put s 0])
  | .ffma d a b f s => some (word 0x46000000 [put d 18, put a 11, put b 4, put f 1, put s 0])
  | .fmin d a b f s => some (word 0x48000000 [put d 18, put a 11, put b 4, put f 1, put s 0])
  | .fmax d a b f s => some (word 0x4A000000 [put d 18, put a 11, put b 4, put f 1, put s 0])
  | .fsgn d a b f s => some (word 0x4C000000 [put d 18, put a 11, put b 4, put f 1, put s 0])
  | .fcmp t m a b c s => some (word 0x4E000000 [put t 22, put m 18, put a 11, put b 4, put c 1, put s 0])
  | .fcvt d a e t f => some (word 0x50000000 [put d 18, put a 11, put e 7, put t 4, put f 1])
  | .fclass d a f => some (word 0x52000000 [put d 18, put a 11, put f 1])
  | .fsfn d a f => some (word 0x54000000 [put d 18, put a 11, put f 1])
  | .fdiv d a b f s => some (word 0x56000000 [put d 18, put a 11, put b 4, put f 1, put s 0])
  | .fsqrt d a f => some (word 0x58000000 [put d 18, put a 11, put f 1])
  | .frnd d a f => some (word 0x5A000000 [put d 18, put a 11, put f 1])
  | .fldexp d a b f s => some (word 0x5C000000 [put d 18, put a 11, put b 4, put f 1, put s 0])
  | .fdot2 d a b f s => some (word 0x5E000004 [put d 18, put a 11, put b 4, put f 1, put s 0])
  | .xclr d => some (word 0x60000000 [put d 18])
  | .xadd d a f => some (word 0x62000000 [put d 18, put a 11, put f 1])
  | .xfma d a b f => some (word 0x64000000 [put d 18, put a 11, put b 4, put f 1])
  | .xsub d a f => some (word 0x66000000 [put d 18, put a 11, put f 1])
  | .xrd d a f => some (word 0x68000000 [put d 18, put a 11, put f 1])
  | .xmrg d a => some (word 0x6A000000 [put d 18, put a 11])
  | .xst d a => some (word 0x6C000000 [put d 18, put a 11])
  | .xld d a => some (word 0x6E000000 [put d 18, put a 11])
  | .qswz d a f => some (word 0x70000000 [put d 18, put a 11, put f 1])
  | .qdiff d a f => some (word 0x72000000 [put d 18, put a 11, put f 1])
  | .shfl d a b f s => some (word 0x74000000 [put d 18, put a 11, put b 4, put f 1, put s 0])
  | .vred d a o f => some (word 0x76000000 [put d 18, put a 11, put o 4, put f 1])
  | .vscan d a x o f => some (word 0x78000000 [put d 18, put a 11, put x 10, put o 4, put f 1])
  | .vballot m a => some (word 0x7A000000 [put m 18, put a 11])
  | .vballotCnt d a => some (word 0x7A000002 [put d 18, put a 11])
  | .vmatch d a f => some (word 0x7C000000 [put d 18, put a 11, put f 1])
  | .mxchBc d a b f s => some (word 0x7E000000 [put d 18, put a 11, put b 4, put f 1, put s 0])
  | .mxchRed d a u o f => some (word 0x7E000000 [put d 18, put a 11, put u 9, put o 4, put f 1])
  | .sadd d a b f k => some (word 0x80000000 [put d 19, put a 13, put b 7, put f 4, put k 3])
  | .ssub d a b f k => some (word 0x82000000 [put d 19, put a 13, put b 7, put f 4, put k 3])
  | .smul d a b f k => some (word 0x84000000 [put d 19, put a 13, put b 7, put f 4, put k 3])
  | .smad d a b k => some (word 0x86000000 [put d 19, put a 13, put b 7, put k 3])
  | .sand d a b k => some (word 0x88000000 [put d 19, put a 13, put b 7, put k 3])
  | .sor d a b k => some (word 0x8A000000 [put d 19, put a 13, put b 7, put k 3])
  | .sxor d a b k => some (word 0x8C000000 [put d 19, put a 13, put b 7, put k 3])
  | .sshl d a b k => some (word 0x8E000000 [put d 19, put a 13, put b 7, put k 3])
  | .sshr d a b k => some (word 0x90000000 [put d 19, put a 13, put b 7, put k 3])
  | .ssar d a b k => some (word 0x92000000 [put d 19, put a 13, put b 7, put k 3])
  | .scmp d a b c k => some (word 0x94000000 [put d 19, put a 13, put b 7, put c 4, put k 3])
  | .ssel d a b k => some (word 0x96000000 [put d 19, put a 13, put b 7, put k 3])
  | .smov d b k => some (word 0x98000000 [put d 19, put b 7, put k 3])
  | .saddi d a i f => some (word 0x9A000000 [put d 19, put a 13, put i 5, put f 2])
  | .smin d a b t k => some (word 0x9C000000 [put d 19, put a 13, put b 7, put t 5, put k 3])
  | .smax d a b t k => some (word 0x9C000010 [put d 19, put a 13, put b 7, put t 5, put k 3])
  | .srd d a i => some (word 0x9E000000 [put d 19, put a 13, put i 5])
  | .srdClr d a => some (word 0x9E0000E4 [put d 19, put a 13])
  | .bra c o d => some (word 0xA0000000 [put c 19, put o 16, put d 0])
  | .bdiv m n d => some (word 0xA2000000 [put m 19, put n 16, put d 0])
  | .call c d => some (word 0xA6000000 [put c 19, put d 0])
  | .ret c => some (word 0xA8000000 [put c 19])
  | .jmpi c => some (word 0xAA000000 [put c 19])
  | .ld d s o z x h => some (word 0xB0000000 [put d 18, put s 12, put o 4, put z 2, put x 1, put h 0])
  | .st d s o z => some (word 0xB2000000 [put d 18, put s 12, put o 4, put z 2])
  | .ldx d s v z x h c => some (word 0xB4000000 [put d 18, put s 12, put v 5, put z 3, put x 2, put h 1, put c 0])
  | .stx d s v z c => some (word 0xB6000000 [put d 18, put s 12, put v 5, put z 3, put c 0])
  | .lds d s v z x h c => some (word 0xB8000000 [put d 18, put s 12, put v 5, put z 3, put x 2, put h 1, put c 0])
  | .sts d s v z c => some (word 0xBA000000 [put d 18, put s 12, put v 5, put z 3, put c 0])
  | .ldw d s v z x h c => some (word 0xBC000000 [put d 18, put s 12, put v 5, put z 3, put x 2, put h 1, put c 0])
  | .ldc d s v z x h c => some (word 0xBE000000 [put d 18, put s 12, put v 5, put z 3, put x 2, put h 1, put c 0])
  | .atom d a r g o f => some (word 0xC0000000 [put d 18, put a 11, put r 8, put g 7, put o 4, put f 1])
  | .red d a g o f => some (word 0xC2000000 [put d 18, put a 11, put g 7, put o 4, put f 1])
  | .atoms d a r g o f => some (word 0xC4000000 [put d 18, put a 11, put r 8, put g 7, put o 4, put f 1])
  | .fence q s => some (word 0xC6000000 [put q 8, put s 5])
  | .qsetBase q a => some (word 0xCA000000 [put q 19, put a 13])
  | .qsetShape q a b k => some (word 0xCA000010 [put q 19, put a 13, put b 7, put k 3])
  | .qbind q a f => some (word 0xCC000000 [put q 19, put a 13, put f 4])
  | .qbindOff q => some (word 0xCC000030 [put q 19])
  | .qposRd d q => some (word 0xCE000000 [put d 19, put q 13])
  | .qposWr q a => some (word 0xCE000010 [put q 19, put a 13])
  | .cpy t r k => some (word 0xD0000000 [put t 19, put r 13, put k 7])
  | .cpym t r k => some (word 0xD2000000 [put t 19, put r 13, put k 7])
  | .halo t r k => some (word 0xD4000000 [put t 19, put r 13, put k 7])
  | .haloAllm t r k => some (word 0xD4000001 [put t 19, put r 13, put k 7])
  | .kick t r => some (word 0xD6000000 [put t 19, put r 13])
  | .mighHot t r => some (word 0xD8000000 [put t 19, put r 13])
  | .mighCold t r => some (word 0xD8000001 [put t 19, put r 13])
  | .mighClr t r => some (word 0xD8000002 [put t 19, put r 13])
  | .rtsend t r => some (word 0xDA000000 [put t 19, put r 13])
  | .rtrecvFill t r => some (word 0xDC000000 [put t 19, put r 13])
  | .rtrecvNext t r => some (word 0xDC000001 [put t 19, put r 13])
  | .rtrecvLand t r => some (word 0xDC000002 [put t 19, put r 13])
  | .rtrecvReset t r => some (word 0xDC000003 [put t 19, put r 13])
  | .mma t k a b u => some (word 0xE0000000 [put t 21, put k 15, put a 8, put b 1, put u 0])
  | .mmag t k a b u => some (word 0xE2000000 [put t 21, put k 15, put a 8, put b 1, put u 0])
  | .aclr t n => some (word 0xE4000000 [put t 21, put n 1])
  | .ard t k d g => some (word 0xE6000000 [put t 21, put k 15, put d 8, put g 1])
  | .ards t k p b => some (word 0xE8000000 [put t 21, put k 15, put p 8, put b 1])
  | .rqcvt d a k f => some (word 0xEA000000 [put d 18, put a 11, put k 4, put f 1])
  | .tarm a b => some (word 0xEC000000 [put a 13, put b 7])
  | .tarmClr a => some (word 0xEC000010 [put a 13])
  | .tarmInit a b k => some (word 0xEC000020 [put a 13, put b 7, put k 3])
  | .tadd a b k => some (word 0xEE000000 [put a 13, put b 7, put k 3])
  | .taddR d a b k => some (word 0xEE000010 [put d 19, put a 13, put b 7, put k 3])
  | .arrive a => some (word 0xF0000000 [put a 13])
  | .arriveAdd a b k => some (word 0xF0000010 [put a 13, put b 7, put k 3])
  | .arriveWait a => some (word 0xF0000020 [put a 13])
  | .poll d a b k => some (word 0xF2000000 [put d 19, put a 13, put b 7, put k 3])
  | .capenter d a => some (word 0xF4000000 [put d 19, put a 13])
  | .capstep d a => some (word 0xF4000010 [put d 19, put a 13])
  | .capexit d a => some (word 0xF4000020 [put d 19, put a 13])
  | .capres d a => some (word 0xF4000030 [put d 19, put a 13])
  | .regrel n => some (word 0xF6000000 [put n 5])
  | .regclm n => some (word 0xF6000004 [put n 5])
  | .tspawn a => some (word 0xF8000000 [put a 13])
  | .sysTrap i => some (word 0xFA000000 [put i 5])
  | .sysBrk i => some (word 0xFA000004 [put i 5])
  | .sysPmrd d c => some (word 0xFA00000C [put d 19, put c 5])
  | .sysCyc d => some (word 0xFA000010 [put d 19])
  | .sysEvsig a i => some (word 0xFA000014 [put a 13, put i 5])
  | .join => some (word 0xA4000000 [])
  | .exit => some (word 0xAC000000 [])
  | .nop => some (word 0xAE000000 [])
  | .yield => some (word 0xAE010000 [])
  | .flushagg => some (word 0xC8000000 [])
  | .flushaggWait => some (word 0xC8000020 [])
  | .sysHalt => some (word 0xFA000008 [])
  | _ => none

/-- The word of an instruction (R160). -/
def encode (i : Instr) : Option Word := (encodeNat i).map (BitVec.ofNat 32)

/-- The little-endian value of a list of bytes (R3). -/
def leNat : List Byte → Nat
  | [] => 0
  | b :: bs => b.toNat + 256 * leNat bs

/-- The `n` little-endian bytes of a value (R3). -/
def leBytes : Nat → Nat → List Byte
  | 0, _ => []
  | n + 1, v => BitVec.ofNat 8 v :: leBytes n (v / 256)

/-- The instruction in four bytes of code, lowest address first (R3, R151). -/
def decodeBytes (bs : List Byte) : Except Reject Instr := decode (BitVec.ofNat 32 (leNat bs))

/-- The host's probe: the instruction read from a word given as bits, laid out as its four bytes. -/
def decodeTableWord (nbits w : Nat) : Option Instr :=
  if nbits ≤ 32 then
    match decodeBytes (leBytes 4 (w % 2 ^ nbits)) with
    | .ok i => some i
    | .error _ => none
  else none

/-! ### Clause headers and prefixes -/

/-- The engine class of an opcode (R152). -/
def classOf (op : Nat) : Nat :=
  if op ≤ 0x4F then 0 else if op ≤ 0x57 then 1 else if op ≤ 0x67 then 2 else if op ≤ 0x6E then 4
  else if 0x70 ≤ op && op ≤ 0x75 then 3 else if op ≤ 0x7C then 5 else if op = 0x7D then 6 else 7

/-- A clause header's fields (R152). -/
def decodeHeader (w : Word) : ClauseHeader :=
  { n := w.toNat / 2 ^ 28, cls := fld w.toNat 25 3, ms := w.toNat.testBit 24, epol := w.toNat.testBit 23,
    wtk := w.toNat.testBit 22, wcq := w.toNat.testBit 21, wpa := w.toNat.testBit 20, wst := w.toNat.testBit 19 }

/-- The header checks of R152: N is not 0 and bits {18:0} are zero. -/
def headerOk (w : Word) : Bool := w.toNat / 2 ^ 28 != 0 && w.toNat % 2 ^ 19 == 0

/-- Is the word a prefix (R157)? -/
def isPrefix (w : Word) : Bool := opcodeOf w.toNat == 0x7E

/-- A prefix word's fields (R157). -/
def decodePrefix (w : Word) : Prefix :=
  { mask := fld w.toNat 21 4, inv := w.toNat.testBit 20, zero := w.toNat.testBit 19, rnd := fld w.toNat 16 3,
    creg := fld w.toNat 9 7, cp := w.toNat.testBit 8, epa := w.toNat.testBit 7, epb := w.toNat.testBit 6,
    epc := w.toNat.testBit 5, sat := w.toNat.testBit 4, rz := fld w.toNat 0 4 }

/-- Is the word a control transfer (R154)? -/
def isTransfer (w : Word) : Bool :=
  let op := opcodeOf w.toNat
  (0x50 ≤ op && op ≤ 0x56) || (op == 0x57 && w.toNat / 2 ^ 16 % 8 == 1)

/-- Is the word BDIV, JOIN or YIELD (R154)? -/
def needsMilestone (w : Word) : Bool :=
  let op := opcodeOf w.toNat
  op == 0x51 || op == 0x52 || (op == 0x57 && w.toNat / 2 ^ 16 % 8 == 1)

/-- Is the word ARRIVE in any form (R285)? -/
def isArrive (w : Word) : Bool := opcodeOf w.toNat == 0x78

/-- Clause-level checks of R154 on the words of a clause that raise illegal-clause: class match but for prefixes and
reserved opcodes, a control transfer only last, BDIV, JOIN and YIELD only with MS. -/
def clauseWordsOk (h : ClauseHeader) : List Word → Bool
  | [] => true
  | w :: ws =>
    (h.cls == 7 || isPrefix w || reservedOpcode (opcodeOf w.toNat) || classOf (opcodeOf w.toNat) == h.cls.toNat)
    && (ws.isEmpty || !isTransfer w) && (h.ms || !needsMilestone w) && clauseWordsOk h ws

/-- Prefix placement at decode (R157, R169): a prefix is neither last nor followed by a prefix. -/
def prefixesOk : List Word → Bool
  | [] => true
  | [w] => !isPrefix w
  | w :: v :: ws => !(isPrefix w && isPrefix v) && prefixesOk (v :: ws)

/-! ### Management commands -/

/-- The command's OP, VF and tag (R375). -/
def Cmd.op (c : Cmd) : Nat := c.w0.toNat / 2 ^ 56
def Cmd.vf (c : Cmd) : Nat := c.w0.toNat / 2 ^ 50 % 64
def Cmd.tag (c : Cmd) : Word := BitVec.ofNat 32 c.w0.toNat

/-- The SETCTX field number, or FABCFG's: W1{7:0} of SETCTX, W1 of FABCFG (R375). -/
def Cmd.field (c : Cmd) : Nat := c.w1.toNat % 256

/-- The step that performs a management command (R375): its OP, and for SETCTX and FABCFG its field. -/
def decodeCommand (c : Cmd) : Instr :=
  match c.op with
  | 0x01 =>
    if c.field = 1 then .setctxRoot else if 2 ≤ c.field ∧ c.field ≤ 5 then .setctxWindow
    else if c.field = 6 then .setctxAgel else if c.field = 7 then .setctxRoute
    else if 8 ≤ c.field ∧ c.field ≤ 22 then .setctxRegion else if c.field = 23 then .setctxSavebase
    else if 24 ≤ c.field ∧ c.field ≤ 27 then .setctxWeightRegion
    else if c.field = 28 then .setctxMigrationPolicy else if c.field = 29 then .setctxFramePool
    else if c.field = 30 then .setctxT2Limit else .unknownOp
  | 0x02 => .inval
  | 0x03 => .preempt
  | 0x04 => .resume
  | 0x05 => .endctx
  | 0x06 => .lsplit
  | 0x07 => .dbgrd
  | 0x08 => .pmctl
  | 0x09 => .replay
  | 0x0A => .attest
  | 0x0B => .fwload
  | 0x0C => .fullstart
  | 0x0D =>
    if c.w1.toNat ≤ 15 then .fabcfgImportWindow else if c.w1.toNat = 16 then .fabcfgResponseLog else .unknownOp
  | _ => .unknownOp

end Sys2Proof
end

