-- ==== Sys2Proof/Machine/Exact.lean ====
section
/-! DEFINITION. Exact accumulators (05 R80-R88): adding a term, merging, slots, readout, images. -/
namespace Sys2Proof.Machine

/-- A term (R82): a NaN or void, an infinity, or the value `int * 2 ^ exp`. -/
inductive Term where
  | nan
  | inf (neg : Bool)
  | fin (int : Int) (exp : Int)
  deriving DecidableEq, Repr

/-- Why XA-overflow arises (R83): no free slot, or the long range of R82. -/
inductive XaErr where
  | noSlot
  | longRange
  deriving DecidableEq, Repr

/-- The long integer of a term: its value in units of 2^-2148 (R81). -/
def longUnits (i e : Int) : Int :=
  if 0 ≤ e + 2148 then i * 2 ^ (e + 2148).toNat else i / 2 ^ (-(e + 2148)).toNat

/-- Does L lie in the long range (R81)? -/
def inLong (l : Int) : Bool := -(2 ^ 4351 : Int) ≤ l && l < 2 ^ 4351

/-- The lowest free slot among `xext` (R82). -/
def freeSlot (xext : Nat) (slots : FMap LongRec) : Option Nat :=
  (List.range xext).find? (fun i => !slots.any (fun e => e.1 == i))

/-- The INT that a short accumulator with anchor `a` would hold after the term `i * 2 ^ e`, when R82 lets it stay short. -/
def shortSum (a : Int) (int i e : Int) : Option Int :=
  let n := i.natAbs
  let lo := e + lowBit (bitLen n) n
  let hi := e + bitLen n - 1
  if a ≤ lo ∧ hi - a ≤ 159 then
    let t := if a ≤ e then i * 2 ^ (e - a).toNat else i / 2 ^ (a - e).toNat
    let v := int + t
    if -(2 ^ 175 : Int) ≤ v ∧ v < 2 ^ 175 ∧ bitLen v.natAbs + a ≤ 2203 then some v else none
  else none

/-- A finite nonzero term into an accumulator (R82): the accumulator, the slots, and whether it took a slot. -/
def addFinTerm (xext : Nat) (slots : FMap LongRec) (x : Xa) (i e : Int) : Except XaErr (Xa × FMap LongRec × Bool) :=
  match x.long with
  | some k =>
    let l := (fget ⟨0⟩ slots k).val + longUnits i e
    if inLong l then .ok (x, finsert k ⟨l⟩ slots, false) else .error .longRange
  | none =>
    let n := i.natAbs
    let a0 := e + lowBit (bitLen n) n - 40
    let anchor := match x.anchor with
      | some a => some a
      | none => if -2047 ≤ a0 ∧ a0 ≤ 2047 then some a0 else none
    match anchor.bind (fun a => shortSum a x.int i e) with
    | some v => .ok ({ x with anchor := anchor, int := v }, slots, false)
    | none =>
      match freeSlot xext slots with
      | none => .error .noSlot
      | some k =>
        let l := (match anchor with | some a => longUnits x.int a | none => 0) + longUnits i e
        if inLong l then .ok ({ x with long := some k, anchor := none, int := 0 }, finsert k ⟨l⟩ slots, true)
        else .error .longRange

/-- One term into an accumulator (R82). -/
def addTerm (xext : Nat) (slots : FMap LongRec) (x : Xa) (t : Term) : Except XaErr (Xa × FMap LongRec × Bool) :=
  match t with
  | .nan => .ok ({ x with nan := true }, slots, false)
  | .inf false => .ok ({ x with pinf := true }, slots, false)
  | .inf true => .ok ({ x with ninf := true }, slots, false)
  | .fin i e => if i = 0 then .ok (x, slots, false) else addFinTerm xext slots x i e

/-- Several terms in order. -/
def addTerms (xext : Nat) : FMap LongRec → Xa → List Term → Except XaErr (Xa × FMap LongRec × Bool)
  | slots, x, [] => .ok (x, slots, false)
  | slots, x, t :: ts =>
    match addTerm xext slots x t with
    | .error r => .error r
    | .ok (x', slots', w) =>
      match addTerms xext slots' x' ts with
      | .error r => .error r
      | .ok (x'', slots'', w') => .ok (x'', slots'', w || w')

/-- The exact value `int * 2 ^ exp` of an accumulator (R80, R81). -/
def xaValue (slots : FMap LongRec) (x : Xa) : Int × Int :=
  match x.long with
  | some k => ((fget ⟨0⟩ slots k).val, -2148)
  | none => match x.anchor with | some a => (x.int, a) | none => (0, 0)

/-- Merge Y into X (R84); the slots hold both. -/
def mergeXa (xext : Nat) (slots : FMap LongRec) (x y : Xa) : Except XaErr (Xa × FMap LongRec × Bool) :=
  let (i, e) := xaValue slots y
  match addTerm xext slots x (.fin i e) with
  | .error r => .error r
  | .ok (x', s', w) => .ok ({ x' with nan := x'.nan || y.nan, pinf := x'.pinf || y.pinf, ninf := x'.ninf || y.ninf }, s', w)

/-- Free the slot an accumulator holds (R83). -/
def freeXa (slots : FMap LongRec) (x : Xa) : FMap LongRec :=
  match x.long with | some k => fremove k slots | none => slots

/-! ### Terms -/

/-- The term of an FP operand of a format. -/
def fpTerm (f : Fmt) (v : Nat) : Term :=
  match fval f v with
  | .nan _ _ => .nan
  | .inf s => .inf s
  | .fin s m e => .fin (signed' s m) e

/-- The term minus a value. -/
def negTerm : Term → Term
  | .nan => .nan
  | .inf s => .inf (!s)
  | .fin i e => .fin (-i) e

/-- The exact product of two terms; Inf times 0 is NaN (R59). The flag says that such a product is invalid. -/
def mulTerm (a b : Term) : Term × Bool :=
  match a, b with
  | .nan, _ => (.nan, false)
  | _, .nan => (.nan, false)
  | .inf s, .inf r => (.inf (s != r), false)
  | .inf s, .fin i _ => if i = 0 then (.nan, true) else (.inf (s != decide (i < 0)), false)
  | .fin i _, .inf r => if i = 0 then (.nan, true) else (.inf (r != decide (i < 0)), false)
  | .fin i e, .fin j k => (.fin (i * j) (e + k), false)

/-! ### Readout -/

/-- A value about to be rounded: the default NaN, an FP32 NaN operand, an infinity, a finite value. -/
inductive RVal where
  | dnan
  | nan32 (v : Nat)
  | inf (s : Bool)
  | fin (s : Bool) (m : Nat) (e : Int)
  deriving DecidableEq, Repr

/-- The value of an accumulator before rounding (R85), its zero signed as R61 says in the mode. -/
def xaRVal (slots : FMap LongRec) (mode : Nat) (x : Xa) : RVal :=
  if x.nan || (x.pinf && x.ninf) then .dnan
  else if x.pinf then .inf false
  else if x.ninf then .inf true
  else
    let (i, e) := xaValue slots x
    if i = 0 then .fin (mode == 4) 0 0 else .fin (i < 0) i.natAbs e

/-- Times a column scale, an FP32 value (R72, R85): a NaN scale is void. -/
def scaleRVal (r : RVal) (s : Nat) : RVal × Half :=
  match fval f32 s with
  | .nan _ _ => (.dnan, fVSB)
  | .inf t =>
    match r with
    | .inf q => (.inf (q != t), 0)
    | .fin q m _ => if m = 0 then (.dnan, fNV) else (.inf (q != t), 0)
    | r => (r, 0)
  | .fin t n k =>
    match r with
    | .inf q => if n = 0 then (.dnan, fNV) else (.inf (q != t), 0)
    | .fin q m e => (.fin (q != t) (m * n) (e + k), 0)
    | r => (r, 0)

/-- Round to an FP format (R85). -/
def roundRVal (f : Fmt) (mode : Nat) : RVal → Nat × Half
  | .dnan => (fDefNaN f, 0)
  | .nan32 v => (match fval f32 v with | .nan s fr => nanConv f32 f s fr | _ => fDefNaN f, 0)
  | .inf s => (fInf f s, 0)
  | .fin s m e => roundTo f mode s m e

/-- Round to an integer type with the clamping of R63 (R85). -/
def rvalToInt (signed : Bool) (n mode : Nat) : RVal → Nat × Half
  | .dnan => (0, fNV)
  | .nan32 _ => (0, fNV)
  | .inf s => (ofSigned n (if s then typeMin signed n else typeMax signed n), fNV ||| fSAT)
  | .fin s m e => finToInt signed n mode s m e

/-! ### Images -/

/-- The 192-bit image of a short accumulator (R80, R88). -/
def xaImage (x : Xa) : Nat :=
  let flags := at' (b2n x.ninf) 190 + at' (b2n x.pinf) 189 + at' (b2n x.nan) 188
  match x.long with
  | some k => at' 1 191 + flags + at' 0x800 176 + k
  | none =>
    let a := match x.anchor with | some a => ofSigned 12 a | none => 0x800
    flags + at' a 176 + ofSigned 176 x.int

/-- The 4,416-bit long record of R81 as a number: L below, the header word above. -/
def longImage (slots : FMap LongRec) (x : Xa) (k : Nat) : Nat :=
  ofSigned 4352 (fget ⟨0⟩ slots k).val + at' (b2n x.nan) (4352 + 60) + at' (b2n x.pinf) (4352 + 61)
    + at' (b2n x.ninf) (4352 + 62) + at' 1 (4352 + 63)

/-- Does a 192-bit image stand for a short accumulator: LONG = 0, no INT without anchor, value below 2^2203 (R87, R200)? -/
def xaImageOk (v : Nat) : Bool :=
  let a := field v 187 176
  let i := toSigned 176 v
  !v.testBit 191 && (a != 0x800 || i == 0) && (i == 0 || decide ((bitLen i.natAbs : Int) + toSigned 12 a ≤ 2203))

/-- The accumulator of an image that `xaImageOk` accepts. -/
def xaOfImage (v : Nat) : Xa :=
  let a := field v 187 176
  { long := none, ninf := v.testBit 190, pinf := v.testBit 189, nan := v.testBit 188,
    anchor := if a = 0x800 then none else some (toSigned 12 a), int := toSigned 176 v }

/-- The bytes of an accumulator on the wire and in memory (R87): 24, or the 8-byte header and the 552-byte record. -/
def xaWire (slots : FMap LongRec) (x : Xa) : List Byte :=
  match x.long with
  | none => bytesOf 24 (xaImage x)
  | some k => bytesOf 8 552 ++ bytesOf 552 (longImage slots x k)

end Sys2Proof.Machine
end

