-- ==== Sys2Proof/Machine/Residue.lean ====
section
/-! DEFINITION. Residue codes, scales and RS24 (05 R66-R77). -/
namespace Sys2Proof.Machine

/-- The width in bits of RQ8, RQ6, RQ4: kinds 0, 1, 2 (R66). -/
def rqBits (kind : Nat) : Nat := match kind with | 0 => 8 | 1 => 6 | _ => 4

/-- The greatest code of a kind (R66). -/
def rqMax (kind : Nat) : Nat := 2 ^ (rqBits kind - 1) - 1

/-- A code's value; the most negative pattern is void (R66). -/
def rqValue (kind : Nat) (v : Nat) : Option Int :=
  let n := rqBits kind
  if v % 2 ^ n = 2 ^ (n - 1) then none else some (toSigned n v)

/-- The void code of a kind (R66). -/
def rqVoid (kind : Nat) : Nat := 2 ^ (rqBits kind - 1)

/-- The bit offset of code `k` in a packed row: codes lie at consecutive `rqBits` little-endian (R67). -/
def rqOfs (kind k : Nat) : Nat := rqBits kind * k

/-- The bytes of a packed row of `n` codes, padded to whole bytes as R67 says. -/
def rqRowBytes (kind n : Nat) : Nat :=
  match kind with | 0 => n | 1 => cdiv n 4 * 3 | _ => cdiv n 2

/-- One K-block through the three channels (R68, R69): the residue sums reconstructed to a signed integer. -/
def rqDot (ab : List (Int × Int)) : Int :=
  let ch (m : Int) : Int := (ab.foldl (fun acc p => (acc + p.1 % m * (p.2 % m)) % m) 0)
  let p := (ch 127 * 1056768 + ch 128 * 2080641 + ch 129 * 1056640) % 2097024
  if 1048512 ≤ p then p - 2097024 else p

/-- A value converted to a code under E8 scale `e` (R75), with its flags. Whether a clamped code is also inexact R75 leaves open: here NX
comes only from the rounding to an integer before the clamp (log entry 96). -/
def rqCode (kind mode : Nat) (e : Nat) (v : FVal) : Nat × Half :=
  let n := rqBits kind
  let top : Int := rqMax kind
  match v with
  | .nan _ _ => (rqVoid kind, 0)
  | .inf s => (ofSigned n (if s then -top else top), fSAT)
  | .fin s m x =>
    let (q, nx) := roundInt mode s m (x - ((e : Int) - 127))
    let i := signed' s q
    let c := if top < i then top else if i < -top then -top else i
    (ofSigned n c, (if c ≠ i then fSAT else 0) ||| (if nx then fNX else 0))

/-! ### RS24 -/

/-- Is an RS24 value void (R76)? `v` is its 24 bits, byte 0 lowest. -/
def rsVoid (v : Nat) : Bool := field v 15 8 == 255 || 253 ≤ field v 23 16

/-- The canonical void (R76). -/
def rsVoidBits : Nat := 0xFFFFFF

/-- Encode an integer (R76). -/
def rsEncode (i : Int) : Nat := (i % 256).toNat + 256 * (i % 255).toNat + 65536 * (i % 253).toNat

/-- The channel-wise sum; void if an operand is (R77). -/
def rsAdd (v w : Nat) : Nat :=
  if rsVoid v || rsVoid w then rsVoidBits
  else (v + w) % 256 + 256 * ((field v 15 8 + field w 15 8) % 255) + 65536 * ((field v 23 16 + field w 23 16) % 253)

/-- Decode (R77); none for a void. -/
def rsDecode (v : Nat) : Option Int :=
  if rsVoid v then none
  else
    let x : Nat := (field v 23 16 * 13774080 + field v 15 8 * 8225536 + v % 256 * 11032065) % 16515840
    some (if 8257920 ≤ x then (x : Int) - 16515840 else x)

end Sys2Proof.Machine
end

