-- ==== Sys2Proof/Machine/Mem.lean ====
section
/-! DEFINITION. Memory: bytes by location, page walks, windows, access checks, scratchpad addresses, the L1, dirty lines
(07 R89-R118, 08 R119). -/
namespace Sys2Proof.Machine

/-! ### Open choices -/

/-- The next open choice of a run (log entry 10). -/
def State.choice (s : State) : Nat := Config.freeNat s.free

/-- One open choice has been taken. -/
def State.spend (s : State) : State := { s with free := s.free + 1 }

/-- A fresh name for an in-flight item. -/
def State.named (s : State) : State := { s with nextId := s.nextId + 1 }

/-- The context of a function (R375). -/
def State.ctx (s : State) (vf : Nat) : Ctx := fget Ctx.reset s.ctxs vf

/-- Replace a context. -/
def State.setCtx (s : State) (vf : Nat) (c : Ctx) : State := { s with ctxs := fset Ctx.reset s.ctxs vf c }

/-! ### Bytes -/

/-- What an unlisted byte reads as (log entry 1). -/
def emptyByte : Byte := 0

/-- A memory in canonical form (keys rising, no listed byte that an unlisted one equals). -/
def Memory.wf (m : FMap Byte) : Bool := fwf emptyByte m

/-- The `n` bytes of a memory from `a`, as a little-endian number (R3). -/
def readBytes (m : FMap Byte) (a : Nat) : Nat → Nat
  | 0 => 0
  | n + 1 => (fget emptyByte m a).toNat + 256 * readBytes m (a + 1) n

/-- Write the `n` little-endian bytes of `v` from `a` (R3). -/
def writeBytes (m : FMap Byte) (a : Nat) : Nat → Nat → FMap Byte
  | 0, _ => m
  | n + 1, v => writeBytes (fset emptyByte m a (BitVec.ofNat 8 v)) (a + 1) n (v / 256)

/-- Write a list of bytes from `a`. -/
def writeList (m : FMap Byte) (a : Nat) : List Byte → FMap Byte
  | [] => m
  | b :: bs => writeList (fset emptyByte m a b) (a + 1) bs

/-- The place `i` bytes further. -/
def Loc.add (l : Loc) (i : Nat) : Loc :=
  match l with
  | .hbm a => .hbm (a + i)
  | .host a => .host (a + i)
  | .peer d a => .peer d (a + i)
  | .scr b o => .scr b (o + i)
  | .weight d a => .weight d (a + i)

/-- A resident block. -/
def State.block (s : State) (uid : Nat) : Option Block := s.blocks.find? (fun b => b.uid == uid)

/-- A block's unique name from its launch, cluster numbers (in the packed form of R214) and number. -/
def blockUid (launch cluster no : Nat) : Nat := (launch * 2 ^ 48 + cluster) * 16 + no

/-- Bytes of a weight store's key space. -/
def weightKey (die a : Nat) : Nat := die * 2 ^ 29 + a

/-- A byte of host memory as the device sees it: after a host write over a PCI Express link the old or the new contents of its 8-byte
word, an open choice of each access (R370). -/
def State.hostByte (s : State) (a : Nat) : Byte :=
  match s.hostOld.find? (fun e => e.1 == a / 8) with
  | some e =>
    if Config.freeNat (2 ^ 64 * (a / 8 + 1) + s.nextId) % 2 = 0 then fget emptyByte s.host a
    else BitVec.ofNat 8 (e.2.toNat / 256 ^ (a % 8))
  | none => fget emptyByte s.host a

/-- The `n` bytes of host memory as the device sees them, as a number. -/
def State.hostRead (s : State) (a n : Nat) : Nat :=
  if s.hostOld.isEmpty then readBytes s.host a n else numOf (tab n (fun i => s.hostByte (a + i)))

/-- A write of the device over words whose old contents it may still see changes both. -/
def oldWrite (m : FMap Dword) (a : Nat) : List Byte → FMap Dword
  | [] => m
  | b :: bs =>
    let put (e : Nat × Dword) : Nat × Dword :=
      if e.1 = a / 8 then
        let sh := 8 * (a % 8)
        (e.1, (e.2 &&& ~~~(dw (255 * 2 ^ sh))) ||| dw (b.toNat * 2 ^ sh))
      else e
    oldWrite (m.map put) (a + 1) bs

/-- The `n` bytes at a place of this device, as a number. A share of a block no longer resident has lost its contents
(R92): a free value (log entry 13). -/
def State.readLoc (s : State) (l : Loc) (n : Nat) : Nat :=
  match l with
  | .hbm a => readBytes s.hbm a n
  | .host a => s.hostRead a n
  | .peer _ _ => 0
  | .scr b o => match s.block b with
    | some k => readBytes k.data o n
    | none => (Config.freeValue s.free).toNat % 256 ^ n
  | .weight d a => readBytes s.weights (weightKey d a) n

/-! ### Dirty lines and caches -/

/-- The home die of a line, of tier T2 when `host` (R106). -/
def homeDie (host : Bool) (pa : Nat) : Nat := if host then pa / 4096 % 4 else pa / Config.dieSpan

/-- Is a dirty line this one? -/
def DirtyLine.is (d : DirtyLine) (host : Bool) (line : Nat) : Bool := d.host == host && d.line == line

/-- The dirty lines left when the `n` least recently written of one place are written back. -/
def writeBack (layer : Nat) : Nat → List DirtyLine → List DirtyLine
  | _, [] => []
  | 0, ds => ds
  | n + 1, d :: ds => if d.layer = layer then writeBack layer n ds else d :: writeBack layer (n + 1) ds

/-- A store has written a line at its home: unless it is dirty already, it takes a place in the L2 of its home die, in the base half or
in a stacked layer that is in service, an open choice (R114, R115). A layer that holds 8,192 dirty lines first writes back its least
recently written one; the base half, which holds 524,288 lines (R15), may write back any number of its oldest at any time, an open
choice (log entry 61). -/
def State.markDirty (s : State) (host : Bool) (line : Nat) : State :=
  match s.dirty.find? (fun d => d.is host line) with
  | some d => { s with dirty := s.dirty.filter (fun d => !d.is host line) ++ [d] }
  | none =>
    let die := homeDie host (line * 128)
    let k := s.choice % 5
    let layer := if k = 0 || fget 0 s.manage.layers (4 * die + (k - 1)) != 0 then 16 + die else 4 * die + (k - 1)
    let held := s.dirty.countP (fun d => d.layer == layer)
    let out := if layer < 16 then held + 1 - Config.layerDirtyLines
      else max (held + 1 - Config.l2BaseLines) (s.choice / 5 % (held + 1))
    State.spend { s with dirty := writeBack layer out s.dirty ++ [⟨layer, host, line⟩] }

/-- Drop a line from the L1s of the cores `p` selects (R112). -/
def State.dropL1 (s : State) (p : Nat → Bool) (host : Bool) (line : Nat) : State :=
  { s with cores := s.cores.map (fun e =>
      if p e.1 then (e.1, { e.2 with l1 := e.2.l1.filter (fun l => !(l.host == host && l.line == line)) }) else e) }

/-- The lines a span of bytes touches. -/
def linesOf (a n : Nat) : List Nat := (List.range (n / 128 + 2)).filterMap (fun i =>
  let l := a / 128 + i
  if l * 128 < a + n then some l else none)

/-- The function number that stands for no function: writes of the memory manager, the host and the part itself. -/
def noVf : Nat := 64

/-- What a write of `n` bytes leaves a fetch to read (R149): each word's value before it, for the grids that run; the values
that no running grid can fetch any more are dropped. -/
def State.oldCode (s : State) (host : Bool) (a n : Nat) : List CodeOld :=
  match s.launches with
  | [] => []
  | ls =>
    let words := ((List.range n).map (fun i => (a + i) / 8)).eraseDups
    s.codeOld.filter (fun e => ls.any (fun l => decide (l.id < e.stamp)))
      ++ words.map (fun w => ⟨s.nextId, host, w, dw (readBytes (if host then s.host else s.hbm) (8 * w) 8)⟩)

/-- The values that the aligned 8-byte word around a place may be fetched with beside that of the moment, for a grid of launch `launch`
(R149). -/
def State.olderCode (s : State) (launch : Nat) (l : Loc) : List Dword :=
  let at_ (host : Bool) (a : Nat) : List Dword :=
    (s.codeOld.filter (fun e => e.host == host && e.word == a / 8 && decide (launch < e.stamp))).map (·.old)
  match l with
  | .hbm a => at_ false a
  | .host a => at_ true a
  | _ => []

/-- The 4 KiB page or stripe a byte lies in (R386); none for places a replay does not capture. -/
def captureKey (l : Loc) (i : Nat) : Option Loc :=
  match l with
  | .hbm a => some (.hbm ((a + i) / 4096 * 4096))
  | .host a => some (.host ((a + i) / 4096 * 4096))
  | .weight d a => some (.weight d ((a + i) / 4096 * 4096))
  | _ => none

/-- Keep a page's contents before the first write of a replayed pass to it (R386): also copied to the shadow area at W2; a
full area stops the context as a halt does. -/
def State.captureOne (s : State) (r : Replay) (k : Loc) : State :=
  if r.captured.any (fun c => c.1 == k) || r.full then s
  else
    let n := r.captured.length
    if r.cmd.w3.toNat < (n + 1) * 4096 then
      let vf := dfield r.cmd.w0 55 50
      let c := s.ctx vf
      let s := match c.st with | .live => s.setCtx vf { c with st := .stopping false, first := none, firstFault := none } | _ => s
      { s with replay := some { r with full := true } }
    else
      let bs := bytesOf 4096 (s.readLoc k 4096)
      { s with replay := some { r with captured := r.captured ++ [(k, bs)] },
               hbm := writeList s.hbm (r.cmd.w2.toNat + n * 4096) bs, codeOld := s.oldCode false (r.cmd.w2.toNat + n * 4096) 4096 }

/-- First touch of a span by the replayed function (R386). -/
def State.capture (s : State) (l : Loc) (n vf : Nat) : State :=
  match s.replay with
  | none => s
  | some r =>
    if r.cmd.vf ≠ vf then s
    else
      let ks := [captureKey l 0, captureKey l (n - 1)].filterMap id
      ks.foldl (fun s k => match s.replay with | some r => s.captureOne r k | none => s) s

/-- Perform a write of bytes at its place (R120). `core` is the core whose L1 keeps the line: none for every agent that is
no core's store. `vf` is the writing function. -/
def State.writeLoc (s : State) (l : Loc) (bs : List Byte) (core : Option Nat) (vf : Nat) : State :=
  let s := s.capture l bs.length vf
  let others (c : Nat) : Bool := match core with | none => true | some k => c != k
  match l with
  | .hbm a =>
    let s := { s with hbm := writeList s.hbm a bs, codeOld := s.oldCode false a bs.length }
    (linesOf a bs.length).foldl (fun s line => (s.dropL1 others false line).markDirty false line) s
  | .host a =>
    let s := { s with host := writeList s.host a bs, hostOld := oldWrite s.hostOld a bs, codeOld := s.oldCode true a bs.length }
    (linesOf a bs.length).foldl (fun s line => (s.dropL1 others true line).markDirty true line) s
  | .peer _ _ => s
  | .scr b o => { s with blocks := updWhere (fun k => k.uid == b) (fun k => { k with data := writeList k.data o bs }) s.blocks }
  | .weight d a => { s with weights := writeList s.weights (weightKey d a) bs }

/-- Write the low `n` bytes of a number. -/
def State.writeNum (s : State) (l : Loc) (n v : Nat) (core : Option Nat) (vf : Nat) : State :=
  s.writeLoc l (bytesOf n v) core vf

/-! ### Page tables -/

/-- Dies in service: all four, or die 0 in minimal mode (R377). -/
def State.dieOn (s : State) (d : Nat) : Bool := d < 4 && (s.manage.mode != 2 || d == 0)

/-- Is the span of `n` bytes at `a` within installed HBM (R106)? -/
def State.inHbm (s : State) (a n : Nat) : Bool :=
  s.dieOn (a / Config.dieSpan) && decide (a % Config.dieSpan + n ≤ Config.hbmPerDie)

/-- What a walk of the page table finds (R103): a leaf entry with its address, page size in bytes and the bytes that this
entry maps, a miss (demand-paged or not-present), a malformed entry. -/
inductive Walk where
  | leaf (pte : Dword) (at_ : Nat) (span : Nat)
  | miss (demand : Bool)
  | bad
  deriving DecidableEq, Repr

/-- Bits below the index of a level (R101). -/
def levelShift (level : Nat) : Nat := 48 - 9 * level

/-- An entry of a run without ACC, DIRTY and its run index (R103). -/
def runKey (level : Nat) (e : Nat) : Nat :=
  let idx := if level = 4 then at' (field e 15 12) 12 else at' (field e 24 21) 21
  e - at' (field e 9 8) 8 - idx

/-- The run index of an entry (R103). -/
def runIndex (level : Nat) (e : Nat) : Nat := if level = 4 then field e 15 12 else field e 24 21

/-- Leaf checks of R103 that concern one entry, for a span of bytes mapped. -/
def State.leafOk (s : State) (c : Ctx) (level e span : Nat) : Bool :=
  let frame := field e 51 12
  let tier := field e 6 5
  let aligned := if level = 2 then frame % 2 ^ 18 == 0 else if level = 3 then frame % 2 ^ 9 == 0 else true
  let devOk := tier == 2 || field e 63 56 == 0
  let caphOk := tier == 0 || field e 7 7 == 0
  let frameOk := match tier with
    | 0 => s.inHbm (frame * 4096) span
    | 1 => decide (frame + span / 4096 ≤ c.t2limit)
    | 2 => true
    | _ => false
  aligned && devOk && caphOk && frameOk

/-- Are the 16 entries of the run around `at_` one run (R103)? -/
def State.runOk (s : State) (level at_ e : Nat) : Bool :=
  let base := at_ / 128 * 128
  (List.range 16).all (fun i =>
    let x := readBytes s.hbm (base + 8 * i) 8
    runKey level x == runKey level e && runIndex level x == i)

/-- The walk (R101, R103) from a table at physical address `table`, level `5 - fuel`. -/
def State.walkFrom (s : State) (c : Ctx) (va : Nat) : Nat → Nat → Walk
  | 0, _ => .bad
  | fuel + 1, table =>
    let level := 4 - fuel
    let shift := levelShift level
    let idx := if level = 0 then field va 51 48 else va / 2 ^ shift % 512
    let at_ := table + 8 * idx
    let e := readBytes s.hbm at_ 8
    let kind := field e 2 1
    if !e.testBit 0 then .miss false
    else if e.testBit 10 then .miss true
    else if kind = 0 then
      if level = 4 || e - at' (field e 51 12) 12 != 1 || !s.inHbm (field e 51 12 * 4096) 4096 then .bad
      else s.walkFrom c va fuel (field e 51 12 * 4096)
    else if kind = 1 then
      if 2 ≤ level && s.leafOk c level e (2 ^ shift) then .leaf (dw e) at_ (2 ^ shift) else .bad
    else if kind = 2 then
      if 3 ≤ level && s.leafOk c level e (2 ^ shift) && s.runOk level at_ e then .leaf (dw e) at_ (2 ^ shift) else .bad
    else .bad

/-- The walk of a function's page table (R101). -/
def State.walk (s : State) (vf va : Nat) : Walk :=
  let c := s.ctx vf
  s.walkFrom c va 5 (c.root * 4096)

/-- The bytes of the page that a miss concerns, from a table at physical address `table`, level `5 - fuel`: what a demand-paged entry would map, a
whole run with KIND 2; 4 KiB where an entry is not present, which names no size (log entry 99). -/
def State.missSpanFrom (s : State) (va : Nat) : Nat → Nat → Nat
  | 0, _ => 4096
  | fuel + 1, table =>
    let level := 4 - fuel
    let shift := levelShift level
    let e := readBytes s.hbm (table + 8 * (if level = 0 then field va 51 48 else va / 2 ^ shift % 512)) 8
    let kind := field e 2 1
    if !e.testBit 0 then 4096
    else if e.testBit 10 then (match kind with | 1 => 2 ^ shift | 2 => 16 * 2 ^ shift | _ => 4096)
    else if kind = 0 then s.missSpanFrom va fuel (field e 51 12 * 4096)
    else 4096

/-- The page of a miss, as its size and number (R117). -/
def State.missPage (s : State) (vf va : Nat) : Nat × Nat :=
  let n := s.missSpanFrom va 5 ((s.ctx vf).root * 4096)
  (n, va / n)

/-- A leaf entry without ACC and DIRTY, which the part itself sets (R104). -/
def pteKey (e : Dword) : Nat := e.toNat - at' (dfield e 9 8) 8

/-- Does a cached translation map an address of its function? -/
def Tlb.covers (t : Tlb) (va : Nat) : Bool := va / t.span == t.page * 4096 / t.span

/-- Does the page of a cached translation have bytes in a range? -/
def Tlb.meets (t : Tlb) (va n : Nat) : Bool :=
  let lo := t.page * 4096 / t.span * t.span
  decide (lo < va + n) && decide (va < lo + t.span)

/-- Does a walk find the entry that a cached translation holds? -/
def Tlb.isWalk (t : Tlb) (w : Walk) : Bool :=
  match w with | .leaf e a _ => pteKey e == pteKey t.pte && a == t.pteAddr | _ => false

/-- What an access may meet (R105): what the page table says, or any translation cached earlier that is not yet invalidated. -/
def State.walks (s : State) (vf va : Nat) : List Walk :=
  let w := s.walk vf va
  w :: (s.tlb.filter (fun t => t.vf == vf && t.covers va && !t.isWalk w)).map (fun t => .leaf t.pte t.pteAddr t.span)

/-- What an access meets: one of them, an open choice of each access. -/
def State.lookup (s : State) (vf va : Nat) : Walk :=
  match s.walks vf va with
  | [w] => w
  | ws => ws.getD (Config.freeNat (2 ^ 64 * (va / 4096 + 1) + 2 ^ 63 + s.free) % ws.length) .bad

/-- How an access stands against R116: its place; a fault with code and cause (R350); a miss. -/
inductive AccRes where
  | at_ (l : Loc)
  | fault (code cause : Nat)
  | miss (demand : Bool)
  deriving DecidableEq, Repr

/-- The place a leaf entry of the given span gives an address. -/
def leafLoc (e : Dword) (span va : Nat) : Loc :=
  let pa := dfield e 51 12 * 4096 + va % span
  match dfield e 6 5 with
  | 1 => .host pa
  | 2 => .peer (dfield e 63 56) pa
  | _ => .hbm pa

/-- Rows 2-5 of R116 for a translated access. -/
def State.checkLeaf (s : State) (w : Walk) (va : Nat) (write : Bool) : AccRes :=
  match w with
  | .miss d => .miss d
  | .bad => .fault 0x05 0
  | .leaf e _ span =>
    if dbit e 11 then .fault 0x06 0
    else
      let l := leafLoc e span va
      let line : Option (Bool × Nat) := match l with | .hbm pa => some (false, pa / 128) | .host pa => some (true, pa / 128) | _ => none
      if line.any s.poisoned.contains then .fault 0x06 1
      else if line.any s.lost.contains then .fault 0x06 2
      else if !(if write then dbit e 4 else dbit e 3) then .fault 0x07 0 else .at_ l

/-- An access of `size` bytes at virtual address `va` by a function, after windows (R90, R116). -/
def State.access (s : State) (vf va : Nat) (write : Bool) (size : Nat) : AccRes :=
  if 2 ^ 52 ≤ va then .fault 0x01 0
  else if va % size ≠ 0 then .fault 0x02 0
  else s.checkLeaf (s.lookup vf va) va write

/-- The leaf entry an access of this function uses, if there is one. -/
def State.leafOf (s : State) (vf va : Nat) : Option (Dword × Nat) :=
  match s.lookup vf va with | .leaf e a _ => some (e, a) | _ => none

/-- Is a leaf entry one that gives an address this place? -/
def Walk.gives (w : Walk) (va : Nat) (l : Loc) : Bool := match w with | .leaf e _ span => leafLoc e span va == l | _ => false

/-- An access at place `l` sets ACC, and DIRTY when it writes, in the entry that it used (R104); the translation is cached (R105) and
the page's access counter advances (R376). -/
def State.touch (s : State) (vf va : Nat) (write : Bool) (l : Loc) : State :=
  match ((s.walks vf va).find? (fun w => w.gives va l)).getD (s.lookup vf va) with
  | .leaf e a span =>
    let now := readBytes s.hbm a 8
    let now' := now ||| (if write then 0x300 else 0x100)
    let s := if now = now' then s else s.writeNum (.hbm a) 8 now' none noVf
    let c := s.ctx vf
    let s := s.setCtx vf { c with heat := fset 0 c.heat (va / 4096) (fget 0 c.heat (va / 4096) + 1) }
    { s with tlb := ⟨vf, va / 4096, e, a, span⟩ :: s.tlb.filter (fun t => !(t.vf == vf && t.covers va && t.isWalk (.leaf e a span))) }
  | _ => s

/-- Where a function's virtual address lies, if its page is present. -/
def State.locOf (s : State) (vf va : Nat) : Option Loc :=
  match s.lookup vf va with | .leaf e _ span => some (leafLoc e span va) | _ => none

/-- A weight-space address of a function on a die (R95). -/
def State.weightAccess (s : State) (vf die w size : Nat) : AccRes :=
  let c := s.ctx vf
  if w % size ≠ 0 then .fault 0x02 0
  else if w < fget 0 c.weight (2 * die + 1) then .at_ (.weight die (fget 0 c.weight (2 * die) + w)) else .fault 0x04 0

/-! ### Member windows -/

/-- The address of member `e` at `a` (R109): none when the offset address leaves the 52-bit space. -/
def windowed (c : Ctx) (e a : Nat) : Option Nat :=
  let go := (List.range 4).find? (fun w =>
    let b := fget 0 c.windows (3 * w)
    dbit b 0 && decide (dfield b 51 12 * 4096 ≤ a) && decide (a < dfield (fget 0 c.windows (3 * w + 1)) 51 12 * 4096))
  match go with
  | none => some a
  | some w =>
    let r := a + e * (dfield (fget 0 c.windows (3 * w + 2)) 51 12 * 4096)
    if 2 ^ 52 ≤ r then none else some r

/-- The address after windows, and how the access stands (R90, R109, R116): address bits, alignment and window overflow
come first. The address given with a fault or miss is the one after windows where there is one. -/
def State.memberAccess (s : State) (vf e va : Nat) (write : Bool) (size : Nat) : Nat × AccRes :=
  if 2 ^ 52 ≤ va then (va, .fault 0x01 0)
  else if va % size ≠ 0 then (va, .fault 0x02 0)
  else match windowed (s.ctx vf) e va with
    | none => (va, .fault 0x01 0)
    | some a => (a, s.access vf a write size)

/-! ### Scratchpad addresses -/

/-- The block that a scratchpad address names in a view, and the offset; none for scratchpad-range (R91). -/
def scrTarget (v : Share) (addr : Nat) : Option (Nat × Nat) :=
  if 2 ^ 23 ≤ addr then none
  else
    let win := addr.testBit 22
    let blk := field addr 21 18
    let ofs := field addr 17 0
    if !win && blk != 0 then none
    else if v.blocks ≤ blk && win then none
    else if v.scr * 256 ≤ ofs then none
    else some (blockUid v.launch v.cluster (if win then blk else v.blockNo), ofs)

/-- A group's view of scratchpad. -/
def State.share (s : State) (g : Group) : Share :=
  { launch := g.launch, cluster := g.cluster, blockNo := g.blockNo, blocks := g.blocks,
    scr := match s.block g.block with | some b => b.scr | none => 0 }

/-- A scratchpad access in a view (R90, R91). -/
def Share.access (v : Share) (addr size : Nat) : AccRes :=
  if addr % size ≠ 0 then .fault 0x02 0
  else match scrTarget v addr with
    | none => .fault 0x03 0
    | some (b, o) => .at_ (.scr b o)

/-- A scratchpad access of a group. -/
def State.scrAccess (s : State) (g : Group) (addr size : Nat) : AccRes := (s.share g).access addr size

/-- The packed cluster numbers of the n-th cluster of a grid, x fastest, and back (R43, R214). -/
def clusterWord (grid : Dword) (n : Nat) : Nat :=
  let cx := dfield grid 15 0
  let cy := dfield grid 31 16
  n % cx + at' (n / cx % cy) 16 + at' (n / cx / cy) 32
def clusterIndex (grid : Dword) (w : Nat) : Nat :=
  w % 2 ^ 16 + dfield grid 15 0 * (field w 31 16 + dfield grid 31 16 * field w 47 32)

/-- May an access of a block's share be performed now: is the block started, or gone (R45, R92)? A block not yet placed,
not yet started or kept by a stop stalls it. -/
def State.shareReady (s : State) (uid : Nat) : Bool :=
  match s.block uid with
  | some b => b.started
  | none =>
    if s.ctxs.any (fun e => e.2.saved.blocks.any (fun b => b.uid == uid)) then false
    else match s.launches.find? (fun l => l.id == uid / 16 / 2 ^ 48) with
    | none => true
    | some l =>
      let cl := clusterIndex l.grid (uid / 16 % 2 ^ 48)
      match l.progress.find? (fun q => q.cluster == cl) with
      | some q => decide (uid % 16 < q.next)
      | none => decide (cl < l.nextCluster)

/-! ### The L1 (R112, R113) -/

/-- The line of a core's L1 that holds a place, if present. -/
def Core.line (c : Core) (host : Bool) (line : Nat) : Option L1Line := c.l1.find? (fun l => l.host == host && l.line == line)

/-- The entries of a full cache that stay when a new one comes: all but one, an open choice of what the cache holds (log entry
57). -/
def roomIn {α : Type} (cap : Nat) (key : α → Nat) (l : List α) : List α :=
  if l.length < cap then l else l.eraseIdx (Config.freeVictim (l.map key) % l.length)

/-- Put a word into a cache of `cap` words. -/
def cachePut (cap k : Nat) (v : Dword) (m : FMap Dword) : FMap Dword :=
  finsert k v (if m.any (fun e => e.1 == k) then m else roomIn cap (fun e => e.1) m)

/-- Replace a line of a core's L1, which holds 512 lines (R11). -/
def Core.setLine (c : Core) (l : L1Line) : Core :=
  let others := c.l1.filter (fun k => !(k.host == l.host && k.line == l.line))
  { c with l1 := l :: roomIn Config.l1Lines (fun k => 2 * k.line + b2n k.host) others }

/-- The words of a line that `n` bytes at `a` touch, as a mask of 32. -/
def wordMask (a n : Nat) : Word :=
  BitVec.ofNat 32 ((List.range 32).foldl (fun m i =>
    if a % 128 < 4 * i + 4 ∧ 4 * i < a % 128 + n then m + 2 ^ i else m) 0)

/-- Do all the words that `n` bytes at `a` touch hold in the L1 line? -/
def L1Line.hits (l : L1Line) (a n : Nat) : Bool := wordMask a n &&& ~~~l.valid == 0

/-- The value of `n` bytes at `a` from the words of a line. -/
def L1Line.read (l : L1Line) (a n : Nat) : Nat :=
  let o := a % 128
  ((fget 0 l.data (o / 4)).toNat + 2 ^ 32 * (fget 0 l.data (o / 4 + 1)).toNat) / 2 ^ (8 * (o % 4)) % 2 ^ (8 * n)

/-- Put `n` bytes of value `v` at `a` into the words of a line that `m` admits. -/
def L1Line.put (l : L1Line) (a n v : Nat) : L1Line :=
  let o := a % 128
  let w := o / 4
  let sh := 8 * (o % 4)
  let old := (fget 0 l.data w).toNat + 2 ^ 32 * (fget 0 l.data (w + 1)).toNat
  let msk := (2 ^ (8 * n) - 1) * 2 ^ sh
  let new := (old &&& (2 ^ 64 - 1 - msk)) ||| (v % 2 ^ (8 * n) * 2 ^ sh)
  let d := fset 0 l.data w (BitVec.ofNat 32 new)
  { l with data := if o % 4 + n > 4 then fset 0 d (w + 1) (BitVec.ofNat 32 (new / 2 ^ 32)) else d }

/-- A store of this core writes its bytes into valid words, and whole words into any (R112). -/
def Core.storeL1 (c : Core) (host : Bool) (a n v : Nat) : Core :=
  let m := wordMask a n
  match c.line host (a / 128) with
  | some l =>
    if n < 4 then if l.hits a n then c.setLine (l.put a n v) else c
    else c.setLine { l.put a n v with valid := l.valid ||| m }
  | none =>
    if n < 4 then c
    else c.setLine { ({ host := host, line := a / 128, valid := 0, data := [] } : L1Line).put a n v with valid := m }

/-- The words of a line read at its home, as a full line. -/
def State.homeLine (s : State) (host : Bool) (line : Nat) : L1Line :=
  let word (i : Nat) : Nat := if host then s.hostRead (line * 128 + 4 * i) 4 else readBytes s.hbm (line * 128 + 4 * i) 4
  { host := host, line := line, valid := BitVec.ofNat 32 (2 ^ 32 - 1),
    data := (List.range 32).foldl (fun d i => fset 0 d i (BitVec.ofNat 32 (word i))) [] }

/-- A fill of a line fetched from its home: only invalid words are written, every word becomes valid (R113). -/
def Core.fillL1 (c : Core) (f : L1Line) : Core :=
  match c.line f.host f.line with
  | none => c.setLine f
  | some l =>
    c.setLine { f with
      valid := l.valid ||| f.valid
      data := (List.range 32).foldl (fun d i => fset 0 d i (fget 0 (if l.valid.getLsbD i then l.data else f.data) i)) [] }

/-- Is the place in this device's memory that the L1 serves: HBM, or host memory? -/
def Loc.cached (l : Loc) : Option (Bool × Nat) :=
  match l with | .hbm a => some (false, a) | .host a => some (true, a) | _ => none

/-- Do `n` bytes at a place and `m` bytes at another overlap? -/
def Loc.overlaps (l : Loc) (n : Nat) (k : Loc) (m : Nat) : Bool :=
  let o (a b : Nat) : Bool := decide (a < b + m) && decide (b < a + n)
  match l, k with
  | .hbm a, .hbm b => o a b
  | .host a, .host b => o a b
  | .peer d a, .peer e b => d == e && o a b
  | .scr d a, .scr e b => d == e && o a b
  | .weight d a, .weight e b => d == e && o a b
  | _, _ => false

/-- A core. -/
def State.core (s : State) (c : Nat) : Core := fget Core.reset s.cores c

/-- Replace a core. -/
def State.setCore (s : State) (c : Nat) (k : Core) : State := { s with cores := fset Core.reset s.cores c k }

/-! ### Page moves and reduction regions (R107, 23 R333-R341) -/

/-- Is the page of an address being moved, so that stores and atomics to it stall (R107)? -/
def State.moving (s : State) (vf va : Nat) : Bool := s.moves.any (fun m => m.vf == vf && decide (m.va ≤ va) && decide (va < m.va + m.size))

/-- Word `i` of reduction-region entry `n` (R333). -/
def Ctx.rr (c : Ctx) (n i : Nat) : Dword := fget 0 c.regions (8 * n + i)

/-- The bytes of a contribution element by TYPE (R334). -/
def rrElem (type : Nat) : Nat := match type with | 0 => 4 | 1 => 8 | 2 => 4 | 3 => 8 | 4 => 24 | _ => 3

/-- The fields of an entry (R333). -/
def Ctx.rrEn (c : Ctx) (n : Nat) : Bool := dbit (c.rr n 0) 63
def Ctx.rrLoop (c : Ctx) (n : Nat) : Bool := dbit (c.rr n 0) 62
def Ctx.rrAll (c : Ctx) (n : Nat) : Bool := dbit (c.rr n 0) 61
def Ctx.rrOp (c : Ctx) (n : Nat) : Nat := dfield (c.rr n 0) 60 57
def Ctx.rrType (c : Ctx) (n : Nat) : Nat := dfield (c.rr n 0) 56 54
def Ctx.rrRout (c : Ctx) (n : Nat) : Nat := dfield (c.rr n 0) 53 52
def Ctx.rrRnd (c : Ctx) (n : Nat) : Nat := dfield (c.rr n 0) 51 49
def Ctx.rrCw (c : Ctx) (n : Nat) : Nat := dfield (c.rr n 0) 48 45
def Ctx.rrPv (c : Ctx) (n : Nat) : Nat := dfield (c.rr n 0) 44 39 + 1
def Ctx.rrCpts (c : Ctx) (n : Nat) : Nat := dfield (c.rr n 0) 38 23 + 1
def Ctx.rrBase (c : Ctx) (n : Nat) : Nat := dfield (c.rr n 1) 51 0
def Ctx.rrNpts (c : Ctx) (n : Nat) : Nat := dfield (c.rr n 2) 63 32
def Ctx.rrPos (c : Ctx) (n : Nat) : Nat := dfield (c.rr n 2) 31 24

/-- The ring's length: four dies under LOOP (R341). -/
def Ctx.rrLen (c : Ctx) (n : Nat) : Nat := if c.rrLoop n then 4 else dfield (c.rr n 2) 23 16 + 1

/-- Bytes of a point; chunks; points and bytes of a chunk (R334); bytes from one die's area to the next (R341). -/
def Ctx.rrPoint (c : Ctx) (n : Nat) : Nat := c.rrPv n * rrElem (c.rrType n)
def Ctx.rrChunks (c : Ctx) (n : Nat) : Nat := (c.rrNpts n + c.rrCpts n - 1) / c.rrCpts n
def Ctx.rrPoints (c : Ctx) (n k : Nat) : Nat :=
  if c.rrNpts n - k * c.rrCpts n < c.rrCpts n then c.rrNpts n - k * c.rrCpts n else c.rrCpts n
def Ctx.rrBytes (c : Ctx) (n k : Nat) : Nat := c.rrPoints n k * c.rrPoint n
def Ctx.rrPart (c : Ctx) (n : Nat) : Nat := (c.rrNpts n * c.rrPoint n + 4095) / 4096 * 4096

/-- The key of a chunk's count: region, die (0 but under LOOP), chunk. -/
def chunkKey (n die k : Nat) : Nat := (n * 4 + die) * 2 ^ 32 + k

/-- The chunk in which a byte at `va` of region `n` counts, with its size, if it lies in the contribution area (R337). -/
def Ctx.chunkOf (c : Ctx) (n va : Nat) : Option (Nat × Nat) :=
  let base := c.rrBase n
  let part := c.rrPart n
  let die := if c.rrLoop n then (va - base) / part else 0
  let o := if c.rrLoop n then (va - base) % part else va - base
  let k := o / (c.rrCpts n * c.rrPoint n)
  if !c.rrEn n || decide (va < base) || decide (4 ≤ die) || decide (c.rrNpts n * c.rrPoint n ≤ o) then none
  else some (chunkKey n die k, c.rrBytes n k)

/-- The region that the page of an address names; 0 none (R102). Only pages of tier T1 count (R337). -/
def State.regionOf (s : State) (vf va : Nat) : Nat :=
  match s.lookup vf va with
  | .leaf e _ _ => if dfield e 6 5 = 0 then dfield e 55 52 else 0
  | _ => 0

/-- The chunks in which `n` bytes at `va` count, one item a byte. -/
def State.chunksOf (s : State) (vf va n : Nat) : List (Nat × Nat) :=
  let r := s.regionOf vf va
  if r = 0 then [] else (List.range n).filterMap (fun i => (s.ctx vf).chunkOf r (va + i))

/-- A store of these bytes waits at its home: its page is being moved (R107), or it counts in a chunk that is ready and not
yet read (R338). -/
def State.storeHeld (s : State) (vf va n : Nat) : Bool :=
  s.moving vf va || (s.chunksOf vf va n).any (fun k => (s.ctx vf).ready.contains k.1)

/-- A contribution is performed: each byte counts once; a chunk whose count reaches its size is ready (R337, R338). -/
def State.contribute (s : State) (vf va n : Nat) : State :=
  (s.chunksOf vf va n).foldl (fun s k =>
    let c := s.ctx vf
    let m := fget 0 c.counts k.1 + 1
    s.setCtx vf { c with counts := fset 0 c.counts k.1 m, ready := if m = k.2 then c.ready ++ [k.1] else c.ready }) s

end Sys2Proof.Machine
end

