-- ==== Sys2Proof/Machine/Lines.lean ====
section
/-! DEFINITION. Copy requests and halo descriptors (15 R244-R250): their fields, the pieces of a request in destination order,
and the destination lines that requests and readout entries still own (09 R134, R135, 17 R273). -/
namespace Sys2Proof.Machine

/-! ### Copy requests (R244) -/

def EngReq.ssp (r : EngReq) : Nat := dfield r.r0 63 62
def EngReq.sdie (r : EngReq) : Nat := dfield r.r0 57 56
def EngReq.op (r : EngReq) : Nat := dfield r.r0 55 52
def EngReq.src (r : EngReq) : Nat := dfield r.r0 51 0
def EngReq.dsp (r : EngReq) : Nat := dfield r.r1 63 62
def EngReq.memb (r : EngReq) : Nat := dfield r.r1 61 59
def EngReq.ddie (r : EngReq) : Nat := dfield r.r1 53 52
def EngReq.dst (r : EngReq) : Nat := dfield r.r1 51 0
def EngReq.rows (r : EngReq) : Nat := dfield r.r2 63 52 + 1
def EngReq.rowBytes (r : EngReq) : Nat := 4 * dfield r.r2 51 32
def EngReq.spitch (r : EngReq) : Nat := dfield r.r2 31 0
def EngReq.dpitch (r : EngReq) : Nat := dfield r.r3 63 32

/-! ### Halo descriptors (R247, R248) -/

def EngReq.hEsz (r : EngReq) : Nat := 2 ^ (dfield r.r0 63 62 + 1)
def EngReq.hMode (r : EngReq) : Nat := dfield r.r0 61 60
def EngReq.hH (r : EngReq) : Nat := dfield r.r0 59 58 + 1
def EngReq.hMemb (r : EngReq) : Nat := dfield r.r0 57 55
def EngReq.hBase (r : EngReq) : Nat := dfield r.r0 51 0
def EngReq.hPitch (r : EngReq) : Nat := dfield r.r1 63 32
def EngReq.hNy (r : EngReq) : Nat := dfield r.r1 31 16
def EngReq.hNx (r : EngReq) : Nat := dfield r.r1 15 0
def EngReq.hTy (r : EngReq) : Nat := dfield r.r2 63 48
def EngReq.hTx (r : EngReq) : Nat := dfield r.r2 47 32
def EngReq.hY0 (r : EngReq) : Nat := dfield r.r2 31 16
def EngReq.hX0 (r : EngReq) : Nat := dfield r.r2 15 0
def EngReq.hConst (r : EngReq) : Nat := dfield r.r3 63 32
def EngReq.hDst (r : EngReq) : Nat := dfield r.r3 31 0
/-- Rows and bytes of a row of the tile with its halo; the bank-rotated row pitch RP; the tile spacing TS (R248, R249). -/
def EngReq.hRows (r : EngReq) : Nat := r.hTy + 2 * r.hH
def EngReq.hRowBytes (r : EngReq) : Nat := (r.hTx + 2 * r.hH) * r.hEsz
def EngReq.hRp (r : EngReq) : Nat := cdiv r.hRowBytes 128 * 128 + (if r.hEsz < 4 then 4 else r.hEsz)
def EngReq.hTs (r : EngReq) : Nat := cdiv (r.hRows * r.hRp) 256 * 256
/-- Tiles the instruction fetches: one, or one a member (R249). -/
def EngReq.hTiles (r : EngReq) (e : Nat) : Nat := if r.fn = 1 then e else 1

/-- Where a cell comes from: a field address, or a constant (R248). -/
def EngReq.cell (r : EngReq) (i j : Nat) : Nat ⊕ Nat :=
  let y : Int := r.hY0 + i - r.hH
  let x : Int := r.hX0 + j - r.hH
  let ny : Int := r.hNy
  let nx : Int := r.hNx
  let inside := decide (0 ≤ y) && decide (y < ny) && decide (0 ≤ x) && decide (x < nx)
  let clamp (v n : Int) : Int := if v < 0 then 0 else if n ≤ v then n - 1 else v
  let addr (y x : Int) : Nat := ofSigned 64 ((r.hBase : Int) + y * r.hPitch + x * r.hEsz)
  if inside then .inl (addr y x)
  else match r.hMode with
    | 0 => .inl (addr (clamp y ny) (clamp x nx))
    | 1 => .inl (addr (y % ny) (x % nx))
    | 2 => .inr (if r.hEsz = 8 then r.hConst * 2 ^ 32 else r.hConst % 256 ^ r.hEsz)
    | _ => .inl (addr y x)

/-! ### Pieces -/

/-- Is the request a HALO's? -/
def EngReq.isHalo (r : EngReq) : Bool := r.opcode == 0x6A

/-- Destination bytes of a request. -/
def EngReq.total (r : EngReq) (e : Nat) : Nat :=
  if r.isHalo then r.hTiles e * r.hRows * r.hRowBytes else r.rows * r.rowBytes

/-- Elements that no line boundary divides: RS24 elements (R245), field elements, 4-byte units. -/
def EngReq.unit (r : EngReq) : Nat := if r.isHalo then r.hEsz else if r.op = 3 then 3 else 4

/-- A piece of a request: its tile and row, its offset in the row, its destination address, its bytes. -/
structure Piece where
  tile : Nat
  row : Nat
  off : Nat
  dst : Nat
  len : Nat
  deriving DecidableEq, Repr

/-- The piece that begins at byte `b` of the request: up to the end of its 128-byte destination line, rows first in ascending
order (R347). -/
def EngReq.piece (r : EngReq) (b : Nat) : Piece :=
  let rb := if r.isHalo then r.hRowBytes else r.rowBytes
  let row := b / rb
  let off := b % rb
  let tile := if r.isHalo then row / r.hRows else 0
  let row := if r.isHalo then row % r.hRows else row
  let dst := if r.isHalo then r.hDst + tile * r.hTs + row * r.hRp + off else r.dst + row * r.dpitch + off
  let u := r.unit
  let room := cdiv (128 - dst % 128) u * u
  { tile := tile, row := row, off := off, dst := dst, len := if rb - off < room then rb - off else room }

/-- The pieces from byte `b` on. -/
def EngReq.piecesFrom (r : EngReq) (total : Nat) : Nat → Nat → List Piece
  | 0, _ => []
  | fuel + 1, b => if total ≤ b then [] else let p := r.piece b; p :: r.piecesFrom total fuel (b + p.len)

/-- The pieces a request has still to perform. -/
def Xfer.rest (t : Xfer) : List Piece :=
  let n := t.req.total t.e
  t.req.piecesFrom n ((n - t.bytes) / t.req.unit + 1) t.bytes

/-! ### Ownership (R134, R135) -/

/-- Does the request still hold its destination lines: issued, not finished, and no KICK, whose lines are those of its entries
once started? -/
def Xfer.holds (t : Xfer) : Bool :=
  (t.req.opcode == 0x68 || t.req.opcode == 0x69 || t.req.opcode == 0x6A)
  && (match t.st with | .faulted _ => false | .finished => false | _ => true)

/-- The blocks of a multicast word, or the single view (R246). -/
def Xfer.shares (t : Xfer) : List Share :=
  if t.req.opcode = 0x69 then
    ((List.range 16).filter (fun b => dbit t.req.task b)).map (fun b => { t.share with blockNo := b })
  else [t.share]

/-- The destination places of a piece: of its first byte, and of its last one, which may lie in the next line (R245). -/
def State.pieceDests (s : State) (t : Xfer) (p : Piece) : List Loc :=
  let dsp := if t.req.isHalo then 1 else t.req.dsp
  let at_ (dst : Nat) : List Loc := match dsp with
    | 0 => match windowed (s.ctx t.vf) t.req.memb dst with
      | some a => match s.locOf t.vf a with | some l => [l] | none => []
      | none => []
    | 1 => t.shares.filterMap (fun v => (scrTarget v dst).map (fun e => .scr e.1 e.2))
    | _ => match s.weightAccess t.vf t.req.ddie dst 1 with | .at_ l => [l] | _ => []
  if p.dst / 128 = (p.dst + p.len - 1) / 128 then at_ p.dst else at_ p.dst ++ at_ (p.dst + p.len - 1)

/-- The 128-byte line of a place. -/
def Loc.line (l : Loc) : Loc :=
  match l with
  | .hbm a => .hbm (a / 128)
  | .host a => .host (a / 128)
  | .peer d a => .peer d (a / 128)
  | .scr b o => .scr b (o / 128)
  | .weight d a => .weight d (a / 128)

/-- Where the bytes of a readout entry's row go, one place for each line they touch (R271, R273). -/
def State.rowDests (s : State) (r : Readout) (w : RoRow) : List Loc :=
  let from_ (a : Nat) : List Nat := (linesOf a w.bytes.length).map (fun k => if k * 128 < a then a else k * 128)
  if r.scratch then (from_ w.addr).filterMap (fun a => (scrTarget r.share a).map (fun e => .scr e.1 e.2))
  else match (if w.abs then some w.addr else windowed (s.ctx r.vf) w.member w.addr) with
    | some a => (from_ a).filterMap (s.locOf r.vf)
    | none => []

/-- The L1s drop lines that an engine takes into exclusive ownership (R134). -/
def State.ownLines (s : State) (ls : List Loc) : State :=
  ls.foldl (fun s l => match l with
    | .hbm a => s.dropL1 (fun _ => true) false (a / 128)
    | .host a => s.dropL1 (fun _ => true) true (a / 128)
    | _ => s) s

/-- A request takes exclusive ownership of its destination lines (R134); so does a readout entry (R273). -/
def State.own (s : State) (t : Xfer) : State := t.rest.foldl (fun s p => s.ownLines (s.pieceDests t p)) s
def State.ownRows (s : State) (r : Readout) : State := r.rows.foldl (fun s w => s.ownLines (s.rowDests r w)) s

/-- Is the line of a place owned by, or pending for, an engine request or a readout entry with a name that `p` admits? -/
def State.heldFor (s : State) (p : Nat → Bool) (l : Loc) : Bool :=
  s.xfers.any (fun t => p t.id && t.holds && t.rest.any (fun q => (s.pieceDests t q).any (fun d => d.line == l.line)))
  || s.readouts.any (fun r => p r.id && r.rows.any (fun w => (s.rowDests r w).any (fun d => d.line == l.line)))

/-- Is the line of a place owned or pending? Accesses of it wait (R134, R135). -/
def State.lineHeld (s : State) (l : Loc) : Bool := s.heldFor (fun _ => true) l

/-- Is the line of a place owned by what issued before `id`, whose write comes first (R134)? -/
def State.lineHeldBefore (s : State) (id : Nat) (l : Loc) : Bool := s.heldFor (fun k => decide (k < id)) l

end Sys2Proof.Machine
end

