-- ==== Sys2Proof/Machine/Ops.lean ====
section
/-! DEFINITION. Named operations: registers of a group, paths, the issuing word, ends of legs, rings and fault queue, taking
a fault with the halt line and leaving it again. -/
namespace Sys2Proof.Machine

/-! ### Registers of a group (11 R164) -/

/-- Positions of a group (R25). -/
def Group.n (g : Group) : Nat := g.w * g.e

/-- The lane and member of a position (R25). -/
def Group.lane (g : Group) (p : Nat) : Nat := p % g.w
def Group.member (g : Group) (p : Nat) : Nat := p / g.w

/-- v register `r` of position `p`. -/
def Group.v1 (g : Group) (r p : Nat) : Word := (fget [] g.v r).getD p 0

/-- A v operand: one register, or an even pair (R161). -/
def Group.vval (g : Group) (pair : Bool) (r p : Nat) : Nat :=
  (g.v1 r p).toNat + if pair then 2 ^ 32 * (g.v1 (r + 1) p).toNat else 0

/-- The shadow of register `r` of position `p`; a discarded shadow reads as the register (R33). -/
def Group.sh1 (g : Group) (r p : Nat) : Word := if has (fget 0 g.shLive r) p then (fget [] g.sh r).getD p 0 else g.v1 r p

/-- Is a register, or a live shadow, empty at a position (R166, R33)? -/
def Group.vEmptyAt (g : Group) (r p : Nat) : Bool := has (fget 0 g.vEmpty r) p
def Group.shEmptyAt (g : Group) (r p : Nat) : Bool :=
  if has (fget 0 g.shLive r) p then has (fget 0 g.shEmpty r) p else g.vEmptyAt r p

/-- Write register `r` at the positions where `f` gives a value, and mark them full. -/
def Group.writeV (g : Group) (r : Nat) (f : Nat → Option Word) : Group :=
  let old := fget [] g.v r
  { g with
    v := finsert r (tab g.n (fun p => (f p).getD (old.getD p 0))) g.v
    vEmpty := fset 0 g.vEmpty r (fget 0 g.vEmpty r &&& ~~~(maskOf g.n (fun p => (f p).isSome))) }

/-- Write the shadow of register `r` at the positions where `f` gives a value: live, full, last written for `path`. -/
def Group.writeSh (g : Group) (path r : Nat) (f : Nat → Option Word) : Group :=
  let old := fget [] g.sh r
  let m := maskOf g.n (fun p => (f p).isSome)
  { g with
    sh := finsert r (tab g.n (fun p => (f p).getD (old.getD p 0))) g.sh
    shEmpty := fset 0 g.shEmpty r (fget 0 g.shEmpty r &&& ~~~m)
    shLive := fset 0 g.shLive r (fget 0 g.shLive r ||| m)
    shOwner := (positions g.n m).foldl (fun o p => fset 0 o (256 * r + p) (path + 1)) g.shOwner }

/-- Write a 32-bit or paired value. -/
def Group.writeVal (g : Group) (pair : Bool) (r : Nat) (f : Nat → Option Nat) : Group :=
  let g := g.writeV r (fun p => (f p).map (fun x => BitVec.ofNat 32 x))
  if pair then g.writeV (r + 1) (fun p => (f p).map (fun x => BitVec.ofNat 32 (x / 2 ^ 32))) else g

def Group.writeShVal (g : Group) (path : Nat) (pair : Bool) (r : Nat) (f : Nat → Option Nat) : Group :=
  let g := g.writeSh path r (fun p => (f p).map (fun x => BitVec.ofNat 32 x))
  if pair then g.writeSh path (r + 1) (fun p => (f p).map (fun x => BitVec.ofNat 32 (x / 2 ^ 32))) else g

/-- Mark registers empty at positions, shadows at helper positions (R166). -/
def Group.markEmpty (g : Group) (path : Nat) (pair : Bool) (r : Nat) (act hlp : Mask) : Group :=
  let one (g : Group) (r : Nat) : Group :=
    { g with
      vEmpty := fset 0 g.vEmpty r (fget 0 g.vEmpty r ||| act)
      shEmpty := fset 0 g.shEmpty r (fget 0 g.shEmpty r ||| hlp)
      shLive := fset 0 g.shLive r (fget 0 g.shLive r ||| hlp)
      shOwner := (positions g.n hlp).foldl (fun o p => fset 0 o (256 * r + p) (path + 1)) g.shOwner }
  let g := one g r
  if pair then one g (r + 1) else g

/-- s register `r`; whether it is empty. -/
def Group.sreg (g : Group) (r : Nat) : Dword := fget 0 g.s r
def Group.sEmptyAt (g : Group) (r : Nat) : Bool := g.sEmpty.toNat.testBit r

/-- Write s register `r`, full. -/
def Group.setS (g : Group) (r : Nat) (v : Dword) : Group :=
  { g with s := fset 0 g.s r v, sEmpty := g.sEmpty &&& ~~~(dw (2 ^ r)), sTicket := g.sTicket &&& ~~~(dw (2 ^ r)) }

/-- Mark s register `r` empty, as a ticket or not (R166, R153). -/
def Group.markS (g : Group) (r : Nat) (ticket : Bool) : Group :=
  { g with sEmpty := g.sEmpty ||| dw (2 ^ r), sTicket := if ticket then g.sTicket ||| dw (2 ^ r) else g.sTicket }

/-- k register `r`; at or above KCOUNT zero (R99). -/
def Group.kreg (g : Group) (r : Nat) : Dword := g.k.getD r 0

/-- m register `r`: m0 reads all ones (R158); bits from E·W upward read zero (R25). -/
def Group.mreg (g : Group) (r : Nat) : Mask := (if r = 0 then BitVec.allOnes 256 else fget 0 g.m r) &&& lowMask g.n

/-- Write m register `r`. -/
def Group.setM (g : Group) (r : Nat) (v : Mask) : Group := { g with m := fset 0 g.m r (v &&& lowMask g.n) }

/-- x register `i` of a position; write it. -/
def Group.xreg (g : Group) (i p : Nat) : Xa := fget Xa.reset g.x (4 * p + i)
def Group.setX (g : Group) (i p : Nat) (x : Xa) : Group := { g with x := fset Xa.reset g.x (4 * p + i) x }

/-- The rounding default, 1 rn for 0 or 1 (R40). -/
def Group.mode (g : Group) : Nat := if g.round = 0 then 1 else g.round

/-! ### Paths (R29-R33) -/

/-- Is a path eligible (R29)? -/
def Path.eligible (p : Path) : Bool := p.pending == 0 && p.mask != 0

/-- The path of an id. -/
def Group.path? (g : Group) (id : Nat) : Option Path := g.paths.find? (fun p => p.id == id)

/-- Replace a path. -/
def Group.setPath (g : Group) (q : Path) : Group := { g with paths := updWhere (fun p => p.id == q.id) (fun _ => q) g.paths }

/-- Change the path of an id. -/
def Group.onPath (g : Group) (id : Nat) (f : Path → Path) : Group :=
  { g with paths := updWhere (fun p => p.id == id) f g.paths }

/-- The paths in the two PC slots: the two youngest eligible ones, youngest first; `paths` lists the youngest first (R29). -/
def Group.slotPaths (g : Group) : List Path := (g.paths.filter Path.eligible).take 2

/-- Entries of the divergence stack in use: every path not in a slot (R29, R30). -/
def Group.stackUsed (g : Group) : Nat := g.paths.length - g.slotPaths.length

/-- The quad mates of a position, in the same member: positions 4k to 4k+3 (R24). -/
def quadActive (m : Mask) (p : Nat) : Bool := (List.range 4).any (fun i => has m (p / 4 * 4 + i))

/-- Helper positions of a path mask (R32). -/
def Group.helperMask (g : Group) (m : Mask) : Mask :=
  if g.helpers then maskOf g.n (fun p => !has m p && quadActive m p) else 0

/-- Discard the shadows that a path's helpers were the last to write (R33). -/
def Group.discard (g : Group) (id : Nat) : Group :=
  let keep (e : Nat × Mask) : Nat × Mask := (e.1, e.2 &&& ~~~(maskOf g.n (fun p => fget 0 g.shOwner (256 * e.1 + p) == id + 1)))
  { g with shLive := (g.shLive.map keep).filter (fun e => e.2 != 0)
           shEmpty := (g.shEmpty.map keep).filter (fun e => e.2 != 0)
           shOwner := g.shOwner.filter (fun e => e.2 != id + 1) }

/-- Enter leg starts in the group's signature: the CRC-64 of R387 over their 8 little-endian bytes. -/
def crcByte (c : Dword) (b : Byte) : Dword :=
  (List.range 8).foldl (fun c _ => if c.getLsbD 63 then (c <<< 1) ^^^ 0x42F0E1EBA9EA3693 else c <<< 1)
    (c ^^^ (BitVec.ofNat 64 b.toNat <<< 56))
def crcWords (c : Dword) (xs : List Nat) : Dword := xs.foldl (fun c a => (bytesOf 8 a).foldl crcByte c) c

/-- Give leg starts to a path, or to the signature when it has no parent (R392). -/
def Group.addStarts (g : Group) (p : Path) (xs : List Nat) : Group :=
  match p.parent with
  | none => { g with sig := crcWords g.sig xs }
  | some _ => g.setPath { p with starts := p.starts ++ xs }

/-- The path moves to the clause at `pc` (R30, R216). -/
def Path.goto (t : Path) (pc : Nat) : Path := { t with pc := pc, fetched := none, code := [], widx := 0, entered := false, resumeAt := 0, only := none }

/-- A join path whose last child has gone stands after the JOIN that its children reached (R30). -/
def Path.joined (t : Path) : Path :=
  match t.joinNext with | some a => { t.goto a with fresh := true, joinNext := none } | none => t

/-- Remove a path and count its parent down (R30); a join path left with an empty mask goes too. At most `fuel` ancestors. -/
def Group.removePath (g : Group) : Nat → Nat → Group
  | 0, _ => g
  | fuel + 1, id =>
    match g.path? id with
    | none => g
    | some p =>
      let g := g.discard id
      let g := { g with paths := g.paths.filter (fun q => q.id != id) }
      match p.parent with
      | none => g
      | some qid =>
        match g.path? qid with
        | none => g
        | some q =>
          let q := { q with pending := q.pending - 1 }
          let q := if p.takenChild then { q with takenStarts := p.starts } else { q with fallStarts := p.starts }
          if q.pending = 0 then
            let xs := q.takenStarts ++ q.fallStarts
            let q := { q.joined with takenStarts := [], fallStarts := [] }
            let g := (g.setPath q).addStarts q xs
            if q.mask = 0 then g.removePath fuel qid else g
          else g.setPath q

/-- Clear positions from a path and its ancestors (EXIT, R30). -/
def Group.clearFrom (g : Group) (m : Mask) : Nat → Nat → Group
  | 0, _ => g
  | fuel + 1, id =>
    match g.path? id with
    | none => g
    | some p =>
      let g := g.setPath { p with mask := p.mask &&& ~~~m }
      match p.parent with | none => g | some q => g.clearFrom m fuel q

/-! ### Looking up and replacing -/

/-- A group by identifier. -/
def State.group (s : State) (gid : Gid) : Option Group := s.groups.find? (fun g => g.gid == gid)

/-- Replace a group. -/
def State.setGroup (s : State) (h : Group) : State := { s with groups := updWhere (fun g => g.gid == h.gid) (fun _ => h) s.groups }

/-- Change a group. -/
def State.onGroup (s : State) (gid : Gid) (f : Group → Group) : State :=
  { s with groups := updWhere (fun g => g.gid == gid) f s.groups }

/-- A partition; replace it. Partition `4 * core + i` is partition i of a core, core `256 * die + c` core c of a die. -/
def State.part (s : State) (p : Nat) : Part := fget Part.reset s.parts p
def State.setPart (s : State) (p : Nat) (k : Part) : State := { s with parts := fset Part.reset s.parts p k }

/-- A die; replace it. -/
def State.die (s : State) (d : Nat) : Die := fget Die.reset s.dies d
def State.setDie (s : State) (d : Nat) (k : Die) : State := { s with dies := fset Die.reset s.dies d k }

/-- The core and die of a partition; the partition of a group identifier (R26). -/
def coreOf (p : Nat) : Nat := p / 4
def dieOfCore (c : Nat) : Nat := c / 256
def partOfGid (gid : Gid) : Nat := gid.toNat / 2 ^ 28

/-! ### Performance counters (R384) -/

/-- Count `n` events of code `ev` on a core for a function's work. -/
def State.count (s : State) (vf core ev n : Nat) : State :=
  let c := s.manage.pmctl
  if dbit c 63 && dfield c 53 48 == vf && n != 0 && (List.range 4).any (fun i => dfield c (8 * i + 7) (8 * i) == ev) then
    let k := s.core core
    s.setCore core { k with pm := (List.range 4).foldl (fun m i =>
      if dfield c (8 * i + 7) (8 * i) = ev then fset 0 m i (fget 0 m i + dw n) else m) k.pm }
  else s

/-! ### Rings (27 R371-R374) -/

/-- Entry size of a ring (R371). -/
def ringEntry (r : Nat) : Nat := match r with | 0 => 256 | 1 => 32 | 2 => 16 | 3 => 16 | 4 => 32 | 5 => 64 | _ => 16

/-- A ring of a function; replace it. -/
def State.ring (s : State) (fn r : Nat) : Ring := fget Ring.reset (s.ctx fn).rings r
def State.setRing (s : State) (fn r : Nat) (k : Ring) : State :=
  s.setCtx fn { s.ctx fn with rings := fset Ring.reset (s.ctx fn).rings r k }

/-- Host address of the entry for count `i` (R371). -/
def Ring.entryAt (k : Ring) (r i : Nat) : Nat := k.base.toNat / 4096 * 4096 + i % 2 ^ k.log2 * ringEntry r

/-- Entries between consumer and producer. -/
def Ring.used (k : Ring) : Nat := (k.pi - k.ci).toNat

/-- Has a ring in service room for an entry? -/
def Ring.room (k : Ring) : Bool := k.en && decide (k.used < 2 ^ k.log2)

/-- A saturating overflow count (R372). -/
def Ring.drop (k : Ring) : Ring := { k with ovf := if k.ovf = BitVec.allOnes 32 then k.ovf else k.ovf + 1 }

/-- Write an entry whole and advance PI (R374); nothing when there is no room. -/
def State.push (s : State) (fn r : Nat) (words : List Dword) : Option State :=
  let k := s.ring fn r
  if k.room then
    let s := s.writeLoc (.host (k.entryAt r k.pi.toNat)) (words.flatMap (fun w => bytesOf 8 w.toNat)) none noVf
    some (s.setRing fn r { k with pi := k.pi + 1 })
  else none

/-- Write an entry or drop it: counted when the ring is in service and full (R374). -/
def State.pushOrDrop (s : State) (fn r : Nat) (words : List Dword) : State :=
  match s.push fn r words with
  | some s => s
  | none => let k := s.ring fn r; if k.en then s.setRing fn r k.drop else s

/-- An event entry (R289). -/
def State.postEvent (s : State) (vf src code addr value : Nat) : State :=
  s.pushOrDrop vf 3 [dw (at' src 60 + at' code 52 + addr % 2 ^ 52), dw value]

/-- An error record in the PF's error queue (R361). -/
def State.postError (s : State) (src cause die unit nerr paddr vf owner action : Nat) : State :=
  s.pushOrDrop 0 4 [dw (at' src 56 + at' cause 48 + at' die 46 + at' unit 36 + nerr % 2 ^ 32), dw paddr,
    dw (at' vf 58 + owner), dw action]

/-- Entries of kinds 4-6 in a fault queue (R358, R360). -/
def State.postReport (s : State) (vf kind cause addr info : Nat) (tag : Dword) : State :=
  s.pushOrDrop vf 1 [dw (at' kind 60 + at' cause 48), dw addr, dw info, tag]

/-! ### Error records (R361) -/

/-- One more error of a unit since the start. -/
def State.countError (s : State) (source unit : Nat) : Nat × State :=
  let k := source * 4096 + unit
  let n := fget 0 s.manage.nerr k + 1
  let m := s.manage
  (n, { s with manage := { m with nerr := fset 0 m.nerr k n } })

/-- Count an error and report it to the memory manager; with a full error queue the record is dropped, its action is taken
all the same (R374). -/
def State.reportError (s : State) (source cause die unit paddr vf owner action : Nat) : State :=
  let r := s.countError source (die * 1024 + unit)
  r.2.postError source cause die unit r.1 paddr vf owner action

/-- Die and stack of a physical address (log entry 22). -/
def dieOfPa (pa : Nat) : Nat := pa / Config.dieSpan % 4
def stackOfPa (pa : Nat) : Nat := pa % Config.dieSpan / 2 ^ 36

/-- An access of a poisoned page, which faults with data-lost CAUSE 0, is reported to the memory manager (R116). No rule gives the record's fields:
the model writes the source that holds the page's tier, CAUSE 1, and ACTION 2 (log entry 106). -/
def State.reportPois (s : State) (vf owner : Nat) (f : FaultInfo) : State :=
  if f.code = 0x06 then
    match s.lookup vf f.daddr with
    | .leaf e _ span => if !dbit e 11 then s else match leafLoc e span f.daddr with
      | .hbm pa => s.reportError 0 1 (dieOfPa pa) (stackOfPa pa) pa vf owner 2
      | .host pa => s.reportError 1 1 (homeDie true pa) 0 pa vf owner 2
      | .peer _ pa => s.reportError 8 1 0 0 pa vf owner 2
      | _ => s
    | _ => s
  else s

/-! ### Parking (25 R358-R368) -/

/-- The next TOKEN of a context (R366). -/
def Ctx.newToken (c : Ctx) : Nat × Ctx :=
  let ok (t : Nat) : Bool := t != 0 && !c.parks.any (fun e => e.token == t)
  let t := ((List.range (c.parks.length + 2)).map (fun i => (c.token + i) % 2 ^ 32)).find? ok
  let t := t.getD (c.token % 2 ^ 32)
  (t, { c with token := (t + 1) % 2 ^ 32 })

/-- UNIT of parked work (R358, R352). -/
def Parked.unit (w : Parked) (engine : Nat) : Nat :=
  match w with
  | .group _ => 0
  | .xfer _ => engine
  | .readout _ => 7
  | .token _ => 5
  | .landing _ => 5
  | .update _ => engine
  | .launch _ => 9
  | .result _ _ => 6
  | .chunk _ _ => 6
  | .request _ => engine
  | .access _ => 0

/-- Write the waiting parking entries of a function while its fault ring has room, oldest first (R360). -/
def State.flushParks (s : State) (vf : Nat) : Nat → State
  | 0 => s
  | fuel + 1 =>
    match (s.ctx vf).parks.find? (fun e => !e.written) with
    | none => s
    | some e =>
      match s.push vf 1 e.words with
      | none => s
      | some s =>
        let c := s.ctx vf
        (s.setCtx vf { c with parks := updWhere (fun k => k.token == e.token) (fun k => { k with written := true }) c.parks }).flushParks
          vf fuel

/-- Work parks on a miss (R117, R358, R366): a TOKEN, an entry, written when there is room. `pos` is lane and member. Gives
the TOKEN. -/
def State.parkEntry (s : State) (vf : Nat) (work : Parked) (kind engine : Nat) (pos : Option (Nat × Nat)) (shd wr : Bool)
    (addr info : Nat) (tag : Dword) (word : Nat := 0) : Nat × State :=
  let (t, c) := (s.ctx vf).newToken
  let p := match pos with | some (l, e) => at' 1 47 + at' e 44 + at' l 38 | none => 0
  let w0 := at' kind 60 + p + at' (b2n shd) 37 + at' (b2n wr) 36 + at' (work.unit engine) 32 + t
  let e : ParkEntry := { token := t, words := [dw w0, dw addr, dw info, tag], written := false, work := work, word := word }
  let s := s.setCtx vf { c with parks := c.parks ++ [e] }
  (t, s.flushParks vf (c.parks.length + 1))

/-! ### Becoming ready -/

/-- Room in a group's copy request slot, of 4 (R241); in its partition's slice queue, of 4 (R255); in its partition's readout
buffer, of 4 (R273); in its function's spawn queue, of 64 (R287). -/
def State.copySlot (s : State) (gid : Gid) : List Xfer := s.xfers.filter (fun t => t.gid == gid && t.st == .queued)
def State.copyRoom (s : State) (gid : Gid) : Bool := decide ((s.copySlot gid).length < 4)
def State.sliceRoom (s : State) (p : Nat) : Bool := decide ((s.part p).queue.length < 4)
def State.readoutRoom (s : State) (p : Nat) : Bool := decide ((s.readouts.filter (fun r => r.part == p)).length < 4)
def State.spawnRoom (s : State) (vf : Nat) : Bool := decide ((s.ctx vf).spawnq.length < 64)

/-- Does a fabric request carry work of a group's words? -/
def FabReq.serves (r : FabReq) (gid : Gid) : Bool :=
  match r.body with
  | .access l => l.any (fun a => a.gid == gid)
  | .agg l => l.any (fun e => e.gid == gid)
  | .task g _ _ _ _ => g == gid
  | _ => false

/-! ### Program order (09 R123) -/

/-- A path and its ancestors, at most `fuel` of them. -/
def Group.lineageOf (g : Group) : Nat → Nat → List Nat
  | 0, _ => []
  | fuel + 1, id => id :: (match (g.path? id).bind (·.parent) with | some q => g.lineageOf fuel q | none => [])

/-- A path and its ancestors. -/
def Group.lineage (g : Group) (id : Nat) : List Nat := g.lineageOf (g.paths.length + 1) id

/-- Is what issued from a path with these ancestors earlier, in program order, than what a path with the ancestors `mine` issues now
(R123): from the same path or an ancestor, or from a path that has joined into one of them. The two children of a BDIV, whose numbers follow
each other, are unordered until both have joined. -/
def Group.precedes (g : Group) (mine : List Nat) : List Nat → Bool
  | [] => true
  | x :: up =>
    if mine.contains x then true
    else if (g.path? x).isSome then false
    else match up with
      | [] => false
      | q :: _ =>
        if mine.contains q then !g.paths.any (fun t => t.parent == some q && (t.id - 1) / 2 == (x - 1) / 2)
        else g.precedes mine up

/-- Is an access, an entry of a fabric request, a readout entry earlier in program order than what a path of the group issues now? Accesses of helper
positions take no part (R123). -/
def Access.earlier (a : Access) (g : Group) (mine : List Nat) : Bool := a.gid == g.gid && !a.helper && g.precedes mine a.line
def AggEntry.earlier (e : AggEntry) (g : Group) (mine : List Nat) : Bool := e.gid == g.gid && g.precedes mine e.line
def Readout.earlier (r : Readout) (g : Group) (mine : List Nat) : Bool := r.gid == g.gid && g.precedes mine r.line
def FabReq.earlier (r : FabReq) (g : Group) (mine : List Nat) : Bool :=
  match r.body with
  | .access l => l.any (fun a => a.earlier g mine)
  | .agg l => l.any (fun e => e.earlier g mine)
  | .task gid path _ _ _ => gid == g.gid && mine.contains path
  | _ => false

/-- The stores of its core that a group has observed in the L1 and that are not yet performed at their homes (R125, R128). -/
def State.seenIds (s : State) (g : Group) : List Nat := g.seen.filter (fun i => s.flight.any (fun f => f.id == i))

/-- What an ordered instruction of a path waits for (R133, R138, R146): the group's accesses earlier in program order that are not performed, or
not acknowledged as stores (R127), buffered ones and readouts included, and the stores it has observed. -/
def State.earlierIds (s : State) (g : Group) (path : Nat) : List Nat :=
  let mine := g.lineage path
  ((s.flight ++ s.unacked ++ s.ctxs.flatMap (fun e => e.2.saved.held)).filter (fun a => a.earlier g mine)).map (·.id)
  ++ ((s.reqs ++ s.waitReqs).filter (fun r => r.earlier g mine)).map (·.id)
  ++ (s.agg.filter (fun b => b.entries.any (fun e => e.earlier g mine))).map (·.id)
  ++ (s.updates.filter (fun u => match u.src with | .evsig k _ => k == g.gid | _ => false)).map (·.id)
  ++ (s.readouts.filter (fun r => r.earlier g mine)).map (·.id) ++ s.seenIds g

/-- Does an ordered instruction of a path wait? -/
def State.outstanding (s : State) (g : Group) (path : Nat) : Bool := !(s.earlierIds g path).isEmpty

/-- Has a group accesses that are not yet performed, or not acknowledged as stores? -/
def State.unfinished (s : State) (gid : Gid) : Bool :=
  s.flight.any (fun a => a.gid == gid) || s.unacked.any (fun a => a.gid == gid) || s.ctxs.any (fun e => e.2.saved.held.any (fun a => a.gid == gid))
  || s.reqs.any (fun r => r.serves gid) || s.waitReqs.any (fun r => r.serves gid)
  || s.agg.any (fun b => b.entries.any (fun e => e.gid == gid))
  || s.updates.any (fun u => match u.src with | .evsig g _ => g == gid | _ => false)
  || s.readouts.any (fun r => r.gid == gid)

/-- Is something of this name still outstanding? A buffer's request bears the buffer's name. -/
def State.isPending (s : State) (id : Nat) : Bool :=
  s.flight.any (fun a => a.id == id) || s.ctxs.any (fun e => e.2.saved.held.any (fun a => a.id == id) || e.2.saved.readouts.any (fun r => r.id == id))
  || s.unacked.any (fun a => a.id == id) || s.reqs.any (fun r => r.id == id)
  || s.waitReqs.any (fun r => r.id == id) || s.agg.any (fun b => b.id == id) || s.updates.any (fun u => u.id == id)
  || s.readouts.any (fun r => r.id == id)

/-- Is a store that stores only: nothing returns (R153)? -/
def Access.quiet (a : Access) : Bool := match a.kind with | .store => true | .atomic _ _ r => !r | .load => false

/-- Is something of this name not yet performed at a scope (R126, R127)? Within a core, scopes 0 and 1, a store is performed once it is written
into the L1 (R125); a write to a peer page is performed at the scopes up to cluster once it is transmitted, since every later access of the
device follows it on its carriageway (R145). -/
def State.pendingAt (s : State) (scope id : Nat) : Bool :=
  s.flight.any (fun a => a.id == id && !(decide (scope ≤ 1) && a.l1.isSome))
  || s.unacked.any (fun a => a.id == id && decide (2 ≤ scope))
  || s.reqs.any (fun r => r.id == id && !(decide (scope ≤ 2) && (match r.body with | .access l => l.all Access.quiet | _ => false)))
  || s.ctxs.any (fun e => e.2.saved.held.any (fun a => a.id == id) || e.2.saved.readouts.any (fun r => r.id == id))
  || s.waitReqs.any (fun r => r.id == id) || s.agg.any (fun b => b.id == id) || s.updates.any (fun u => u.id == id)
  || s.readouts.any (fun r => r.id == id)

/-- K-steps of a member's part of a matrix operation (R263): 16 values of K each for FP formats, else one. -/
def MatOp.kSteps (o : MatOp) : Nat :=
  match o.kind with
  | .aclr _ => 1
  | _ => if dfield o.fbo 3 0 ≤ 3 then 2 ^ dfield o.fbo 9 8 else 1

/-- Tiles of a set: 4, or 8 for W = 64 (R253). -/
def setTiles (w : Nat) : Nat := if w = 64 then 8 else 4

/-- Does a queued matrix operation name a tile from `lo` to `hi - 1`? -/
def MatOp.names (o : MatOp) (w lo hi : Nat) : Bool :=
  let n := match o.kind with | .aclr n => n | _ => setTiles w
  decide (o.atb < hi) && decide (lo < o.atb + n)

/-- The matrix operations queued or in progress on a partition, in issue order. -/
def Part.ops (k : Part) : List MatOp := k.busy.toList ++ k.queue

/-- Does a slot's wait for tiles hold no longer (R255)? -/
def State.tilesFree (s : State) (g : Group) (lo hi : Nat) : Bool :=
  !(s.part g.part).ops.any (fun o => o.gid == g.gid && o.names g.w lo hi)

/-- Does the wait of a slot hold no longer, for the waits that end with a change of state elsewhere? -/
def State.waitOver (s : State) (g : Group) (path : Nat) (w : Wait) : Bool :=
  match w with
  | .regs v sh r =>
    v.all (fun e => fget 0 g.vEmpty e.1 &&& e.2 == 0)
    && sh.all (fun e => fget 0 g.shEmpty e.1 &&& e.2 == 0) && g.sEmpty &&& r == 0
  | .copySlot => s.copyRoom g.gid
  | .slice => s.sliceRoom g.part
  | .readout => s.readoutRoom g.part
  | .tiles lo hi => s.tilesFree g lo hi
  | .spawn => s.spawnRoom g.vf
  | .order _ => !s.outstanding g path && g.polling.isNone
  | .line l => !s.lineHeld l
  | _ => false

/-- The slot of a path becomes ready now (R37). -/
def Path.readied (p : Path) (now : Nat) : Path := { p with wait := .none, readyAt := now }

/-- Ready every slot whose wait is over. -/
def State.wake (s : State) : State :=
  { s with groups := s.groups.map (fun g =>
      { g with paths := g.paths.map (fun p => if s.waitOver g p.id p.wait then p.readied (s.core (g.part / 4)).cycles else p) }) }

/-- Ready one slot. -/
def State.readyPath (s : State) (gid : Gid) (path : Nat) : State :=
  s.onGroup gid (fun g => g.onPath path (fun p => p.readied (s.core (g.part / 4)).cycles))

/-! ### Tenures of capsule records (19 R290, R296, R297) -/

/-- The lock word of a record with a new STATE {23:20}. -/
def lockState (l st : Nat) : Nat := l - at' (field l 23 20) 20 + at' st 20

/-- Is the group the current runner of the record at `loc` (R296): the holder while held, the adopter while adopted, or
either while stalled? -/
def State.runsTenure (s : State) (g : Group) (loc : Loc) (st : Nat) : Bool :=
  let l := s.readLoc loc 8
  let who := if g.cap.role = 1 then l / 2 ^ 24 else s.readLoc (loc.add 208) 8 % 2 ^ 40
  l % 2 ^ 12 == g.cap.seq && field l 23 20 == st && who == g.gid.toNat

/-- The values on their way to s48-s63 of a group. -/
def Fill.noCap (f : Fill) : Fill :=
  { f with items := f.items.filter (fun i => match i with | .s r _ => decide (r < 48) | _ => true) }

/-- The runner of a tenure becomes unable to issue: its step's buffer is lost, with the values that its loads have on their way to s48-s63, and
LOCK is marked stalled while it still shows this runner (R296, R297). -/
def State.stall (s : State) (gid : Gid) : State :=
  match s.group gid with
  | none => s
  | some g =>
    if !g.cap.inMode || g.cap.stalled then s
    else
      let s := s.onGroup gid (fun g => { g with cap := { g.cap with stalled := true, buffer := [], vas := [], lines := [] } })
      let s : State := { s with fills := s.fills.map (fun f => if f.gid = gid then f.noCap else f) }
      match s.locOf g.vf g.cap.record with
      | none => s
      | some loc =>
        if s.runsTenure g loc (if g.cap.role = 1 then 1 else 3) then s.writeNum loc 8 (lockState (s.readLoc loc 8) 2) none g.vf
        else s

/-- A stalled runner issues again: held or adopted is restored where LOCK still shows it stalled, and the step restarts at its
resume address with s48-s63 of its last commit (R296, R297). -/
def State.unstall (s : State) (gid : Gid) : State :=
  match s.group gid with
  | none => s
  | some g =>
    if !g.cap.stalled then s
    else
      let s := match s.locOf g.vf g.cap.record with
        | none => s
        | some loc =>
          if s.runsTenure g loc 2 then s.writeNum loc 8 (lockState (s.readLoc loc 8) (if g.cap.role = 1 then 1 else 3)) none g.vf
          else s
      s.onGroup gid (fun g =>
        let g := (List.range 16).foldl (fun g i => g.setS (48 + i) (g.cap.regs.getD i 0)) g
        let g := g.onPath g.cap.path (fun t => { t with pc := g.cap.resume, fetched := none, code := [], widx := 0, entered := false, resumeAt := 0,
                                                        only := none, wait := .none })
        { g with cap := { g.cap with stalled := false } })

/-! ### Taking a fault: the halt line (25 R346-R350, R362) -/

/-- A fault by a code alone. -/
def FaultInfo.of (code : Nat) : FaultInfo := { code := code, cause := 0, pos := none, shd := false, faddr := 0, daddr := 0 }

/-- A fault with a cause. -/
def FaultInfo.with (code cause : Nat) : FaultInfo := { FaultInfo.of code with cause := cause }

/-- The halt line of a function is raised by a unit (R346): its context begins to stop, or goes on stopping for the halt and no longer for a
pre-emption (log entry 109); the first unit and fault are kept for FIRST (R351). -/
def State.raiseHalt (s : State) (vf : Nat) (u : Option StopUnit) (f : FaultInfo) : State :=
  let c := s.ctx vf
  match c.st with
  | .live => s.setCtx vf { c with st := .stopping false, first := u, firstFault := some f }
  | .stopping true => s.setCtx vf { c with st := .stopping false, first := u, firstFault := some f }
  | _ => s

/-- TAKING A FAULT, for a group (R346, R348): the group keeps the fault for its stop record and stops at the faulting word,
its outstanding tenure is no longer runnable, and the halt line of its function is raised. -/
def State.takeFault (s : State) (gid : Gid) (f : FaultInfo) : State :=
  match s.group gid with
  | none => s
  | some g =>
    let s := s.stall gid
    let s := s.onGroup gid (fun g => { g with fault := some f, stopped := true })
    s.raiseHalt g.vf (some (.group gid)) f

/-- LEAVING A FAULT (R357): the halted or switched-out context of a function becomes live again; a group kept by the stop
goes on at its resume point, its fault cleared (R348): an aggregation fault has emptied the log (R144), a claim-deadlock issues its
claim afresh (R305). -/
def Group.resumed (g : Group) : Group :=
  let g : Group := match g.fault with
    | none => g
    | some f => if f.code = 0x20 then { g with aggLog := [], aggLost := 0 } else if f.code = 0x18 then { g with park := .none } else g
  { g with fault := none, stopped := false }

def State.leaveFault (s : State) (vf : Nat) : State :=
  let c := s.ctx vf
  let s := s.setCtx vf { c with st := .live, first := none, firstFault := none, acked := [], saved := Saved.none,
                                keptResume := [] }
  { s with groups := updWhere (fun g => g.vf == vf) Group.resumed s.groups }

/-! ### The issuing word -/

/-- The word that is issuing (R151): partition, group, path, clause, the prefix if one stands before it, the word's address,
the index at which prefix or word begins and the index after the word; `miss` are positions left to a re-execution (R239). -/
structure Ix where
  p : Nat
  g : Group
  path : Path
  cl : Clause
  hasPre : Bool
  pre : Prefix
  addr : Nat
  idx : Nat
  next : Nat
  miss : Mask := 0
  deriving DecidableEq, Repr

/-- The runner of a partition's leg: the winner, or the partner when its turn is due (R39). -/
def Run.current (r : Run) : Gid × Nat :=
  match r.partner with | some q => if r.turn then q else (r.gid, r.path) | none => (r.gid, r.path)

/-- The issuing word of a path of a group. -/
def ixOf (p : Nat) (g : Group) (path : Path) : Option Ix :=
  match path.fetched with
  | none => none
  | some cl =>
    match cl.words.drop path.widx with
    | [] => none
    | w :: ws =>
      if isPrefix w && !ws.isEmpty then
        some { p := p, g := g, path := path, cl := cl, hasPre := true, pre := decodePrefix w,
               addr := cl.base + 4 * (path.widx + 2), idx := path.widx, next := path.widx + 2 }
      else
        some { p := p, g := g, path := path, cl := cl, hasPre := false, pre := Prefix.none,
               addr := cl.base + 4 * (path.widx + 1), idx := path.widx, next := path.widx + 1 }

/-- What a partition is issuing. -/
def State.ixAt (s : State) (p : Nat) : Option Ix :=
  match (s.part p).run with
  | none => none
  | some r =>
    match s.group r.current.1 with
    | none => none
    | some g => match g.path? r.current.2 with
      | none => none
      | some path => if path.eligible then ixOf p g path else none

/-- The word that is issuing now: that of the partition `cur` names. -/
def State.issuer (s : State) : Option Ix := match s.cur with | some p => s.ixAt p | none => none

/-- The rounding mode of the word (R55). -/
def Ix.mode (x : Ix) : Nat := if x.pre.rnd.toNat = 0 then x.g.mode else x.pre.rnd.toNat

/-- The predicate of the prefix at every position (R158). -/
def Ix.pred (x : Ix) : Mask :=
  let m := x.g.mreg x.pre.mask.toNat
  if x.pre.inv then ~~~m &&& lowMask x.g.n else m

/-- The positions a re-execution is confined to (R117). -/
def Ix.scope (x : Ix) : Mask := match x.path.only with | some m => m | none => BitVec.allOnes 256

/-- Active positions (R158). -/
def Ix.act (x : Ix) : Mask := x.path.mask &&& x.pred &&& x.scope &&& ~~~x.miss

/-- Helper positions (R32). -/
def Ix.hlp (x : Ix) : Mask := x.g.helperMask x.path.mask &&& x.scope &&& ~~~x.miss

/-- Predicated-off positions that ZERO clears; a re-execution has cleared them already (R158). -/
def Ix.off (x : Ix) : Mask := if x.pre.zero && x.path.only.isNone then x.path.mask &&& ~~~x.pred else 0

/-! ### Cost and the end of a word -/

/-- How a word spends core cycles (R27, R211): whether it executes passes, whether helpers count, two cycles a pass, further
cycles; `solo` says that a unison pair never issues it jointly (R255, R278), `reads` are positions that it reads as a cross-lane source
besides those it executes at (R211). -/
structure Cost where
  vec : Bool
  hlp : Bool
  wide : Bool
  extra : Nat
  solo : Bool := false
  reads : Ix → Mask := fun _ => 0

/-- A word that executes no pass (R27). -/
def Cost.one : Cost := { vec := false, hlp := false, wide := false, extra := 0 }

/-- Such a word that a unison pair issues one after the other (R255, R278). -/
def Cost.alone : Cost := { Cost.one with solo := true }

/-- A vector word (R27). -/
def Cost.vector (hlp : Bool) : Cost := { vec := true, hlp := hlp, wide := false, extra := 0 }

/-- A matrix word with passes, which never issues jointly (R255). -/
def Cost.matrix : Cost := { Cost.vector false with solo := true }

/-- The pass and physical lane of a position (R27). -/
def Group.phys (g : Group) (p : Nat) : Nat × Nat :=
  if g.w = 64 then (2 * g.member p + g.lane p / 32, g.lane p % 32)
  else (g.member p, if g.w = 16 then g.lane p + g.laneOff else g.lane p)

/-- The passes of a vector instruction (R27). -/
def Group.passes (g : Group) : Nat := if g.w = 64 then 2 * g.e else g.e

/-- The (pass, lane) pairs a word executes at. -/
def Ix.physAt (x : Ix) (c : Cost) : List (Nat × Nat) :=
  if c.vec then (positions x.g.n (if c.hlp then x.act ||| x.hlp else x.act)).map x.g.phys else []

/-- The (pass, lane) pairs that decide whether a pair's word issues jointly (R39, R211): those it executes at, and those it reads. -/
def Ix.usesAt (x : Ix) (c : Cost) : List (Nat × Nat) := x.physAt c ++ (positions x.g.n (c.reads x)).map x.g.phys

/-- How many passes a list of (pass, lane) pairs executes. -/
def passCount (l : List (Nat × Nat)) : Nat := (List.range 16).countP (fun i => l.any (fun q => q.1 == i))

/-- What a word does: it completes; it is a control transfer that has set the path; it faults; it does not execute and its
leg ends with a wait; it completes and its leg ends with a wait; its group has parked at it, at the positions `missed` when it executes
at others. -/
inductive Res where
  | done (s : State) (c : Cost)
  | moved (s : State)
  | trap (f : FaultInfo)
  | wait (s : State) (w : Wait)
  | doneWait (s : State) (w : Wait) (c : Cost := Cost.one)
  | parked (s : State) (c : Cost := Cost.alone) (missed : Mask := 0)

/-- The core cycle at which a partition's next word issues: its next free cycle, or later by an amount that no rule bounds. -/
def State.issueCycle (s : State) (p : Nat) : Nat :=
  let a := (s.core (p / 4)).cycles
  let b := (s.part p).freeAt
  (if a < b then b else a) + s.choice

/-- The core has counted at least `n` cycles; busy ones while a group of the enabled VF is resident (R384). -/
def State.coreTo (s : State) (core n : Nat) : State :=
  let k := s.core core
  let vf := dfield s.manage.pmctl 53 48
  let t := s.setCore core { k with cycles := max k.cycles n }
  if s.groups.any (fun g => g.vf == vf && g.part / 4 == core) then t.count vf core 0x01 (n - k.cycles) else t

/-- Core cycles pass: a word issues at the partition's next free cycle, or later by an amount that no rule bounds (R180), and
keeps the issue slot for its cost (R27). A unison pair's word issues jointly when the two groups' positions are disjoint, at one slot
and the passes that either executes: the winner's turn decides it and pays for both (R39). -/
def State.spendCycles (s : State) (x : Ix) (c : Cost) : State :=
  let core := x.p / 4
  let run := (s.part x.p).run
  let mine := x.physAt c
  let partner : Option Ix := run.bind (fun r => if r.turn then none else r.partner.bind (fun q =>
    (s.group q.1).bind (fun g => (g.path? q.2).bind (ixOf x.p g))))
  let other : List (Nat × Nat) := match partner with | some y => y.physAt c | none => []
  let joint := !c.solo && partner.any (fun y => (x.usesAt c).all (fun q => !(y.usesAt c).contains q))
  let second := run.any (fun r => r.paid && (r.turn || r.partner.isNone))
  let passes := if joint then passCount (mine ++ other) else passCount mine
  let cost := if second then 0 else 1 + (if c.wide then 2 * passes else passes) + c.extra
  let start := s.issueCycle x.p
  let s := s.spend.coreTo core start
  let s := s.setPart x.p { s.part x.p with freeAt := if second then (s.part x.p).freeAt else start + cost,
                                           run := run.map (fun r => { r with paid := joint }) }
  if c.vec then
    (s.count x.g.vf core 0x03 (passCount mine)).count x.g.vf core 0x04 (x.g.passes - passCount mine)
  else s

/-- After a word or a leg's end: who issues next on the partition (R36, R39). `ended` says that the runner's leg is over. -/
def State.advanceRun (s : State) (p : Nat) (ended : Bool) : State :=
  let k := s.part p
  match k.run with
  | none => s
  | some r =>
    match r.partner with
    | none => s.setPart p { k with run := if ended then none else some r }
    | some q =>
      let spot (e : Gid × Nat) : Option (Nat × Nat × Bool) :=
        (s.group e.1).bind (fun g => (g.path? e.2).map (fun t => (t.pc, t.widx, t.fetched.isSome)))
      if !r.turn then
        if ended then s.setPart p { k with run := some { r with gid := q.1, path := q.2, partner := none, turn := false } }
        else s.setPart p { k with run := some { r with turn := true } }
      else if ended then s.setPart p { k with run := some { r with partner := none, turn := false } }
      else if spot (r.gid, r.path) = spot q then s.setPart p { k with run := some { r with turn := false } }
      else s.setPart p { k with run := some { r with partner := none, turn := false }, next := some q }

/-- The runner's leg ends with a wait (R36). -/
def State.endLeg (s : State) (p : Nat) (gid : Gid) (path : Nat) (w : Wait) : State :=
  let now := (s.part p).freeAt
  let s := s.onGroup gid (fun g => g.onPath path (fun t => { t with wait := w, count := 0, lastLeg := now, readyAt := now, aged := false, classAged := false, passed := 0 }))
  s.advanceRun p true

/-- The address of the clause header after a clause (R151). -/
def Clause.after (c : Clause) : Nat := c.base + 4 * (c.hdr.n + 1)

/-- The word retires: the next word, or the next clause, where MS ends the leg (R36, R152). A new leg after MS starts fresh
(R387). -/
def State.retire (s : State) (x : Ix) (w : Option Wait) : State :=
  let last := x.cl.words.length ≤ x.next
  let s := s.onGroup x.g.gid (fun g => g.onPath x.path.id (fun t => if last then { t.goto x.cl.after with fresh := x.cl.hdr.ms }
      else { t with widx := x.next, only := none }))
  match w with
  | some w => s.endLeg x.p x.g.gid x.path.id w
  | none => if last && x.cl.hdr.ms then s.endLeg x.p x.g.gid x.path.id .none else s.advanceRun x.p false

/-- A control transfer has set the paths; MS, or the end of the path, ends the leg (R36, R154). -/
def State.transferred (s : State) (x : Ix) : State :=
  let alive := match s.group x.g.gid with
    | some g => (g.path? x.path.id).any Path.eligible
    | none => false
  let s := s.onGroup x.g.gid (fun g => g.onPath x.path.id (fun t => { t with fresh := x.cl.hdr.ms }))
  if x.cl.hdr.ms || !alive then s.endLeg x.p x.g.gid x.path.id .none else s.advanceRun x.p false

/-- The leg ends at a word of its clause, so that the next one does not begin at the header (R156). -/
def State.enterClause (s : State) (x : Ix) : State :=
  s.onGroup x.g.gid (fun g => g.onPath x.path.id (fun t => { t with entered := t.fetched.isSome }))

/-- The consequence of what a word does. -/
def State.finish (s : State) (x : Ix) (r : Res) : State :=
  match r with
  | .done t c => (t.spendCycles x c).retire x none
  | .moved t => (t.spendCycles x Cost.one).transferred x
  | .trap f => ((s.reportPois x.g.vf x.g.gid.toNat f).takeFault x.g.gid { f with faddr := if f.faddr = 0 then x.addr else f.faddr }).endLeg x.p x.g.gid x.path.id .none
  | .wait t w => (t.enterClause x).endLeg x.p x.g.gid x.path.id w
  | .doneWait t w c => (t.spendCycles x c).retire x (some w)
  | .parked t c missed => ((t.enterClause x).spendCycles { x with miss := missed } c).endLeg x.p x.g.gid x.path.id .none

/-! ### Capsule mode (19 R291) -/

/-- What capsule mode allows of a word: scalar instructions, LD, ST, BRA and NOP are marked so where they issue, CAP decides
for itself. -/
inductive CapUse where
  | allowed
  | cap
  | never
  deriving DecidableEq, Repr

/-- Does the issuing path stand in capsule mode (R291)? -/
def Ix.inCapsule (x : Ix) : Bool := x.g.cap.inMode && x.g.cap.path == x.path.id

/-- In capsule mode a word that the mode excludes raises capsule with cause 4 (R298), unless the table of R169, which comes first, gives
it another fate: illegal-instruction, illegal-format or register-range. -/
def capsuleRes (r : Res) : Res :=
  match r with
  | .trap f => if f.code == 0x11 || f.code == 0x12 || f.code == 0x13 then .trap f else .trap (FaultInfo.with 0x22 4)
  | _ => .trap (FaultInfo.with 0x22 4)

/-- A word is performed by its meaning: powered, with an issuer, allowed in capsule mode (R298 cause 4). -/
def State.word (s : State) (u : CapUse) (f : State → Ix → Res) : Host.Outcome State Fault Refusal :=
  if s.manage.poweredDown then .fault .poweredDown
  else match s.issuer with
    | none => .fault .noIssuer
    | some x =>
      .next (s.finish x (if x.inCapsule && u == .never then capsuleRes (f s x) else f s x))

/-- A step of the part without a word: it happens when it is due, and slots whose waits it ends become ready (R37). -/
def State.event (s : State) (due : Bool) (t : State) : Host.Outcome State Fault Refusal :=
  if s.manage.poweredDown then .fault .poweredDown
  else if due then .next t.wake else .fault .notDue

end Sys2Proof.Machine
end

