-- ==== Sys2Proof/Machine/Operands.lean ====
section
/-! DEFINITION. Operands and the checks of a word at issue: prefix fields accepted (11 R157, R181), register ranges (R161,
R169), full and empty registers (R159, R166), bound streams (15 R235-R239), activity and the writing of results (R158,
R178). -/
namespace Sys2Proof.Machine

/-! ### Prefix fields -/

/-- Which prefix fields an instruction accepts (R157, R181, R227, R230, R278): MASK and INV, ZERO, RND, the fourth operand
and whether it is required, SAT, EPA, EPB. EPC is accepted where a fourth operand is. -/
structure Accept where
  mask : Bool := false
  zero : Bool := false
  rnd : Bool := false
  cp : Bool := false
  need : Bool := false
  sat : Bool := false
  epa : Bool := false
  epb : Bool := false

/-- Does the instruction accept the prefix before it? RND 6-7 and a reserved bit are never accepted (R157). -/
def Accept.ok (a : Accept) (hasPre : Bool) (p : Prefix) : Bool :=
  if hasPre then
    p.rz == 0 && decide (p.rnd.toNat ≤ 5) && (p.cp || p.creg == 0) && (a.mask || (p.mask == 0 && !p.inv))
    && (a.zero || !p.zero) && (a.rnd || p.rnd == 0) && (a.cp || !p.cp) && (!a.need || p.cp) && (a.sat || !p.sat)
    && (a.epa || !p.epa) && (a.epb || !p.epb) && (p.cp || !p.epc)
  else !a.need

/-- Vector instructions of 0x00-0x3F (R181). -/
def Accept.vec (epa epb : Bool) : Accept := { mask := true, zero := true, epa := epa, epb := epb }

/-- Instructions that accept no prefix field but EPA and EPB (R181, R278). -/
def Accept.scalar (epa epb : Bool) : Accept := { epa := epa, epb := epb }

/-- Illegal-instruction of the word, or of the prefix word when the prefix is to blame. -/
def illegal : FaultInfo := FaultInfo.of 0x11
def Ix.illegalPrefix (x : Ix) : FaultInfo := { FaultInfo.of 0x11 with faddr := x.cl.base + 4 * (x.idx + 1) }

/-! ### Streams -/

/-- IC, OC and their product (R235). -/
def Stream.ic (q : Stream) : Nat := dfield q.q1 23 0
def Stream.oc (q : Stream) : Nat := dfield q.q1 47 24
def Stream.total (q : Stream) : Nat := q.ic * q.oc

/-- The P word: END and POS; an unset register has END 0 (R235). -/
def Stream.pWord (q : Stream) : Dword := dw (q.pos + if q.total ≠ 0 ∧ q.pos = q.total then 2 ^ 63 else 0)

/-- The address of element `k` (R235). -/
def Stream.elemAddr (q : Stream) (k : Nat) : Nat :=
  let i : Int := q.q0.toNat + ((k / q.ic : Nat) : Int) * toSigned 32 (dfield q.q2 63 32) + ((k % q.ic : Nat) : Int) * toSigned 32 (dfield q.q2 31 0)
  ofSigned 64 i

/-- The traversal index of a lane's element and its element number, none past the end (R238). -/
def Stream.elem (q : Stream) (lane : Nat) : Option (Nat × Nat) :=
  let t := q.pos + lane
  if q.total ≤ t then none else some (t, if dbit q.q1 61 then q.total - 1 - t else t)

/-- Element size in bytes (R235). -/
def Stream.esize (q : Stream) : Nat := 2 ^ dfield q.q1 60 59

/-- Is a wait for elements of this stream? -/
def Wait.isStream (w : Wait) (q : Nat) : Bool := match w with | .stream r _ => r == q | _ => false

/-- The stream bound to an operand slot (0 a, 1 b, 2 c) and register, if any (R237). -/
def Group.bound (g : Group) (slot reg : Nat) : Option Nat :=
  if slot < 3 then (List.range 8).find? (fun q => (fget Stream.reset g.q q).bind == some (slot, reg)) else none

/-- How the read of an element stands (R238, R116). -/
def State.elemAccess (s : State) (g : Group) (q : Stream) (e k : Nat) : Nat × AccRes :=
  let a := q.elemAddr k
  match dfield q.q1 63 62 with
  | 0 => s.memberAccess g.vf e a false q.esize
  | 1 => (a, s.scrAccess g a q.esize)
  | _ => (a, s.weightAccess g.vf (dieOfCore (coreOf g.part)) a q.esize)

/-! ### Vector operands -/

/-- A v register read as an operand: register, operand slot (0 a, 1 b, 2 c, 3 none; 4, 5 and
6 registers of the A, B and C fields that no stream feeds), pair. -/
structure VSrc where
  reg : Nat
  slot : Nat
  pair : Bool
  deriving DecidableEq, Repr

/-- Does an empty source in this slot trap (R159)? -/
def Ix.traps (x : Ix) (slot : Nat) : Bool :=
  let e (n : Nat) : Bool := match n with
    | 0 => x.pre.epa | 1 => x.pre.epb | 2 => x.pre.epc | 4 => x.pre.epa | 5 => x.pre.epb | 6 => x.pre.epc | _ => false
  x.cl.hdr.epol || e slot

/-- What a vector word reads and writes: v sources, s sources (register and slot), v registers written, s registers written,
whether it executes at helpers, whether sources at helpers are shadows (QSWZ, QDIFF). -/
structure VOp where
  acc : Accept
  legal : Bool
  vs : List VSrc
  ss : List (Nat × Nat) := []
  vd : List Nat := []
  sd : List Nat := []
  hlp : Bool := false
  shadowSrc : Bool := false
  cross : Bool := false
  cost : Cost

/-- Positions at which the word executes. -/
def Ix.execAt (x : Ix) (o : VOp) : Mask := if o.hlp then x.act ||| x.hlp else x.act

/-- The registers a source names. -/
def VSrc.regs (v : VSrc) : List Nat := if v.pair then [v.reg, v.reg + 1] else [v.reg]

/-- The v sources read from registers, not from streams. -/
def Ix.regSrcs (x : Ix) (o : VOp) : List VSrc := o.vs.filter (fun v => (x.g.bound v.slot v.reg).isNone)

/-- The streams consumed, each once (R238). -/
def Ix.consumed (x : Ix) (o : VOp) : List (Nat × VSrc) := o.vs.filterMap (fun v => (x.g.bound v.slot v.reg).map (fun q => (q, v)))

/-- Is every register named below V′ (R34, R169)? -/
def Ix.inRange (x : Ix) (o : VOp) : Bool :=
  (o.vs.all (fun v => v.regs.all (fun r => decide (r < x.g.vcur)))) && o.vd.all (fun r => decide (r < x.g.vcur))

/-- Is a register's empty bit the mark that the word itself made when it first issued, so that its re-execution does not meet it
(R117, R166)? -/
def Ix.ownMark (x : Ix) (o : VOp) (r : Nat) : Bool := x.path.only.isSome && o.vd.contains r

/-- The positions of a source's registers that are empty where the word executes (R166). A shadow source at a helper tests
the shadow's bit. -/
def Ix.emptyAt (x : Ix) (o : VOp) (r : Nat) : Mask :=
  if x.ownMark o r then 0
  else
  let ex := x.execAt o
  let ofShadow := if o.shadowSrc then maskOf x.g.n (fun p => has x.hlp p && x.g.shEmptyAt r p) else 0
  let plain := if o.shadowSrc then x.act else ex
  (fget 0 x.g.vEmpty r &&& plain) ||| ofShadow

/-- The first position of a mask as lane and member (R182). -/
def Group.firstPos (g : Group) (m : Mask) : Option (Nat × Nat) :=
  (positions g.n m).head?.map (fun p => (g.lane p, g.member p))

/-- Empty sources that trap: the first position, if any (R166). -/
def Ix.emptyTrap (x : Ix) (o : VOp) : Option FaultInfo :=
  let ms := (x.regSrcs o).flatMap (fun v => if x.traps v.slot then v.regs.map (x.emptyAt o) else [])
  let m := ms.foldl (· ||| ·) 0
  if m ≠ 0 then some { FaultInfo.of 0x14 with pos := x.g.firstPos m }
  else if o.ss.any (fun r => x.traps r.2 && x.g.sEmptyAt r.1) then some (FaultInfo.of 0x14)
  else none

/-- Empty sources under block policy, and registers to be written that are empty where they are written (R166), as what the
slot waits for. A re-execution's own destinations are empty and do not wait (R117). -/
def Ix.emptyWait (x : Ix) (o : VOp) : Option Wait :=
  let src := (x.regSrcs o).flatMap (fun v => v.regs.map (fun r => (r, x.emptyAt o r)))
  let wr : Mask := if x.path.only.isSome then 0 else x.act ||| x.off
  let dst := o.vd.map (fun r => (r, fget 0 x.g.vEmpty r &&& wr))
  let sh := if o.hlp && x.path.only.isNone then o.vd.map (fun r => (r, fget 0 x.g.shEmpty r &&& fget 0 x.g.shLive r &&& x.hlp)) else []
  let shs := if o.shadowSrc then ((x.regSrcs o).flatMap VSrc.regs |>.filter (fun r => !x.ownMark o r)).map (fun r => (r, fget 0 x.g.shEmpty r &&& x.hlp)) else []
  let v := (src ++ dst).filter (fun e => e.2 != 0)
  let h := (sh ++ shs).filter (fun e => e.2 != 0)
  let rs := (o.ss.map (fun r => r.1) ++ o.sd).foldl (fun m r => if x.g.sEmptyAt r then m ||| dw (2 ^ r) else m) 0
  if v.isEmpty && h.isEmpty && rs == 0 then none else some (.regs v h rs)

/-- Stream-format of a consumer (R238): an unset stream, or a width that does not fit. -/
def Ix.streamBad (x : Ix) (o : VOp) : Bool :=
  (x.consumed o).any (fun c =>
    let q := fget Stream.reset x.g.q c.1
    q.total == 0 || (dfield q.q1 60 59 == 3) != c.2.pair)

/-- How the elements that a word's positions need stand: the first fault, the misses, those that have not arrived, as (stream, key), and the places of
those that are read. Helpers' faults and misses read as zero (R238). -/
structure ElemNeed where
  fault : Option (Nat × Nat × Nat × Nat)
  misses : List (Nat × Nat × Bool)
  absent : List (Nat × Nat)
  read : List (Nat × Loc)
  deriving DecidableEq, Repr

def State.elemNeeds (s : State) (x : Ix) (o : VOp) : ElemNeed :=
  (positions x.g.n (x.execAt o)).foldl (fun acc p =>
    (x.consumed o).foldl (fun acc c =>
      let q := fget Stream.reset x.g.q c.1
      match q.elem (x.g.lane p) with
      | none => acc
      | some (t, k) =>
        let key := 8 * t + x.g.member p
        let here := q.fetched.any (fun f => f.1 == key)
        match s.elemAccess x.g q (x.g.member p) k with
          | (a, .fault code cause) =>
            if here then acc else if has x.act p && acc.fault.isNone then { acc with fault := some (p, a, code, cause) } else acc
          | (a, .miss d) => if here then acc else if has x.act p then { acc with misses := acc.misses ++ [(p, a, d)] } else acc
          | (a, .at_ l) => if here then { acc with read := acc.read ++ [(a, l)] } else { acc with absent := acc.absent ++ [(c.1, key)] }) acc)
    { fault := none, misses := [], absent := [], read := [] }

/-- The elements that a word consumes are read: their pages' entries say so (R104). Those of peer pages said so when they were asked for. -/
def State.touchElems (s : State) (vf : Nat) (es : List (Nat × Loc)) : State :=
  es.foldl (fun s e => match e.2 with
    | .hbm _ => s.touch vf e.1 false e.2
    | .host _ => s.touch vf e.1 false e.2
    | _ => s) s

/-- The elements that a word consumes are read: their pages are marked, and the values of elements not read are taken (log entry 14). -/
def State.readElems (s : State) (x : Ix) (o : VOp) (es : List (Nat × Loc)) : State :=
  let t := s.touchElems x.g.vf es
  { t with free := if (x.consumed o).isEmpty then t.free else t.free + 256 }

/-- The value of a source at a position: an element, the shadow where shadows are read, or the register (R178, R238). An
element of a position that does not execute is not read: a free value (log entry 14). -/
def Ix.srcVal (x : Ix) (o : VOp) (free : Nat) (v : VSrc) (p : Nat) : Nat :=
  match x.g.bound v.slot v.reg with
  | some i =>
    let q := fget Stream.reset x.g.q i
    if has (x.execAt o) p then
      match q.elem (x.g.lane p) with
      | none => 0
      | some (t, _) => (fget 0 q.fetched (8 * t + x.g.member p)).toNat % (if v.pair then 2 ^ 64 else 2 ^ 32)
    else (Config.freeValue (free + p)).toNat % (if v.pair then 2 ^ 64 else 2 ^ 32)
  | none => x.g.vval v.pair v.reg p

/-- The value of a source read through shadows (QSWZ, QDIFF): a helper's shadow, else as usual (R33, R202). -/
def Ix.srcValSh (x : Ix) (o : VOp) (free : Nat) (v : VSrc) (p : Nat) : Nat :=
  if has x.hlp p && (x.g.bound v.slot v.reg).isNone then (x.g.sh1 v.reg p).toNat else x.srcVal o free v p

/-! ### Parking on a miss (R117) -/

/-- The group parks on misses: one entry a distinct page, naming its first position; the word re-executes for `again` only.
`shd` marks a shared access, `wr` a write. A word that executes once for the group names no position. -/
def State.parkMiss (s : State) (x : Ix) (misses : List (Nat × Nat × Bool)) (again : Mask) (shd wr : Bool) : State :=
  let g := x.g
  let page (m : Nat × Nat × Bool) : Nat × Nat := s.missPage g.vf m.2.1
  let pages := misses.foldl (fun l m => if l.any (fun k => page k == page m) then l else l ++ [m]) ([] : List (Nat × Nat × Bool))
  let s := s.stall g.gid
  let (ts, s) := pages.foldl (fun (acc : List Nat × State) m =>
    let pos := if again = 0 then none else if shd then some (g.lane m.1, 0) else some (g.lane m.1, g.member m.1)
    let (t, s) := acc.2.parkEntry g.vf (.group g.gid) (if m.2.2 then 1 else 2) 0 pos shd wr m.2.1 g.gid.toNat g.tag x.addr
    (acc.1 ++ [t], s)) ([], s)
  let s := s.onGroup g.gid (fun g => { g.onPath x.path.id (fun t => { t with only := if again = 0 then t.only else some again }) with
    park := .miss, tokens := g.tokens ++ ts })
  s.count g.vf (coreOf x.p) 0x10 1

/-! ### Running a vector word -/

/-- The checks of R169 before any effect: fields, prefix, ranges. -/
def Ix.vecFault (x : Ix) (o : VOp) : Option FaultInfo :=
  if !o.legal then some illegal
  else if !o.acc.ok x.hasPre x.pre then some x.illegalPrefix
  else if !x.inRange o then some (FaultInfo.of 0x13)
  else none

/-- A stream advances once (R28, R238); elements before the position are dropped. -/
def Group.advanceStream (g : Group) (i : Nat) : Group :=
  let q := fget Stream.reset g.q i
  let pos := if q.pos + g.w < q.total then q.pos + g.w else q.total
  { g with q := fset Stream.reset g.q i { q with pos := pos, fetched := q.fetched.filter (fun f => pos ≤ f.1 / 8) } }

/-- What a vector word reads at its positions: for each v source in order, its value by position. -/
abbrev VVals := List (Nat → Nat)

/-- The i-th source's value at a position. -/
def VVals.at' (v : VVals) (i p : Nat) : Nat := (v.getD i (fun _ => 0)) p

/-- Perform a vector word (R169, R178, R238, R239): its checks, then `f`, which is given the state, the word with the
positions it now executes at, and the sources' values, and answers the new state or a fault. A miss of streamed elements
completes the other positions and parks the group; a word that exchanges values between positions waits whole. -/
def State.vecWord (s : State) (x : Ix) (o : VOp) (f : State → Ix → VVals → Except FaultInfo State) : Res :=
  match x.vecFault o with
  | some e => .trap e
  | none =>
    if x.streamBad o then .trap (FaultInfo.of 0x15)
    else match x.emptyTrap o with
      | some e => .trap e
      | none => match x.emptyWait o with
        | some w => .wait s w
        | none =>
          let need := s.elemNeeds x o
          match need.fault with
          | some (p, a, code, cause) =>
            .trap { FaultInfo.with code cause with pos := some (x.g.lane p, x.g.member p), daddr := a }
          | none =>
            if h : need.absent ≠ [] then
              let q := (need.absent.head h).1
              .wait s (.stream q ((need.absent.filter (fun e => e.1 == q)).map (·.2)))
            else
              let missed := if o.cross && !need.misses.isEmpty then x.execAt o
                else maskOf x.g.n (fun p => need.misses.any (fun m => m.1 == p))
              let y := { x with miss := missed }
              let vals := o.vs.map (fun v => if o.shadowSrc then x.srcValSh o s.free v else x.srcVal o s.free v)
              match f (s.readElems x o need.read) y vals with
              | .error e => .trap e
              | .ok t =>
                if missed = 0 then
                  let t := t.onGroup x.g.gid (fun g => ((x.consumed o).map (·.1)).eraseDups.foldl Group.advanceStream g)
                  .done t o.cost
                else
                  let t := t.onGroup x.g.gid (fun g => o.vd.foldl (fun g r => g.markEmpty x.path.id false r (x.act &&& missed)
                    (if o.hlp then x.hlp &&& missed else 0)) g)
                  .parked (t.parkMiss x need.misses missed false false) o.cost missed

/-! ### Writing results -/

/-- A per-position result (R178, R158): active positions write d and raise flags in their member's FSTAT, helpers write the
shadow without flags (R65), predicated-off positions are zeroed under ZERO. -/
def Ix.writeResult (x : Ix) (hlp pair : Bool) (d : Nat) (r : Nat → Nat × Half) (g : Group) : Group :=
  let g := g.writeVal pair d (fun p => if has x.act p then some (r p).1 else if has x.off p then some 0 else none)
  let g := if hlp && x.hlp != 0 then g.writeShVal x.path.id pair d (fun p => if has x.hlp p then some (r p).1 else none) else g
  (positions g.n x.act).foldl (fun g p => if (r p).2 = 0 then g else g.raiseFlags (g.member p) (r p).2) g

/-- A mask result (R189): active positions take the result, predicated-off ones are cleared under ZERO, others keep. -/
def Ix.writeMask (x : Ix) (m : Nat) (r : Nat → Bool × Half) (g : Group) : Group :=
  let old := g.mreg m
  let g := g.setM m (maskOf g.n (fun p => if has x.act p then (r p).1 else if has x.off p then false else has old p))
  (positions g.n x.act).foldl (fun g p => if (r p).2 = 0 then g else g.raiseFlags (g.member p) (r p).2) g

/-! ### Scalar words -/

/-- What a scalar word reads and writes. -/
structure SOp where
  acc : Accept
  legal : Bool
  ss : List (Nat × Nat)
  sd : List Nat

/-- Perform a word that executes once for the group (R28, R212, R278): its checks, the empty registers it meets, then `f`. When it executes again
after a miss, the destinations that it marked empty itself are no such registers (R117, R166). -/
def State.scalarWord (s : State) (x : Ix) (o : SOp) (f : State → Ix → Res) : Res :=
  if !o.legal then .trap illegal
  else if !o.acc.ok x.hasPre x.pre then .trap x.illegalPrefix
  else
    let empty (r : Nat) : Bool := x.g.sEmptyAt r && !(x.path.only.isSome && o.sd.contains r)
    if o.ss.any (fun r => x.traps r.2 && empty r.1) then .trap (FaultInfo.of 0x14)
    else
    let rs := (o.ss.map (fun r => r.1) ++ o.sd).foldl (fun m r => if empty r then m ||| dw (2 ^ r) else m) 0
    if rs ≠ 0 then .wait s (.regs [] [] rs) else f s x

/-- The value of an S3 B operand: an s or k register (R160). -/
def Group.sk (g : Group) (k : BitVec 1) (b : BitVec 6) : Dword := if k = 1 then g.kreg b.toNat else g.sreg b.toNat

/-- Reads of an S3 B operand. -/
def skRead (k : BitVec 1) (b : BitVec 6) : List (Nat × Nat) := if k = 1 then [] else [(b.toNat, 1)]

end Sys2Proof.Machine
end

