-- ==== Sys2Proof/Machine/VecInt.lean ====
section
/-! DEFINITION. Integer vector instructions, compares and selection (13 R177-R190), and the shape that all V3 and VI words of
registers share. -/
namespace Sys2Proof.Machine

/-! ### The shape of a V3 word -/

/-- The registers of a V3 word: destination and sources with their widths; BS; whether A and B are read; and the third source:
0 none, 1 the destination, 2 the fourth operand c when the prefix gives one, else the destination. -/
structure V3 where
  d : Nat
  a : Nat
  b : Nat
  bs : Bool
  pd : Bool
  pa : Bool
  pb : Bool
  hasA : Bool := true
  hasB : Bool := true
  third : Nat := 0
  pt : Bool := pd

/-- The third source of the word under its prefix. -/
def V3.thirdSrc (v : V3) (x : Ix) : List VSrc :=
  match v.third with
  | 0 => []
  | 1 => [⟨v.d, 3, v.pt⟩]
  | _ => if x.pre.cp then [⟨x.pre.creg.toNat, 2, v.pt⟩] else [⟨v.d, 3, v.pt⟩]

/-- The v sources in order. -/
def V3.srcs (v : V3) (x : Ix) : List VSrc :=
  (if v.hasA then [⟨v.a, 0, v.pa⟩] else []) ++ (if v.hasB && !v.bs then [⟨v.b, 1, v.pb⟩] else []) ++ v.thirdSrc x

/-- Field checks of the shape: BS = 1 leaves B{6} zero, a 64-bit operand names an even register (R160, R161). -/
def V3.fieldsOk (v : V3) (x : Ix) : Bool :=
  (!v.bs || decide (v.b < 64)) && (!v.pd || v.d % 2 == 0) && (v.srcs x).all (fun c => !c.pair || c.reg % 2 == 0)

/-- What the word reads and writes. -/
def V3.op (v : V3) (x : Ix) (legal : Bool) (acc : Accept) (hlp : Bool) (cost : Cost) : VOp :=
  { acc := acc, legal := legal && v.fieldsOk x, vs := v.srcs x, ss := if v.hasB && v.bs then [(v.b % 64, 1)] else [],
    vd := if v.pd then [v.d, v.d + 1] else [v.d], hlp := hlp, cost := cost }

/-- The B value from an s register: whole for a 64-bit operand, else its low 32 bits (R177). -/
def V3.sval (v : V3) (x : Ix) : Nat := if v.pb then (x.g.sreg (v.b % 64)).toNat else (x.g.sreg (v.b % 64)).toNat % 2 ^ 32

/-- The values a, b and third at a position. -/
def V3.args (v : V3) (x : Ix) (vals : VVals) (p : Nat) : Nat × Nat × Nat :=
  let i := if v.hasA then 1 else 0
  let j := if v.hasB && !v.bs then i + 1 else i
  (if v.hasA then vals.at' 0 p else 0, if v.bs then v.sval x else vals.at' i p, vals.at' j p)

/-- A word that computes at each position alone (R178). -/
def State.v3 (s : State) (v : V3) (legal : Bool) (acc : Accept) (cost : Cost)
    (f : Ix → Nat → Nat → Nat → Nat × Half) : Host.Outcome State Fault Refusal :=
  s.word .never (fun s x => s.vecWord x (v.op x legal acc true cost) (fun s y vals =>
    .ok (s.onGroup y.g.gid (y.writeResult true v.pd v.d (fun p =>
      let (a, b, c) := v.args x vals p
      f y a b c)))))

/-! ### Integer types -/

/-- Element width, elements, signedness and pairing of an integer type (R183). -/
structure IType where
  n : Nat
  cnt : Nat
  signed : Bool
  pair : Bool

/-- The type of an FN value (R183). -/
def itype (f : Nat) : IType :=
  match f with
  | 0 => ⟨32, 1, true, false⟩
  | 1 => ⟨32, 1, false, false⟩
  | 2 => ⟨64, 1, true, true⟩
  | 3 => ⟨64, 1, false, true⟩
  | 4 => ⟨16, 2, true, false⟩
  | _ => ⟨16, 2, false, false⟩

/-- A function of one element of each value, at every element, with the flags joined (R54, R178). -/
def perElem (n cnt : Nat) (xs : List Nat) (f : List Nat → Nat × Half) : Nat × Half :=
  (List.range cnt).foldl (fun acc j =>
    let r := f (xs.map (fun x => x / 2 ^ (n * j) % 2 ^ n))
    (acc.1 + r.1 % 2 ^ n * 2 ^ (n * j), acc.2 ||| r.2)) (0, 0)

/-- An exact integer result: wrapped, or clamped with SAT (R62, R187). -/
def IType.result (t : IType) (sat : Bool) (i : Int) : Nat × Half :=
  if sat then let (c, cl) := clampTo t.signed t.n i; (ofSigned t.n c, if cl then fSAT else 0) else (ofSigned t.n i, 0)

/-- The integer an element stands for. -/
def IType.val (t : IType) (v : Nat) : Int := typed t.signed t.n v

/-- The registers of an integer word (R183, R184), and the prefix fields it accepts (R181). -/
def intShape (d a b : BitVec 7) (f : Nat) (bs : BitVec 1) (third : Nat) : V3 :=
  { d := d.toNat, a := a.toNat, b := b.toNat, bs := bs == 1, pd := (itype f).pair, pa := (itype f).pair, pb := (itype f).pair,
    third := third }
def intAccept (sat : Bool) (third : Nat) : Accept := { Accept.vec true true with sat := sat, cp := third == 2 }

/-- A two-operand integer word over elements (R184). -/
def State.vint (s : State) (d a b : BitVec 7) (f : Nat) (bs : BitVec 1) (legal sat : Bool) (third : Nat)
    (op : IType → Bool → Nat → Nat → Nat → Nat × Half) : Host.Outcome State Fault Refusal :=
  let t := itype f
  s.v3 (intShape d a b f bs third) legal (intAccept sat third) (Cost.vector true)
    (fun x a b c => perElem t.n t.cnt [a, b, c] (fun v => op t x.pre.sat (v.getD 0 0) (v.getD 1 0) (v.getD 2 0)))

/-- VADD (R184, R187). -/
def execVadd (d a b : BitVec 7) (f : BitVec 3) (s1 : BitVec 1) (s : State) : Host.Outcome State Fault Refusal :=
  s.vint d a b f.toNat s1 (f.toNat ≤ 5) true 0 (fun t sat a b _ => t.result sat (t.val a + t.val b))

/-- VSUB (R184, R187). -/
def execVsub (d a b : BitVec 7) (f : BitVec 3) (s1 : BitVec 1) (s : State) : Host.Outcome State Fault Refusal :=
  s.vint d a b f.toNat s1 (f.toNat ≤ 5) true 0 (fun t sat a b _ => t.result sat (t.val a - t.val b))

/-- VMUL (R184, R187). -/
def execVmul (d a b : BitVec 7) (f : BitVec 3) (s1 : BitVec 1) (s : State) : Host.Outcome State Fault Refusal :=
  s.vint d a b f.toNat s1 (f.toNat ≤ 5) true 0 (fun t sat a b _ => t.result sat (t.val a * t.val b))

/-- VMULH (R184): the high half of the exact product. -/
def execVmulh (d a b : BitVec 7) (f : BitVec 3) (s1 : BitVec 1) (s : State) : Host.Outcome State Fault Refusal :=
  s.vint d a b f.toNat s1 (f.toNat ≤ 5) false 0 (fun t _ a b _ => (ofSigned (2 * t.n) (t.val a * t.val b) / 2 ^ t.n, 0))

/-- VMAD (R184, R187): a b + d, or a b + c. -/
def execVmad (d a b : BitVec 7) (f : BitVec 3) (s1 : BitVec 1) (s : State) : Host.Outcome State Fault Refusal :=
  s.vint d a b f.toNat s1 (f.toNat ≤ 5) true 2 (fun t sat a b c => t.result sat (t.val a * t.val b + t.val c))

/-- VMIN (R184). -/
def execVmin (d a b : BitVec 7) (f : BitVec 3) (s1 : BitVec 1) (s : State) : Host.Outcome State Fault Refusal :=
  s.vint d a b f.toNat s1 (f.toNat ≤ 5) false 0 (fun t _ a b _ => (if t.val a ≤ t.val b then a else b, 0))

/-- VMAX (R184). -/
def execVmax (d a b : BitVec 7) (f : BitVec 3) (s1 : BitVec 1) (s : State) : Host.Outcome State Fault Refusal :=
  s.vint d a b f.toNat s1 (f.toNat ≤ 5) false 0 (fun t _ a b _ => (if t.val a ≤ t.val b then b else a, 0))

/-- VABSD (R184): the exact absolute difference as an unsigned value. -/
def execVabsd (d a b : BitVec 7) (f : BitVec 3) (s1 : BitVec 1) (s : State) : Host.Outcome State Fault Refusal :=
  s.vint d a b f.toNat s1 (f.toNat ≤ 5) false 0 (fun t _ a b _ => ((t.val a - t.val b).natAbs, 0))

/-- VAND (R184). -/
def execVand (d a b : BitVec 7) (f : BitVec 2) (s1 : BitVec 1) (s : State) : Host.Outcome State Fault Refusal :=
  s.vint d a b f.toNat s1 true false 0 (fun _ _ a b _ => (a &&& b, 0))

/-- VOR (R184). -/
def execVor (d a b : BitVec 7) (f : BitVec 2) (s1 : BitVec 1) (s : State) : Host.Outcome State Fault Refusal :=
  s.vint d a b f.toNat s1 true false 0 (fun _ _ a b _ => (a ||| b, 0))

/-- VXOR (R184). -/
def execVxor (d a b : BitVec 7) (f : BitVec 2) (s1 : BitVec 1) (s : State) : Host.Outcome State Fault Refusal :=
  s.vint d a b f.toNat s1 true false 0 (fun _ _ a b _ => (a ^^^ b, 0))

/-- VANDN (R184): a and not b. -/
def execVandn (d a b : BitVec 7) (f : BitVec 2) (s1 : BitVec 1) (s : State) : Host.Outcome State Fault Refusal :=
  s.vint d a b f.toNat s1 true false 0 (fun t _ a b _ => (a &&& (2 ^ t.n - 1 - b), 0))

/-! ### Shifts and fields (R185) -/

/-- The registers of a shift word (R185). -/
def shiftShape (d a b : BitVec 7) (f : Nat) (bs : BitVec 1) : V3 := { intShape d a b f bs 0 with pb := false }

/-- A shift word: a 64-bit type takes its count from one 32-bit register (R185). -/
def State.vshift (s : State) (d a b : BitVec 7) (f : BitVec 3) (bs : BitVec 1) (sat : Bool)
    (op : IType → Bool → Nat → Nat → Nat × Half) : Host.Outcome State Fault Refusal :=
  let t := itype f.toNat
  s.v3 (shiftShape d a b f.toNat bs) (f.toNat ≤ 5) (intAccept sat 0) (Cost.vector true)
    (fun x a b _ => perElem t.n t.cnt [a, b] (fun v => op t x.pre.sat (v.getD 0 0) (v.getD 1 0 % t.n)))

/-- VSHL (R185, R187). -/
def execVshl (d a b : BitVec 7) (f : BitVec 3) (s1 : BitVec 1) (s : State) : Host.Outcome State Fault Refusal :=
  s.vshift d a b f s1 true (fun t sat a k => t.result sat (t.val a * 2 ^ k))

/-- VSHR (R185): zeros enter. -/
def execVshr (d a b : BitVec 7) (f : BitVec 3) (s1 : BitVec 1) (s : State) : Host.Outcome State Fault Refusal :=
  s.vshift d a b f s1 false (fun _ _ a k => (a / 2 ^ k, 0))

/-- VSAR (R185): copies of the top bit enter. -/
def execVsar (d a b : BitVec 7) (f : BitVec 3) (s1 : BitVec 1) (s : State) : Host.Outcome State Fault Refusal :=
  s.vshift d a b f s1 false (fun t _ a k => (ofSigned t.n (toSigned t.n a / 2 ^ k), 0))

/-- VROT (R185): rotated left. -/
def execVrot (d a b : BitVec 7) (f : BitVec 3) (s1 : BitVec 1) (s : State) : Host.Outcome State Fault Refusal :=
  s.vshift d a b f s1 false (fun t _ a k => (a * 2 ^ k % 2 ^ t.n + a / 2 ^ (t.n - k), 0))

/-- Offset and effective width of a bit field (R185). -/
def bitField (b : Nat) : Nat × Nat :=
  let o := b % 32
  let w := field b 13 8
  (o, if w < 32 - o then w else 32 - o)

/-- VBFX (R185). -/
def execVbfx (d a b : BitVec 7) (f : BitVec 1) (s1 : BitVec 1) (s : State) : Host.Outcome State Fault Refusal :=
  s.vint d a b f.toNat s1 true false 0 (fun t _ a b _ =>
    let (o, w) := bitField b
    if w = 0 then (0, 0) else (ofSigned 32 (typed t.signed w (a / 2 ^ o % 2 ^ w)), 0))

/-- VBFI (R185): reads d. -/
def execVbfi (d a b : BitVec 7) (f : BitVec 1) (s1 : BitVec 1) (s : State) : Host.Outcome State Fault Refusal :=
  s.vint d a b f.toNat s1 true false 1 (fun _ _ a b c =>
    let (o, w) := bitField b
    (c - at' (c / 2 ^ o % 2 ^ w) o + at' (a % 2 ^ w) o, 0))

/-- The registers of a word that counts bits (R184). -/
def countShape (d a : BitVec 7) (f : Nat) : V3 :=
  { d := d.toNat, a := a.toNat, b := 0, bs := false, pd := false, pa := (itype f).pair, pb := false, hasB := false }

/-- VPOPC (R184): one 32-bit result at any index. -/
def execVpopc (d a : BitVec 7) (f : BitVec 2) (s : State) : Host.Outcome State Fault Refusal :=
  let t := itype f.toNat
  s.v3 (countShape d a f.toNat) true (Accept.vec true false) (Cost.vector true) (fun _ a _ _ => (popCount t.n a, 0))

/-- VCLZ (R184). -/
def execVclz (d a : BitVec 7) (f : BitVec 2) (s : State) : Host.Outcome State Fault Refusal :=
  let t := itype f.toNat
  s.v3 (countShape d a f.toNat) true (Accept.vec true false) (Cost.vector true) (fun _ a _ _ => (t.n - bitLen a, 0))

/-- The registers of VMOV (R184). -/
def moveShape (d b : BitVec 7) (f : Nat) (bs : BitVec 1) : V3 := { intShape d 0 b f bs 0 with pa := false, hasA := false }

/-- VMOV (R184). -/
def execVmov (d b : BitVec 7) (f : BitVec 2) (s1 : BitVec 1) (s : State) : Host.Outcome State Fault Refusal :=
  s.v3 (moveShape d b f.toNat s1) true (Accept.vec false true) (Cost.vector true) (fun _ _ b _ => (b, 0))

/-! ### Compares and selection (R188-R190) -/

/-- An integer condition (R188). -/
def intCond (c : Nat) (a b : Int) : Bool :=
  match c with
  | 0 => a == b
  | 1 => a != b
  | 2 => decide (a < b)
  | 3 => decide (a ≤ b)
  | 4 => decide (b < a)
  | _ => decide (b ≤ a)

/-- A word that writes a mask register (R189), not executed at helpers (R179). m0 is no destination (R158). -/
def State.vmask (s : State) (v : V3) (m : BitVec 4) (legal : Bool) (acc : Accept) (cost : Cost)
    (f : Ix → Nat → Nat → Bool × Half) : Host.Outcome State Fault Refusal :=
  s.word .never (fun s x =>
    s.vecWord x { v.op x (legal && m != 0) acc false cost with vd := [] } (fun s y vals =>
      .ok (s.onGroup y.g.gid (y.writeMask m.toNat (fun p => let (a, b, _) := v.args x vals p; f y a b)))))

/-- The registers of a compare: its type's width, whether B is read (R188, R195). -/
def cmpShape (a b : Nat) (bs hasB pair : Bool) : V3 :=
  { d := 0, a := a, b := b, bs := bs, pd := false, pa := pair, pb := pair && hasB, hasB := hasB }

/-- VCMP (R188). -/
def execVcmp (t : BitVec 2) (m : BitVec 4) (a b : BitVec 7) (c : BitVec 3) (s1 : BitVec 1) (s : State) :
    Host.Outcome State Fault Refusal :=
  let ty := itype t.toNat
  s.vmask (cmpShape a.toNat b.toNat (s1 == 1) true ty.pair) m (c.toNat ≤ 5)
    (Accept.vec true true) (Cost.vector false) (fun _ a b => (intCond c.toNat (ty.val a) (ty.val b), 0))

/-- VCMPI (R188): the immediate is read at the type's width. -/
def execVcmpi (t : BitVec 2) (m : BitVec 4) (a : BitVec 7) (i : BitVec 8) (c : BitVec 3) (s : State) :
    Host.Outcome State Fault Refusal :=
  let ty := itype t.toNat
  s.vmask (cmpShape a.toNat 0 false false ty.pair) m (c.toNat ≤ 5)
    (Accept.vec true false) (Cost.vector false)
    (fun _ a _ => (intCond c.toNat (ty.val a) (ty.val (ofSigned ty.n (toSigned 8 i.toNat))), 0))

/-- VSEL (R190): the fourth operand is a mask register. -/
def execVsel (d a b : BitVec 7) (f : BitVec 2) (s1 : BitVec 1) (s : State) : Host.Outcome State Fault Refusal :=
  let v : V3 := intShape d a b f.toNat s1 0
  s.word .never (fun s x =>
    s.vecWord x (v.op x (decide (x.pre.creg.toNat < 16)) { Accept.vec true true with cp := true, need := true } true
      (Cost.vector true)) (fun s y vals =>
      .ok (s.onGroup y.g.gid (y.writeResult true v.pd v.d (fun p =>
        let (a, b, _) := v.args x vals p
        (if has (x.g.mreg x.pre.creg.toNat) p then a else b, 0))))))

/-! ### Immediates (R186) -/

/-- The registers of a VI word (R186). -/
def immShape (d a : BitVec 7) (f : Nat) (hasA : Bool) : V3 := { countShape d a f with pd := (itype f).pair, hasA := hasA }

/-- A VI word with its immediate as the B value. -/
def State.vimm (s : State) (d a : BitVec 7) (f : Nat) (legal sat hasA : Bool)
    (op : IType → Bool → Nat → Nat × Half) : Host.Outcome State Fault Refusal :=
  let t := itype f
  s.v3 (immShape d a f hasA) legal { Accept.vec hasA false with sat := sat } (Cost.vector true)
    (fun x a _ _ => perElem t.n t.cnt [a] (fun v => op t x.pre.sat (v.getD 0 0)))

/-- VADDI (R186, R187). -/
def execVaddi (d a : BitVec 7) (i : BitVec 8) (f : BitVec 2) (s : State) : Host.Outcome State Fault Refusal :=
  s.vimm d a f.toNat true true true (fun t sat a => t.result sat (t.val a + toSigned 8 i.toNat))

/-- VSHLI (R186, R187). -/
def execVshli (d a : BitVec 7) (i : BitVec 8) (f : BitVec 3) (s : State) : Host.Outcome State Fault Refusal :=
  s.vimm d a f.toNat (f.toNat ≤ 5) true true (fun t sat a => t.result sat (t.val a * 2 ^ (i.toNat % t.n)))

/-- VSHRI (R186): arithmetic for i types, logical for n types. -/
def execVshri (d a : BitVec 7) (i : BitVec 8) (f : BitVec 3) (s : State) : Host.Outcome State Fault Refusal :=
  s.vimm d a f.toNat (f.toNat ≤ 5) false true (fun t _ a => (ofSigned t.n (t.val a / 2 ^ (i.toNat % t.n)), 0))

/-- VANDI (R186). -/
def execVandi (d a : BitVec 7) (i : BitVec 8) (f : BitVec 2) (s : State) : Host.Outcome State Fault Refusal :=
  s.vimm d a f.toNat true false true (fun _ _ a => (a &&& i.toNat, 0))

/-- VMOVI (R186). -/
def execVmovi (d : BitVec 7) (i : BitVec 8) (f : BitVec 2) (s : State) : Host.Outcome State Fault Refusal :=
  s.vimm d 0 f.toNat true false false (fun t _ _ => (ofSigned t.n (toSigned 8 i.toNat), 0))

end Sys2Proof.Machine
end

