-- ==== Sys2Proof/Machine/VecFp.lean ====
section
/-! DEFINITION. Floating-point vector instructions (13 R191-R198). -/
namespace Sys2Proof.Machine

/-- A floating-point type: its format, elements, pairing (R191). -/
structure FType where
  fmt : Fmt
  cnt : Nat
  pair : Bool

/-- The type of an FN value (R191). -/
def ftype (f : Nat) : FType :=
  match f with
  | 0 => ⟨f32, 1, false⟩
  | 1 => ⟨f64, 1, true⟩
  | 2 => ⟨bf16, 2, false⟩
  | _ => ⟨f16, 2, false⟩

/-- Cost of a floating-point vector word: two cycles a pass with f64 (R27). -/
def Cost.fp (hlp wide : Bool) : Cost := { vec := true, hlp := hlp, wide := wide, extra := 0 }

/-- The registers of a floating-point word (R191), and the prefix fields it accepts (R181). -/
def fpShape (d a b : BitVec 7) (f : Nat) (bs : BitVec 1) (hasB : Bool) (third : Nat) : V3 :=
  { d := d.toNat, a := a.toNat, b := b.toNat, bs := bs == 1, pd := (ftype f).pair, pa := (ftype f).pair, pb := (ftype f).pair,
    hasB := hasB, third := third }
def fpAccept (rnd hasB : Bool) (third : Nat) : Accept := { Accept.vec true hasB with rnd := rnd, cp := third == 2 }

/-- A floating-point word over elements; RND is accepted where `rnd` says (R181). -/
def State.vfp (s : State) (d a b : BitVec 7) (f : Nat) (bs : BitVec 1) (rnd hasB : Bool) (third : Nat)
    (op : Fmt → Nat → Nat → Nat → Nat → Nat × Half) : Host.Outcome State Fault Refusal :=
  let t := ftype f
  s.v3 (fpShape d a b f bs hasB third) true (fpAccept rnd hasB third) (Cost.fp true t.pair)
    (fun x a b c => perElem (fmtWidth t.fmt) t.cnt [a, b, c] (fun v => op t.fmt x.mode (v.getD 0 0) (v.getD 1 0) (v.getD 2 0)))

/-- FADD (R192). -/
def execFadd (d a b : BitVec 7) (f : BitVec 2) (s1 : BitVec 1) (s : State) : Host.Outcome State Fault Refusal :=
  s.vfp d a b f.toNat s1 true true 0 (fun t md a b _ => fpAdd t md a b)

/-- FSUB (R192). -/
def execFsub (d a b : BitVec 7) (f : BitVec 2) (s1 : BitVec 1) (s : State) : Host.Outcome State Fault Refusal :=
  s.vfp d a b f.toNat s1 true true 0 (fun t md a b _ => fpSub t md a b)

/-- FMUL (R192). -/
def execFmul (d a b : BitVec 7) (f : BitVec 2) (s1 : BitVec 1) (s : State) : Host.Outcome State Fault Refusal :=
  s.vfp d a b f.toNat s1 true true 0 (fun t md a b _ => fpMul t md a b)

/-- FFMA (R192): a b + d, or a b + c, with one rounding. -/
def execFfma (d a b : BitVec 7) (f : BitVec 2) (s1 : BitVec 1) (s : State) : Host.Outcome State Fault Refusal :=
  s.vfp d a b f.toNat s1 true true 2 (fun t md a b c => fpFma t md a b c)

/-- FMIN (R194). -/
def execFmin (d a b : BitVec 7) (f : BitVec 2) (s1 : BitVec 1) (s : State) : Host.Outcome State Fault Refusal :=
  s.vfp d a b f.toNat s1 true true 0 (fun t _ a b _ => fpMin t a b)

/-- FMAX (R194). -/
def execFmax (d a b : BitVec 7) (f : BitVec 2) (s1 : BitVec 1) (s : State) : Host.Outcome State Fault Refusal :=
  s.vfp d a b f.toNat s1 true true 0 (fun t _ a b _ => fpMax t a b)

/-- The registers of FSGN (R194): FN 0-2 f32, 3-5 f64. -/
def sgnShape (d a b : BitVec 7) (f : Nat) (bs : BitVec 1) : V3 := fpShape d a b (if 3 ≤ f then 1 else 0) bs true 0

/-- FSGN (R194): the magnitude of a under the sign operation; bits are copied. -/
def execFsgn (d a b : BitVec 7) (f : BitVec 3) (s1 : BitVec 1) (s : State) : Host.Outcome State Fault Refusal :=
  let w := decide (3 ≤ f.toNat)
  let n := if w then 63 else 31
  s.v3 (sgnShape d a b f.toNat s1) (f.toNat ≤ 5)
    (Accept.vec true true) (Cost.fp true w) (fun _ a b _ =>
      let sg := match f.toNat % 3 with
        | 0 => b.testBit n
        | 1 => !b.testBit n
        | _ => a.testBit n != b.testBit n
      (a % 2 ^ n + at' (b2n sg) n, 0))

/-- FCMP (R195). -/
def execFcmp (t : BitVec 1) (m : BitVec 4) (a b : BitVec 7) (c : BitVec 3) (s1 : BitVec 1) (s : State) :
    Host.Outcome State Fault Refusal :=
  let ty := ftype t.toNat
  s.vmask (cmpShape a.toNat b.toNat (s1 == 1) true ty.pair) m true
    (Accept.vec true true) (Cost.fp false ty.pair) (fun _ a b => fpCmp ty.fmt c.toNat a b)

/-! ### Conversion (R196, R197) -/

/-- Is a conversion type code packed, a pair, an integer? -/
def cvtPacked (t : Nat) : Bool := t == 2 || t == 3
def cvtPair (t : Nat) : Bool := t == 1 || t == 6 || t == 7
def cvtInt (t : Nat) : Bool := decide (4 ≤ t)

/-- One converted value: source type, destination type (R196). -/
def cvtOne (src dst mode v : Nat) : Nat × Half :=
  if cvtInt dst then let t := itype (dst - 4); fpToInt (ftype src).fmt t.signed t.n mode v
  else if cvtInt src then let t := itype (src - 4); intToFp (ftype dst).fmt mode (t.val v)
  else fpConv (ftype src).fmt (ftype dst).fmt mode v

/-- The registers of FCVT; does a narrow result keep the other half of d (R196)? -/
def cvtKeeps (src dst : Nat) : Bool := cvtPacked dst && !cvtPacked src
def cvtShape (d a : BitVec 7) (src dst : Nat) : V3 :=
  { d := d.toNat, a := a.toNat, b := 0, bs := false, pd := cvtPair dst, pa := cvtPair src, pb := false, hasB := false,
    third := if cvtKeeps src dst then 1 else 0 }

/-- Which types FCVT converts between (R196). -/
def cvtLegal (e : BitVec 1) (src dst : Nat) : Bool :=
  src != dst && !(cvtInt src && cvtInt dst) && (cvtPacked src != cvtPacked dst || e == 0)

/-- FCVT (R196, R197). -/
def execFcvt (d a : BitVec 7) (e : BitVec 1) (t f : BitVec 3) (s : State) : Host.Outcome State Fault Refusal :=
  let src := t.toNat
  let dst := f.toNat
  s.v3 (cvtShape d a src dst) (cvtLegal e src dst) (fpAccept true false 0) (Cost.fp true (src == 1 || dst == 1))
    (fun x a _ c =>
      if cvtPacked src && cvtPacked dst then perElem 16 2 [a] (fun v => cvtOne src dst x.mode (v.getD 0 0))
      else if cvtPacked src then cvtOne src dst x.mode (a / 2 ^ (16 * e.toNat) % 2 ^ 16)
      else
        let r := cvtOne src dst x.mode a
        if cvtKeeps src dst then (if e = 1 then c % 2 ^ 16 + at' (r.1 % 2 ^ 16) 16 else c / 2 ^ 16 % 2 ^ 16 * 2 ^ 16 + r.1 % 2 ^ 16, r.2) else r)

/-- The registers of a word with one f32 or f64 operand and a 32-bit result (R194, R198). -/
def classShape (d a : BitVec 7) (f : Nat) : V3 := { fpShape d a 0 f 0 false 0 with pd := false, pb := false }

/-- FCLASS (R194): one 32-bit result at any index. -/
def execFclass (d a : BitVec 7) (f : BitVec 1) (s : State) : Host.Outcome State Fault Refusal :=
  let t := ftype f.toNat
  s.v3 (classShape d a f.toNat) true (Accept.vec true false) (Cost.fp true t.pair) (fun _ a _ _ => (fpClass t.fmt a, 0))

/-- FSFN (R198). -/
def execFsfn (d a : BitVec 7) (f : BitVec 3) (s : State) : Host.Outcome State Fault Refusal :=
  s.v3 (classShape d a 0) (f.toNat ≤ 6)
    (Accept.vec true false) (Cost.fp true false) (fun _ a _ _ => fpSfn f.toNat a)

/-- FDIV (R192). -/
def execFdiv (d a b : BitVec 7) (f : BitVec 2) (s1 : BitVec 1) (s : State) : Host.Outcome State Fault Refusal :=
  s.vfp d a b f.toNat s1 true true 0 (fun t md a b _ => fpDiv t md a b)

/-- FSQRT (R192). -/
def execFsqrt (d a : BitVec 7) (f : BitVec 2) (s : State) : Host.Outcome State Fault Refusal :=
  s.vfp d a 0 f.toNat 0 true false 0 (fun t md a _ _ => fpSqrt t md a)

/-- FRND (R192): integral in the mode; only a signalling NaN raises. -/
def execFrnd (d a : BitVec 7) (f : BitVec 2) (s : State) : Host.Outcome State Fault Refusal :=
  s.vfp d a 0 f.toNat 0 true false 0 (fun t md a _ _ => fpRnd t md a)

/-- The registers of FLDEXP: its exponent is no pair (R192). -/
def ldexpShape (d a b : BitVec 7) (f : Nat) (bs : BitVec 1) : V3 := { fpShape d a b f bs true 0 with pb := false }

/-- FLDEXP (R192): the exponent is an i32, or the matching i16 element. -/
def execFldexp (d a b : BitVec 7) (f : BitVec 2) (s1 : BitVec 1) (s : State) : Host.Outcome State Fault Refusal :=
  let t := ftype f.toNat
  s.v3 (ldexpShape d a b f.toNat s1) true (fpAccept true true 0) (Cost.fp true t.pair)
    (fun x a b _ =>
      if t.cnt = 2 then perElem 16 2 [a, b] (fun v => fpLdexp t.fmt x.mode (v.getD 0 0) (toSigned 16 (v.getD 1 0)))
      else fpLdexp t.fmt x.mode a (toSigned 32 b))

/-- FDOT2 (R193). -/
def execFdot2 (d a b : BitVec 7) (f : BitVec 1) (s1 : BitVec 1) (s : State) : Host.Outcome State Fault Refusal :=
  let t := ftype (2 + f.toNat)
  s.v3 (fpShape d a b 0 s1 true 2) true (fpAccept true true 2) (Cost.fp true false)
    (fun x a b c => fpDot2 t.fmt x.mode (a % 2 ^ 16) (b % 2 ^ 16) (a / 2 ^ 16) (b / 2 ^ 16) c)

end Sys2Proof.Machine
end

