-- ==== Sys2Proof/Machine/Acc.lean ====
section
/-! DEFINITION. Exact accumulator instructions (13 R199-R201). -/
namespace Sys2Proof.Machine

/-- Replace an accumulator with the reset values, freeing its slot (R80, R83). -/
def Group.clearX (g : Group) (i p : Nat) : Group := { (g.setX i p Xa.reset) with slots := freeXa g.slots (g.xreg i p) }

/-- XA-overflow at a position (R83, R350): CAUSE 0 no free slot, 1 long range. `acc` names the accumulator of the position: x register i,
or `64 * tile + 8 * row + column`; the record gives it in DADDR, a place that R352 does not assign (log entry 39). -/
def xaFault (g : Group) (acc p : Nat) (r : XaErr) : FaultInfo :=
  { FaultInfo.with 0x17 (match r with | .noSlot => 0 | .longRange => 1) with pos := some (g.lane p, g.member p), daddr := acc }

/-- Put a new accumulator and slots in place; a slot taken sets WID (R64). -/
def Group.putX (g : Group) (i p : Nat) (r : Xa × FMap LongRec × Bool) : Group :=
  let g := { (g.setX i p r.1) with slots := r.2.1 }
  if r.2.2 then g.raiseFlags (g.member p) fWID else g

/-- Terms into one accumulator (R82), with flags for the member. -/
def Group.addX (g : Group) (i p : Nat) (ts : List Term) (fl : Half) : Except XaErr Group :=
  match addTerms g.xext g.slots (g.xreg i p) ts with
  | .error r => .error r
  | .ok r => .ok ((g.putX i p r).raiseFlags (g.member p) fl)

/-- Work through positions in ascending pass and lane order (R201). -/
def overPositions (acc : Nat) (f : Group → Nat → Except XaErr Group) : List Nat → Group → Except FaultInfo Group
  | [], g => .ok g
  | p :: ps, g => match f g p with
    | .error r => .error (xaFault g acc p r)
    | .ok g => overPositions acc f ps g

/-- An instruction on accumulators: not at helpers (R179); ZERO resets the accumulators of predicated-off positions and frees
their slots (R199); then each active position in order. `readsX` says that source A is an x register (R181). -/
def State.xWord (s : State) (v : V3) (legal rnd : Bool) (clears : Option Nat) (vd : List Nat) (wide : Bool) (readsX : Bool)
    (f : Ix → VVals → Group → Nat → Except XaErr Group) : Host.Outcome State Fault Refusal :=
  s.word .never (fun s x =>
    s.vecWord x { v.op x legal { Accept.vec (v.hasA || readsX) v.hasB with rnd := rnd } false (Cost.fp false wide) with vd := vd }
      (fun s y vals =>
        let g := match clears with
          | some i => (positions y.g.n y.off).foldl (fun g p => g.clearX i p) y.g
          | none => y.g
        match overPositions (clears.getD 0) (f y vals) (positions y.g.n y.act) g with
        | .error e => .error e
        | .ok g => .ok (s.setGroup g)))

/-- The shape of a word whose A field names a v register. -/
def xSrc (a b : Nat) (pair hasA hasB : Bool) : V3 :=
  { d := 0, a := a, b := b, bs := false, pd := false, pa := pair, pb := pair, hasA := hasA, hasB := hasB }

/-- The term of an operand under XADD's types (R199), and NV for a signalling NaN. -/
def xTerm (f v : Nat) : Term × Half :=
  match f with
  | 0 => (fpTerm f32 v, if isSNaN f32 v then fNV else 0)
  | 1 => (fpTerm f64 v, if isSNaN f64 v then fNV else 0)
  | 2 => (.fin (toSigned 32 v) 0, 0)
  | 3 => (.fin v 0, 0)
  | 4 => (.fin (toSigned 64 v) 0, 0)
  | _ => (.fin v 0, 0)

/-- The exact product of two FP operands; invalid for Inf times 0 and for a signalling NaN. -/
def xProd (t : Fmt) (a b : Nat) : Term × Half :=
  let (p, inv) := mulTerm (fpTerm t a) (fpTerm t b)
  (p, if inv || isSNaN t a || isSNaN t b then fNV else 0)

/-- The terms of XFMA's product types (R199). -/
def xProds (f a b : Nat) : List Term × Half :=
  match f with
  | 0 => let p := xProd f32 a b; ([p.1], p.2)
  | 1 => let p := xProd f64 a b; ([p.1], p.2)
  | 2 =>
    let p := xProd bf16 (a % 2 ^ 16) (b % 2 ^ 16)
    let q := xProd bf16 (a / 2 ^ 16) (b / 2 ^ 16)
    ([p.1, q.1], p.2 ||| q.2)
  | 3 =>
    let p := xProd f16 (a % 2 ^ 16) (b % 2 ^ 16)
    let q := xProd f16 (a / 2 ^ 16) (b / 2 ^ 16)
    ([p.1, q.1], p.2 ||| q.2)
  | 4 => ([.fin (toSigned 32 a * toSigned 32 b) 0], 0)
  | _ => ([.fin ((a * b : Nat) : Int) 0], 0)

/-- XCLR (R199). -/
def execXclr (d : BitVec 2) (s : State) : Host.Outcome State Fault Refusal :=
  s.xWord (xSrc 0 0 false false false) true false (some d.toNat) [] false false (fun _ _ g p => .ok (g.clearX d.toNat p))

/-- XADD (R199). -/
def execXadd (d : BitVec 2) (a : BitVec 7) (f : BitVec 3) (s : State) : Host.Outcome State Fault Refusal :=
  s.xWord (xSrc a.toNat 0 (f.toNat == 1 || decide (4 ≤ f.toNat)) true false) (f.toNat ≤ 5) false (some d.toNat) [] (f == 1) false
    (fun _ vals g p => let t := xTerm f.toNat (vals.at' 0 p); g.addX d.toNat p [t.1] t.2)

/-- XSUB (R199). -/
def execXsub (d : BitVec 2) (a : BitVec 7) (f : BitVec 3) (s : State) : Host.Outcome State Fault Refusal :=
  s.xWord (xSrc a.toNat 0 (f.toNat == 1 || decide (4 ≤ f.toNat)) true false) (f.toNat ≤ 5) false (some d.toNat) [] (f == 1) false
    (fun _ vals g p => let t := xTerm f.toNat (vals.at' 0 p); g.addX d.toNat p [negTerm t.1] t.2)

/-- XFMA (R199). -/
def execXfma (d : BitVec 2) (a b : BitVec 7) (f : BitVec 3) (s : State) : Host.Outcome State Fault Refusal :=
  s.xWord (xSrc a.toNat b.toNat (f.toNat == 1) true true) (f.toNat ≤ 5) false (some d.toNat) [] (f == 1) false
    (fun _ vals g p => let t := xProds f.toNat (vals.at' 0 p) (vals.at' 1 p); g.addX d.toNat p t.1 t.2)

/-- XMRG (R199): xd takes xa's value and flags exactly (R84). -/
def execXmrg (d a : BitVec 2) (s : State) : Host.Outcome State Fault Refusal :=
  s.xWord (xSrc 0 0 false false false) true false (some d.toNat) [] false true (fun _ _ g p =>
    match mergeXa g.xext g.slots (g.xreg d.toNat p) (g.xreg a.toNat p) with
    | .error r => .error r
    | .ok r => .ok (g.putX d.toNat p r))

/-- The readout of an accumulator under XRD's target types (R85, R199). -/
def xRead (slots : FMap LongRec) (f mode : Nat) (x : Xa) : Nat × Half :=
  let r := xaRVal slots mode x
  match f with
  | 0 => roundRVal f32 mode r
  | 1 => roundRVal f64 mode r
  | 2 => rvalToInt true 32 mode r
  | 3 => rvalToInt false 32 mode r
  | 4 => rvalToInt true 64 mode r
  | _ => rvalToInt false 64 mode r

/-- A word that writes v registers from accumulators: `n` registers from `d` by position, with flags. -/
def State.xOut (s : State) (d n : Nat) (legal rnd wide : Bool) (f : Ix → Nat → Nat × Half) :
    Host.Outcome State Fault Refusal :=
  s.word .never (fun s x =>
    s.vecWord x { acc := { Accept.vec true false with rnd := rnd }, legal := legal && (n == 1 || d % 2 == 0), vs := [],
                  vd := (List.range n).map (d + ·), cost := Cost.fp false wide } (fun s y _ =>
      .ok (s.onGroup y.g.gid (fun g =>
        (List.range n).foldl (fun g i => y.writeResult false false (d + i)
          (fun p => let r := f y p; (r.1 / 2 ^ (32 * i) % 2 ^ 32, r.2)) g) g))))

/-- XRD (R199). -/
def execXrd (d : BitVec 7) (a : BitVec 2) (f : BitVec 3) (s : State) : Host.Outcome State Fault Refusal :=
  s.xOut d.toNat (if f.toNat = 1 || 4 ≤ f.toNat then 2 else 1) (f.toNat ≤ 5) true false
    (fun x p => xRead x.g.slots f.toNat x.mode (x.g.xreg a.toNat p))

/-- XST (R200): the 192-bit image into six registers. -/
def execXst (d : BitVec 7) (a : BitVec 2) (s : State) : Host.Outcome State Fault Refusal :=
  s.xOut d.toNat 6 true false false (fun x p => (xaImage (x.g.xreg a.toNat p), 0))

/-- XLD (R200): an image that stands for no short accumulator raises illegal-format. -/
def execXld (d : BitVec 2) (a : BitVec 7) (s : State) : Host.Outcome State Fault Refusal :=
  s.word .never (fun s x =>
    let o : VOp := { acc := Accept.vec true false, legal := a.toNat % 2 == 0,
                     vs := (List.range 6).map (fun i => (⟨a.toNat + i, if i = 0 then 0 else 4, false⟩ : VSrc)), cost := Cost.fp false false }
    s.vecWord x o (fun s y vals =>
      let img (p : Nat) : Nat := (List.range 6).foldl (fun acc i => acc + at' (vals.at' i p) (32 * i)) 0
      if (positions y.g.n y.act).any (fun p => !xaImageOk (img p)) then .error (FaultInfo.of 0x12)
      else
        let g := (positions y.g.n (y.off ||| y.act)).foldl (fun g p => g.clearX d.toNat p) y.g
        .ok (s.setGroup ((positions y.g.n y.act).foldl (fun g p => g.setX d.toNat p (xaOfImage (img p))) g))))

end Sys2Proof.Machine
end

