-- ==== Sys2Proof/Machine/Fabric.lean ====
section
/-! DEFINITION. The fabric's named operations (21 R306-R318, 09 R140-R145): packet headers, carriageways, ports that frame
packets into flits, requests with their sequence numbers, aggregation buffers. -/
namespace Sys2Proof.Machine

/-! ### Packets (R309, R310) -/

/-- The virtual channel of a packet kind. -/
def vcOf (kind : Nat) : Nat :=
  match kind with | 0 => 0 | 2 => 0 | 3 => 0 | 4 => 0 | 8 => 2 | 10 => 3 | _ => 1

/-- A packet from its header's fields. -/
def mkPacket (dest src kind cw pseq aseq rw addr : Nat) (payload : List Byte) : Packet :=
  { w0 := dw (at' dest 56 + at' src 48 + at' kind 44 + at' (vcOf kind) 42 + at' cw 38 + at' payload.length 29 + at' pseq 12 + aseq)
    w1 := dw (at' rw 56 + addr % 2 ^ 48)
    payload := payload }

/-- The header's fields. -/
def pktDest (p : Packet) : Nat := dfield p.w0 63 56
def pktSrc (p : Packet) : Nat := dfield p.w0 55 48
def pktKind (p : Packet) : Nat := dfield p.w0 47 44
def pktVc (p : Packet) : Nat := dfield p.w0 43 42
def pktCw (p : Packet) : Nat := dfield p.w0 41 38
def pktLen (p : Packet) : Nat := dfield p.w0 37 29
def pktPseq (p : Packet) : Nat := dfield p.w0 23 12
def pktAseq (p : Packet) : Nat := dfield p.w0 11 0
def pktRw (p : Packet) : Nat := dfield p.w1 63 56
def pktAddr (p : Packet) : Nat := dfield p.w1 47 0

/-- The carriageway of a line of a destination device (R313). -/
def carriageway (pa : Nat) : Nat := field pa 10 7 ^^^ field pa 23 20

/-- Does serial number `a` follow `b` modulo 4,096 (R315)? -/
def follows (a b : Nat) : Bool := let d := (a + 4096 - b % 4096) % 4096; decide (1 ≤ d) && decide (d ≤ 2047)

/-! ### Ports (R309-R312) -/

/-- A port; replace it; the link that serves a carriageway (R315). -/
def State.port (s : State) (p : Nat) : Port := fget Port.reset s.ports p
def State.setPort (s : State) (p : Nat) (k : Port) : State := { s with ports := fset Port.reset s.ports p k }
def State.linkOf (s : State) (cw : Nat) : Nat := match s.remap.find? (fun e => e.1 == cw) with | some e => e.2 | none => cw

/-- The number of flits of a packet (R309). -/
def pktFlits (p : Packet) : Nat := cdiv (16 + p.payload.length) 64

/-- The bytes of a packet padded to whole flits (R309). -/
def pktBytes (p : Packet) : List Byte :=
  let b := bytesOf 8 p.w0.toNat ++ bytesOf 8 p.w1.toNat ++ p.payload
  b ++ List.replicate (64 * pktFlits p - b.length) 0

/-- Flit `k` of a packet, with its sequence number. -/
def pktFlit (p : Packet) (k seq : Nat) : Flit :=
  { vc := BitVec.ofNat 2 (pktVc p), seq := seq, crcOk := true, data := ((pktBytes p).drop (64 * k)).take 64 }

/-- Is a link up? -/
def Port.up (k : Port) : Bool := !k.dead && !k.training

/-- May a port send flits outbound? -/
def Port.open (k : Port) : Bool := !k.dead && !k.training && !k.idleOut && !k.cut
def Port.sends (k : Port) : Bool := k.open && decide (k.replay.length < 64)

/-- May flits of this packet be sent: its channel is not paused, it is the channel's first, and no width change waits for the
packet boundary before a new packet (R308, R312)? -/
def Port.mayCarry (k : Port) (p : Packet) : Bool :=
  !k.pausedTx.getLsbD (pktVc p) && (k.newOut.isNone || fget 0 k.prog (pktVc p) != 0)

/-- Put the next flit on the wire: it stays in the replay buffer until acknowledged (R311). -/
def Port.sendOne (k : Port) : Option Port :=
  if !k.sends then none
  else match k.txq.find? k.mayCarry with
    | none => none
    | some p =>
      let n := fget 0 k.prog (pktVc p)
      let f := pktFlit p n k.sendSeq
      let done := decide (pktFlits p ≤ n + 1)
      some { k with replay := k.replay ++ [f], wire := k.wire ++ [f], sendSeq := k.sendSeq + 1,
                    txq := if done then k.txq.erase p else k.txq,
                    prog := if done then fremove (pktVc p) k.prog else finsert (pktVc p) (n + 1) k.prog }

/-- Send new flits while they can be sent. -/
def Port.pumpNew (k : Port) : Nat → Port
  | 0 => k
  | fuel + 1 => match k.sendOne with | some k => k.pumpNew fuel | none => k

/-- Send what can be sent: first, in order, the flits of the replay buffer from the one asked for (R311). -/
def Port.pump (k : Port) (fuel : Nat) : Port :=
  if !k.open then k
  else match k.resendAt with
    | some q => ({ k with wire := k.wire ++ k.replay.filter (fun f => q ≤ f.seq), resendAt := none } : Port).pumpNew fuel
    | none => k.pumpNew fuel

/-- A packet leaves by the link of its carriageway; one for this device is turned round by the port (R323). -/
def State.sendPacket (s : State) (p : Packet) : State :=
  let l := s.linkOf (pktCw p)
  if pktDest p = s.dev then { s with arrived := s.arrived ++ [(l, p)] }
  else let k := s.port l; s.setPort l ({ k with txq := k.txq ++ [p] }.pump 64)

/-! ### Requests (R315) -/

/-- The key of a device and carriageway. -/
def pairKey (dev cw : Nat) : Nat := 16 * dev + cw

/-- Requests sent to a device on a carriageway that have no response. -/
def State.unanswered (s : State) (dev cw : Nat) : List FabReq := s.reqs.filter (fun r => r.dev == dev && r.cw == cw)

/-- ASEQ (R309): the PSEQ before the oldest unanswered request, or the last one given. -/
def State.aseq (s : State) (dev cw : Nat) : Nat :=
  let next := fget 0 s.pseq (pairKey dev cw)
  let back := (s.unanswered dev cw).foldl (fun m r => let d := (next + 4096 - r.pseq) % 4096; if m < d then d else m) 0
  (next + 4096 - back - 1) % 4096

/-- Is a request of this name still without response? -/
def State.reqOpen (s : State) (id : Nat) : Bool := s.reqs.any (fun r => r.id == id) || s.waitReqs.any (fun r => r.id == id)

/-- Send a waiting request: it takes the pair's next PSEQ. -/
def State.transmit (s : State) (r : FabReq) : State :=
  let n := fget 0 s.pseq (pairKey r.dev r.cw)
  let a := s.aseq r.dev r.cw
  let s := { s with waitReqs := s.waitReqs.filter (fun q => q.id != r.id), reqs := s.reqs ++ [{ r with pseq := n }],
                    pseq := fset 0 s.pseq (pairKey r.dev r.cw) ((n + 1) % 4096) }
  s.sendPacket (mkPacket r.dev s.dev r.kind r.cw n a r.rw r.addr r.payload)

/-- Send every waiting request that may go, in order for each pair: not on a held carriageway, fewer than 1,024 unanswered,
none before it in its pair, the responses it comes after received. -/
def State.pumpReqs (s : State) : State :=
  (s.waitReqs.foldl (fun (acc : State × List Nat) r =>
    let k := pairKey r.dev r.cw
    if r.parked.isSome then acc
    else if acc.2.contains k || acc.1.heldCw.contains r.cw || decide (1024 ≤ (acc.1.unanswered r.dev r.cw).length)
      || r.after.any acc.1.reqOpen then (acc.1, k :: acc.2)
    else (acc.1.transmit r, acc.2)) (s, [])).1

/-- Add a request of the given name and send it if it may go. -/
def State.requestAs (s : State) (id vf dev cw kind rw addr : Nat) (payload : List Byte) (body : ReqBody) (after : List Nat) : State :=
  let r : FabReq := { id := id, vf := vf, dev := dev, cw := cw, pseq := 0, kind := kind, rw := rw, addr := addr,
                      payload := payload, body := body, after := after, parked := none }
  State.pumpReqs { s with waitReqs := s.waitReqs ++ [r] }

/-- Add a request. -/
def State.request (s : State) (vf dev cw kind rw addr : Nat) (payload : List Byte) (body : ReqBody) (after : List Nat) : State :=
  s.named.requestAs s.nextId vf dev cw kind rw addr payload body after

/-- A request has its response. -/
def State.answered (s : State) (id : Nat) : State := ({ s with reqs := s.reqs.filter (fun r => r.id != id) } : State).pumpReqs

/-! ### Aggregation buffers (R140-R144, R318) -/

/-- E0 of an entry (R318). -/
def mkE0 (op type : Nat) (gid : Gid) (pa : Nat) : Dword :=
  dw (at' op 60 + at' type 57 + at' (gid.toNat / 2 ^ 23 % 128) 50 + pa / 4 % 2 ^ 46)

/-- Operation, type, address and size of an entry. -/
def e0Op (e : Dword) : Nat := dfield e 63 60
def e0Type (e : Dword) : Nat := dfield e 59 57
def e0Addr (e : Dword) : Nat := dfield e 45 0 * 4
def typeSize (t : Nat) : Nat := if t = 0 ∨ t = 1 ∨ t = 4 then 4 else 8

/-- Does an entry overlap `n` bytes at `pa`? -/
def AggEntry.overlaps (e : AggEntry) (pa n : Nat) : Bool :=
  decide (e0Addr e.e0 < pa + n) && decide (pa < e0Addr e.e0 + typeSize (e0Type e.e0))

/-- The bytes of entries in a packet. -/
def entryBytes (es : List AggEntry) : List Byte := es.flatMap (fun e => bytesOf 8 e.e0.toNat ++ bytesOf 8 e.e1.toNat)

/-- A buffer departs (R141): one aggregated packet, under the buffer's name and the function of its first entry. -/
def State.depart (s : State) (b : AggBuf) : State :=
  let s := { s with agg := s.agg.filter (fun k => k.id != b.id) }
  let vf := match b.entries with | e :: _ => e.vf | [] => 0
  let s := s.count vf b.core 0x0D 1
  s.requestAs b.id vf b.dev b.cw 3 0 0 (entryBytes b.entries) (.agg b.entries) []

/-- The buffer of a core for a pair. -/
def State.aggBuf (s : State) (core dev cw : Nat) : Option AggBuf :=
  s.agg.find? (fun b => b.core == core && b.dev == dev && b.cw == cw)

/-- The least recently used of a list of buffers. -/
def oldestBuf : List AggBuf → Option AggBuf
  | [] => none
  | b :: bs => match oldestBuf bs with | some c => if c.used < b.used then some c else some b | none => some b

/-- Entries enter their pair's buffer (R140, R318): one that would not fit makes it depart first; a full one departs. -/
def State.enterAgg (s : State) (core dev cw : Nat) (es : List AggEntry) : State :=
  let s : State := match s.aggBuf core dev cw with
    | some b => if 16 < b.entries.length + es.length then s.depart b else s
    | none => s
  let s : State := match s.aggBuf core dev cw with
    | some _ => s
    | none =>
      let mine := s.agg.filter (fun b => b.core == core)
      let s : State := if mine.length < 64 then s else match oldestBuf mine with | some b => s.depart b | none => s
      State.named { s with agg := s.agg ++ [{ id := s.nextId, core := core, dev := dev, cw := cw, entries := [], used := 0 }] }
  let put (b : AggBuf) : AggBuf := { b with entries := b.entries ++ es, used := s.nextId }
  let s := State.named { s with agg := updWhere (fun b => b.core == core && b.dev == dev && b.cw == cw) put s.agg }
  match s.aggBuf core dev cw with
  | some b => if 16 ≤ b.entries.length then s.depart b else s
  | none => s

/-- Buffers satisfying `p` depart; their names. -/
def State.departWhere (s : State) (p : AggBuf → Bool) : List Nat × State :=
  let bs := s.agg.filter p
  (bs.map (·.id), bs.foldl (fun s b => s.depart b) s)

/-- Buffers of a core with an entry that overlaps bytes of a device depart (R142, R317). -/
def State.departOverlap (s : State) (core dev pa n : Nat) : List Nat × State :=
  s.departWhere (fun b => b.core == core && b.dev == dev && b.entries.any (fun e => e.overlaps pa n))

/-- A fault of an aggregated element goes into its group's fault log of 8 (R144). -/
def State.logAgg (s : State) (gid : Gid) (f : AggFault) : State :=
  s.onGroup gid (fun g =>
    if g.aggLog.length < 8 then { g with aggLog := g.aggLog ++ [f] }
    else { g with aggLost := if g.aggLost < 65535 then g.aggLost + 1 else g.aggLost })

end Sys2Proof.Machine
end

