-- ==== Sys2Proof/Machine/LoadStore.lean ====
section
/-! DEFINITION. Loads and stores (15 R223-R228, 07 R90, R95-R100, R111-R113, R116, R117, 21 R317): addresses, the accesses of
a word's positions, their issue. They are performed by the steps of the homes. -/
namespace Sys2Proof.Machine

/-! ### Accesses in flight -/

/-- The accesses in flight that are kept before one of the issuing word to these bytes (R122, R124): of `before`, the group's own that are
earlier in program order, and stores that it has observed in the L1. -/
def State.keptBefore (s : State) (x : Ix) (l : Loc) (size : Nat) (before : List Access) : List Nat :=
  let meets (f : Access) : Bool := f.loc.overlaps f.size l size
  (before.filter (fun f => meets f && f.earlier x.g (x.g.lineage x.path.id)) ++ s.flight.filter (fun f => meets f && x.g.seen.contains f.id)).map (·.id)

/-- Put an access of the issuing word in flight. Loads take as `before` what was in flight before the word, since the positions of one word are
unordered but where they write the same byte (R123); `helper` marks one that serves helper positions only. -/
def State.fly (s : State) (x : Ix) (kind : AccKind) (l : Loc) (va size : Nat) (ops : List PosOp) (dest : Dest) (const : Bool)
    (before : List Access) (helper : Bool) : State :=
  let a : Access := { id := s.nextId, gid := x.g.gid, vf := x.g.vf, core := coreOf x.p, kind := kind, loc := l,
                      va := va, size := size, ops := ops, dest := dest, addr := x.addr, const := const, line := x.g.lineage x.path.id,
                      after := if helper then [] else s.keptBefore x l size before, helper := helper }
  State.named { s with flight := s.flight ++ [a] }

/-- The register writes of a value of `size` bytes (R224). -/
def Dest.items (d : Dest) (ops : List PosOp) (size v : Nat) : List FillItem :=
  match d with
  | .none => []
  | .v reg pair signed helpers =>
    let w := if signed then ofSigned 32 (toSigned (8 * size) v) else v
    ops.flatMap (fun o =>
      let sh := has helpers o.pos
      .v sh reg o.pos (BitVec.ofNat 32 w) :: (if pair then [.v sh (reg + 1) o.pos (BitVec.ofNat 32 (w / 2 ^ 32))] else []))
  | .s reg signed => [.s reg (dw (if signed then ofSigned 64 (toSigned (8 * size) v) else v))]
  | .poll reg cmp => [.poll reg (dw v) cmp]
  | .elem reg key since => [.q reg key since (dw v)]
  | .code path addr => [.code path addr (BitVec.ofNat 32 v)]

/-- A value on its way to the registers of a group (R166). -/
def State.fill (s : State) (gid : Gid) (items : List FillItem) : State :=
  State.named { s with fills := s.fills ++ [{ id := s.nextId, gid := gid, items := items }] }

/-! ### The accesses of a word -/

/-- One access of a word: the active and helper positions it serves, the lane and member it is named by, its address after
windows, how it stands. -/
structure MemUnit where
  act : Mask
  hlp : Mask
  first : Nat
  pos : Nat × Nat
  va : Nat
  res : AccRes
  deriving DecidableEq, Repr

/-- All positions served. -/
def MemUnit.all (u : MemUnit) : Mask := u.act ||| u.hlp

/-- The operands of a load's positions. -/
def MemUnit.ops (u : MemUnit) (n : Nat) : List PosOp := (positions n u.all).map (fun p => ⟨p, 0, 0⟩)

/-- The accesses of the positions of a mask, one for each value of `key`; `name` gives the lane and member it is named by,
`addr` the address and standing computed at a position (R226). -/
def Ix.units (x : Ix) (exec : Mask) (key : Nat → Nat) (name : Nat → Nat × Nat) (addr : Nat → Nat × AccRes) : List MemUnit :=
  let ps := positions x.g.n exec
  ((ps.map key).eraseDups).map (fun k =>
    let mine := maskOf x.g.n (fun p => has exec p && key p == k)
    let act := mine &&& x.act
    let p := ((positions x.g.n act).head?).getD (((positions x.g.n mine).head?).getD 0)
    let r := addr p
    { act := act, hlp := mine &&& ~~~act, first := p, pos := name p, va := r.1, res := r.2 })

/-- The access with the earliest active position among those that fault (R116, R182). -/
def firstFault (us : List MemUnit) : Option MemUnit :=
  us.foldl (fun acc u =>
    match u.res with
    | .fault _ _ => if u.act = 0 then acc else (match acc with | some v => if u.first < v.first then some u else acc | none => some u)
    | _ => acc) none

/-- The fault of an access as the word takes it. -/
def MemUnit.info (u : MemUnit) (shd : Bool) : FaultInfo :=
  match u.res with
  | .fault code cause => { FaultInfo.with code cause with pos := some u.pos, shd := shd, daddr := u.va }
  | _ => FaultInfo.of 0

/-- Does an access miss at active positions? -/
def MemUnit.misses (u : MemUnit) : Bool := match u.res with | .miss _ => u.act != 0 | _ => false

/-- The misses as (position, address, demand-paged), and the positions that re-execute (R117). -/
def missList (us : List MemUnit) : List (Nat × Nat × Bool) :=
  us.filterMap (fun u => match u.res with | .miss d => if u.act = 0 then none else some (u.first, u.va, d) | _ => none)
def missMask (us : List MemUnit) : Mask := us.foldl (fun m u => if u.misses then m ||| u.act else m) 0

/-! ### Loads at issue -/

/-- Are the bytes of a place valid in a core's L1 (R112, R113)? -/
def State.inL1 (s : State) (core : Nat) (l : Loc) (size : Nat) : Bool :=
  match l.cached with
  | none => false
  | some (host, a) => ((s.core core).line host (a / 128)).any (fun k => k.hits a size)

/-- The key of the constant cache: an 8-byte word of a function's space (R100). -/
def constKey (vf va : Nat) : Nat := vf * 2 ^ 49 + va / 8

/-- A load of one access issues: it reads a weight bank that is not refreshing (R97), or is in flight until it is performed at a bank, at
the L1, at the constant cache or at its home. -/
def State.issueLoad (s : State) (x : Ix) (l : Loc) (va size : Nat) (ops : List PosOp) (dest : Dest) (const : Bool)
    (before : List Access) (helper : Bool) : State :=
  match l with
  | .scr _ _ => s.fly x .load l va size ops dest const before helper
  | .peer _ _ => s
  | .weight d a =>
    if a / 4096 % 64 = (s.die d).window % 64 then s.fly x .load l va size ops dest const before helper
    else s.fill x.g.gid (dest.items ops size (s.readLoc l size))
  | _ => (s.touch x.g.vf va false l).fly x .load l va size ops dest const before helper

/-- An access of the issuing word to a peer page. -/
def State.peerAccess (s : State) (x : Ix) (i : Nat) (kind : AccKind) (l : Loc) (va size : Nat) (ops : List PosOp) (dest : Dest)
    (helper : Bool) : Access :=
  { id := s.nextId + i, gid := x.g.gid, vf := x.g.vf, core := coreOf x.p, kind := kind, loc := l, va := va,
    size := size, ops := ops, dest := dest, addr := x.addr, const := false, line := x.g.lineage x.path.id, helper := helper }

/-- Device and physical address of a peer access. -/
def Access.peerAt (a : Access) : Nat × Nat := match a.loc with | .peer d pa => (d, pa) | _ => (0, 0)

/-- Reads of peer pages, one packet for each device and line, covering the words the positions touch (R317); a matching buffer
departs and is acknowledged first (R142). -/
def State.sendReads (s : State) (vf core : Nat) (as : List Access) : State :=
  let lines := (as.map (fun a => (a.peerAt.1, a.peerAt.2 / 128))).eraseDups
  lines.foldl (fun s d =>
    let mine := as.filter (fun a => (a.peerAt.1, a.peerAt.2 / 128) == d)
    let lo := mine.foldl (fun m a => if a.peerAt.2 / 4 < m then a.peerAt.2 / 4 else m) (32 * d.2 + 31)
    let hi := mine.foldl (fun m a => if m < (a.peerAt.2 + a.size - 1) / 4 then (a.peerAt.2 + a.size - 1) / 4 else m) (32 * d.2)
    let r := s.departOverlap core d.1 (4 * lo) (4 * (hi + 1 - lo))
    r.2.request vf d.1 (carriageway (4 * lo)) 0 (hi - lo) (4 * lo) [] (.access mine) r.1) s

/-- The byte mask and line of a write packet from bytes by offset (R310). -/
def linePayload (bs : FMap Byte) : List Byte :=
  bytesOf 16 (bs.foldl (fun m e => m + 2 ^ e.1) 0) ++ tab 128 (fun i => fget 0 bs i)

/-- Masked writes to peer pages, one packet for each device and line (R317): later accesses over earlier. Overlapping buffers
depart before. -/
def State.sendWrites (s : State) (vf core : Nat) (as : List Access) : State :=
  let lines := (as.map (fun a => (a.peerAt.1, a.peerAt.2 / 128))).eraseDups
  lines.foldl (fun s d =>
    let mine := as.filter (fun a => (a.peerAt.1, a.peerAt.2 / 128) == d)
    let bytes := mine.foldl (fun m a => (List.range a.size).foldl (fun m i =>
      finsert (a.peerAt.2 % 128 + i) (BitVec.ofNat 8 ((a.ops.map (fun o => o.x.toNat)).headD 0 / 256 ^ i)) m) m) ([] : FMap Byte)
    let s := mine.foldl (fun s a => (s.departOverlap core d.1 a.peerAt.2 a.size).2) s
    s.request vf d.1 (carriageway (128 * d.2)) 2 0 (128 * d.2) (linePayload bytes) (.access mine) []) s

/-! ### Memory words -/

/-- A load or store word: its registers, size, and the addresses of its positions. -/
structure MemOp where
  store : Bool
  size : Nat
  signed : Bool
  shd : Bool
  uniform : Bool
  data : Nat
  sb : Nat
  vidx : Option Nat
  const : Bool
  legal : Bool

/-- Operands and checks of a memory word (R224, R227). -/
def MemOp.op (m : MemOp) : VOp :=
  let pair := m.size == 8
  { acc := { mask := true, zero := !m.store, epa := true, epb := m.vidx.isSome }
    legal := m.legal && (!pair || m.data % 2 == 0) && (!m.signed || decide (m.size ≤ 2))
    vs := (match m.vidx with | some v => [⟨v, 5, false⟩] | none => []) ++ (if m.store then [⟨m.data, 3, pair⟩] else [])
    ss := [(m.sb, 0)]
    vd := if m.store then [] else if pair then [m.data, m.data + 1] else [m.data]
    hlp := !m.store
    cost := Cost.vector (!m.store) }

/-- The position whose address register gives a position's address: member 0's in the lane for a shared load (R111). -/
def MemOp.addrPos (m : MemOp) (x : Ix) (p : Nat) : Nat := if m.shd then x.g.lane p else p

/-- Which positions share one access (R111, R226). -/
def MemOp.key (m : MemOp) (x : Ix) (p : Nat) : Nat :=
  if m.store then p
  else if m.shd then (if m.uniform then 0 else x.g.lane p)
  else if m.uniform then x.g.member p else p

/-- The accesses of a word, `addr` giving the address and standing at a position. -/
def MemOp.units (m : MemOp) (s : State) (x : Ix) (addr : State → Ix → Nat → Nat × AccRes) : List MemUnit :=
  x.units (if m.store then x.act else x.act ||| x.hlp) (m.key x) (fun p => (x.g.lane p, if m.shd then 0 else x.g.member p))
    (fun p => addr s x (m.addrPos x p))

/-- A later access of a group waits for its POLL (R286). -/
def Group.pollWait (g : Group) : Option Wait := g.polling.map (fun r => .regs [] [] (dw (2 ^ r)))

/-- Count a global load's fate in the L1, once a member pass and line (R384, R390): a hit, a merging fill, a miss, as the L1 stands at issue
(log entry 57). -/
def State.countL1 (s : State) (x : Ix) (size : Nat) (us : List MemUnit) : State :=
  let core := coreOf x.p
  let parts := us.flatMap (fun u => match u.res with
    | .at_ l => match l.cached with
      | some (host, a) =>
        let hit := s.inL1 core l size
        (((positions x.g.n u.all).map (fun p => (x.g.phys p).1)).eraseDups).map (fun i => ((i, host, a / 128), hit))
      | none => []
    | _ => [])
  let lines := (parts.map (·.1)).eraseDups
  let allHit (k : Nat × Bool × Nat) : Bool := parts.all (fun e => e.1 != k || e.2)
  let present (k : Nat × Bool × Nat) : Bool := ((s.core core).line k.2.1 k.2.2).isSome
  let n (f : Nat × Bool × Nat → Bool) : Nat := lines.countP f
  ((s.count x.g.vf core 0x06 (n allHit)).count x.g.vf core 0x07 (n (fun k => !allHit k && present k))).count x.g.vf core 0x08
    (n (fun k => !allHit k && !present k))

/-- Perform a load word: ZERO, helpers' failed accesses, destinations empty, accesses issued; misses park (R116, R117, R226). -/
def State.loadWord (s : State) (x : Ix) (m : MemOp) (us : List MemUnit) : Res :=
  let pair := m.size == 8
  let failedHlp := us.foldl (fun k u => match u.res with | .at_ _ => k | _ => k ||| u.hlp) (0 : Mask)
  let pending := us.foldl (fun k u => match u.res with | .at_ _ => k ||| u.hlp | _ => k) (0 : Mask)
  let s := s.onGroup x.g.gid (fun g =>
    let g := g.writeVal pair m.data (fun p => if has x.off p then some 0 else none)
    let g := if failedHlp = 0 then g else g.writeShVal x.path.id pair m.data (fun p => if has failedHlp p then some 0 else none)
    g.markEmpty x.path.id pair m.data x.act pending)
  let dest (u : MemUnit) : Dest := .v m.data pair m.signed u.hlp
  let s := if m.const then s else s.countL1 x m.size us
  let before := s.flight
  let s := us.foldl (fun s u => match u.res with
    | .at_ l => s.issueLoad x l u.va m.size (u.ops x.g.n) (dest u) m.const before (u.act == 0)
    | _ => s) s
  let peers := us.filterMap (fun u => match u.res with | .at_ (.peer d a) => some (u, Loc.peer d a) | _ => none)
  let accs := peers.map (fun u => s.peerAccess x 0 .load u.2 u.1.va m.size (u.1.ops x.g.n) (dest u.1) (u.1.act == 0))
  let s := if accs.isEmpty then s
    else (accs.foldl (fun s a => s.touch a.vf a.va false a.loc) s.named).sendReads x.g.vf (coreOf x.p) accs
  let lost := missMask us
  if lost = 0 then .done s m.op.cost else .parked (s.parkMiss x (missList us) lost m.shd false) m.op.cost lost

/-- A store of one position issues: to its L1 and on to its home (R112), to a scratchpad bank, or into an aggregation buffer (R140). -/
def State.issueStore (s : State) (x : Ix) (u : MemUnit) (l : Loc) (size v : Nat) : State :=
  let ops : List PosOp := [⟨u.first, dw v, 0⟩]
  match l with
  | .scr _ _ => s.fly x .store l u.va size ops .none false s.flight false
  | .peer d a =>
    if size < 4 then s
    else
      let e : AggEntry := { e0 := mkE0 0 (if size = 4 then 1 else 3) x.g.gid a, e1 := dw v, gid := x.g.gid, vf := x.g.vf,
                            line := x.g.lineage x.path.id }
      (s.touch x.g.vf u.va true l).enterAgg (coreOf x.p) d (carriageway a) [e]
  | .weight _ _ => s
  | _ =>
    let s := s.touch x.g.vf u.va true l
    s.fly x .store l u.va size ops .none false s.flight false

/-- Perform a store word: one store an active position (R226). -/
def State.storeWord (s : State) (x : Ix) (m : MemOp) (us : List MemUnit) : Res :=
  let val (p : Nat) : Nat := x.g.vval (m.size == 8) m.data p % 2 ^ (8 * m.size)
  let s := us.foldl (fun s u => match u.res with
    | .at_ l => s.issueStore x u l m.size (val u.first)
    | _ => s) s
  let small := if 4 ≤ m.size then [] else us.filterMap (fun u => match u.res with
    | .at_ (.peer d a) => some (s.peerAccess x u.first .store (.peer d a) u.va m.size [⟨u.first, dw (val u.first), 0⟩] .none false)
    | _ => none)
  let s := if small.isEmpty then s
    else (small.foldl (fun (s : State) a => s.touch a.vf a.va true a.loc) { s with nextId := s.nextId + 256 }).sendWrites x.g.vf (coreOf x.p) small
  let lost := missMask us
  if lost = 0 then .done s m.op.cost else .parked (s.parkMiss x (missList us) lost false true) m.op.cost lost

/-- Bank-conflict cycles of a word's passes (R93): for each pass, the most distinct words one bank serves, less one. -/
def bankCycles (x : Ix) (us : List MemUnit) (size : Nat) : Nat :=
  (List.range x.g.passes).foldl (fun acc i =>
    let ws := ((us.filter (fun u => (x.g.phys u.first).1 == i)).flatMap (fun u =>
      match u.res with
      | .at_ (.scr b o) => (b, o / 4) :: (if size = 8 then [(b, o / 4 + 1)] else [])
      | _ => [])).eraseDups
    let worst := (ws.map (fun w => ws.countP (fun k => k.2 % 32 == w.2 % 32 && k.1 == w.1))).foldl Nat.max 0
    acc + (worst - 1)) 0

/-- A load or store word (R228): the checks of R169, the empty registers, a POLL in progress, then the accesses. `addr` gives the address
and its standing at a position; `use` says whether capsule mode allows the word, and `alt` what it is there (R291). -/
def State.memWord (s : State) (use : CapUse) (m : MemOp) (addr : State → Ix → Nat → Nat × AccRes) (alt : State → Ix → Option Res) :
    Host.Outcome State Fault Refusal :=
  s.word use (fun s x =>
    match alt s x with
    | some r => r
    | none =>
      match x.vecFault m.op with
      | some e => .trap e
      | none => match x.emptyTrap m.op with
        | some e => .trap e
        | none => match x.emptyWait m.op with
          | some w => .wait s w
          | none => match x.g.pollWait with
            | some w => .wait s w
            | none =>
              let us := m.units s x addr
              match firstFault us with
              | some u => .trap (u.info m.shd)
              | none =>
                let s := s.count x.g.vf (coreOf x.p) 0x09 (bankCycles x us m.size)
                if m.store then s.storeWord x m us else s.loadWord x m us)

/-! ### Addresses -/

/-- The index term at a position (R223). -/
def Ix.index (x : Ix) (v : BitVec 7) (c : BitVec 1) (size p : Nat) : Int :=
  toSigned 32 (x.g.v1 v.toNat p).toNat * (if c = 1 then (size : Int) else 1)

/-- s(SBASE) plus an offset, modulo 2^64 (R223). -/
def Ix.base64 (x : Ix) (sb : BitVec 6) (i : Int) : Nat := ofSigned 64 ((x.g.sreg sb.toNat).toNat + i)

/-- The standing of an indexed global access of a position (R90, R109). -/
def globalAt (v : BitVec 7) (sb : BitVec 6) (c : BitVec 1) (size : Nat) (write : Bool) (s : State) (x : Ix) (p : Nat) : Nat × AccRes :=
  s.memberAccess x.g.vf (x.g.member p) (x.base64 sb (x.index v c size p)) write size

/-- A scratchpad access in two parts (R225). -/
def scratchAt (v : BitVec 7) (sb : BitVec 6) (c : BitVec 1) (size : Nat) (s : State) (x : Ix) (p : Nat) : Nat × AccRes :=
  let b := (x.g.sreg sb.toNat).toNat
  let o : Int := (field b 17 0 : Nat) + x.index v c size p
  if 2 ^ 32 ≤ b || o < 0 || 2 ^ 18 ≤ o then (b, .fault (if (ofSigned 64 ((b : Int) + x.index v c size p)) % size = 0 then 0x03 else 0x02) 0)
  else
    let a := b / 2 ^ 18 * 2 ^ 18 + o.toNat
    (a, s.scrAccess x.g a size)

/-- SIZE in bytes. -/
def szBytes (z : BitVec 2) : Nat := 2 ^ z.toNat

/-! ### Capsule mode (R291) -/

/-- The die of a capsule record, where its page lies. -/
def State.capDie (s : State) (g : Group) : Nat :=
  match s.locOf g.vf g.cap.record with | some (.hbm a) => a / Config.dieSpan | _ => 0

/-- May a step of a capsule touch this place: a capsule-home page homed on the record's die, and at most 3 lines (R291, R298)?
The lines touched, or the fault. -/
def State.capLine (s : State) (g : Group) (va : Nat) (l : Loc) : Except FaultInfo (List Nat) :=
  let home := match s.leafOf g.vf va with | some (e, _) => dbit e 7 | none => false
  match l with
  | .hbm a =>
    if !home || a / Config.dieSpan ≠ s.capDie g then .error { FaultInfo.of 0x23 with daddr := va }
    else
      let ls := if g.cap.lines.contains (a / 128) then g.cap.lines else g.cap.lines ++ [a / 128]
      if 3 < ls.length then .error { FaultInfo.with 0x22 2 with daddr := va } else .ok ls
  | _ => .error { FaultInfo.of 0x23 with daddr := va }

/-- LD or ST in capsule mode (R291): once for the group, DATA naming an s register; stores go to the step's buffer, loads see
it. -/
def State.capMem (s : State) (x : Ix) (store signed : Bool) (z : BitVec 2) (d : BitVec 7) (sb : BitVec 6) (o : BitVec 8) : Res :=
  let size := szBytes z
  let r := d.toNat % 64
  let op : SOp := { acc := { mask := true, zero := !store, epa := true },
                    legal := decide (d.toNat < 64) && (!signed || decide (size ≤ 2)),
                    ss := (sb.toNat, 0) :: (if store then [(r, 3)] else []), sd := if store then [] else [r] }
  s.scalarWord x op (fun s x =>
    let va := x.base64 sb (toSigned 8 o.toNat * size)
    match s.access x.g.vf va store size with
    | .fault code cause => .trap { FaultInfo.with code cause with daddr := va }
    | .miss dp => .parked (s.parkMiss x [(0, va, dp)] 0 false store)
    | .at_ l =>
      match s.capLine x.g va l with
      | .error f => .trap f
      | .ok ls =>
        if !store && s.lineHeld l then .wait s (.line l)
        else if !store && !(s.keptBefore x l size s.flight).isEmpty then .wait s (.order false)
        else
          let pa := match l with | .hbm a => a | _ => 0
          let s := if store then s else s.touch x.g.vf va false l
          let put (g : Group) : Group := { g with cap := { g.cap with lines := ls } }
          if store then
            let v := (x.g.sreg r).toNat
            let bytes := (List.range size).foldl (fun b i => finsert (pa + i) (BitVec.ofNat 8 (v / 256 ^ i)) b) x.g.cap.buffer
            let vas := (List.range size).foldl (fun b i => finsert (pa + i) (va + i) b) x.g.cap.vas
            .done (s.onGroup x.g.gid (fun g =>
              let g := put g
              { g with cap := { g.cap with buffer := bytes, vas := vas } })) Cost.one
          else
            let bs := tab size (fun i =>
              match x.g.cap.buffer.find? (fun e => e.1 == pa + i) with
              | some e => e.2
              | none => BitVec.ofNat 8 (s.readLoc (l.add i) 1))
            let s := s.onGroup x.g.gid (fun g => (put g).markS r false)
            .done (s.fill x.g.gid ((Dest.s r signed).items [] size (numOf bs))) Cost.one)

/-! ### The instructions (R223) -/

/-- The registers of a load, and of a store (R223, R224). -/
def loadOp (d : BitVec 7) (sb : BitVec 6) (v : Option (BitVec 7)) (z : BitVec 2) (x1 h : BitVec 1) (const : Bool) : MemOp :=
  { store := false, size := szBytes z, signed := x1 == 1, shd := h == 1, uniform := v.isNone, data := d.toNat, sb := sb.toNat,
    vidx := v.map (·.toNat), const := const, legal := true }
def storeOp (d : BitVec 7) (sb : BitVec 6) (v : Option (BitVec 7)) (z : BitVec 2) : MemOp :=
  { store := true, size := szBytes z, signed := false, shd := false, uniform := v.isNone, data := d.toNat, sb := sb.toNat,
    vidx := v.map (·.toNat), const := false, legal := true }

/-- The standing of LD and ST at a position: s(SBASE) + sext(OFS8) size, in the member's window, or member 0's when shared. -/
def uniformAt (sb : BitVec 6) (o : BitVec 8) (size : Nat) (shd write : Bool) (s : State) (x : Ix) (p : Nat) : Nat × AccRes :=
  s.memberAccess x.g.vf (if shd then 0 else x.g.member p) (x.base64 sb (toSigned 8 o.toNat * size)) write size

/-- The standing of an offset in the function's region of the die's weight store (R95). -/
def weightAt (v : BitVec 7) (sb : BitVec 6) (c : BitVec 1) (size : Nat) (s : State) (x : Ix) (p : Nat) : Nat × AccRes :=
  let a := x.base64 sb (x.index v c size p)
  (a, s.weightAccess x.g.vf (dieOfCore (coreOf x.p)) a size)

/-- The standing of a constant: no window (R100, R109). -/
def constAt (v : BitVec 7) (sb : BitVec 6) (c : BitVec 1) (size : Nat) (s : State) (x : Ix) (p : Nat) : Nat × AccRes :=
  let a := x.base64 sb (x.index v c size p)
  (a, s.access x.g.vf a false size)

/-- LD: every position of a member at s(SBASE) + sext(OFS8) size. -/
def execLd (d : BitVec 7) (sb : BitVec 6) (o : BitVec 8) (z : BitVec 2) (x1 h : BitVec 1) (s : State) : Host.Outcome State Fault Refusal :=
  s.memWord .allowed (loadOp d sb none z x1 h false) (uniformAt sb o (szBytes z) (h == 1) false)
    (fun s x => if x.inCapsule then some (s.capMem x false (x1 == 1) z d sb o) else none)

/-- ST. -/
def execSt (d : BitVec 7) (sb : BitVec 6) (o : BitVec 8) (z : BitVec 2) (s : State) : Host.Outcome State Fault Refusal :=
  s.memWord .allowed (storeOp d sb none z) (uniformAt sb o (szBytes z) false true)
    (fun s x => if x.inCapsule then some (s.capMem x true false z d sb o) else none)

/-- A word that capsule mode does not allow has no other meaning there. -/
def noAlt (_ : State) (_ : Ix) : Option Res := none

/-- LDX. -/
def execLdx (d : BitVec 7) (sb : BitVec 6) (v : BitVec 7) (z : BitVec 2) (x1 h c : BitVec 1) (s : State) :
    Host.Outcome State Fault Refusal :=
  s.memWord .never (loadOp d sb (some v) z x1 h false) (globalAt v sb c (szBytes z) false) noAlt

/-- STX. -/
def execStx (d : BitVec 7) (sb : BitVec 6) (v : BitVec 7) (z : BitVec 2) (c : BitVec 1) (s : State) : Host.Outcome State Fault Refusal :=
  s.memWord .never (storeOp d sb (some v) z) (globalAt v sb c (szBytes z) true) noAlt

/-- LDS. -/
def execLds (d : BitVec 7) (sb : BitVec 6) (v : BitVec 7) (z : BitVec 2) (x1 h c : BitVec 1) (s : State) :
    Host.Outcome State Fault Refusal :=
  s.memWord .never (loadOp d sb (some v) z x1 h false) (scratchAt v sb c (szBytes z)) noAlt

/-- STS. -/
def execSts (d : BitVec 7) (sb : BitVec 6) (v : BitVec 7) (z : BitVec 2) (c : BitVec 1) (s : State) : Host.Outcome State Fault Refusal :=
  s.memWord .never (storeOp d sb (some v) z) (scratchAt v sb c (szBytes z)) noAlt

/-- LDW: an offset in the function's region of the die's weight store (R95). -/
def execLdw (d : BitVec 7) (sb : BitVec 6) (v : BitVec 7) (z : BitVec 2) (x1 h c : BitVec 1) (s : State) :
    Host.Outcome State Fault Refusal :=
  s.memWord .never (loadOp d sb (some v) z x1 h false) (weightAt v sb c (szBytes z)) noAlt

/-- LDC: as LDX, through the constant cache and no window (R100, R109). -/
def execLdc (d : BitVec 7) (sb : BitVec 6) (v : BitVec 7) (z : BitVec 2) (x1 h c : BitVec 1) (s : State) :
    Host.Outcome State Fault Refusal :=
  s.memWord .never (loadOp d sb (some v) z x1 h true) (constAt v sb c (szBytes z)) noAlt

end Sys2Proof.Machine
end

