-- ==== Sys2Proof/Machine/Pool.lean ====
section
/-! DEFINITION. Rows of the register file, the grant of claims, the end of a group (03 R34, R35, 20 R304, 13 R220), and which
slots are ready (R37). -/
namespace Sys2Proof.Machine

/-! ### Rows (R34) -/

/-- Rows that `v` registers of a group's shape take in a half. -/
def rowsOf (w e off v : Nat) (helpers : Bool) (half : Nat) : Nat :=
  let n := e * v * (if helpers then 2 else 1)
  if w = 64 then 2 * n else if w = 32 then n else if (off = 0) = (half = 0) then n else 0

/-- Groups resident on a partition. -/
def State.resident (s : State) (p : Nat) : List Group := s.groups.filter (fun g => g.part == p)

/-- Rows reserved in a half of a partition by its resident groups at their current counts. -/
def State.rowsUsed (s : State) (p half : Nat) : Nat :=
  ((s.resident p).map (fun g => rowsOf g.w g.e g.laneOff g.vcur g.helpers half)).sum

/-- Can the pool meet a claim of `n` registers by a group (R35, R299)? -/
def State.poolMeets (s : State) (g : Group) (n : Nat) : Bool :=
  (List.range 2).all (fun h => decide (s.rowsUsed g.part h + rowsOf g.w g.e g.laneOff n g.helpers h ≤ Config.rowsPerHalf))

/-! ### Claims (R35, R304) -/

/-- A granted claim: the registers are zero and full in values and shadows (R299). -/
def Group.grant (g : Group) (n : Nat) : Group :=
  let fresh (r : Nat) : Bool := g.vcur ≤ r && r < g.vcur + n
  { g with vcur := g.vcur + n, v := g.v.filter (fun e => !fresh e.1), vEmpty := g.vEmpty.filter (fun e => !fresh e.1),
           sh := g.sh.filter (fun e => !fresh e.1), shEmpty := g.shEmpty.filter (fun e => !fresh e.1),
           shLive := g.shLive.filter (fun e => !fresh e.1) }

/-- The path goes on at the word after its current one, or at the next clause. -/
def Path.skipWord (t : Path) : Path :=
  match t.fetched with
  | none => t
  | some cl =>
    let step := match cl.words.drop t.widx with | w :: _ :: _ => if isPrefix w then 2 else 1 | _ => 1
    if cl.words.length ≤ t.widx + step then { t.goto cl.after with fresh := cl.hdr.ms } else { t with widx := t.widx + step }

/-- The path goes on at the word after its REGCLM (R299): in the clause it holds, or, after a stop, at the word that its park names. -/
def Path.goOn (t : Path) (pc word : Nat) (fresh : Bool) : Path :=
  if t.fetched.isSome then t.skipWord else { t.goto pc with resumeAt := word, fresh := fresh }

/-- Grant a parked claim: the group resumes at the next word. -/
def State.grantClaim (s : State) (p : Nat) (c : Gid × Nat × Nat) : State :=
  let now := (s.core (coreOf p)).cycles
  let s := s.setPart p { s.part p with claims := (s.part p).claims.filter (fun d => d.1 != c.1) }
  s.onGroup c.1 (fun g =>
    let h := match g.park with
      | .regclm _ _ pc word fresh => (g.grant c.2.2).onPath c.2.1 (fun t => (t.goOn pc word fresh).readied now)
      | _ => g
    { h with park := .none })

/-- Is every resident group of a partition parked in REGCLM? -/
def State.allClaiming (s : State) (p : Nat) : Bool :=
  (s.resident p).all (fun g => match g.park with | .regclm _ _ _ _ _ => true | _ => false)

/-- The address of the word at which a path stands; after a stop, which keeps no clause, that of the word where it goes on. -/
def Path.wordAddr (t : Path) : Nat :=
  match t.fetched with
  | some c => match c.words.drop t.widx with
    | w :: _ :: _ => c.base + 4 * (t.widx + if isPrefix w then 2 else 1)
    | _ => c.base + 4 * (t.widx + 1)
  | none => t.pc + 4 * (t.resumeAt + 1)

/-- Claim-deadlock against a parked group: its claim leaves the pool with V' as it was, and is issued afresh when the context resumes
(R305). -/
def State.deadlock (s : State) (p : Nat) (c : Gid × Nat × Nat) : State :=
  let s := s.setPart p { s.part p with claims := (s.part p).claims.filter (fun d => d.1 != c.1) }
  let a := match (s.group c.1).bind (fun g => g.path? c.2.1) with | some t => t.wordAddr | none => 0
  s.takeFault c.1 { FaultInfo.of 0x18 with faddr := a }

/-- The grant order of R35 until nothing more is granted; claim-deadlock when every resident group waits and none can be
met (R304). -/
def State.grantClaims (s : State) (p : Nat) : Nat → State
  | 0 => s
  | fuel + 1 =>
    let meets (c : Gid × Nat × Nat) : Bool := match s.group c.1 with | some g => s.poolMeets g c.2.2 | none => false
    match (s.part p).claims with
    | [] => s
    | c :: cs =>
      if meets c then (s.grantClaim p c).grantClaims p fuel
      else if s.allClaiming p then
        match cs.find? meets with
        | some d => (s.grantClaim p d).grantClaims p fuel
        | none => (c :: cs).foldl (fun s d => s.deadlock p d) s
      else s

/-- After a release of rows on a partition. -/
def State.released (s : State) (p : Nat) : State := s.grantClaims p ((s.part p).claims.length + 1)

/-! ### The end of a group (R220) -/

/-- A group's term of PSIG (R387). -/
def State.psigTerm (s : State) (g : Group) : Dword :=
  let lin := match s.launches.find? (fun l => l.id == g.launch) with | some l => clusterIndex l.grid g.cluster | none => g.cluster
  g.sig ^^^ dw (at' lin 8 + at' g.blockNo 4 + g.groupNo)

/-- A block's last group has gone: its scratchpad and place return (R92, R43). -/
def State.endBlock (s : State) (uid : Nat) : State :=
  match s.block uid with
  | none => s
  | some b =>
    if b.left ≤ 1 then
      { s with blocks := s.blocks.filter (fun k => k.uid != uid),
               launches := updWhere (fun l => l.id == b.launch) (fun l => { l with blocksLeft := l.blocksLeft - 1 }) s.launches }
    else { s with blocks := updWhere (fun k => k.uid == uid) (fun k => { k with left := k.left - 1 }) s.blocks }

/-- The last path of a group has gone: registers, tiles and slots return, accesses already issued go on (R220). -/
def State.endGroup (s : State) (g : Group) : State :=
  let s := match s.replay with
    | some r => if r.cmd.vf = g.vf then { s with replay := some { r with psig := r.psig + s.psigTerm g } } else s
    | none => s
  let s := { s with groups := s.groups.filter (fun h => h.gid != g.gid) }
  (s.endBlock g.block).released g.part

/-! ### Ready slots (R37) -/

/-- Is a path running, or next to run, on its partition? -/
def Part.holds (k : Part) (e : Gid × Nat) : Bool :=
  (match k.run with | some r => (r.gid, r.path) == e || r.partner == some e | none => false) || k.next == some e

/-- Has an engine request bytes for a block still to perform, or no progress since `n` bytes or entries (R51)? -/
def Xfer.arriving (t : Xfer) (uid n : Nat) : Bool :=
  (match t.st with | .faulted _ => false | .finished => false | _ => true)
  && (t.owed.any (fun e => e.1 == uid) || decide (t.bytes + t.started = n)
    || (t.holds && (t.req.isHalo || t.req.dsp == 1) && t.rest.any (fun p => t.shares.any (fun v => (scrTarget v p.dst).any (fun e => e.1 == uid)))))

/-- Is an access or copy that stalled on a block before it started still to be performed (R51)? -/
def State.arriving (s : State) (b : Block) : Bool :=
  b.arrivals.any (fun e => s.flight.any (fun a => a.id == e.1) || s.xfers.any (fun t => t.id == e.1 && t.arriving b.uid e.2))

/-- Does a path of a group issue to an engine and wait for the group's earlier accesses, which stalls the whole group (R133)? -/
def Group.stalls (g : Group) : Bool := g.paths.any (fun t => t.wait == .order true)

/-- Is a slot ready: in a PC slot of a group that runs, without a wait (R37); in capsule mode only the path that entered
issues (R291)? A group that stalls for an engine has no ready slot (R133), and one whose block has arrivals to perform issues no leg (R51). -/
def State.slotReady (s : State) (g : Group) (t : Path) : Bool :=
  (s.ctx g.vf).st == .live && g.park == .none && !g.stopped && (g.slotPaths.any (fun q => q.id == t.id))
  && !g.stalls && !(s.block g.block).any s.arriving
  && t.wait == .none && !s.readouts.any (fun r => r.first && r.gid == g.gid) && !(s.part g.part).holds (g.gid, t.id) && (!g.cap.inMode || g.cap.path == t.id)

/-- The ready slots of a partition. -/
def State.readySlots (s : State) (p : Nat) : List (Group × Path) :=
  (s.resident p).flatMap (fun g => (g.slotPaths.filter (s.slotReady g)).map (fun t => (g, t)))

end Sys2Proof.Machine
end

