-- ==== Sys2Proof/Machine/Atomic.lean ====
section
/-! DEFINITION. Atomics, reductions, fences and the aggregation flush (15 R229-R234, 09 R128-R132, R140-R144, 21 R317, R318). -/
namespace Sys2Proof.Machine

/-! ### What an atomic does (R230) -/

/-- Bits of an atomic's type. -/
def atomBits (type : Nat) : Nat := 8 * typeSize type

/-- The new value of memory (R230): OP 0 add, 1 min, 2 max, 3 and, 4 or, 5 xor, 6 exch, 7 cas; FP add rounds in rn. -/
def atomApply (op type old x c : Nat) : Nat :=
  let n := atomBits type
  let signed := type == 0 || type == 2
  let fp : Option Fmt := if type = 4 then some f32 else if type = 5 then some f64 else none
  let old := old % 2 ^ n
  let x := x % 2 ^ n
  match op with
  | 0 => match fp with | some f => (fpAdd f 1 old x).1 | none => (old + x) % 2 ^ n
  | 1 => match fp with | some f => (fpMin f old x).1 | none => if typed signed n old ≤ typed signed n x then old else x
  | 2 => match fp with | some f => (fpMax f old x).1 | none => if typed signed n old ≤ typed signed n x then x else old
  | 3 => old &&& x
  | 4 => old ||| x
  | 5 => old ^^^ x
  | 6 => x
  | _ => if old = c % 2 ^ n then x else old

/-- A run of operations of positions in order: the final value and each position's old value (R132). -/
def atomRun (op type : Nat) : List PosOp → Nat → Nat × List Nat
  | [], v => (v, [])
  | o :: os, v =>
    let r := atomRun op type os (atomApply op type v o.x.toNat o.c.toNat)
    (r.1, v % 2 ^ atomBits type :: r.2)

/-- The old values of an atomic's positions as register writes. -/
def atomItems (dest : Dest) (ops : List PosOp) (size : Nat) (olds : List Nat) : List FillItem :=
  (ops.zip olds).flatMap (fun e => dest.items [e.1] size e.2)

/-- One operand for several combined integer operations (R231): what one entry carries. -/
def foldOps (op type : Nat) : List PosOp → Nat
  | [] => 0
  | [o] => o.x.toNat % 2 ^ atomBits type
  | o :: os =>
    let r := foldOps op type os
    if op = 6 then r else atomApply op type (o.x.toNat % 2 ^ atomBits type) r 0

/-- Is a combined atomic carried by one entry: an integer type and no cas? -/
def oneEntry (op type : Nat) : Bool := op != 7 && type != 4 && type != 5

/-- The entries of an access to a peer (R318): OP is one more than the instruction's; a cas takes two. -/
def atomEntries (a : Access) (op type : Nat) : List AggEntry :=
  let e (x : Nat) : AggEntry := { e0 := mkE0 (op + 1) type a.gid a.peerAt.2, e1 := dw x, gid := a.gid, vf := a.vf, line := a.line }
  if oneEntry op type then [e (foldOps op type a.ops)]
  else a.ops.flatMap (fun o => if op = 7 then [e o.x.toNat, e o.c.toNat] else [e o.x.toNat])

/-- Pieces of a list of at most `n` items. -/
def chunked {α : Type} (n : Nat) : Nat → List α → List (List α)
  | 0, _ => []
  | fuel + 1, l => if l.isEmpty then [] else l.take n :: chunked n fuel (l.drop n)

/-- The parts of an access to a peer that travel and are performed together: all of a combined one (R231), as far as the 16 entries of a packet
hold them (R317, log entry 46). -/
def Access.parts (a : Access) (op type : Nat) : List Access :=
  if oneEntry op type then [a]
  else (chunked (if op = 7 then 8 else 16) a.ops.length a.ops).map (fun os => { a with ops := os })

/-- Fill packets of at most 16 entries with parts, in order (R317). -/
def packParts (op type : Nat) (ps : List Access) : List (List Access) :=
  let n (p : List Access) : Nat := ((p.map (fun a => (atomEntries a op type).length)).foldl (· + ·) 0)
  ps.foldl (fun acc a => match acc.getLast? with
    | some p => if n (p ++ [a]) ≤ 16 then acc.dropLast ++ [p ++ [a]] else acc ++ [[a]]
    | none => [[a]]) []

/-! ### Issue -/

/-- An atomic word: its registers and form. -/
structure AtomOp where
  scratch : Bool
  red : Bool
  data : Nat
  a : Nat
  ret : Bool
  agg : Bool
  op : Nat
  type : Nat

/-- Operands and checks (R229, R230). -/
def AtomOp.vop (m : AtomOp) (x : Ix) : VOp :=
  let pair := typeSize m.type == 8
  let c := x.pre.creg.toNat
  let cas := m.op == 7
  { acc := { mask := true, zero := m.ret, epa := true, cp := cas, need := cas }
    legal := decide (m.type ≤ 5) && (decide (m.type ≤ 3) || !(decide (3 ≤ m.op) && decide (m.op ≤ 5))) && (!m.red || decide (m.op ≤ 5))
             && (!pair || m.data % 2 == 0) && (m.scratch || m.a % 2 == 0) && (!(cas && pair && x.pre.cp) || c % 2 == 0)
    vs := [⟨m.a, 4, !m.scratch⟩, ⟨m.data, 3, pair⟩] ++ (if cas && x.pre.cp then [⟨c, 6, pair⟩] else [])
    vd := if m.ret then (if pair then [m.data, m.data + 1] else [m.data]) else []
    cost := Cost.vector false }

/-- Send atomics with return to peers (R317): for each device and line packets of at most 16 entries, sent after matching
buffers are acknowledged (R142). -/
def State.sendAtomics (s : State) (vf core op type : Nat) (as : List Access) : State :=
  let lines := (as.map (fun a => (a.peerAt.1, a.peerAt.2 / 128))).eraseDups
  lines.foldl (fun s d =>
    let mine := as.filter (fun a => (a.peerAt.1, a.peerAt.2 / 128) == d)
    let r := mine.foldl (fun (acc : List Nat × State) a =>
      let q := acc.2.departOverlap core d.1 a.peerAt.2 a.size
      (acc.1 ++ q.1, q.2)) ([], s)
    (packParts op type (mine.flatMap (fun a => a.parts op type))).foldl (fun s p =>
      s.request vf d.1 (carriageway (128 * d.2)) 4 0 0 (entryBytes (p.flatMap (fun a => atomEntries a op type))) (.access p) r.1) r.2) s

/-- The accesses of an atomic word: one for each combined address, or one for each position (R231). -/
def AtomOp.units (m : AtomOp) (s : State) (x : Ix) (addr : State → Ix → Nat → Nat × AccRes) : List MemUnit :=
  x.units x.act (fun p => if m.agg then (addr s x p).1 else p) (fun p => (x.g.lane p, x.g.member p)) (addr s x)

/-- The operands of the positions an access serves, in order (R132). -/
def AtomOp.ops (m : AtomOp) (x : Ix) (u : MemUnit) : List PosOp :=
  (positions x.g.n u.act).map (fun p =>
    ⟨p, dw (x.g.vval (typeSize m.type == 8) m.data p), dw (x.g.vval (typeSize m.type == 8) x.pre.creg.toNat p)⟩)

/-- Where the old values go. -/
def AtomOp.dest (m : AtomOp) : Dest := if m.ret then .v m.data (typeSize m.type == 8) false 0 else .none

/-- Perform an atomic word (R230, R231): ZERO, returning destinations empty, then one access for each position or each
combined address. -/
def State.atomWord (s : State) (m : AtomOp) (addr : State → Ix → Nat → Nat × AccRes) : Host.Outcome State Fault Refusal :=
  s.word .never (fun s x =>
    let o := m.vop x
    match x.vecFault o with
    | some e => .trap e
    | none => match x.emptyTrap o with
      | some e => .trap e
      | none => match x.emptyWait o with
        | some w => .wait s w
        | none => match x.g.pollWait with
          | some w => .wait s w
          | none =>
            let size := typeSize m.type
            let pair := size == 8
            let us := m.units s x addr
            match firstFault us with
            | some u => .trap (u.info false)
            | none =>
              let lost := missMask us
              let kind : AccKind := .atomic m.op m.type m.ret
              let s := if m.ret then s.onGroup x.g.gid (fun g =>
                  (g.writeVal pair m.data (fun p => if has x.off p then some 0 else none)).markEmpty x.path.id pair m.data x.act 0)
                else s
              let s := s.count x.g.vf (coreOf x.p) 0x0A (us.filter (fun u => !u.misses)).length
              let s := s.count x.g.vf (coreOf x.p) 0x09 (bankCycles x us size)
              let s := us.foldl (fun s u => match u.res with
                | .at_ (.peer _ _) => s
                | .at_ l =>
                  let s := match l.cached with | some _ => s.touch x.g.vf u.va true l | none => s
                  s.fly x kind l u.va size (m.ops x u) m.dest false s.flight false
                | _ => s) s
              let far := us.filterMap (fun u => match u.res with
                | .at_ (.peer d a) => some (s.peerAccess x u.first kind (.peer d a) u.va size (m.ops x u) m.dest false)
                | _ => none)
              let s := if far.isEmpty then s
                else far.foldl (fun (s : State) a => s.touch a.vf a.va true a.loc) { s with nextId := s.nextId + 256 }
              let s := if m.ret then s.sendAtomics x.g.vf (coreOf x.p) m.op m.type far
                else (far.flatMap (fun a => a.parts m.op m.type)).foldl (fun s a =>
                  s.enterAgg (coreOf x.p) a.peerAt.1 (carriageway a.peerAt.2) (atomEntries a m.op m.type)) s
              if lost = 0 then .done s o.cost else .parked (s.parkMiss x (missList us) lost false true) o.cost lost)

/-- The standing of an atomic's position: a page of a reduction region raises protection (R337). -/
def atomAt (a : BitVec 7) (size : Nat) (s : State) (x : Ix) (p : Nat) : Nat × AccRes :=
  match s.memberAccess x.g.vf (x.g.member p) (x.g.vval true a.toNat p) true size with
  | (va, .at_ l) =>
    let named := match s.leafOf x.g.vf va with | some (e, _) => dfield e 55 52 != 0 | none => false
    (va, if named then .fault 0x07 0 else .at_ l)
  | r => r

/-- The form of an atomic word (R229): ATOM and RED on a global address, ATOMS on a scratchpad address. -/
def atomOp (scratch red : Bool) (d a : BitVec 7) (ret : Bool) (g : BitVec 1) (o f : BitVec 3) : AtomOp :=
  { scratch := scratch, red := red, data := d.toNat, a := a.toNat, ret := ret, agg := g == 1, op := o.toNat, type := f.toNat }

/-- The standing of a scratchpad atomic's position. -/
def atomsAt (a : BitVec 7) (size : Nat) (s : State) (x : Ix) (p : Nat) : Nat × AccRes :=
  let b := x.g.vval false a.toNat p
  (b, s.scrAccess x.g b size)

/-- ATOM (R229): the A pair holds a global address per position. -/
def execAtom (d a : BitVec 7) (r g : BitVec 1) (o f : BitVec 3) (s : State) : Host.Outcome State Fault Refusal :=
  s.atomWord (atomOp false false d a (r == 0) g o f) (atomAt a (typeSize f.toNat))

/-- RED (R229). -/
def execRed (d a : BitVec 7) (g : BitVec 1) (o f : BitVec 3) (s : State) : Host.Outcome State Fault Refusal :=
  s.atomWord (atomOp false true d a false g o f) (atomAt a (typeSize f.toNat))

/-- ATOMS (R229): the A register holds a scratchpad address per position. -/
def execAtoms (d a : BitVec 7) (r g : BitVec 1) (o f : BitVec 3) (s : State) : Host.Outcome State Fault Refusal :=
  s.atomWord (atomOp true false d a (r == 0) g o f) (atomsAt a (typeSize f.toNat))

/-! ### Fences (R126-R130, R141, R143, R233) -/

/-- The scope that a fence's agents need: a block's groups share a core, and so do those of a cluster of one block (R24, R126). -/
def Group.fenceScope (g : Group) (scope : Nat) : Nat := if scope = 2 && g.blocks ≤ 1 then 1 else scope

/-- What a fence of a scope waits for (R128): the group's accesses earlier in program order, aggregated ones only as R143 says, and, where the
scope leaves its core, the stores that it has observed in the L1. Within a core they are performed already. -/
def State.fenceIds (s : State) (g : Group) (path scope : Nat) (covered : List Nat) : List Nat :=
  let mine := g.lineage path
  let aggIn (r : FabReq) : Bool := match r.body with
    | .agg _ => decide (scope = 4) || (decide (scope = 3) && r.dev == s.dev)
    | _ => true
  ((s.flight ++ s.unacked).filter (fun a => a.earlier g mine)).map (·.id) ++ (if 2 ≤ scope then s.seenIds g else [])
  ++ ((s.reqs ++ s.waitReqs).filter (fun r => r.earlier g mine && aggIn r)).map (·.id)
  ++ (s.readouts.filter (fun r => r.earlier g mine)).map (·.id) ++ covered

/-- The aggregation fault of a group whose log is not empty (R144). -/
def Group.aggFault (g : Group) : Option FaultInfo :=
  if g.aggLog.isEmpty && g.aggLost == 0 then none else some (FaultInfo.of 0x20)

/-- Complete now, or end the leg until the listed accesses are performed at a scope; then the fault log is checked when `check` (R144). -/
def State.fenceOn (s : State) (x : Ix) (ids : List Nat) (scope : Nat) (check : Bool) : Res :=
  let open' := ids.filter (s.pendingAt scope)
  if open'.isEmpty then
    match (if check then x.g.aggFault else none) with
    | some f => .trap f
    | none => .done s Cost.one
  else .wait s (.fence open' scope check)

/-- A word without prefix that executes once for the group. -/
def State.bareWord (s : State) (legal : Bool) (f : State → Ix → Res) : Host.Outcome State Fault Refusal :=
  s.word .never (fun s x => s.scalarWord x { acc := {}, legal := legal, ss := [], sd := [] } f)

/-- The buffers that a fence of a scope makes depart (R143, R233): those with entries of the group, at scope 3 for this device. -/
def State.fenceBufs (s : State) (x : Ix) (scope : Nat) (b : AggBuf) : Bool :=
  b.core == coreOf x.p && b.entries.any (fun e => e.gid == x.g.gid) && (scope == 4 || (scope == 3 && b.dev == s.dev))

/-- A fence starts: its buffers depart; what it then waits for. -/
def State.fenceStart (s : State) (x : Ix) (scope : Nat) : State × List Nat :=
  let r := s.departWhere (s.fenceBufs x scope)
  (r.2, r.2.fenceIds x.g x.path.id (x.g.fenceScope scope) r.1)

/-- FENCE (R233). `_q` is SC: every fence completes at one moment of the run, at which the accesses before it are performed at its scope and none after it has
issued; that order of completion is a total order S as R130 asks for, so SC adds nothing to it (log entry 50). -/
def execFence (_q : BitVec 1) (sc : BitVec 3) (s : State) : Host.Outcome State Fault Refusal :=
  s.bareWord (sc.toNat ≤ 4) (fun s x =>
    match x.g.pollWait with
    | some w => .wait s w
    | none =>
      let r := s.fenceStart x sc.toNat
      r.1.fenceOn x r.2 (x.g.fenceScope sc.toNat) (decide (3 ≤ sc.toNat)))

/-- The group's buffers depart (R234). -/
def State.flushAgg (s : State) (x : Ix) : State :=
  (s.departWhere (fun b => b.core == coreOf x.p && b.entries.any (fun e => e.gid == x.g.gid))).2

/-- FLUSHAGG (R234). -/
def execFlushagg (s : State) : Host.Outcome State Fault Refusal := s.bareWord true (fun s x => .done (s.flushAgg x) Cost.one)

/-- The aggregated packets that carry a group's entries. -/
def State.aggIds (s : State) (gid : Gid) : List Nat :=
  ((s.reqs ++ s.waitReqs).filter (fun r => match r.body with | .agg l => l.any (fun e => e.gid == gid) | _ => false)).map (·.id)

/-- FLUSHAGG with `.wait` (R234): the acknowledgements of the group's entries, then the fault log. -/
def execFlushaggWait (s : State) : Host.Outcome State Fault Refusal :=
  s.bareWord true (fun s x => let t := s.flushAgg x; t.fenceOn x (t.aggIds x.g.gid) 4 true)

/-- FENCE_COMPLETE (R233): what the fence of a path waited for is complete; its fault log is checked, then the leg is ready
after the fence. A group that has stopped goes no further: its record shows it at the fence (R347). -/
def execFenceComplete (gid : Gid) (path : Nat) (s : State) : Host.Outcome State Fault Refusal :=
  match (s.group gid).bind (fun g => (g.path? path).map (fun t => (g, t))) with
  | none => .fault .notDue
  | some (g, t) =>
    match t.wait with
    | .fence ids scope check =>
      let done := !g.stopped && ids.all (fun i => !s.pendingAt scope i)
      let now := (s.core (coreOf g.part)).cycles
      match (if check then g.aggFault else none), ixOf g.part g t with
      | some f, some x => s.event done ((s.takeFault gid { f with faddr := x.addr }).onGroup gid (fun g => g.onPath path (fun t => t.readied now)))
      | _, _ => s.event done (s.onGroup gid (fun g => g.onPath path (fun t => t.skipWord.readied now)))
    | _ => .fault .notDue

end Sys2Proof.Machine
end

