-- ==== Sys2Proof/Machine/Streams.lean ====
section
/-! DEFINITION. Stream pattern registers (15 R235-R240): their words, and the arrival of elements fetched ahead. -/
namespace Sys2Proof.Machine

/-- A stream register of a group; replace it. -/
def Group.stream (g : Group) (q : Nat) : Stream := fget Stream.reset g.q q
def Group.setStream (g : Group) (q : Nat) (k : Stream) : Group := { g with q := fset Stream.reset g.q q k }

/-- A word on stream registers: once for the group, EPA and EPB for the s registers it reads (R157, R240). -/
def State.qword (s : State) (ss : List (Nat × Nat)) (hasA hasB : Bool) (sd : List Nat) (f : State → Ix → Except FaultInfo Group) :
    Host.Outcome State Fault Refusal :=
  s.word .never (fun s x =>
    s.scalarWord x { acc := Accept.scalar hasA hasB, legal := true, ss := ss, sd := sd } (fun s x =>
      match f s x with
      | .error e => .trap e
      | .ok g => .done (s.setGroup g).named Cost.one))

/-- The stream's position or binding is set: elements fetched before are dropped (R239). -/
def Stream.setAt (q : Stream) (now : Nat) : Stream := { q with fetched := [], since := now }

/-- QSET .base (R236). -/
def execQsetBase (q : BitVec 3) (a : BitVec 6) (s : State) : Host.Outcome State Fault Refusal :=
  s.qword [(a.toNat, 0)] true false [] (fun s x =>
    let k := x.g.stream q.toNat
    .ok (x.g.setStream q.toNat ({ k with q0 := x.g.sreg a.toNat, pos := 0 }.setAt s.nextId)))

/-- The shape faults of R236. -/
def shapeBad (q1 q2 : Dword) : Bool :=
  let sz := 2 ^ dfield q1 60 59
  dfield q1 63 62 == 3 || dfield q1 58 48 != 0 || dfield q1 23 0 == 0 || dfield q1 47 24 == 0
  || dfield q2 31 0 % sz != 0 || dfield q2 63 32 % sz != 0

/-- QSET .shape (R236): stream-format leaves the register unchanged. -/
def execQsetShape (q : BitVec 3) (a b : BitVec 6) (k : BitVec 1) (s : State) : Host.Outcome State Fault Refusal :=
  s.qword ((a.toNat, 0) :: skRead k b) true true [] (fun s x =>
    let q1 := x.g.sreg a.toNat
    let q2 := x.g.sk k b
    if shapeBad q1 q2 then .error (FaultInfo.of 0x15)
    else .ok (x.g.setStream q.toNat ({ x.g.stream q.toNat with q1 := q1, q2 := q2, pos := 0 }.setAt s.nextId)))

/-- Unbind every other stream bound to a slot and register (R237). -/
def Group.unbindOthers (g : Group) (b : Nat × Nat) : Group :=
  (List.range 8).foldl (fun g i =>
    if (g.stream i).bind = some b then g.setStream i { g.stream i with bind := none } else g) g

/-- QBIND (R237): the register named must be one of the group's (R34). -/
def execQbind (q : BitVec 3) (a : BitVec 6) (f : BitVec 2) (s : State) : Host.Outcome State Fault Refusal :=
  s.qword [] false false [] (fun s x =>
    let b := (f.toNat, a.toNat)
    let g := x.g.unbindOthers b
    if x.g.vcur ≤ a.toNat then .error (FaultInfo.of 0x13)
    else .ok (g.setStream q.toNat ({ g.stream q.toNat with bind := some b }.setAt s.nextId)))

/-- QBIND .off (R237). -/
def execQbindOff (q : BitVec 3) (s : State) : Host.Outcome State Fault Refusal :=
  s.qword [] false false [] (fun s x =>
    .ok (x.g.setStream q.toNat ({ x.g.stream q.toNat with bind := none }.setAt s.nextId)))

/-- QPOS .rd (R240). -/
def execQposRd (d : BitVec 6) (q : BitVec 3) (s : State) : Host.Outcome State Fault Refusal :=
  s.qword [] false false [d.toNat] (fun _ x => .ok (x.g.setS d.toNat (x.g.stream q.toNat).pWord))

/-- QPOS .wr (R240). -/
def execQposWr (q : BitVec 3) (a : BitVec 6) (s : State) : Host.Outcome State Fault Refusal :=
  s.qword [(a.toNat, 0)] true false [] (fun s x =>
    let k := x.g.stream q.toNat
    let v := dfield (x.g.sreg a.toNat) 47 0
    .ok (x.g.setStream q.toNat ({ k with pos := if v < k.total then v else k.total }.setAt s.nextId)))

/-! ### Elements (R239) -/

/-- Paths of a group that wait for a stream become ready to look again. -/
def State.streamReady (s : State) (gid : Gid) (q : Nat) : State :=
  s.onGroup gid (fun g =>
    let now := (s.core (coreOf g.part)).cycles
    { g with paths := g.paths.map (fun t => if t.wait.isStream q then t.readied now else t) })

/-- The next elements of a stream that are not fetched or on their way, as (key, member, element number). -/
def State.nextElems (s : State) (g : Group) (qi : Nat) : List (Nat × Nat × Nat) :=
  let q := g.stream qi
  let away (key : Nat) : Bool := (s.reqs ++ s.waitReqs).any (fun r => match r.body with
    | .access l => l.any (fun a => a.gid == g.gid && a.dest == .elem qi key q.since)
    | _ => false) || s.fills.any (fun f => f.gid == g.gid && f.items.any (fun i => match i with
      | .q r k c _ => r == qi && k == key && c == q.since | _ => false))
  (List.range g.n).filterMap (fun p =>
    match q.elem (g.lane p) with
    | none => none
    | some (t, k) =>
      let key := 8 * t + g.member p
      if q.fetched.any (fun f => f.1 == key) || away key then none else some (key, g.member p, k))

/-- The elements of a stream that words of a group wait for, by key: the positions that execute them (R238). -/
def Group.wanted (g : Group) (qi : Nat) : List Nat :=
  g.paths.flatMap (fun t => match t.wait with | .stream r ks => if r = qi then ks else [] | _ => [])

/-- May a stream's elements be read now: set, and every access of the group before the word that set it performed? -/
def State.streamOpen (s : State) (g : Group) (q : Stream) : Bool :=
  q.total != 0 && g.polling.isNone && !s.flight.any (fun a => a.gid == g.gid && !a.helper && decide (a.id < q.since))
  && !s.readouts.any (fun r => r.gid == g.gid && decide (r.id < q.since))
  && !((s.reqs ++ s.waitReqs).any (fun r => r.serves g.gid && decide (r.id < q.since)))
  && !s.agg.any (fun b => b.entries.any (fun e => e.gid == g.gid) && decide (b.id < q.since))

/-- Does a group wait for a store that it has observed in the L1, before it reads these bytes at their home (R122)? -/
def State.seenAt (s : State) (g : Group) (l : Loc) (n : Nat) : Bool :=
  s.flight.any (fun f => g.seen.contains f.id && f.loc.overlaps f.size l n)

/-- STREAM_ELEMENT_ARRIVAL (R239): the next elements are fetched ahead from their homes, those of peer pages requested (R317) once a word waits for
them. What is fetched ahead for a position that does not execute is no read of it: pages are marked read by the word that consumes
(`State.touchElems`), and peers asked for what it wants (R238, log entry 104). -/
def execStreamElementArrival (gid : Gid) (q : Nat) (s : State) : Host.Outcome State Fault Refusal :=
  match s.group gid with
  | none => .fault .notDue
  | some g =>
    let k := g.stream q
    let next := s.nextElems g q
    let plain := next.filterMap (fun n => match s.elemAccess g k n.2.1 n.2.2 with
      | (_, .at_ (.peer _ _)) => none
      | (va, .at_ l) => some (n.1, va, l)
      | _ => none)
    let wanted := g.wanted q
    let peers := (next.filter (fun n => wanted.contains n.1)).filterMap (fun n => match s.elemAccess g k n.2.1 n.2.2 with
      | (va, .at_ (.peer d a)) => some (n.1, va, Loc.peer d a)
      | _ => none)
    let ready := plain.filter (fun e => !s.lineHeld e.2.2 && !s.seenAt g e.2.2 k.esize && match e.2.2 with
      | .scr b _ => s.shareReady b
      | .weight d a => a / 4096 % 64 != (s.die d).window % 64
      | _ => true)
    let got := ready.foldl (fun m e => finsert e.1 (dw (s.readLoc e.2.2 k.esize)) m) k.fetched
    let t := s.onGroup gid (fun g => g.setStream q { k with fetched := got })
    let accs : List Access := peers.map (fun e =>
      { id := s.nextId, gid := gid, vf := g.vf, core := coreOf g.part, kind := .load, loc := e.2.2, va := e.2.1,
        size := k.esize, ops := [], dest := .elem q e.1 k.since, addr := 0, const := false })
    let t := if accs.isEmpty then t
      else (accs.foldl (fun t a => t.touch a.vf a.va false a.loc) t.named).sendReads g.vf (coreOf g.part) accs
    s.event (s.streamOpen g k && !(ready.isEmpty && accs.isEmpty)) (t.streamReady gid q)

end Sys2Proof.Machine
end

