-- ==== Sys2Proof/Machine/Engine.lean ====
section
/-! DEFINITION. Copy, multicast, halo, request and migration-hint engines (15 R241-R252, 09 R133-R137, 07 R98): the words that
issue requests, and the steps of the engines. -/
namespace Sys2Proof.Machine

/-! ### Issue (R241, R243) -/

/-- A record pointer's record in a view (R241, R279): none for 0, else its place or the fault. -/
def recordAt (v : Share) (vf : Nat) (ptr : Dword) : Except FaultInfo (Option RecLoc) :=
  let bad (c : Nat) : Except FaultInfo (Option RecLoc) := .error { FaultInfo.of c with daddr := ptr.toNat }
  if ptr = 0 then .ok none
  else if dbit ptr 63 then
    if dfield ptr 62 32 ≠ 0 then bad 0x01
    else if dfield ptr 31 0 % 64 ≠ 0 then bad 0x02
    else match scrTarget v (dfield ptr 31 0) with
      | some (b, o) => .ok (some (.scr b o))
      | none => bad 0x03
  else if dfield ptr 62 52 ≠ 0 then bad 0x01
  else if ptr.toNat % 64 ≠ 0 then bad 0x02
  else .ok (some (.glob vf ptr.toNat))

/-- A malformed request (R242 cause 8). -/
def malformed : FaultInfo := FaultInfo.of 0x08

/-- Do rows of scratchpad lie in the share (R91)? -/
def scrRows (v : Share) (addr rows pitch len : Nat) : Bool :=
  match scrTarget v addr with
  | some (_, o) => decide (o + (rows - 1) * pitch + len ≤ v.scr * 256)
  | none => false

/-- Do rows of weight space lie in the function's region of a die (R95)? -/
def State.weightRows (s : State) (vf die addr rows pitch len : Nat) : Bool :=
  decide (addr + (rows - 1) * pitch + len ≤ fget 0 (s.ctx vf).weight (2 * die + 1))

/-- Is a copy request malformed (R244, R245)? -/
def State.copyMalformed (s : State) (e : Nat) (r : EngReq) : Bool :=
  dfield r.r0 61 58 != 0 || dfield r.r1 58 54 != 0 || dfield r.r3 31 24 != 0 || r.ssp == 3 || r.dsp == 3
  || (r.sdie != 0 && r.ssp != 2) || (r.ddie != 0 && r.dsp != 2) || (r.ssp == 2 && !s.dieOn r.sdie) || (r.dsp == 2 && !s.dieOn r.ddie)
  || decide (e ≤ r.memb) || r.rowBytes == 0 || decide (2 ^ 32 ≤ r.rows * r.rowBytes)
  || (decide (1 < r.rows) && decide (r.dpitch < r.rowBytes)) || decide (5 < r.op) || (r.op != 0 && r.dsp != 1)
  || (r.op == 3 && r.rowBytes % 12 != 0) || (r.ssp == 1 && decide (2 ^ 32 ≤ r.src)) || (r.dsp == 1 && decide (2 ^ 32 ≤ r.dst))

/-- The fault a copy request takes before it starts: malformed, misaligned, out of range (R243, R244, R252). -/
def State.copyFault (s : State) (vf e : Nat) (v : Share) (r : EngReq) : Option FaultInfo :=
  let u := if r.op = 2 then 8 else 4
  if s.copyMalformed e r then some malformed
  else if r.src % u != 0 || r.dst % u != 0 || r.spitch % u != 0 || r.dpitch % u != 0 then some (FaultInfo.of 0x02)
  else if (r.ssp == 1 && !scrRows v r.src r.rows r.spitch r.rowBytes) || (r.dsp == 1 && !scrRows v r.dst r.rows r.dpitch r.rowBytes)
  then some (FaultInfo.of 0x03)
  else if (r.ssp == 2 && !s.weightRows vf r.sdie r.src r.rows r.spitch r.rowBytes)
    || (r.dsp == 2 && !s.weightRows vf r.ddie r.dst r.rows r.dpitch r.rowBytes) then some (FaultInfo.of 0x04)
  else none

/-- The fault of a CPYM request and its multicast word (R246). -/
def State.multicastFault (s : State) (vf e : Nat) (v : Share) (r : EngReq) : Option FaultInfo :=
  let rofs := dfield r.task 49 32
  let tv := dbit r.task 16
  if dfield r.task 63 50 != 0 || dfield r.task 31 17 != 0 || dfield r.task 15 0 == 0 then some malformed
  else if r.dsp ≠ 1 || 2 ^ v.blocks ≤ dfield r.task 15 0 then some (FaultInfo.of 0x03)
  else if r.dst.testBit 22 then some malformed
  else match s.copyFault vf e v r with
    | some f => some f
    | none =>
      if tv && rofs % 64 != 0 then some (FaultInfo.of 0x02)
      else if tv && decide (v.scr * 256 < rofs + 64) then some (FaultInfo.of 0x03) else none

/-- Does the footprint of a tile, rows times the row pitch, lie in the share (R247, R249)? -/
def footprintOk (v : Share) (addr n : Nat) : Bool :=
  match scrTarget v addr with | some (_, o) => decide (o + n ≤ v.scr * 256) | none => false

/-- The fault of a halo descriptor (R247, R249): a DST that is no scratchpad address of the view is out of range (R91). -/
def haloFault (e : Nat) (v : Share) (r : EngReq) : Option FaultInfo :=
  let bad := dfield r.r0 63 62 == 3 || dfield r.r0 54 52 != 0 || r.hNy == 0 || r.hNx == 0 || r.hTy == 0 || r.hTx == 0
    || decide (256 < r.hTy) || decide (256 < r.hTx) || decide (e ≤ r.hMemb) || decide (r.hNy < r.hY0 + r.hTy)
    || decide (r.hNx < r.hX0 + r.hTx) || (r.fn == 1 && r.hMemb != 0)
  if bad then some malformed
  else if (scrTarget v r.hDst).isNone then some (FaultInfo.of 0x03)
  else if !((List.range (r.hTiles e)).all (fun m => footprintOk v (r.hDst + m * r.hTs) (r.hRows * r.hRp))) then some malformed
  else if r.hBase % r.hEsz != 0 || r.hPitch % r.hEsz != 0 then some (FaultInfo.of 0x02)
  else none

/-- The fault of a KICK's registers (R250). -/
def kickFault (v : Share) (r : EngReq) : Option FaultInfo :=
  if dfield r.r0 63 32 != 0 || r.r1 == 0 || decide (65535 < r.r1.toNat) then some malformed
  else if dfield r.r0 31 0 % 32 != 0 then some (FaultInfo.of 0x02)
  else if !scrRows v (dfield r.r0 31 0) 1 0 (32 * r.r1.toNat) then some (FaultInfo.of 0x03) else none

/-- The fault of a migration hint (R251). The spec asks for a length that is not zero and names no fault for one that is: the model gives it the cause of a
malformed request (log entry 100). -/
def mighFault (r : EngReq) : Option FaultInfo :=
  if 2 ^ 52 ≤ r.r0.toNat then some (FaultInfo.of 0x01)
  else if r.r0.toNat % 4096 != 0 || r.r1.toNat % 4096 != 0 then some (FaultInfo.of 0x02)
  else if r.r1 == 0 then some malformed
  else if decide (2 ^ 52 < r.r0.toNat + r.r1.toNat) then some (FaultInfo.of 0x01) else none

/-- The request that a word reads from its s registers (R241). -/
def Ix.engReq (x : Ix) (t r : BitVec 6) (k : Option (BitVec 6)) (opcode fn reads : Nat) : EngReq :=
  let reg (i : Nat) : Dword := if i < reads then x.g.sreg (r.toNat + i) else 0
  { opcode := opcode, fn := fn, r0 := reg 0, r1 := reg 1, r2 := reg 2, r3 := reg 3,
    task := (match k with | some k => x.g.sreg k.toNat | none => 0), tkt := t.toNat, addr := x.addr }

/-- The request of a word in the copy request slot. -/
def State.queuedXfer (s : State) (x : Ix) (q : EngReq) : Xfer :=
  { id := s.nextId, gid := x.g.gid, vf := x.g.vf, core := coreOf x.p, share := s.share x.g, e := x.g.e, req := q, st := .queued, bytes := 0,
    inbuf := [], kick := none, entry := 0, started := 0, completed := 0, totalBytes := 0, bad := none, tag := x.g.tag }

/-- The s registers that a request word reads (R241). -/
def engReads (r : BitVec 6) (k : Option (BitVec 6)) (reads : Nat) : List Nat :=
  (List.range reads).map (fun i => r.toNat + i) ++ (match k with | some k => [k.toNat] | none => [])

/-- A word that issues a request (R241): once for the group, its registers read under EPOL, room in the copy request slot,
after the group's earlier accesses are performed, for which the whole group stalls (R133); the request owns its destination lines from now on
(R134); a fault leaves the ticket full. -/
def State.engWord (s : State) (t r : BitVec 6) (k : Option (BitVec 6)) (opcode fn reads : Nat)
    (check : State → Ix → EngReq → Option FaultInfo) : Host.Outcome State Fault Refusal :=
  s.word .never (fun s x =>
    s.scalarWord x { acc := {}, legal := r.toNat ≤ 60, ss := (engReads r k reads).map (fun i => (i, 3)), sd := [t.toNat] } (fun s x =>
      let q := x.engReq t r k opcode fn reads
      if !s.copyRoom x.g.gid then .wait s .copySlot
      else if s.outstanding x.g x.path.id || x.g.polling.isSome then .wait s (.order true)
      else match check s x q with
        | some f => .trap f
        | none =>
          .done ((State.named { s.own (s.queuedXfer x q) with xfers := s.xfers ++ [s.queuedXfer x q] }).onGroup x.g.gid (fun g => g.markS t.toNat true))
            Cost.alone))

/-- The record pointer's fault, if the request names a record (R241). -/
def recordFault (v : Share) (vf : Nat) (ptr : Dword) : Option FaultInfo :=
  match recordAt v vf ptr with | .error f => some f | .ok _ => none

/-- The checks of a copy; of a multicast; of a halo; of a KICK; of a hint (R241). -/
def copyCheck (s : State) (x : Ix) (q : EngReq) : Option FaultInfo :=
  (s.copyFault x.g.vf x.g.e (s.share x.g) q).orElse (fun _ => recordFault (s.share x.g) x.g.vf q.task)
def multicastCheck (s : State) (x : Ix) (q : EngReq) : Option FaultInfo := s.multicastFault x.g.vf x.g.e (s.share x.g) q
def haloCheck (s : State) (x : Ix) (q : EngReq) : Option FaultInfo :=
  (haloFault x.g.e (s.share x.g) q).orElse (fun _ => recordFault (s.share x.g) x.g.vf q.task)
def kickCheck (s : State) (x : Ix) (q : EngReq) : Option FaultInfo := kickFault (s.share x.g) q
def hintCheck (_ : State) (_ : Ix) (q : EngReq) : Option FaultInfo := mighFault q

/-- CPY (R244). -/
def execCpy (t r k : BitVec 6) (s : State) : Host.Outcome State Fault Refusal :=
  s.engWord t r (some k) 0x68 0 4 copyCheck

/-- CPYM (R246). -/
def execCpym (t r k : BitVec 6) (s : State) : Host.Outcome State Fault Refusal :=
  s.engWord t r (some k) 0x69 0 4 multicastCheck

/-- HALO (R247, R249). -/
def execHalo (t r k : BitVec 6) (s : State) : Host.Outcome State Fault Refusal :=
  s.engWord t r (some k) 0x6A 0 4 haloCheck

/-- HALO .allm (R249). -/
def execHaloAllm (t r k : BitVec 6) (s : State) : Host.Outcome State Fault Refusal :=
  s.engWord t r (some k) 0x6A 1 4 haloCheck

/-- KICK (R250). -/
def execKick (t r : BitVec 6) (s : State) : Host.Outcome State Fault Refusal :=
  s.engWord t r none 0x6B 0 2 kickCheck

/-- MIGH .hot (R251). -/
def execMighHot (t r : BitVec 6) (s : State) : Host.Outcome State Fault Refusal :=
  s.engWord t r none 0x6C 0 4 hintCheck

/-- MIGH .cold (R251). -/
def execMighCold (t r : BitVec 6) (s : State) : Host.Outcome State Fault Refusal :=
  s.engWord t r none 0x6C 1 4 hintCheck

/-- MIGH .clr (R251). -/
def execMighClr (t r : BitVec 6) (s : State) : Host.Outcome State Fault Refusal :=
  s.engWord t r none 0x6C 2 4 hintCheck

/-! ### Tickets, countdowns and faults (R242, R243, R137) -/

/-- The ticket status word (R242). -/
def ticketWord (stat cause entry bytes : Nat) : Dword := dw (at' stat 60 + at' cause 54 + at' entry 32 + bytes % 2 ^ 32)

/-- Fill a ticket, if the group is still there. -/
def State.fillTicket (s : State) (gid : Gid) (tkt : Nat) (v : Dword) : State := s.onGroup gid (fun g => g.setS tkt v)

/-- An update that waits to be applied at its record's home (R47). -/
def State.postUpdate (s : State) (vf : Nat) (target : RecLoc) (d : Int) (src : UpdSrc) (tag : Dword) (after : List Nat) : State :=
  let u : Update := { id := s.nextId, vf := vf, target := target, d := d, src := src, tag := tag, after := after, parked := none }
  State.named { s with updates := s.updates ++ [u] }

/-- Replace a request; remove it. -/
def State.setXfer (s : State) (t : Xfer) : State := { s with xfers := updWhere (fun u => u.id == t.id) (fun _ => t) s.xfers }
def State.dropXfer (s : State) (id : Nat) : State := { s with xfers := s.xfers.filter (fun u => u.id != id) }

/-- Count a request's records down by the bytes performed (R137, R244, R246, R250). -/
def State.countDown (s : State) (t : Xfer) : State :=
  if t.bytes = 0 then s
  else
    let d : Int := -(t.bytes : Int)
    if t.kick.isSome then
      if dbit t.req.r3 23 then match scrTarget t.share (dfield t.req.r3 22 0) with
        | some (b, o) => s.postUpdate t.vf (.scr b o) d .engine t.tag []
        | none => s
      else s
    else if t.req.opcode = 0x69 then
      if dbit t.req.task 16 then t.shares.foldl (fun s v => match scrTarget v (dfield t.req.task 49 32) with
        | some (b, o) =>
          let owed := ((t.owed.filter (fun e => e.1 == b)).map (fun e => e.2.2.length)).foldl (· + ·) 0
          s.postUpdate t.vf (.scr b o) (-((t.bytes - owed : Nat) : Int)) .engine t.tag []
        | none => s) s
      else s
    else match recordAt t.share t.vf t.req.task with
      | .ok (some r) => s.postUpdate t.vf r d .engine t.tag []
      | _ => s

/-- The unit that works on a request (R347). -/
def Xfer.unit (t : Xfer) : StopUnit :=
  if t.req.opcode = 0x6E then .route (dieOfCore t.core)
  else if t.kick.isSome || t.req.opcode = 0x6B then .request t.core else if t.req.isHalo then .halo t.core else .copy t.core

/-- A request meets a fault (R243): what is performed stays and is counted, the ticket is filled, the halt line raised naming the
request. An entry of a KICK ends its list instead (R250). -/
def State.engFault (s : State) (t : Xfer) (f : FaultInfo) : State :=
  let f := { f with faddr := t.req.addr }
  let s := s.reportPois t.vf t.gid.toNat f
  match t.kick with
  | some k =>
    let s := (s.countDown t).dropXfer t.id
    { s with xfers := updWhere (fun u => u.id == k) (fun u =>
        { u with bad := match u.bad with | some b => some b | none => some (t.entry, f) }) s.xfers }
  | none =>
    let s := (s.countDown t).setXfer { t with st := .faulted f }
    (s.fillTicket t.gid t.req.tkt (ticketWord 2 f.code 0 t.bytes)).raiseHalt t.vf (some t.unit) f

/-- A function's work may go on. -/
def State.runs (s : State) (vf : Nat) : Bool := (s.ctx vf).st == .live

/-- A function's stores are performed while it runs and while it stops (R148, R349). -/
def State.drives (s : State) (vf : Nat) : Bool := match (s.ctx vf).st with | .live => true | .stopping _ => true | _ => false

/-- Has a HALO begun a tile row that it has not finished (R248)? -/
def Xfer.midRow (t : Xfer) : Bool := t.req.isHalo && t.bytes % t.req.hRowBytes != 0

/-- Does a request's engine perform lines: its function runs, or a pre-emption stops a HALO at its next tile row (R248, R347)? -/
def State.lands (s : State) (t : Xfer) : Bool :=
  s.runs t.vf || ((s.ctx t.vf).st == .stopping true && t.midRow && !(s.ctx t.vf).acked.contains t.unit)

/-! ### Acceptance (R98, R241, R251) -/

/-- The page of a hint: may it be hinted (R251)? -/
def State.hintable (s : State) (vf va : Nat) : Bool :=
  match s.walk vf va with
  | .leaf e _ span => decide (span ≤ 2097152) && dfield e 55 52 == 0 && !dbit e 7 && dfield e 6 5 != 2
      && !(span == 2097152 && dfield e 2 1 == 2)
  | _ => false

/-- The page of a hintable address, as its size and number (R107). -/
def State.pageNo (s : State) (vf va : Nat) : Nat × Nat :=
  match s.walk vf va with
  | .leaf e _ span => let n := if dfield e 2 1 = 2 then 16 * span else span; (n, va / n)
  | _ => (4096, va / 4096)

/-- Record the hints of a range (R251), kept by 4 KiB unit; BYTES counts the pages they lie in (R242). -/
def State.recordHints (s : State) (t : Xfer) : State :=
  let first := t.req.r0.toNat / 4096
  let pages := ((List.range (t.req.r1.toNat / 4096)).map (first + ·)).filter (fun p => s.hintable t.vf (p * 4096))
  let c := s.ctx t.vf
  let v := match t.req.fn with | 0 => 1 | 1 => 2 | _ => 0
  let s := s.setCtx t.vf { c with hints := pages.foldl (fun h p => fset 0 h p v) c.hints }
  (s.fillTicket t.gid t.req.tkt (ticketWord 0 0 0 ((pages.map (fun p => s.pageNo t.vf (p * 4096))).eraseDups).length)).dropXfer t.id

/-- Is a group of the function, other than the issuing one, resident on a die (R98)? -/
def State.weightBusy (s : State) (t : Xfer) : Bool :=
  s.groups.any (fun g => g.vf == t.vf && g.gid != t.gid && dieOfCore (coreOf g.part) == t.req.ddie)

/-- The request of a group's slot that an engine takes next: in issue order, route requests apart (R241, R323). -/
def State.nextQueued (s : State) (gid : Gid) : Option Xfer := (s.copySlot gid).find? (fun t => t.req.opcode != 0x6D)

/-- The engine that a request goes to, by its first opcode, and the groups whose next request goes there too: of the core, or of the die for its migration
and route engines (R241). -/
def Xfer.engine (t : Xfer) : Nat := if t.req.opcode = 0x69 then 0x68 else t.req.opcode
def State.rivals (s : State) (t : Xfer) : List Gid :=
  let same (u : Xfer) : Bool :=
    if t.engine = 0x6C || t.engine = 0x6D then dieOfCore u.core == dieOfCore t.core else u.core == t.core
  let next (g : Gid) : Option Xfer := if t.engine = 0x6D then (s.copySlot g).find? (fun u => u.req.opcode == 0x6D) else s.nextQueued g
  ((s.xfers.map (·.gid)).eraseDups).filter (fun g => (next g).any (fun u => u.engine == t.engine && same u && s.runs u.vf))

/-- The groups that the engine has served in this turn; note that it serves another one: a turn ends when every waiting group has had it (R241). -/
def State.servedBy' (s : State) (t : Xfer) : List (Nat × Gid) :=
  if t.engine = 0x6C || t.engine = 0x6D then (s.die (dieOfCore t.core)).served else (s.core t.core).served
def State.myTurn (s : State) (t : Xfer) : Bool :=
  let had (g : Gid) : Bool := (s.servedBy' t).contains (t.engine, g)
  !had t.gid || (s.rivals t).all had
def State.serve (s : State) (t : Xfer) : State :=
  let l := s.servedBy' t
  let e := (t.engine, t.gid)
  let l := if l.contains e then l.filter (fun k => k.1 != t.engine) ++ [e] else l ++ [e]
  if t.engine = 0x6C || t.engine = 0x6D then s.setDie (dieOfCore t.core) { s.die (dieOfCore t.core) with served := l }
  else s.setCore t.core { s.core t.core with served := l }

/-- ENGINE_REQUEST_ACCEPT (R241): an engine takes the next request of a group, among groups in turn. A weight-space copy that fails the residency test ends
weight-busy (R98). -/
def execEngineRequestAccept (gid : Gid) (s : State) : Host.Outcome State Fault Refusal :=
  match s.nextQueued gid with
  | none => .fault .notDue
  | some t =>
    let due := s.runs t.vf && s.myTurn t
    let s := s.serve t
    s.event due
      (if t.req.opcode = 0x6C then s.recordHints t
       else if (t.req.opcode == 0x68 || t.req.opcode == 0x69) && t.req.dsp == 2 && s.weightBusy t then
         (s.fillTicket t.gid t.req.tkt (ticketWord 1 0 0 0)).dropXfer t.id
       else s.setXfer { t with st := .running })

/-! ### Lines (R134-R136, R347) -/

/-- A run of a piece's source: an address or a constant, and bytes. -/
structure SrcRun where
  src : Nat ⊕ Nat
  len : Nat
  deriving DecidableEq, Repr

/-- Split a span of addresses at 128-byte lines. -/
def lineRuns : Nat → Nat → Nat → List SrcRun
  | 0, _, _ => []
  | fuel + 1, a, n =>
    if n = 0 then []
    else
      let k := if n < 128 - a % 128 then n else 128 - a % 128
      { src := .inl a, len := k } :: lineRuns fuel (a + k) (n - k)

/-- The source runs of a piece. -/
def Xfer.runs (t : Xfer) (p : Piece) : List SrcRun :=
  if t.req.isHalo then
    tab (p.len / t.req.hEsz) (fun i => { src := t.req.cell p.row (p.off / t.req.hEsz + i), len := t.req.hEsz })
  else lineRuns 4 (t.req.src + p.row * t.req.spitch + p.off) p.len

/-- The member whose windows apply to a piece (R249). -/
def Xfer.member (t : Xfer) (p : Piece) : Nat :=
  if t.req.isHalo then (if t.req.fn = 1 then p.tile else t.req.hMemb) else t.req.memb

/-- How an engine's access of a source or destination address stands (R116). -/
def State.engAccess (s : State) (t : Xfer) (space die memb a : Nat) (write : Bool) (v : Share) : Nat × AccRes :=
  match space with
  | 0 => s.memberAccess t.vf memb a write 1
  | 1 => (a, v.access a 1)
  | _ => (a, s.weightAccess t.vf die a 1)

/-- Apply an arrival operator to old and arriving bytes (R245). An 8-byte operator's lone last 4 bytes are free. -/
def arrive (op : Nat) (free : Nat) : Nat → List Byte → List Byte → List Byte
  | 0, _, _ => []
  | fuel + 1, old, new =>
    if new.isEmpty then []
    else
      let n := match op with | 2 => 8 | 3 => 3 | _ => 4
      let a := numOf (old.take n)
      let b := numOf (new.take n)
      let m := (new.take n).length
      let r := match op with
        | 1 => (a + b) % 2 ^ 32
        | 2 => if m = 8 then (a + b) % 2 ^ 64 else (Config.freeValue free).toNat % 2 ^ 32
        | 3 => rsAdd a b
        | 4 => if toSigned 32 a ≤ toSigned 32 b then a else b
        | _ => if toSigned 32 a ≤ toSigned 32 b then b else a
      bytesOf m r ++ arrive op free fuel (old.drop n) (new.drop n)

/-- Is a source line held by another request (R135)? -/
def State.heldByOther (s : State) (t : Xfer) (l : Loc) : Bool := s.heldFor (fun k => k != t.id) l

/-- Bytes put into a buffer from a key on. -/
def fillBytes (m : FMap Byte) (a : Nat) (bs : List Byte) : FMap Byte := bs.zipIdx.foldl (fun m e => finsert (a + e.2) e.1 m) m

/-- Does a request read some source element for several cells, so that it keeps what it has read (R136, R248)? -/
def EngReq.keeps (r : EngReq) : Bool := r.isHalo && decide (r.hMode ≤ 1)

/-- What the source of a piece gives: its bytes, the request's buffer after it, the places of global memory that were read. -/
structure Fetched where
  bytes : List Byte
  buf : FMap Byte
  used : List (Nat × Loc)
  deriving DecidableEq, Repr

/-- What comes of a piece. -/
inductive LineRes where
  | done (s : State)
  | fault (code cause addr : Nat)
  | miss (demand : Bool) (addr : Nat) (write : Bool)
  | wait
  deriving DecidableEq, Repr

/-- Read a piece's source: bytes, or what stops it. Peer bytes come from the request's buffer, as do elements that have been read before; those not
there are asked for. A read of a refreshing weight bank waits (R97). -/
def State.readRuns (s : State) (t : Xfer) (p : Piece) : List SrcRun → Fetched → Except LineRes Fetched
  | [], acc => .ok acc
  | r :: rs, acc =>
    match r.src with
    | .inr c => s.readRuns t p rs { acc with bytes := acc.bytes ++ bytesOf r.len c }
    | .inl a =>
      let space := if t.req.isHalo then 0 else t.req.ssp
      match s.engAccess t space t.req.sdie (t.member p) a false t.share with
      | (va, .fault code cause) => .error (.fault code cause va)
      | (va, .miss d) => .error (.miss d va false)
      | (va, .at_ l) =>
        if (List.range r.len).all (fun i => acc.buf.any (fun e => e.1 == va + i)) then
          s.readRuns t p rs { acc with bytes := acc.bytes ++ tab r.len (fun i => fget 0 acc.buf (va + i)) }
        else match l with
          | .peer d pa =>
            let lo := pa / 4
            let hi := (pa + r.len - 1) / 4
            let q := (s.touch t.vf va false l).departOverlap t.core d pa r.len
            let id := q.2.nextId
            .error (.done ((q.2.request t.vf d (carriageway pa) 0 (hi - lo) (4 * lo) [] (.lineRead t.id (va - pa % 4)) q.1).setXfer
              { t with st := .remote id, inbuf := acc.buf }))
          | _ =>
            let held := match l with
              | .scr b _ => !s.shareReady b
              | .weight d a => a / 4096 % 64 == (s.die d).window % 64
              | _ => false
            if s.heldByOther t l || held then .error .wait
            else
              let bs := bytesOf r.len (s.readLoc l r.len)
              s.readRuns t p rs { bytes := acc.bytes ++ bs, buf := if t.req.keeps then fillBytes acc.buf va bs else acc.buf,
                                  used := if l.cached.isSome then acc.used ++ [(va, l)] else acc.used }

/-- A piece's bytes land at a place of scratchpad (R245). -/
def State.landAt (s : State) (t : Xfer) (b o : Nat) (bs : List Byte) : State :=
  let old := bytesOf bs.length (s.readLoc (.scr b o) bs.length)
  let new := if t.req.isHalo || t.req.op = 0 then bs else arrive t.req.op s.free (bs.length + 1) old bs
  s.writeLoc (.scr b o) new none t.vf

/-- Write a piece's bytes at one destination, after what issued earlier and owns the line (R134, R245); a fabric destination takes a write packet
(R317). -/
def State.writePiece (s : State) (t : Xfer) (p : Piece) (v : Share) (bs : List Byte) : LineRes :=
  let space := if t.req.isHalo then 1 else t.req.dsp
  match s.engAccess t space t.req.ddie (t.member p) p.dst true v with
  | (va, .fault code cause) => .fault code cause va
  | (va, .miss d) => .miss d va true
  | (va, .at_ (.peer d pa)) =>
    let line : FMap Byte := (List.range bs.length).foldl (fun m i => finsert (pa % 128 + i) (bs.getD i 0) m) []
    let q := (s.touch t.vf va true (.peer d pa)).departOverlap t.core d pa bs.length
    let id := q.2.nextId
    .done ((q.2.request t.vf d (carriageway pa) 2 0 (pa / 128 * 128) (linePayload line) (.line t.id bs.length) []).setXfer
      { t with st := .remote id })
  | (va, .at_ l) =>
    if s.lineHeldBefore t.id l then .wait
    else match l with
    | .scr b o => if !s.shareReady b then .wait else .done (s.landAt t b o bs)
    | .weight _ _ => .done (s.writeLoc l bs none t.vf)
    | _ =>
      if s.storeHeld t.vf va bs.length then .wait
      else .done (((s.touch t.vf va true l).writeLoc l bs none t.vf).contribute t.vf va bs.length)

/-- Write a piece to every share of a multicast; a block that has not started is owed it (R45, R246). -/
def State.writeShares (s : State) (t : Xfer) (p : Piece) (bs : List Byte) : List Share → LineRes
  | [] => .done s
  | v :: vs =>
    match (if t.req.opcode = 0x69 then (scrTarget v p.dst).filter (fun e => !s.shareReady e.1) else none) with
    | some e =>
      let owe (u : Xfer) : Xfer := { u with owed := u.owed ++ [(e.1, e.2, bs)] }
      State.writeShares { s with xfers := updWhere (fun u => u.id == t.id) owe s.xfers } t p bs vs
    | none => match s.writePiece t p v bs with
      | .done s => s.writeShares t p bs vs
      | r => r

/-- Perform the next piece of a request. -/
def State.landPiece (s : State) (t : Xfer) : LineRes :=
  let p := t.req.piece t.bytes
  match s.readRuns t p (t.runs p) ⟨[], t.inbuf, []⟩ with
  | .error r => r
  | .ok f =>
    let t := { t with inbuf := if t.req.keeps then f.buf else [] }
    let s := (f.used.foldl (fun s e => s.touch t.vf e.1 false e.2) s).setXfer t
    s.writeShares t p f.bytes t.shares

/-- A piece owed to a block that has started meanwhile is written there (R246), the oldest first. -/
def State.landOwed (s : State) (t : Xfer) : Option State :=
  (t.owed.find? (fun e => s.shareReady e.1 && !s.lineHeldBefore t.id (.scr e.1 e.2.1))).map (fun e =>
    (s.landAt t e.1 e.2.1 e.2.2).setXfer { t with owed := t.owed.erase e })

/-- Is every byte performed? -/
def Xfer.whole (t : Xfer) : Bool := decide (t.req.total t.e ≤ t.bytes) && t.owed.isEmpty

/-- ENGINE_LINE_LAND (R134-R136): the next line of a running request, in ascending destination order (R347). A miss parks the
request alone (R117); a fault stops it. -/
def execEngineLineLand (id : Nat) (s : State) : Host.Outcome State Fault Refusal :=
  match s.xfers.find? (fun t => t.id == id) with
  | none => .fault .notDue
  | some t =>
    let due := s.lands t && t.st == .running && t.req.opcode != 0x6B && t.req.opcode != 0x6E && decide (t.bytes < t.req.total t.e)
    match s.landOwed t with
    | some u => s.event (s.lands t && t.st == .running) u
    | none =>
    match s.landPiece t with
    | .wait => .fault .notDue
    | .fault code cause a => s.event due (s.engFault t { FaultInfo.with code cause with daddr := a })
    | .miss d a w =>
      let engine := if t.kick.isSome then 4 else if t.req.isHalo then 3 else 2
      let r := s.parkEntry t.vf (.xfer id) (if d then 1 else 2) engine none false w a t.gid.toNat t.tag
      s.event due (r.2.setXfer { t with st := .parked r.1 })
    | .done u =>
      let n := (t.req.piece t.bytes).len
      match u.xfers.find? (fun k => k.id == id) with
      | some k =>
        if k.st = .running then
          s.event due ((u.setXfer { k with bytes := k.bytes + n }).count t.vf t.core 0x0C n)
        else s.event due u
      | none => .fault .notDue

/-! ### Completion and KICK (R137, R250, R252) -/

/-- Entries of a KICK in flight. -/
def State.kickEntries (s : State) (id : Nat) : List Xfer := s.xfers.filter (fun u => u.kick == some id)

/-- Has a KICK's list ended? -/
def State.kickOver (s : State) (t : Xfer) : Bool :=
  (s.kickEntries t.id).isEmpty && (t.bad.isSome || decide (t.req.r1.toNat ≤ t.started))

/-- A table word that the part reads and updates needs a page that may be read and written (R116, R396). -/
def State.accessBoth (s : State) (vf va size : Nat) : AccRes :=
  match s.access vf va false size with
  | .at_ _ => s.access vf va true size
  | e => e

/-- The address of entry `x` of a function's receive table. -/
def State.rtEntry (s : State) (vf x : Nat) : Nat := dfield (s.ctx vf).rxtab 51 0 + 32 * x

/-- What an RTRECV form does at its entry (R328): the state after, and the ticket's value; nothing while a reset waits for LAND = FILL. -/
def State.recvAt (s : State) (vf fn : Nat) (l : Loc) : Option (State × Nat) :=
  let x1 := dw (s.readLoc (l.add 8) 8)
  let fill := dfield x1 31 0
  let land := s.readLoc (l.add 24) 4
  let take := s.readLoc (l.add 28) 4
  match fn with
  | 0 => some (s, at' (dfield x1 63 48) 48 + fill)
  | 1 =>
    if take < fill then some (s.writeNum (l.add 28) 4 (take + 1) none vf, dfield (dw (s.readLoc l 8)) 51 0 + 16 * dfield x1 43 32 * take)
    else some (s, 0)
  | 2 => some (s, land)
  | _ => if land = fill then some ((s.writeNum (l.add 8) 4 0 none vf).writeNum (l.add 24) 8 0 none vf, fill) else none

/-- Where an RTRECV request's entry stands: `.next` and `.reset` read and update it. -/
def State.recvPlace (s : State) (t : Xfer) : AccRes :=
  let va := s.rtEntry t.vf (dfield t.req.r0 9 0)
  if t.req.fn % 2 = 1 then s.accessBoth t.vf va 32 else s.access t.vf va false 32

/-- Can an RTRECV request that waits act now? -/
def State.recvDue (s : State) (t : Xfer) : Bool :=
  s.runs t.vf && t.st == .running && (match s.recvPlace t with
    | .at_ l => !s.lineHeld l && !(t.req.fn % 2 == 1 && s.storeHeld t.vf (s.rtEntry t.vf (dfield t.req.r0 9 0)) 32)
      && (s.recvAt t.vf t.req.fn l).isSome
    | _ => true)

/-- An RTRECV request acts at its entry (R328): the result fills the ticket; a miss parks the request alone (R117), a fault stops it
(R243). -/
def State.recvAct (s : State) (t : Xfer) : State :=
  let va := s.rtEntry t.vf (dfield t.req.r0 9 0)
  let write := t.req.fn % 2 == 1
  match s.recvPlace t with
  | .fault code cause => s.engFault t { FaultInfo.with code cause with daddr := va }
  | .miss d =>
    let r := s.parkEntry t.vf (.xfer t.id) (if d then 1 else 2) 5 none false write va t.gid.toNat t.tag
    r.2.setXfer { t with st := .parked r.1 }
  | .at_ (.peer _ _) => s.engFault t malformed
  | .at_ l => match (s.touch t.vf va write l).recvAt t.vf t.req.fn l with
    | some (u, v) => (u.fillTicket t.gid t.req.tkt (dw v)).dropXfer t.id
    | none => s

/-- ENGINE_REQUEST_COMPLETE (R137, R250): the ticket is filled and records counted down; an entry of a KICK counts for its
list; a KICK whose list ended on a fault raises the halt line. An RTRECV request acts at its entry (R328). -/
def execEngineRequestComplete (id : Nat) (s : State) : Host.Outcome State Fault Refusal :=
  match s.xfers.find? (fun t => t.id == id) with
  | none => .fault .notDue
  | some t =>
    let due := s.runs t.vf && t.st == .running
    if t.req.opcode = 0x6E then s.event (s.recvDue t) (s.recvAct t)
    else if t.req.opcode = 0x6B then
      let due := due && s.kickOver t
      match t.bad with
      | none =>
        s.event due ((s.fillTicket t.gid t.req.tkt (ticketWord 0 0 t.completed t.totalBytes)).dropXfer id)
      | some (i, f) =>
        let s1 := s.setXfer { t with st := .faulted f }
        s.event due ((s1.fillTicket t.gid t.req.tkt (ticketWord 2 f.code i t.totalBytes)).raiseHalt t.vf (some t.unit) f)
    else
      let due := due && t.whole
      match t.kick with
      | some k =>
        let s1 := (s.countDown t).dropXfer id
        let up (u : Xfer) : Xfer := { u with completed := u.completed + 1, totalBytes := u.totalBytes + t.bytes }
        s.event due { s1 with xfers := updWhere (fun u => u.id == k) up s1.xfers }
      | none => s.event due (((s.countDown t).fillTicket t.gid t.req.tkt (ticketWord 0 0 0 t.bytes)).dropXfer id)

/-- The fault of an entry of a KICK's list, as a copy request with the record offset of its last word (R250). -/
def State.entryFault (s : State) (t : Xfer) (q : EngReq) : Option FaultInfo :=
  let tooFar := dbit q.r3 23 && (match scrTarget t.share (dfield q.r3 22 0) with | some _ => false | none => true)
  let lost := dbit q.r3 23 && dfield q.r3 22 0 % 64 != 0
  (s.copyFault t.vf t.e t.share q).orElse (fun _ =>
    if tooFar then some (FaultInfo.of 0x03) else if lost then some (FaultInfo.of 0x02) else none)

/-- The copy request in an entry of a KICK's list at a place. -/
def State.entryReq (s : State) (t : Xfer) (l : Loc) : EngReq :=
  let w (i : Nat) : Dword := dw (s.readLoc (l.add (8 * i)) 8)
  { t.req with opcode := 0x68, r0 := w 0, r1 := w 1, r2 := w 2, r3 := w 3, task := 0 }

/-- KICK_ENTRY_START (R250, R252): the next entry of the list is read and checked; a malformed entry performs nothing and ends
the list. An entry to weight space that fails the residency test (R98) writes nothing; the spec does not say what the KICK's ticket then holds: the
model counts the entry as completed, with no bytes and STAT 0 (log entry 49). -/
def execKickEntryStart (id : Nat) (s : State) : Host.Outcome State Fault Refusal :=
  match s.xfers.find? (fun t => t.id == id) with
  | none => .fault .notDue
  | some t =>
    match scrTarget t.share (dfield t.req.r0 31 0 + 32 * t.started) with
    | none => .fault .notDue
    | some (b, o) =>
      let l : Loc := .scr b o
      let due := s.runs t.vf && t.st == .running && t.req.opcode == 0x6B && t.bad.isNone && decide (t.started < t.req.r1.toNat)
        && decide ((s.kickEntries id).length < 8) && s.shareReady b && !s.lineHeld l
      let q := s.entryReq t l
      let f := s.entryFault t q
      match f with
      | some f => s.event due (s.setXfer { t with bad := some (t.started, { f with faddr := t.req.addr }) })
      | none =>
        let busy := q.dsp == 2 && s.weightBusy { t with req := q }
        let e : Xfer := { t with id := s.nextId, req := q, st := .running, kick := some id, entry := t.started,
                                 bytes := 0, inbuf := [], started := 0 }
        let s1 := s.setXfer { t with started := t.started + 1, completed := t.completed + b2n busy }
        s.event due (if busy then s1 else State.named { s1.own e with xfers := s1.xfers ++ [e] })

end Sys2Proof.Machine
end

