-- ==== Sys2Proof/Machine/Task.lean ====
section
/-! DEFINITION. The task machine (03 R46-R48, 19 R278-R289): one update of a record at its home, the actions it fires, and the
words TARM, TADD, ARRIVE, POLL, TSPAWN. -/
namespace Sys2Proof.Machine

/-! ### Records (R280, R281) -/

/-- Fields of an action word. -/
def actKind (a : Nat) : Nat := field a 63 62
def actArm (a : Nat) : Bool := a.testBit 61
def actOrd (a : Nat) : Nat := field a 60 59
def actVal (a : Nat) : Int := toSigned 12 (field a 58 47)
def actSp (a : Nat) : Bool := a.testBit 46
def actAddr (a : Nat) : Nat := field a 45 0

/-- Are the reserved bits of an action word zero, in a record in scratchpad or not (R281)? -/
def actOk (scratch : Bool) (a : Nat) : Bool :=
  match actKind a with
  | 0 => field a 58 0 == 0
  | 1 => field a 58 46 == 0
  | 2 => field a 58 46 == 0 && field a 45 32 == 0
  | _ => if actSp a then scratch && field a 45 17 == 0 else true

/-- A record as read: counter, WAIT, thresholds, actions. -/
structure TaskRec where
  counter : Int
  wait : Nat
  thr : List Int
  act : List Nat
  deriving DecidableEq, Repr

/-- Read the 64 bytes of a record at a place (R280). -/
def State.taskRec (s : State) (l : Loc) : TaskRec :=
  { counter := toSigned 64 (s.readLoc l 8)
    wait := s.readLoc (l.add 8) 8
    thr := tab 4 (fun i => toSigned 32 (s.readLoc (l.add (16 + 4 * i)) 4))
    act := tab 4 (fun i => s.readLoc (l.add (32 + 8 * i)) 8) }

/-- The bytes of a record. -/
def TaskRec.bytes (r : TaskRec) : List Byte :=
  bytesOf 8 (ofSigned 64 r.counter) ++ bytesOf 8 r.wait ++ (tab 4 (fun i => bytesOf 4 (ofSigned 32 (r.thr.getD i 0)))).flatten
  ++ (tab 4 (fun i => bytesOf 8 (r.act.getD i 0))).flatten

/-- Write a record back, as the part does at its home. -/
def State.putTask (s : State) (l : Loc) (r : TaskRec) (vf : Nat) : State := s.writeLoc l r.bytes none vf

/-- Well formed (R281): reserved bits of armed actions zero, their ORDs exactly 0 to n - 1. -/
def TaskRec.ok (r : TaskRec) (scratch : Bool) : Bool :=
  let armed := r.act.filter actArm
  armed.all (actOk scratch) && (List.range armed.length).all (fun i => armed.any (fun a => actOrd a == i))

/-- Disarm slot `i`; the ORD of each armed action ranked after it falls by one (R282). -/
def TaskRec.disarm (r : TaskRec) (i : Nat) : TaskRec :=
  let o := actOrd (r.act.getD i 0)
  { r with act := tab 4 (fun j =>
      let a := r.act.getD j 0
      if j = i then a - 2 ^ 61 else if actArm a && decide (o < actOrd a) then a - 2 ^ 59 else a) }

/-- The slots an update from `old` to `new` fires, in order (R47). -/
def TaskRec.fires (r : TaskRec) (old new : Int) : List Nat :=
  let hit (i : Nat) : Bool :=
    let t := r.thr.getD i 0
    actArm (r.act.getD i 0) && ((decide (new < old) && decide (t < old) && decide (new ≤ t))
      || (decide (old < new) && decide (old < t) && decide (t ≤ new)))
  let before (i j : Nat) : Bool :=
    let a := r.thr.getD i 0
    let b := r.thr.getD j 0
    if a = b then decide (actOrd (r.act.getD i 0) < actOrd (r.act.getD j 0))
    else if new < old then decide (b < a) else decide (a < b)
  let fired := (List.range 4).filter hit
  (List.range fired.length).filterMap (fun k => fired.find? (fun i => fired.countP (fun j => before j i) == k))

/-! ### Actions (R282, R287, R289) -/

/-- A number of `n` bytes at offset `o` of a list. -/
def numAt (b : List Byte) (o n : Nat) : Nat := numOf ((b.drop o).take n)

/-- The part changes `n` bytes of the stop record of a group that a stop keeps, in the save area and in what RESUME will compare with it
(R282, R294). -/
def State.patchRecord (s : State) (vf : Nat) (gid : Gid) (off n : Nat) (f : Nat → Nat) : State :=
  let c := s.ctx vf
  if c.saved.groups.any (fun g => g.gid == gid) then
    let o := c.saved.offsets.getD (c.saved.groups.findIdx (fun g => g.gid == gid)) 0 + off
    let bs := bytesOf n (f (numAt c.saved.image o n))
    let s := s.setCtx vf { c with saved := { c.saved with image := c.saved.image.take o ++ bs ++ c.saved.image.drop (o + n) } }
    s.writeLoc (.hbm (c.saveBase.toNat + o)) bs none noVf
  else s

/-- Change a group that a stop keeps, and `n` bytes of its record from `off` on. -/
def State.onKept (s : State) (gid : Gid) (f : Group → Group) (off n : Nat) (rec : Group → Nat → Nat) : State :=
  (s.ctxs.filter (fun e => e.2.saved.groups.any (fun g => g.gid == gid))).foldl (fun s e =>
    let c := s.ctx e.1
    let s := s.setCtx e.1 { c with saved := { c.saved with groups := updWhere (fun g => g.gid == gid) f c.saved.groups } }
    match c.saved.groups.find? (fun g => g.gid == gid) with
    | some g => s.patchRecord e.1 gid off n (rec (f g))
    | none => s) s

/-- The capsule state in a record (R353). -/
def CapState.bytes (c : CapState) : List Byte :=
  bytesOf 8 c.record ++ bytesOf 8 (at' c.seq 52 + at' c.stage 44 + at' c.role 42 + at' (b2n c.delivered) 41)
  ++ (List.range 8).flatMap (fun i => bytesOf 8 (c.result.getD i 0).toNat) ++ List.replicate 48 0

/-- The parked state in a record (R353). -/
def Group.parkCode (g : Group) : Nat :=
  match g.park with
  | .arrive => 1
  | .regclm _ _ _ _ _ => 2
  | .miss => 3
  | .none => if g.paths.any (fun t => match t.wait with | .yield _ _ => true | _ => false) then 4 else 0

/-- Make one waiting group ready, resident or kept by a stop (R282): then in its stop record too, whose byte 713 holds the park field. -/
def Group.waiterReady (now : Nat) (g : Group) : Group :=
  { g with park := .none, paths := g.paths.map (fun t => if t.eligible && t.wait = .none then t.readied now else t) }
def State.waiterReady (s : State) (gid : Gid) : State :=
  let s := s.onGroup gid (fun g => g.waiterReady (s.core (coreOf g.part)).cycles)
  s.onKept gid (Group.waiterReady 0) 713 1 (fun g b => b / 8 * 8 + g.parkCode)

/-- The chain of waiters from its head (R280). -/
def State.chainOf (s : State) : Nat → Gid → List Gid
  | 0, _ => []
  | n + 1, gid =>
    let all := s.groups ++ s.ctxs.flatMap (fun e => e.2.saved.groups)
    match all.find? (fun g => g.gid == gid) with
    | none => [gid]
    | some g => gid :: s.chainOf n g.chain

/-- A record's launch address enters the spawn queue of a function, or is held in firing order while it is full (R287). -/
def State.spawn (s : State) (vf addr : Nat) : State :=
  let c := s.ctx vf
  if s.spawnRoom vf && c.heldSpawns.isEmpty then s.setCtx vf { c with spawnq := c.spawnq ++ [addr] }
  else s.setCtx vf { c with heldSpawns := c.heldSpawns ++ [addr] }

/-- A record's address in an event entry (R289); scratchpad ones in local form with bit 51 set (log entry 16). -/
def RecLoc.eventAddr (r : RecLoc) : Nat :=
  match r with | .scr _ o => 2 ^ 51 + o | .glob _ va => va | .phys pa => pa

/-- The view of a resident block (R281). -/
def State.blockShare (s : State) (uid : Nat) : Option Share :=
  (s.block uid).map (fun b =>
    let shape := match s.launches.find? (fun l => l.id == b.launch) with | some l => l.shape | none => 0
    { launch := b.launch, cluster := b.cluster, blockNo := b.blockNo, blocks := dfield shape 21 17, scr := b.scr })

/-- The target of an add action (R281, R282). -/
def State.addTarget (s : State) (vf : Nat) (r : RecLoc) (a : Nat) : Option RecLoc :=
  if actSp a then
    match r with
    | .scr uid _ => (s.blockShare uid).bind (fun v => (scrTarget v (field a 16 0 * 64)).map (fun e => .scr e.1 e.2))
    | _ => none
  else some (.glob vf (actAddr a * 64))

/-- Perform one fired action (R282). An add whose scratchpad target does not exist cannot apply and is reported (R288). -/
def State.fireAction (s : State) (vf : Nat) (r : RecLoc) (tag : Dword) (waiters : List Gid) (a : Nat) : State :=
  match actKind a with
  | 0 => waiters.foldl State.waiterReady s
  | 1 => s.spawn vf (actAddr a * 64)
  | 2 => s.postEvent vf 1 0 r.eventAddr (field a 31 0)
  | _ => match s.addTarget vf r a with
    | some t => s.postUpdate vf t (actVal a) .action tag []
    | none => s.postReport vf 5 0x03 (field a 16 0 * 64) (ofSigned 64 (actVal a)) tag

/-! ### One update (R47, R48, R288) -/

/-- What comes of an update. -/
inductive UpdRes where
  /-- Applied: the state, the counter before, whether a make-ready action fired. -/
  | ok (s : State) (old : Int) (ready : Bool)
  /-- Cannot apply: cause 1 range, 6 malformed (R288). -/
  | fail (cause : Nat)
  | fault (code cause : Nat)
  | miss (demand : Bool)
  | peer (dev pa : Nat)

/-- Where a record lies, or why not (R116). -/
def State.recPlace (s : State) (r : RecLoc) : AccRes :=
  match r with
  | .scr b o => .at_ (.scr b o)
  | .glob vf va => s.access vf va true 8
  | .phys pa => .at_ (.hbm pa)

/-- Is a record in scratchpad? -/
def RecLoc.isScr (r : RecLoc) : Bool := match r with | .scr _ _ => true | _ => false

/-- Apply one update by `d` to a record at its home, with a group that joins its chain first (R47, R48). -/
def State.updateAt (s : State) (vf : Nat) (r : RecLoc) (l : Loc) (d : Int) (join : Option Gid) (tag : Dword) : UpdRes :=
  let t := s.taskRec l
  let new := t.counter + d
  if new < -(2 ^ 63 : Int) || (2 ^ 63 : Int) ≤ new then .fail 1
  else if !t.ok r.isScr then .fail 6
  else
    let s := match r with | .glob v va => s.touch v va true l | _ => s
    let head : Gid := BitVec.ofNat 40 (t.wait % 2 ^ 40)
    let count := field t.wait 58 40
    let s := match join with | some g => s.onGroup g (fun k => { k with chain := if count = 0 then 0 else head }) | none => s
    let waiters := (match join with | some g => [g] | none => []) ++ s.chainOf count head
    let wait' := match join with | some g => at' (count + 1) 40 + g.toNat | none => t.wait
    let fired := t.fires t.counter new
    let acts := fired.map (fun i => t.act.getD i 0)
    let ready := acts.any (fun a => actKind a == 0)
    let t' := fired.foldl TaskRec.disarm { t with counter := new, wait := if ready then 0 else wait' }
    let s := s.putTask l t' vf
    .ok (acts.foldl (fun s a => s.fireAction vf r tag waiters a) s) t.counter ready

/-- Apply an update, its place found (R288). -/
def State.update (s : State) (vf : Nat) (r : RecLoc) (d : Int) (join : Option Gid) (tag : Dword) : UpdRes :=
  match s.recPlace r with
  | .fault code cause => .fault code cause
  | .miss dp => .miss dp
  | .at_ (.peer dev pa) => .peer dev pa
  | .at_ l => s.updateAt vf r l d join tag

/-- May a record be updated now: its share started, no engine's line over it, no move of its page (R45, R107, R135)? -/
def State.recFree (s : State) (r : RecLoc) : Bool :=
  match s.recPlace r with
  | .at_ l => !s.lineHeld l && (match l with | .scr b _ => s.shareReady b | _ => true)
    && (match r with | .glob vf va => !s.storeHeld vf va 64 | _ => true)
  | _ => true

/-! ### Words (R278, R279) -/

/-- A record pointer's check at issue (R279): 0 is no record. -/
def pointerAt (v : Share) (vf align : Nat) (ptr : Dword) : Except FaultInfo RecLoc :=
  let bad (c : Nat) : Except FaultInfo RecLoc := .error { FaultInfo.of c with daddr := ptr.toNat }
  if ptr = 0 then bad 0x01
  else if dbit ptr 63 then
    if dfield ptr 62 32 ≠ 0 then bad 0x01
    else if dfield ptr 31 0 % align ≠ 0 then bad 0x02
    else match scrTarget v (dfield ptr 31 0) with
      | some (b, o) => .ok (.scr b o)
      | none => bad 0x03
  else if dfield ptr 62 52 ≠ 0 then bad 0x01
  else if ptr.toNat % align ≠ 0 then bad 0x02
  else .ok (.glob vf ptr.toNat)

/-- The address of a miss on a record. -/
def RecLoc.va (r : RecLoc) : Nat := match r with | .scr _ o => o | .glob _ va => va | .phys pa => pa

/-- The task-record fault (R283, R288). -/
def taskFault (cause : Nat) (ptr : Dword) : FaultInfo := { FaultInfo.with 0x21 cause with daddr := ptr.toNat }

/-- A word on the record that s(A) points to, after the group's earlier accesses when `ordered` (R138, R279). -/
def State.recWord (s : State) (a : BitVec 6) (ss : List (Nat × Nat)) (hasB : Bool) (sd : List Nat) (legal : Ix → Bool) (ordered : Bool)
    (align : Nat) (f : State → Ix → RecLoc → Res) : Host.Outcome State Fault Refusal :=
  s.word .never (fun s x =>
    s.scalarWord x { acc := Accept.scalar true hasB, legal := legal x, ss := (a.toNat, 0) :: ss, sd := sd } (fun s x =>
      if ordered && (s.outstanding x.g x.path.id || x.g.polling.isSome) then .wait s (.order false)
      else match pointerAt (s.share x.g) x.g.vf align (x.g.sreg a.toNat) with
        | .error e => .trap e
        | .ok r => if ordered && !s.recFree r then .wait s (.order false) else f s x r))

/-- Park the group on a miss of its record; s registers that the word has marked empty stay so and are its own when it executes again
(R166, R360). -/
def State.recMiss (s : State) (x : Ix) (r : RecLoc) (d write : Bool) (sd : List Nat) : Res :=
  let s := s.onGroup x.g.gid (fun g => sd.foldl (fun g r => g.markS r false) g)
  .parked (s.parkMiss x [(0, r.va, d)] (if sd.isEmpty then 0 else BitVec.allOnes 256) false write)

/-! ### TARM (R283) -/

/-- A TARM form: read the record at its home, change it or fault; a malformed record comes first (R288, log entry 102). -/
def State.tarmWord (s : State) (a : BitVec 6) (ss : List (Nat × Nat)) (hasB legal : Bool)
    (f : Ix → Bool → TaskRec → Except Nat TaskRec) : Host.Outcome State Fault Refusal :=
  s.recWord a ss hasB [] (fun _ => legal) true 64 (fun s x r =>
    match s.recPlace r with
    | .fault code cause => .trap { FaultInfo.with code cause with daddr := r.va }
    | .miss d => s.recMiss x r d true []
    | .at_ (.peer _ _) => .trap (taskFault 4 (x.g.sreg a.toNat))
    | .at_ l =>
      if !(s.taskRec l).ok r.isScr then .trap (taskFault 6 (x.g.sreg a.toNat))
      else match f x r.isScr (s.taskRec l) with
        | .error c => .trap (taskFault c (x.g.sreg a.toNat))
        | .ok t => .done ((match r with | .glob v va => s.touch v va true l | _ => s).putTask l t x.g.vf) Cost.alone)

/-- TARM (R283): arms the lowest free slot. -/
def execTarm (a b : BitVec 6) (s : State) : Host.Outcome State Fault Refusal :=
  s.tarmWord a [(b.toNat, 1), (b.toNat + 1, 3)] true (b.toNat % 2 == 0) (fun x scr t =>
    let w := (x.g.sreg b.toNat).toNat
    let thr := toSigned 64 (x.g.sreg (b.toNat + 1)).toNat
    if thr < -(2 ^ 31 : Int) || (2 ^ 31 : Int) ≤ thr || actArm w || actOrd w ≠ 0 || !actOk scr w then .error 3
    else match (List.range 4).find? (fun i => !actArm (t.act.getD i 0)) with
      | none => .error 2
      | some i =>
        let n := t.act.countP actArm
        .ok { t with thr := t.thr.set i thr, act := t.act.set i (w + 2 ^ 61 + at' n 59) })

/-- TARM .clr (R283). -/
def execTarmClr (a : BitVec 6) (s : State) : Host.Outcome State Fault Refusal :=
  s.tarmWord a [] false true (fun _ _ t => .ok { t with act := t.act.map (fun w => if actArm w then w - 2 ^ 61 else w) })

/-- TARM .init (R283). -/
def execTarmInit (a b : BitVec 6) (k : BitVec 1) (s : State) : Host.Outcome State Fault Refusal :=
  s.tarmWord a (skRead k b) true true (fun x _ t =>
    if field t.wait 58 40 ≠ 0 then .error 5
    else .ok { t with counter := toSigned 64 (x.g.sk k b).toNat, act := t.act.map (fun w => if actArm w then w - 2 ^ 61 else w) })

/-! ### TADD and ARRIVE (R284, R285) -/

/-- The word of an update that cannot apply (R288). -/
def UpdRes.trap (u : UpdRes) (ptr : Dword) (r : RecLoc) : FaultInfo :=
  match u with
  | .fail c => taskFault c ptr
  | .fault code cause => { FaultInfo.with code cause with daddr := r.va }
  | _ => FaultInfo.of 0

/-- The atomic packet of an update of a peer's record: one OP 9 entry (R317, R318). A TADD's follows the buffers of its core whose entries it
overlaps. -/
def State.sendUpdate (s : State) (vf dev pa : Nat) (gid : Gid) (d : Int) (body : ReqBody) : State :=
  s.request vf dev (carriageway pa) 4 0 0 (bytesOf 8 (mkE0 9 3 gid pa).toNat ++ bytesOf 8 (ofSigned 64 d)) body []

/-- TADD (R284): its update is performed after the group's earlier accesses, for which the word waits (R138), so that its
task-record fault stops the group at the word (R288, R348). -/
def execTadd (a b : BitVec 6) (k : BitVec 1) (s : State) : Host.Outcome State Fault Refusal :=
  s.recWord a (skRead k b) true [] (fun _ => true) true 64 (fun s x r =>
    let d := toSigned 64 (x.g.sk k b).toNat
    match s.update x.g.vf r d none x.g.tag with
    | .ok t _ _ => .done t Cost.alone
    | .miss dp => s.recMiss x r dp true []
    | .peer dev pa =>
      .done ((s.departOverlap (coreOf x.p) dev pa 64).2.sendUpdate x.g.vf dev pa x.g.gid d (.task x.g.gid x.path.id none x.addr r.va)) Cost.alone
    | e => .trap (e.trap (x.g.sreg a.toNat) r))

/-- TADD .r (R284): s(D) receives the counter before the update; a peer's reply ends the wait (R279). -/
def execTaddR (d a b : BitVec 6) (k : BitVec 1) (s : State) : Host.Outcome State Fault Refusal :=
  s.recWord a (skRead k b) true [d.toNat] (fun _ => true) true 64 (fun s x r =>
    let i := toSigned 64 (x.g.sk k b).toNat
    match s.update x.g.vf r i none x.g.tag with
    | .ok t old _ => .done (t.onGroup x.g.gid (fun g => g.setS d.toNat (dw (ofSigned 64 old)))) Cost.alone
    | .miss dp => s.recMiss x r dp true [d.toNat]
    | .peer dev pa =>
      .doneWait (((s.departOverlap (coreOf x.p) dev pa 64).2.sendUpdate x.g.vf dev pa x.g.gid i
        (.task x.g.gid x.path.id (some d.toNat) x.addr r.va)).onGroup x.g.gid (fun g => g.markS d.toNat false)) .reply Cost.alone
    | e => .trap (e.trap (x.g.sreg a.toNat) r))

/-- ARRIVE's common part (R285): it must end its clause; the group joins the chain and parks, unless its own update makes it
ready. -/
def State.arriveWord (s : State) (a : BitVec 6) (ss : List (Nat × Nat)) (hasB : Bool) (d : Ix → Int) : Host.Outcome State Fault Refusal :=
  s.recWord a ss hasB [] (fun x => x.cl.words.length ≤ x.next) true 64 (fun s x r =>
    match s.update x.g.vf r (d x) (some x.g.gid) x.g.tag with
      | .ok t _ ready =>
        if ready then .done t Cost.alone
        else .doneWait ((t.onGroup x.g.gid (fun g => { g with park := .arrive })).count x.g.vf (coreOf x.p) 0x0F 1) .none Cost.alone
      | .miss dp => s.recMiss x r dp true []
      | .peer _ _ => .trap (taskFault 4 (x.g.sreg a.toNat))
      | e => .trap (e.trap (x.g.sreg a.toNat) r))

/-- ARRIVE (R285). -/
def execArrive (a : BitVec 6) (s : State) : Host.Outcome State Fault Refusal := s.arriveWord a [] false (fun _ => -1)

/-- ARRIVE .add (R285). -/
def execArriveAdd (a b : BitVec 6) (k : BitVec 1) (s : State) : Host.Outcome State Fault Refusal :=
  s.arriveWord a (skRead k b) true (fun x => toSigned 64 (x.g.sk k b).toNat)

/-- ARRIVE .wait (R285). -/
def execArriveWait (a : BitVec 6) (s : State) : Host.Outcome State Fault Refusal := s.arriveWord a [] false (fun _ => 0)

/-! ### POLL and TSPAWN (R286, R287) -/

/-- POLL (R286): a 64-bit load into s(D); later accesses of the group wait for it. It sees its core's stores only once they are performed
(R138). -/
def execPoll (d a b : BitVec 6) (k : BitVec 1) (s : State) : Host.Outcome State Fault Refusal :=
  s.recWord a (skRead k b) true [d.toNat] (fun _ => true) false 8 (fun s x r =>
    match x.g.pollWait with
    | some w => .wait s w
    | none =>
      let dest : Dest := .poll d.toNat (x.g.sk k b)
      let begun (s : State) : State := s.onGroup x.g.gid (fun g => { g.markS d.toNat false with polling := some d.toNat })
      let place : AccRes := match r with
        | .scr b o => .at_ (.scr b o)
        | .glob vf va => s.access vf va false 8
        | .phys _ => .miss false
      match place with
      | .fault code cause => .trap { FaultInfo.with code cause with daddr := r.va }
      | .miss dp => s.recMiss x r dp false [d.toNat]
      | .at_ (.peer dev pa) =>
        let acc := s.peerAccess x 0 .load (.peer dev pa) r.va 8 [] dest false
        .done (((begun s).named.touch x.g.vf r.va false (.peer dev pa)).sendReads x.g.vf (coreOf x.p) [acc]) Cost.alone
      | .at_ l => .done ((begun s).issueLoad x l r.va 8 [] dest false s.flight false) Cost.alone)

/-- TSPAWN (R287): the record enters the spawn queue, or the leg ends until there is room. -/
def execTspawn (a : BitVec 6) (s : State) : Host.Outcome State Fault Refusal :=
  s.word .never (fun s x =>
    s.scalarWord x { acc := Accept.scalar true false, legal := true, ss := [(a.toNat, 0)], sd := [] } (fun s x =>
      let v := x.g.sreg a.toNat
      if v = 0 || 2 ^ 52 ≤ v.toNat then .trap { FaultInfo.of 0x01 with daddr := v.toNat }
      else if v.toNat % 64 ≠ 0 then .trap { FaultInfo.of 0x02 with daddr := v.toNat }
      else if !s.spawnRoom x.g.vf then .wait s .spawn
      else
        let c := s.ctx x.g.vf
        .done (s.setCtx x.g.vf { c with spawnq := c.spawnq ++ [v.toNat] }) Cost.alone))

/-! ### Steps of the task machine -/

/-- SPAWN_QUEUE_ENTRY (R287): the oldest held spawn action enters the queue. -/
def execSpawnQueueEntry (vf : Nat) (s : State) : Host.Outcome State Fault Refusal :=
  let c := s.ctx vf
  match c.heldSpawns with
  | [] => .fault .notDue
  | a :: as => s.event (s.spawnRoom vf) (s.setCtx vf { c with spawnq := c.spawnq ++ [a], heldSpawns := as })

/-- The report of a waiting update that cannot apply (R288): a task-update entry. -/
def State.updateFailed (s : State) (u : Update) (code cause : Nat) : State :=
  (s.reportPois u.vf 0 { FaultInfo.of code with daddr := u.target.va }).postReport u.vf 5 (if code = 0x21 then cause else code) u.target.va
    (ofSigned 64 u.d) u.tag

/-- TASK_UPDATE (R47): one waiting update is applied at its record's home, or a waiting event entry is written (R289). A miss
parks it (R288); a peer's record takes an atomic packet (R317). -/
def execTaskUpdate (id : Nat) (s : State) : Host.Outcome State Fault Refusal :=
  match s.updates.find? (fun u => u.id == id) with
  | none => .fault .notDue
  | some u =>
    let rest : State := { s with updates := s.updates.filter (fun k => k.id != id) }
    let ready := u.parked.isNone && !u.after.any s.isPending
    let due := ready && s.recFree u.target && (match u.src with | .ring => s.runs u.vf | _ => true)
    match u.src with
    | .evsig _ code => s.event ready (rest.postEvent u.vf 0 code 0 (ofSigned 64 u.d))
    | _ =>
      match rest.update u.vf u.target u.d none u.tag with
      | .ok t _ _ => s.event due t
      | .fail c => s.event due (rest.updateFailed u 0x21 c)
      | .fault code cause => s.event due (rest.updateFailed u code cause)
      | .miss d =>
        let unit := match u.src with | .route => 5 | .ring => 6 | .done => 9 | _ => 2
        let r := s.parkEntry u.vf (.update id) (if d then 1 else 2) unit none false true u.target.va 0 u.tag
        s.event due { r.2 with updates := updWhere (fun k => k.id == id) (fun k => { k with parked := some r.1 }) r.2.updates }
      | .peer dev pa =>
        s.event due (rest.sendUpdate u.vf dev pa 0 u.d (.update u))

end Sys2Proof.Machine
end

