-- ==== Sys2Proof/Machine/Capsule.lean ====
section
/-! DEFINITION. Capsules (19 R290-R298, 20 R303, 09 R146, R147): capenter, capstep, capexit, capres. -/
namespace Sys2Proof.Machine

/-- Fields of the lock word (R290). -/
def lockOwner (l : Nat) : Nat := l / 2 ^ 24 % 2 ^ 40
def lockStat (l : Nat) : Nat := field l 23 20
def lockStep (l : Nat) : Nat := field l 19 12
def lockSeq (l : Nat) : Nat := field l 11 0
def mkLock (owner state stage seq : Nat) : Nat := at' owner 24 + at' state 20 + at' stage 12 + seq

/-- s48-s63 of a group (R290). -/
def Group.capRegs (g : Group) : List Dword := tab 16 (fun i => g.sreg (48 + i))
def Group.setRegs (g : Group) (from_ : Nat) (vs : List Dword) : Group :=
  (vs.zip (List.range vs.length)).foldl (fun g e => g.setS (from_ + e.2) e.1) g

/-- The capsule fault (R298). -/
def capFault (cause : Nat) (va : Nat) : FaultInfo := { FaultInfo.with 0x22 cause with daddr := va }

/-- Is a record ill formed: LOCK STATE 4-15, or reserved bits or bytes nonzero (R298 cause 1, R290, R5)? -/
def State.capBad (s : State) (l : Loc) : Bool :=
  decide (4 ≤ lockStat (s.readLoc l 8)) || decide (2 ^ 52 ≤ s.readLoc (l.add 8) 8) || s.readLoc (l.add 216) 40 != 0

/-- The registers of s48-s63 that are empty: a CAP that reads or writes them waits for them (R166). -/
def Group.capEmpty (g : Group) : Dword := g.sEmpty &&& dw (2 ^ 64 - 2 ^ 48)

/-- Write the checkpoint: s48-s62 and the resume address (R290, R293). -/
def State.putCkpt (s : State) (l : Loc) (regs : List Dword) (vf : Nat) : State :=
  s.writeLoc (l.add 16) (regs.flatMap (fun r => bytesOf 8 r.toNat)) none vf

/-- A CAP word (R292): after the group's earlier accesses (R146), the record's address, page, format and use checked. The registers s48-s63,
which the record and the delivered result hold, must be full. -/
def State.capWord (s : State) (d a : BitVec 6) (use : Ix → Nat → Option FaultInfo) (f : State → Ix → Nat → Loc → Res) :
    Host.Outcome State Fault Refusal :=
  s.word .cap (fun s x =>
    s.scalarWord x { acc := Accept.scalar true false, legal := true, ss := [(a.toNat, 0)], sd := [d.toNat] } (fun s x =>
      let va := (x.g.sreg a.toNat).toNat
      if x.g.capEmpty ≠ 0 then .wait s (.regs [] [] x.g.capEmpty)
      else if s.outstanding x.g x.path.id || x.g.polling.isSome then .wait s (.order false)
      else if va = 0 || 2 ^ 52 ≤ va then .trap { FaultInfo.of 0x01 with daddr := va }
      else if va % 256 ≠ 0 then .trap { FaultInfo.of 0x02 with daddr := va }
      else match s.access x.g.vf va true 8 with
        | .fault code cause => .trap { FaultInfo.with code cause with daddr := va }
        | .miss dp => s.recMiss x (.glob x.g.vf va) dp true []
        | .at_ l =>
          let home := match s.leafOf x.g.vf va with | some (e, _) => dbit e 7 | none => false
          if !home then .trap { FaultInfo.of 0x23 with daddr := va }
          else match use x va with
            | some e => .trap e
            | none =>
              if s.capBad l then .trap (capFault 1 va)
              else if s.lineHeld l then .wait s (.line l)
              else match x.g.cap.buffer.find? (fun e => s.lineHeld (.hbm e.1)) with
                | some e => .wait s (.line (.hbm e.1))
                | none =>
                  if s.storeHeld x.g.vf va 256 || x.g.cap.vas.any (fun e => s.storeHeld x.g.vf e.2 1) then .wait s (.order false)
                  else f (s.touch x.g.vf va true l) x va l))

/-- CAPENTER (R292): acquires a free record, adopts a stalled one, else busy. -/
def execCapenter (d a : BitVec 6) (s : State) : Host.Outcome State Fault Refusal :=
  s.capWord d a (fun x va => if x.inCapsule || x.g.cap.role == 3 then some (capFault 3 va) else none) (fun s x va l =>
    let lock := s.readLoc l 8
    let code := s.readLoc (l.add 8) 8
    let cap (g : Group) (stage role resume : Nat) : Group :=
      { g with cap := { CapState.none with record := va, seq := lockSeq lock, stage := stage, role := role, inMode := true,
                                           holder := if role = 1 then g.gid else BitVec.ofNat 40 (lockOwner lock), path := x.path.id, regs := g.capRegs, resume := resume, code := code % 2 ^ 52 } }
    match lockStat lock with
    | 0 =>
      let g := x.g.setS 63 (dw code)
      let s := (s.putCkpt l g.capRegs g.vf).writeNum l 8 (mkLock g.gid.toNat 1 0 (lockSeq lock)) none g.vf
      .done (s.setGroup ((cap g 0 1 (code % 2 ^ 52)).setS d.toNat 0)) Cost.alone
    | 2 =>
      let ad := s.readLoc (l.add 208) 8
      let n := if ad / 2 ^ 40 < 2 ^ 24 - 1 then ad / 2 ^ 40 + 1 else ad / 2 ^ 40
      let g := x.g.setRegs 48 (tab 16 (fun i => dw (s.readLoc (l.add (16 + 8 * i)) 8)))
      let s := (s.writeNum (l.add 208) 8 (at' n 40 + g.gid.toNat) none g.vf).writeNum l 8 (lockState lock 3) none g.vf
      .done (s.setGroup ((cap g (lockStep lock) 2 ((g.sreg 63).toNat % 2 ^ 52)).setS d.toNat 2)) Cost.alone
    | _ => .done (s.onGroup x.g.gid (fun g => g.setS d.toNat 1)) Cost.alone)

/-- Why a capstep or capexit may not run (R298). -/
def capStepUse (x : Ix) (va : Nat) : Option FaultInfo :=
  if !x.inCapsule then some (capFault 4 va)
  else if x.g.cap.record ≠ va then some (capFault 3 va) else none

/-- Does the record still stand at the step the group's capsule state names, its owner the holder of that tenure (R293)? -/
def stepMatches (g : Group) (lock : Nat) : Bool :=
  lockSeq lock == g.cap.seq && lockStep lock == g.cap.stage && lockStat lock != 0 && lockOwner lock == g.cap.holder.toNat

/-- Perform the step's store buffer (R293). -/
def State.performBuffer (s : State) (g : Group) : State :=
  g.cap.buffer.foldl (fun s e =>
    let va := fget 0 g.cap.vas e.1
    ((s.touch g.vf va true (.hbm e.1)).writeLoc (.hbm e.1) [e.2] none g.vf).contribute g.vf va 1) s

/-- A displaced runner (R293): the buffer is discarded, capsule mode left; a holder keeps its capsule state for capres. -/
def Group.displaced (g : Group) : Group :=
  if g.cap.role = 1 then { g with cap := { g.cap with role := 3, inMode := false, buffer := [], vas := [], lines := [] } }
  else { g with cap := CapState.none }

/-- CAPSTEP (R293). -/
def execCapstep (d a : BitVec 6) (s : State) : Host.Outcome State Fault Refusal :=
  s.capWord d a (fun x va => (capStepUse x va).orElse (fun _ => if 15 ≤ x.g.cap.stage then some (capFault 4 va) else none))
    (fun s x _ l =>
      let lock := s.readLoc l 8
      if stepMatches x.g lock then
        let s := s.performBuffer x.g
        let g := x.g.setS 63 (dw x.cl.after)
        let k := g.cap.stage + 1
        let s := (s.putCkpt l g.capRegs g.vf).writeNum l 8 (mkLock (lockOwner lock) (if g.cap.role = 1 then 1 else 3) k g.cap.seq) none g.vf
        let g := { g with cap := { g.cap with stage := k, buffer := [], vas := [], lines := [], regs := g.capRegs, resume := x.cl.after } }
        .done (s.setGroup (g.setS d.toNat 0)) Cost.alone
      else .done (s.onGroup x.g.gid (fun g => g.displaced.setS d.toNat 1)) Cost.alone)

/-- Deliver a result to the holder of a tenure, resident or kept by a stop, then in the capsule state of its stop record too; a capres that
waits for it goes on (R294, R295). -/
def State.deliver (s : State) (owner : Gid) (record seq : Nat) (result : List Dword) : State :=
  let give (g : Group) : Group :=
    if g.gid == owner && g.cap.record == record && g.cap.seq == seq && g.cap.role != 2 && g.cap.role != 0 then
      { g with cap := { g.cap with delivered := true, result := result } }
    else g
  let wakeUp (g : Group) : Group :=
    { g with paths := g.paths.map (fun t => if t.wait = .capres then t.readied (s.core (coreOf g.part)).cycles else t) }
  (s.onGroup owner (fun g => wakeUp (give g))).onKept owner give 1728 128 (fun g _ => numOf g.cap.bytes)

/-- CAPEXIT (R294): the commit of a capstep, the result, the release; an adopter's result goes to the holder. -/
def execCapexit (d a : BitVec 6) (s : State) : Host.Outcome State Fault Refusal :=
  s.capWord d a capStepUse (fun s x va l =>
    let lock := s.readLoc l 8
    if stepMatches x.g lock then
      let s := s.performBuffer x.g
      let g := x.g.setS 63 (dw x.cl.after)
      let result := tab 8 (fun i => g.sreg (48 + i))
      let s := s.putCkpt l g.capRegs g.vf
      let s := s.writeLoc (l.add 144) (result.flatMap (fun r => bytesOf 8 r.toNat)) none g.vf
      let s := s.writeNum l 8 (mkLock 0 0 0 ((g.cap.seq + 1) % 4096)) none g.vf
      let s := if g.cap.role = 2 then s.deliver (BitVec.ofNat 40 (lockOwner lock)) va g.cap.seq result else s
      .done (s.setGroup ({ g with cap := CapState.none }.setS d.toNat 0)) Cost.alone
    else .done (s.onGroup x.g.gid (fun g => g.displaced.setS d.toNat 1)) Cost.alone)

/-- CAPRES (R295): the delivered result of a displaced holder, a wait for it, or 1 when there is none to come. -/
def execCapres (d a : BitVec 6) (s : State) : Host.Outcome State Fault Refusal :=
  s.capWord d a (fun x va =>
      if x.inCapsule then some (capFault 4 va)
      else if x.g.cap.role == 3 && x.g.cap.record != va then some (capFault 3 va) else none)
    (fun s x _ _ =>
      if x.g.cap.role ≠ 3 then .done (s.onGroup x.g.gid (fun g => g.setS d.toNat 1)) Cost.alone
      else if x.g.cap.delivered then
        .done (s.onGroup x.g.gid (fun g =>
          { g.setRegs 48 g.cap.result with cap := CapState.none }.setS d.toNat 0)) Cost.alone
      else .wait s .capres)

end Sys2Proof.Machine
end

