-- ==== Sys2Proof/Machine/Matrix.lean ====
section
/-! DEFINITION. Matrix instructions (17 R253-R276, 18 R277, 05 R66-R79): tiles, the format-block operand, operands, the
slice's operations, readout, the readout engine, residue conversion. -/
namespace Sys2Proof.Machine

/-! ### Formats and the FBO (R256, R257) -/

/-- Bits of an element of format `f`; the FP format; limbs (R79). -/
def matBits (f : Nat) : Nat := match f with | 0 => 64 | 1 => 32 | 2 => 16 | 3 => 16 | 4 => 8 | 5 => 6 | _ => 4
def matFmt (f : Nat) : Fmt := match f with | 0 => f64 | 1 => f32 | 2 => bf16 | _ => f16
def matLimbs (f : Nat) : Nat := match f with | 0 => 4 | 1 => 2 | _ => 1
def matFp (f : Nat) : Bool := decide (f ≤ 3)

/-- Fields of an FBO. -/
def fboA (w : Dword) : Nat := dfield w 3 0
def fboB (w : Dword) : Nat := dfield w 7 4
def fboKb (w : Dword) : Nat := dfield w 9 8
def fboAk (w : Dword) : Nat := dfield w 11 10
def fboBk (w : Dword) : Nat := dfield w 13 12
def fboK (w : Dword) : Nat := 16 * 2 ^ fboKb w

/-- Does an FBO fail R257 for an MMA, or an MMAG? -/
def fboBad (w : Dword) (gather : Bool) : Bool :=
  decide (7 ≤ fboA w) || decide (7 ≤ fboB w) || fboKb w == 3 || decide (2 ≤ fboAk w) || fboBk w == 3 || dfield w 19 18 != 0
  || matFp (fboA w) != matFp (fboB w) || (dbit w 14 && matFp (fboA w)) || (gather && fboBk w == 0)

/-- The illegal-format fault. -/
def illegalFormat : FaultInfo := FaultInfo.of 0x12

/-! ### Tiles and quarters (R253, R254) -/

/-- Rows of a tile that belong to positions. -/
def tileRows (w : Nat) : Nat := if w = 16 then 4 else 8

/-- The key of accumulator (row, column) of a tile of a member. -/
def tileKey (tile member row col : Nat) : Nat := (tile * 8 + member) * 64 + 8 * row + col

/-- The key of `acc(l, e, j)` of a tile set. -/
def Group.accKey (g : Group) (atb p j : Nat) : Nat :=
  let r := tileRows g.w
  tileKey (atb + g.lane p / r) (g.member p) (g.lane p % r) j

/-- An accumulator of the tiles; replace it. -/
def Group.tile (g : Group) (k : Nat) : Xa := fget Xa.reset g.tiles k
def Group.setTile (g : Group) (k : Nat) (x : Xa) : Group := { g with tiles := fset Xa.reset g.tiles k x }

/-- Reset an accumulator, freeing its slot (R80, R83). -/
def Group.clearTile (g : Group) (k : Nat) : Group := { (g.setTile k Xa.reset) with slots := freeXa g.slots (g.tile k) }

/-- The quarter of a position, and its row index. -/
def Group.quarter (g : Group) (p : Nat) : Nat := g.lane p / (g.w / 4)
def Group.rowIdx (g : Group) (p : Nat) : Nat := g.lane p % (g.w / 4)

/-- Members with a position in a mask. -/
def Group.members (g : Group) (m : Mask) : List Nat := (List.range g.e).filter (fun e => (positions g.n m).any (fun p => g.member p == e))

/-! ### Registers read and written -/

/-- Registers a matrix word reads, with slot and positions, and writes: an empty one traps or ends the leg (R159, R166). -/
def Ix.regNeed (x : Ix) (reads : List (Nat × Nat × Mask)) (writes : List (Nat × Mask)) : Option (FaultInfo ⊕ Wait) :=
  let trapped := reads.foldl (fun (m : Mask) r => if x.traps r.2.1 then m ||| (fget 0 x.g.vEmpty r.1 &&& r.2.2) else m) 0
  if trapped ≠ 0 then some (.inl { FaultInfo.of 0x14 with pos := x.g.firstPos trapped })
  else
    let all := ((reads.map (fun r => (r.1, r.2.2))) ++ writes).map (fun r => (r.1, fget 0 x.g.vEmpty r.1 &&& r.2))
    let v := all.filter (fun e => e.2 != 0)
    if v.isEmpty then none else some (.inr (.regs v [] 0))

/-- s registers a matrix word reads, with slot (R159). -/
def Ix.sNeed (x : Ix) (ss : List (Nat × Nat)) : Option (FaultInfo ⊕ Wait) :=
  if ss.any (fun r => x.traps r.2 && x.g.sEmptyAt r.1) then some (.inl (FaultInfo.of 0x14))
  else
    let rs := ss.foldl (fun m r => if x.g.sEmptyAt r.1 then m ||| dw (2 ^ r.1) else m) (0 : Dword)
    if rs = 0 then none else some (.inr (.regs [] [] rs))

/-- End in the trap or wait, or go on. -/
def State.need (s : State) (n : Option (FaultInfo ⊕ Wait)) (f : Res) : Res :=
  match n with | some (.inl e) => .trap e | some (.inr w) => .wait s w | none => f

/-! ### Memory operands (R259, R262) -/

/-- A place of scratchpad at an address plus an offset that is added to OFS alone (R225). -/
def scrPlace (v : Share) (base off : Nat) : Option Loc :=
  if 2 ^ 18 ≤ base % 2 ^ 18 + off then none else (scrTarget v (base + off)).map (fun e => .scr e.1 e.2)

/-- The offset of a byte of row `r` with rotation. -/
def rotOfs (rot r o : Nat) : Nat :=
  if rot = 1 then o / 128 * 128 + ((o % 128 / 4) ^^^ (4 * (r % 8))) * 4 + o % 4 else o

/-- The places of the `n` bytes of a row of a memory operand, or nothing when it leaves the share or region. -/
def State.rowLocs (s : State) (x : Ix) (kind base start rot r n : Nat) : Option (List Loc) :=
  (List.range n).mapM (fun o =>
    let off := start + rotOfs rot r o
    if kind = 1 then scrPlace (s.share x.g) base off
    else match s.weightAccess x.g.vf (dieOfCore (coreOf x.p)) (base + off) 1 with | .at_ l => some l | _ => none)

/-- What a memory operand waits for before it is read: no line pending for a copy or a readout (R135, R273), shares started, its bank not
refreshing (R97), no access of the group to it that is earlier in program order outstanding (R124). -/
def State.operandWait (s : State) (g : Group) (path : Nat) (ls : List Loc) : Option Wait :=
  let firsts := ((ls.map Loc.line).eraseDups).filterMap (fun k => match k with
    | .scr b o => some (Loc.scr b (o * 128))
    | .weight d a => some (Loc.weight d (a * 128))
    | _ => none)
  match firsts.find? s.lineHeld with
  | some l => some (.line l)
  | none =>
    if ls.all (fun l => (match l with
        | .scr b _ => s.shareReady b
        | .weight d a => a / 4096 % 64 != (s.die d).window % 64
        | _ => true)
      && !s.flight.any (fun f => f.kind != .load && f.loc.overlaps f.size l 1 && f.earlier g (g.lineage path)))
    then none else some (.order false)

/-- The bytes at places, as a number. -/
def State.locsNum (s : State) (ls : List Loc) : Nat := numOf (ls.map (fun l => BitVec.ofNat 8 (s.readLoc l 1)))

/-- An operand pair (R259): BASE, MPITCH, TPITCH, RPITCH, ROT. -/
structure OpPair where
  base : Nat
  mp : Nat
  tp : Nat
  rp : Nat
  rot : Nat
  deriving DecidableEq, Repr

def OpPair.of (w0 w1 : Dword) : OpPair :=
  { base := dfield w0 31 0, mp := dfield w0 49 32, tp := dfield w1 49 32, rp := dfield w1 17 0, rot := dfield w1 63 62 }

/-- Does a pair fail its format checks? -/
def pairBad (w0 w1 : Dword) (kind : Nat) (isB : Bool) : Bool :=
  let p := OpPair.of w0 w1
  dfield w0 63 50 != 0 || dfield w1 61 50 != 0 || dfield w1 31 18 != 0 || decide (2 ≤ p.rot) || (isB && p.mp != 0)
  || (kind == 2 && p.rot != 0)

/-- Does a pair fail its alignment check? -/
def OpPair.misaligned (p : OpPair) (fmt : Nat) : Bool :=
  let u := if fmt = 0 then 8 else 4
  p.base % u != 0 || p.mp % u != 0 || p.tp % u != 0 || p.rp % u != 0

/-- The places of every row of A of the executing members, by position. -/
def State.aRows (s : State) (x : Ix) (fbo : Dword) (p : OpPair) : Option (List (Nat × List Loc)) :=
  let es := x.g.members x.act
  ((List.range x.g.n).filter (fun q => es.contains (x.g.member q))).mapM (fun q =>
    (s.rowLocs x 1 p.base (x.g.member q * p.mp + x.g.quarter q * p.tp + x.g.rowIdx q * p.rp) p.rot (x.g.rowIdx q)
      (fboK fbo * matBits (fboA fbo) / 8)).map (fun ls => (q, ls)))

/-- The places of every row of B, quarter by quarter; `idx` gives the row number fetched for row `k` (R268). -/
def State.bRows (s : State) (x : Ix) (fbo : Dword) (p : OpPair) (idx : Nat → Nat) : Option (List (List (List Loc))) :=
  (List.range 4).mapM (fun q => (List.range (fboK fbo)).mapM (fun k =>
    s.rowLocs x (fboBk fbo) p.base (q * p.tp + idx k * p.rp) p.rot k (matBits (fboB fbo))))

/-- The fault of a row outside the share or the function's region. -/
def rowFault (kind base : Nat) : FaultInfo := { FaultInfo.of (if kind = 2 then 0x04 else 0x03) with daddr := base }

/-! ### MMA and MMAG at issue (R255-R268) -/

/-- The words of a matrix operation. -/
def Ix.wordAt (x : Ix) (i : Nat) : Word := x.cl.words.getD i 0
def Ix.preWord (x : Ix) : Word := if x.hasPre then x.wordAt x.idx else 0

/-- The mask of the lanes of member 0 that hold register `r` of B's fragments (R258). -/
def Group.bMask (g : Group) (nw r : Nat) : Mask :=
  let l := g.w / 4
  maskOf g.w (fun lane => decide (r * l + lane % l < nw))

/-- A row of A held in registers (R258): its bit string. -/
def Group.aReg (g : Group) (a n p : Nat) : Nat := numOf ((List.range n).flatMap (fun r => bytesOf 4 (g.v1 (a + r) p).toNat))

/-- The fragment of a quarter held in member 0's registers (R258). -/
def Group.bReg (g : Group) (b nw q : Nat) : Nat :=
  let l := g.w / 4
  numOf ((List.range nw).flatMap (fun w => bytesOf 4 (g.v1 (b + w / l) (q * l + w % l)).toNat))

/-- The fields of an MMA or MMAG. -/
structure MmaOp where
  gather : Bool
  t : Nat
  k : Nat
  a : Nat
  b : Nat
  reuse : Bool
  deriving DecidableEq, Repr

/-- The FBO of an MMA; the registers of an A row; the words and registers of a fragment of B (R257, R258). -/
def MmaOp.fbo (m : MmaOp) (g : Group) : Dword := g.kreg m.k
def MmaOp.an (m : MmaOp) (g : Group) : Nat := fboK (m.fbo g) * matBits (fboA (m.fbo g)) / 32
def MmaOp.bw (m : MmaOp) (g : Group) : Nat := fboK (m.fbo g) * 8 * matBits (fboB (m.fbo g)) / 32
def MmaOp.bn (m : MmaOp) (g : Group) : Nat := cdiv (m.bw g) (g.w / 4)

/-- The operand pairs of an MMA (R259). -/
def MmaOp.ap (m : MmaOp) (g : Group) : OpPair := OpPair.of (g.sreg m.a) (g.sreg (m.a + 1))
def MmaOp.bp (m : MmaOp) (g : Group) : OpPair := OpPair.of (g.sreg m.b) (g.sreg (m.b + 1))
def MmaOp.apair (m : MmaOp) (g : Group) : List Dword := if fboAk (m.fbo g) = 0 then [] else [g.sreg m.a, g.sreg (m.a + 1)]
def MmaOp.bpair (m : MmaOp) (g : Group) : List Dword := if fboBk (m.fbo g) = 0 then [] else [g.sreg m.b, g.sreg (m.b + 1)]

/-- The indices of the rows of B that MMAG gathers, from member 0 (R268). -/
def MmaOp.idx (m : MmaOp) (x : Ix) : List Word :=
  if m.gather then tab (fboK (m.fbo x.g)) (fun i => x.g.v1 (x.pre.creg.toNat + i / x.g.w) (i % x.g.w)) else []

/-- The latch, when it holds this B operand (R261). -/
def MmaOp.latched (m : MmaOp) (x : Ix) : Option Latch :=
  match x.g.latch with
  | some l =>
    if l.bop == m.b && l.bkind == fboBk (m.fbo x.g) && l.bfmt == fboB (m.fbo x.g) && l.kb == fboKb (m.fbo x.g)
      && l.pair == m.bpair x.g && l.idx == m.idx x then some l else none
  | none => none

/-- The s registers an MMA reads, with their slots. -/
def MmaOp.ss (m : MmaOp) (g : Group) : List (Nat × Nat) :=
  (if fboAk (m.fbo g) = 0 then [] else [(m.a, 0), (m.a + 1, 0)]) ++ (if fboBk (m.fbo g) = 0 then [] else [(m.b, 1), (m.b + 1, 1)])

/-- The v registers an MMA reads, with their slots and positions. -/
def MmaOp.vreads (m : MmaOp) (x : Ix) : List (Nat × Nat × Mask) :=
  let g := x.g
  (if fboAk (m.fbo g) = 0 then (List.range (m.an g)).map (fun r => (m.a + r, 4, x.act)) else [])
  ++ (if fboBk (m.fbo g) = 0 && (m.latched x).isNone then (List.range (m.bn g)).map (fun r => (m.b + r, 5, g.bMask (m.bw g) r)) else [])
  ++ (if m.gather then (List.range (cdiv (fboK (m.fbo g)) g.w)).map (fun r =>
        (x.pre.creg.toNat + r, 6, maskOf g.w (fun l => decide (r * g.w + l < fboK (m.fbo g))))) else [])

/-- The checks of R169, R257 and R259, in order, then the empty registers. -/
def MmaOp.early (m : MmaOp) (x : Ix) : Option (FaultInfo ⊕ Wait) :=
  let g := x.g
  let fbo := m.fbo g
  let ak := fboAk fbo
  let bk := fboBk fbo
  let pairOk (n : Nat) : Bool := n % 2 == 0 && decide (n < 64)
  let ok := (ak == 0 || pairOk m.a) && (bk == 0 || pairOk m.b) && (ak != 0 || fboA fbo != 0 || m.a % 2 == 0)
    && (bk != 0 || fboB fbo != 0 || m.b % 2 == 0)
  let acc : Accept := { mask := true, zero := true, epa := true, epb := true, cp := m.gather, need := m.gather }
  if !ok then some (.inl illegal)
  else if !acc.ok x.hasPre x.pre then some (.inl x.illegalPrefix)
  else if fboBad fbo m.gather then some (.inl illegalFormat)
  else match x.sNeed (m.ss g) with
    | some n => some n
    | none =>
      if (ak != 0 && pairBad (g.sreg m.a) (g.sreg (m.a + 1)) ak false) || (bk != 0 && pairBad (g.sreg m.b) (g.sreg (m.b + 1)) bk true)
      then some (.inl illegalFormat)
      else if g.atiles < m.t + setTiles g.w || (ak == 0 && decide (g.vcur < m.a + m.an g)) || (bk == 0 && decide (g.vcur < m.b + m.bn g))
        || (m.gather && decide (g.vcur < x.pre.creg.toNat + cdiv (fboK fbo) g.w)) then some (.inl (FaultInfo.of 0x13))
      else x.regNeed (m.vreads x) []

/-- The places of an MMA's memory operands: rows of A by position, rows of B by quarter, A scales by position. -/
structure MmaRows where
  a : List (Nat × List Loc)
  b : List (List (List Loc))
  sc : List (Nat × Loc)
  deriving DecidableEq, Repr

def MmaRows.locs (r : MmaRows) : List Loc := (r.a.map (·.2)).flatten ++ r.b.flatten.flatten ++ r.sc.map (·.2)

/-- The rows of an MMA that executes somewhere, or the fault of one misaligned or out of range (R259, R265, R268). -/
def MmaOp.rows (m : MmaOp) (s : State) (x : Ix) : Except FaultInfo MmaRows :=
  let g := x.g
  let fbo := m.fbo g
  let ak := fboAk fbo
  let bk := fboBk fbo
  if ak != 0 && (m.ap g).misaligned (fboA fbo) then .error { FaultInfo.of 0x02 with daddr := (m.ap g).base }
  else if bk != 0 && (m.bp g).misaligned (fboB fbo) then .error { FaultInfo.of 0x02 with daddr := (m.bp g).base }
  else
    let arows := if ak = 0 then some [] else s.aRows x fbo (m.ap g)
    let brows := if bk = 0 || (m.latched x).isSome then some []
      else s.bRows x fbo (m.bp g) (fun i => if m.gather then ((m.idx x).getD i 0).toNat else i)
    let scales := if dbit fbo 14 then (positions g.n x.act).mapM (fun p =>
      (scrPlace (s.share g) (2 ^ 22 + dfield fbo 41 20) (g.member p * g.w + g.lane p)).map (fun l => (p, l))) else some []
    match arows, brows, scales with
    | none, _, _ => .error (rowFault 1 (m.ap g).base)
    | _, none, _ => .error (rowFault bk (m.bp g).base)
    | _, _, none => .error (rowFault 1 (2 ^ 22 + dfield fbo 41 20))
    | some ar, some br, some sc => .ok ⟨ar, br, sc⟩

/-- The fragments of B, one for each quarter: from the latch, from registers, or from memory (R258, R261). -/
def MmaOp.frags (m : MmaOp) (s : State) (x : Ix) (r : MmaRows) : List Nat :=
  match m.latched x with
  | some l => l.b
  | none => if fboBk (m.fbo x.g) = 0 then tab 4 (x.g.bReg m.b (m.bw x.g))
    else r.b.map (fun rows => numOf (rows.flatMap (fun ls => ls.map (fun l => BitVec.ofNat 8 (s.readLoc l 1)))))

/-- The operation an MMA puts into the slice's queue, its operands read at issue (R262); at no active position only ZERO's part. -/
def MmaOp.op (m : MmaOp) (s : State) (x : Ix) (r : MmaRows) : MatOp :=
  let g := x.g
  let arow := if fboAk (m.fbo g) = 0 then (positions g.n x.act).map (fun p => (p, g.aReg m.a (m.an g) p))
    else (r.a.filter (fun e => has x.act e.1)).map (fun e => (e.1, s.locsNum e.2))
  { gid := g.gid, vf := g.vf, kind := if m.gather then .mmag else .mma, word := x.wordAt (x.next - 1), pre := x.preWord, addr := x.addr,
    atb := m.t, fbo := m.fbo g, act := x.act, zeroed := x.off, a := arow, b := if x.act = 0 then [] else m.frags s x r,
    asc := r.sc.map (fun e => (e.1, BitVec.ofNat 8 (s.readLoc e.2 1))),
    pairs := if x.act = 0 then [] else m.apair g ++ m.bpair g, idx := m.idx x, fault := none }

/-- The latch after an MMA (R261). -/
def MmaOp.latchAfter (m : MmaOp) (s : State) (x : Ix) (r : MmaRows) : Option Latch :=
  if !m.reuse then none
  else if x.act = 0 then m.latched x
  else some { bop := m.b, bkind := fboBk (m.fbo x.g), bfmt := fboB (m.fbo x.g), kb := fboKb (m.fbo x.g), pair := m.bpair x.g,
              idx := m.idx x, b := m.frags s x r }

/-- MMA or MMAG at issue: the checks, the registers, the operands, and a place in the slice's queue. At no active position nothing is
performed but ZERO (R255, R265). -/
def State.mmaWord (s : State) (m : MmaOp) : Host.Outcome State Fault Refusal :=
  s.word .never (fun s x =>
    s.need (m.early x) (
      match (if x.act = 0 then .ok ⟨[], [], []⟩ else m.rows s x) with
      | .error f => .trap f
      | .ok r =>
        if !s.sliceRoom x.p then .wait s .slice
        else match (if r.locs.isEmpty then none else x.g.pollWait) with
          | some w => .wait s w
          | none =>
            match s.operandWait x.g x.path.id r.locs with
            | some w => .wait s w
            | none =>
              let k := s.part x.p
              let t := s.onGroup x.g.gid (fun g => { g with latch := m.latchAfter s x r })
              .done (if x.act = 0 && x.off = 0 then t else t.setPart x.p { k with queue := k.queue ++ [m.op s x r] })
                (if x.act != 0 && (fboAk (m.fbo x.g) == 0 || fboBk (m.fbo x.g) == 0) then Cost.matrix else Cost.alone)))

/-- The fields of an MMA or MMAG word. -/
def mmaOp (gather : Bool) (t : BitVec 4) (k : BitVec 6) (a b : BitVec 7) (u : BitVec 1) : MmaOp :=
  { gather := gather, t := t.toNat, k := k.toNat, a := a.toNat, b := b.toNat, reuse := u == 1 }

/-- MMA (R264, R265). -/
def execMma (t : BitVec 4) (k : BitVec 6) (a b : BitVec 7) (u : BitVec 1) (s : State) : Host.Outcome State Fault Refusal :=
  s.mmaWord (mmaOp false t k a b u)

/-- MMAG (R264, R268). -/
def execMmag (t : BitVec 4) (k : BitVec 6) (a b : BitVec 7) (u : BitVec 1) (s : State) : Host.Outcome State Fault Refusal :=
  s.mmaWord (mmaOp true t k a b u)

/-- The operation of an ACLR. -/
def aclrOp (x : Ix) (t n : BitVec 4) : MatOp :=
  { gid := x.g.gid, vf := x.g.vf, kind := .aclr (n.toNat + 1), word := x.wordAt (x.next - 1), pre := x.preWord, addr := x.addr,
    atb := t.toNat, fbo := 0, act := x.act, zeroed := 0, a := [], b := [], asc := [], pairs := [], idx := [], fault := none }

/-- ACLR (R269): queued with its tile base and `n` tiles. -/
def execAclr (t n : BitVec 4) (s : State) : Host.Outcome State Fault Refusal :=
  s.word .never (fun s x =>
    let acc : Accept := { mask := true }
    if !acc.ok x.hasPre x.pre then .trap x.illegalPrefix
    else if x.g.atiles < t.toNat + (n.toNat + 1) then .trap (FaultInfo.of 0x13)
    else if !s.sliceRoom x.p then .wait s .slice
    else
      let k := s.part x.p
      let s := s.onGroup x.g.gid (fun g => { g with latch := none })
      .done (if x.act = 0 then s else s.setPart x.p { k with queue := k.queue ++ [aclrOp x t n] }) Cost.alone)

/-! ### The slice's work (R265-R269) -/

/-- Element `i` of a bit string of elements of `n` bits. -/
def bitElem (v n i : Nat) : Nat := v / 2 ^ (n * i) % 2 ^ n

/-- The terms of an FP dot product with the flags of A's side and of B's (R266). -/
def fpTerms (fa fb : Fmt) (ab : List (Nat × Nat)) : List Term × Half × Half :=
  ab.foldl (fun acc e =>
    let p := mulTerm (fpTerm fa e.1) (fpTerm fb e.2)
    (acc.1 ++ [p.1], acc.2.1 ||| (if p.2 || isSNaN fa e.1 then fNV else 0), acc.2.2 ||| (if isSNaN fb e.2 then fNV else 0)))
    ([], 0, 0)

/-- The term of an RQ K-block with its flags (R69, R71, R74). -/
def rqTerms (ka kb sc : Nat) (ab : List (Nat × Nat)) : List Term × Half × Half :=
  let va := ab.any (fun e => (rqValue ka e.1).isNone)
  let vb := ab.any (fun e => (rqValue kb e.2).isNone)
  let t : Term := if va || vb || sc = 255 then .nan
    else .fin (rqDot (ab.map (fun e => ((rqValue ka e.1).getD 0, (rqValue kb e.2).getD 0)))) ((sc : Int) - 127)
  ([t], (if va then fVA else 0) ||| (if sc = 255 then fVSA else 0), if vb then fVB else 0)

/-- The terms that an operation adds to `acc(p, j)`. -/
def MatOp.terms (o : MatOp) (g : Group) (p j : Nat) : List Term × Half × Half :=
  let fa := fboA o.fbo
  let fb := fboB o.fbo
  let arow := fget 0 o.a p
  let frag := o.b.getD (g.quarter p) 0
  let ab := tab (fboK o.fbo) (fun k => (bitElem arow (matBits fa) k, bitElem frag (matBits fb) (8 * k + j)))
  if matFp fa then fpTerms (matFmt fa) (matFmt fb) ab
  else rqTerms (fa - 4) (fb - 4) (if dbit o.fbo 14 then (fget 0 o.asc p).toNat else 127) ab

/-- One accumulator of an MMA: reset under OVR, then its terms; the group and B's flags. -/
def MatOp.addOne (o : MatOp) (g : Group) (p j : Nat) : Except XaErr (Group × Half) :=
  let k := g.accKey o.atb p j
  let g := if dbit o.fbo 16 then g.clearTile k else g
  let t := o.terms g p j
  match addTerms g.xext g.slots (g.tile k) t.1 with
  | .error e => .error e
  | .ok (x, slots, wid) =>
    .ok ({ (g.setTile k x) with slots := slots }.raiseFlags (g.member p) (t.2.1 ||| (if wid then fWID else 0)), t.2.2)

/-- Work through the positions in ascending member and lane order, and the 8 columns (R265, R267). -/
def MatOp.run (o : MatOp) : List (Nat × Nat) → Group → Half → Except (Nat × Nat × XaErr) (Group × Half)
  | [], g, fl => .ok (g, fl)
  | (p, j) :: ps, g, fl =>
    if has o.zeroed p then o.run ps (g.clearTile (g.accKey o.atb p j)) fl
    else match o.addOne g p j with
      | .error e => .error (p, j, e)
      | .ok (g, f) => o.run ps g (fl ||| f)

/-- An accumulator's name within its member, `64 * tile + 8 * row + column`, from its key. -/
def accName (k : Nat) : Nat := k / 512 * 64 + k % 64

/-- The whole operation on its group: all of it, or the fault that leaves everything as it was (R267). -/
def MatOp.perform (o : MatOp) (g : Group) : Except FaultInfo Group :=
  match o.kind with
  | .aclr n =>
    .ok ((g.members o.act).foldl (fun g e => (List.range n).foldl (fun g t =>
      (List.range 64).foldl (fun g i => g.clearTile (tileKey (o.atb + t) e (i / 8) (i % 8))) g) g) g)
  | _ =>
    match o.run ((positions g.n (o.act ||| o.zeroed)).flatMap (fun p => (List.range 8).map (fun j => (p, j)))) g 0 with
    | .error (p, j, e) => .error { xaFault g (accName (g.accKey o.atb p j)) p e with faddr := o.addr }
    | .ok (h, fl) => .ok (if fl = 0 then h else (g.members o.act).foldl (fun h e => h.raiseFlags e fl) h)

/-- Slice cycles of a K-step of an operation (R263, R269). -/
def MatOp.stepCycles (o : MatOp) (g : Group) : Nat :=
  match o.kind with
  | .aclr _ => 1
  | _ =>
    let fa := fboA o.fbo
    let macs := g.w / 4 * 8 * fboK o.fbo
    let c := if matFp fa then cdiv (macs * matLimbs fa * matLimbs (fboB o.fbo)) 512
      else if fa = 6 && fboB o.fbo = 6 then cdiv macs 1024 else cdiv macs 512
    (if c = 0 then 1 else c) / o.kSteps

/-- The K-steps that an operation has still to perform: those of its members with an active position (R263). -/
def MatOp.stepsLeft (o : MatOp) (g : Group) : Nat := (g.members o.act).length * o.kSteps - o.steps

/-- Slice cycles of what is left of an operation (R263, R269). -/
def MatOp.cycles (o : MatOp) (g : Group) : Nat := o.stepsLeft g * o.stepCycles g

/-- MATRIX_OPERATION (R255, R263): the slice takes the oldest operation of its queue. -/
def execMatrixOperation (p : Nat) (s : State) : Host.Outcome State Fault Refusal :=
  let k := s.part p
  match k.queue, k.busy with
  | o :: os, none =>
    let n := match s.group o.gid with | some g => o.cycles g | none => 0
    let start := max k.sliceAt (s.core (coreOf p)).cycles
    s.event (s.runs o.vf) (s.setPart p { k with queue := os, busy := some o, sliceAt := start + n })
  | _, _ => .fault .notDue

/-- The slice of a partition is done with its operation: the core has counted its cycles (R263). -/
def State.sliceDone (s : State) (p : Nat) : State :=
  let k := s.part p
  let s := (s.coreTo (coreOf p) k.sliceAt).setPart p { k with busy := none }
  match k.busy with
  | some o => match s.group o.gid with | some g => s.count o.vf (coreOf p) 0x0B (o.cycles g) | none => s
  | none => s

/-- The slice of a partition stops at the end of a K-step (R263, R347): the operation in progress keeps how many it has performed, the last
one apart, which makes it complete. -/
def State.stopSlice (s : State) (p : Nat) : State :=
  let k := s.part p
  match k.busy with
  | none => s
  | some o =>
    match s.group o.gid with
    | none => s
    | some g =>
      let now := (s.core (coreOf p)).cycles
      let ran := now - (k.sliceAt - o.cycles g)
      let n := min (cdiv ran (o.stepCycles g)) (o.stepsLeft g - 1)
      (s.setPart p { k with busy := some { o with steps := o.steps + n }, sliceAt := now }).count o.vf (coreOf p) 0x0B (n * o.stepCycles g)

/-- MATRIX_OPERATION_COMPLETE (R263, R267): the changes become visible, or XA-overflow leaves all as it was and raises the halt
line. The operation of a group that has ended changes nothing. -/
def execMatrixOperationComplete (p : Nat) (s : State) : Host.Outcome State Fault Refusal :=
  let k := s.part p
  match k.busy with
  | none => .fault .notDue
  | some o =>
    let due := s.runs o.vf && o.fault.isNone
    match s.group o.gid with
    | none => s.event due (s.sliceDone p)
    | some g =>
      match o.perform g with
      | .ok h => s.event due ((s.sliceDone p).setGroup h)
      | .error f => s.event due ((s.setPart p { k with busy := some { o with fault := some f } }).raiseHalt o.vf (some (.array p)) f)

/-- Does a group have a live tile: an accumulator that differs from the reset values, or a queued operation naming one
(R363)? -/
def State.liveTiles (s : State) (g : Group) : Bool := !g.tiles.isEmpty || (s.part g.part).ops.any (fun o => o.gid == g.gid)

/-- SLICE_HANG (R363): the slice is reset, its tiles lost; contexts with live tiles halt with accumulator-lost. -/
def execSliceHang (p : Nat) (s : State) : Host.Outcome State Fault Refusal :=
  let hit := (s.resident p).filter s.liveTiles
  let n := fget 0 s.manage.nerr (7 * 4096 + p) + 1
  let s1 := { s with manage := { s.manage with nerr := fset 0 s.manage.nerr (7 * 4096 + p) n } }
  let s2 := s1.postError 7 5 (dieOfCore (coreOf p)) (p % 1024) n 0 0 0 5
  let s3 := s2.setPart p { s2.part p with queue := [], busy := none }
  let f : FaultInfo := FaultInfo.with 0x40 (p % 4)
  let lose (s : State) (g : Group) : State :=
    let slots := g.tiles.foldl (fun sl e => freeXa sl e.2) g.slots
    let s := s.onGroup g.gid (fun h => { h with tiles := [], slots := slots, latch := none, fault := some (h.fault.getD f) })
    s.raiseHalt g.vf (some (.group g.gid)) f
  s.event (p < 4096) (hit.foldl lose s3)

/-! ### Readout (R270-R272) -/

/-- The B scales of the quarters with active positions, by `q * 8 + j`: their places, or nothing (R270). -/
def State.bScales (s : State) (x : Ix) (fbo : Dword) : Option (List (Nat × List Loc)) :=
  if dbit fbo 15 then
    let qs := ((positions x.g.n x.act).map x.g.quarter).eraseDups
    (qs.flatMap (fun q => (List.range 8).map (fun j => q * 8 + j))).mapM (fun i =>
      ((List.range 4).mapM (fun b => scrPlace (s.share x.g) (2 ^ 22 + dfield fbo 63 42) (4 * i + b))).map (fun l => (i, l)))
  else some []

/-- The value of an accumulator before rounding, times its column scale when there is one. -/
def Group.scaled (g : Group) (mode : Nat) (sc : Option Nat) (x : Xa) : RVal × Half :=
  let r := xaRVal g.slots mode x
  match sc with | some v => scaleRVal r v | none => (r, 0)

/-- Round to a target of R270: 0 f32, 1 f64, 2 bf16, 3 f16, 4 i32, 5 i64. -/
def roundTarget (t mode : Nat) (r : RVal) : Nat × Half :=
  match t with
  | 0 => roundRVal f32 mode r
  | 1 => roundRVal f64 mode r
  | 2 => roundRVal bf16 mode r
  | 3 => roundRVal f16 mode r
  | 4 => rvalToInt true 32 mode r
  | _ => rvalToInt true 64 mode r

/-- Add an FP32 bias exactly (R272): NaN order accumulator then bias; Inf minus Inf is invalid. -/
def addBias (mode : Nat) (r : RVal) (b : Nat) : RVal × Half :=
  let nv : Half := if isSNaN f32 b then fNV else 0
  match r, fval f32 b with
  | .dnan, _ => (.dnan, nv)
  | .nan32 v, _ => (.nan32 v, nv)
  | _, .nan _ _ => (.nan32 b, nv)
  | .inf s, .inf t => if s = t then (.inf s, 0) else (.dnan, fNV)
  | .inf s, _ => (.inf s, 0)
  | _, .inf t => (.inf t, 0)
  | .fin s m e, .fin t n k =>
    let lo := if e < k then e else k
    let i := signed' s m * 2 ^ (e - lo).toNat + signed' t n * 2 ^ (k - lo).toNat
    if i = 0 then (.fin (if m = 0 && n = 0 && s == t then s else mode == 4) 0 0, 0)
    else (.fin (decide (i < 0)) i.natAbs lo, 0)

/-- The 560-byte wire form of an accumulator (R81, R87). -/
def xlWire (slots : FMap LongRec) (x : Xa) : List Byte :=
  match x.long with
  | some k => bytesOf 8 552 ++ bytesOf 552 (longImage slots x k)
  | none =>
    let v := xaValue slots x
    bytesOf 8 552 ++ bytesOf 552 (longImage (finsert 0 ⟨longUnits v.1 v.2⟩ []) x 0)

/-- Registers an ARD writes at a position (R270). -/
def ardRegs (t : Nat) : Nat := match t with | 0 => 8 | 1 => 16 | 2 => 4 | 3 => 4 | 4 => 8 | 5 => 16 | _ => 48

/-- Pack the eight columns' values into registers. -/
def ardPack (t : Nat) (ys : List Nat) : List Word :=
  let y (j : Nat) : Nat := ys.getD j 0
  match t with
  | 1 => tab 16 (fun i => BitVec.ofNat 32 (y (i / 2) / 2 ^ (32 * (i % 2))))
  | 5 => tab 16 (fun i => BitVec.ofNat 32 (y (i / 2) / 2 ^ (32 * (i % 2))))
  | 2 => tab 4 (fun i => BitVec.ofNat 32 (y (2 * i) % 2 ^ 16 + 2 ^ 16 * y (2 * i + 1)))
  | 3 => tab 4 (fun i => BitVec.ofNat 32 (y (2 * i) % 2 ^ 16 + 2 ^ 16 * y (2 * i + 1)))
  | 6 => tab 48 (fun i => BitVec.ofNat 32 (y (i / 6) / 2 ^ (32 * (i % 6))))
  | _ => tab 8 (fun i => BitVec.ofNat 32 (y i))

/-- The flags of a readout: each member's own, and VSB in every executing member (R74). -/
def Ix.readFlags (x : Ix) (fl : Nat → Half) (g : Group) : Group :=
  let ps := positions x.g.n x.act
  let g := ps.foldl (fun g p => g.raiseFlags (g.member p) (fl p)) g
  if ps.any (fun p => fl p &&& fVSB != 0) then (x.g.members x.act).foldl (fun g e => g.raiseFlags e fVSB) g else g

/-- The B scales, by `q * 8 + j`, once they may be read (R270): alignment and range, a POLL in progress, lines held. -/
def State.readScales (s : State) (x : Ix) (fbo : Dword) : Except (FaultInfo ⊕ Wait) (List (Nat × Nat)) :=
  if dfield fbo 63 42 % 4 != 0 then .error (.inl { FaultInfo.of 0x02 with daddr := 2 ^ 22 + dfield fbo 63 42 })
  else match s.bScales x fbo with
    | none => .error (.inl (rowFault 1 (2 ^ 22 + dfield fbo 63 42)))
    | some sc =>
      match (if sc.isEmpty then none else x.g.pollWait) with
      | some w => .error (.inr w)
      | none => match s.operandWait x.g x.path.id (sc.flatMap (·.2)) with
        | some w => .error (.inr w)
        | none => .ok (sc.map (fun e => (e.1, s.locsNum e.2)))

/-- The scale of a column of a quarter, if there is one. -/
def scaleOf (sc : List (Nat × Nat)) (i : Nat) : Option Nat := (sc.find? (fun e => e.1 == i)).map (·.2)

/-- What ARD reads of accumulator (p, j): the short image, or the value, scaled and rounded once (R85, R270). -/
def Ix.ardOne (x : Ix) (atb t : Nat) (sc : List (Nat × Nat)) (p j : Nat) : Nat × Half :=
  let a := x.g.tile (x.g.accKey atb p j)
  if t = 6 then (xaImage a, 0)
  else
    let r := x.g.scaled x.mode (scaleOf sc (x.g.quarter p * 8 + j)) a
    let y := roundTarget t x.mode r.1
    (y.1, y.2 ||| r.2)

/-- The registers that ARD writes at a position, with their values. -/
def Ix.ardItems (x : Ix) (atb t d : Nat) (sc : List (Nat × Nat)) (p : Nat) : List FillItem :=
  ((ardPack t (tab 8 (fun j => (x.ardOne atb t sc p j).1))).zip (List.range (ardRegs t))).map (fun e => FillItem.v false (d + e.2) p e.1)

/-- The checks of ARD, then its destinations that are still empty. -/
def ardEarly (x : Ix) (atb k d t : Nat) : Option (FaultInfo ⊕ Wait) :=
  let acc : Accept := { mask := true, zero := true, rnd := true }
  if (t == 1 || t == 5) && d % 2 != 0 then some (.inl illegal)
  else if !acc.ok x.hasPre x.pre then some (.inl x.illegalPrefix)
  else if t = 7 || (t = 6 && dbit (x.g.kreg k) 15) then some (.inl illegalFormat)
  else if x.g.atiles < atb + setTiles x.g.w || x.g.vcur < d + ardRegs t then some (.inl (FaultInfo.of 0x13))
  else x.regNeed [] ((List.range (ardRegs t)).map (fun r => (d + r, x.act ||| x.off)))

/-- ARD (R270): after the group's earlier operations on its tiles; the destinations are filled when written. -/
def execArd (t : BitVec 4) (k : BitVec 6) (d : BitVec 7) (tg : BitVec 3) (s : State) : Host.Outcome State Fault Refusal :=
  s.word .never (fun s x =>
    s.need (ardEarly x t.toNat k.toNat d.toNat tg.toNat) (
      if !s.sliceRoom x.p then .wait s .slice
      else if !s.tilesFree x.g t.toNat (t.toNat + setTiles x.g.w) then .wait s (.tiles t.toNat (t.toNat + setTiles x.g.w))
      else match s.readScales x (x.g.kreg k.toNat) with
        | .error (.inl f) => .trap f
        | .error (.inr w) => .wait s w
        | .ok sc =>
          let fl (p : Nat) : Half := (List.range 8).foldl (fun f j => f ||| (x.ardOne t.toNat tg.toNat sc p j).2) 0
          let items := (positions x.g.n x.act).flatMap (x.ardItems t.toNat tg.toNat d.toNat sc)
          let s := s.onGroup x.g.gid (fun g =>
            let g := (List.range (ardRegs tg.toNat)).foldl (fun g r =>
              (g.writeV (d.toNat + r) (fun p => if has x.off p then some 0 else none)).markEmpty x.path.id false (d.toNat + r) x.act 0) g
            { x.readFlags fl g with latch := none })
          .done (if items.isEmpty then s else s.fill x.g.gid items) Cost.matrix))

/-- Bytes of an element of an ARDS target (R271). -/
def ardsSize (t : Nat) : Nat := match t with | 0 => 4 | 1 => 8 | 2 => 2 | 3 => 2 | 4 => 4 | 5 => 8 | 6 => 24 | _ => 560

/-- A store pair (R271). -/
structure StorePair where
  w0 : Dword
  w1 : Dword
  deriving DecidableEq, Repr

def Ix.storePair (x : Ix) (p : Nat) : StorePair := ⟨x.g.sreg p, x.g.sreg (p + 1)⟩
def StorePair.sp (z : StorePair) : Bool := dbit z.w0 63
def StorePair.tgt (z : StorePair) : Nat := dfield z.w1 63 60
def StorePair.bias (z : StorePair) : Bool := dbit z.w1 59
def StorePair.base (z : StorePair) : Nat := if z.sp then dfield z.w0 31 0 else dfield z.w0 51 0
/-- Where the row of a position goes, from ADDR. -/
def StorePair.at_ (z : StorePair) (g : Group) (q : Nat) : Nat := g.member q * dfield z.w1 55 32 + g.lane q * dfield z.w1 31 0
/-- Does a pair fail its format checks? -/
def StorePair.bad (z : StorePair) (fbo : Dword) : Bool :=
  dfield z.w0 62 52 != 0 || dfield z.w1 58 56 != 0 || (z.sp && dfield z.w0 51 32 != 0) || decide (8 ≤ z.tgt)
  || (decide (6 ≤ z.tgt) && (z.bias || dbit fbo 15))

/-- The checks of ARDS, with its empty registers (R271). -/
def State.ardsEarly (s : State) (x : Ix) (atb k p b : Nat) : Option (FaultInfo ⊕ Wait) :=
  let g := x.g
  let z := x.storePair p
  let acc : Accept := { mask := true, rnd := true, epa := true, epb := true }
  if p % 2 != 0 || decide (64 ≤ p) then some (.inl illegal)
  else if !acc.ok x.hasPre x.pre then some (.inl x.illegalPrefix)
  else match x.sNeed [(p, 0), (p + 1, 0)] with
    | some n => some n
    | none =>
      if z.bad (g.kreg k) then some (.inl illegalFormat)
      else if g.atiles < atb + setTiles g.w || (z.bias && decide (g.vcur < b + 8)) then some (.inl (FaultInfo.of 0x13))
      else match x.regNeed (if z.bias then (List.range 8).map (fun j => (b + j, 5, x.act)) else []) [] with
        | some n => some n
        | none =>
          let sz := ardsSize z.tgt
          let u := if 6 ≤ z.tgt then 8 else sz
          if z.base % u != 0 || dfield z.w1 55 32 % u != 0 || dfield z.w1 31 0 % u != 0
          then some (.inl { FaultInfo.of 0x02 with daddr := z.base })
          else if !z.sp then none
          else ((positions g.n x.act).find? (fun q =>
              ((List.range (8 * sz)).mapM (fun i => scrPlace (s.share g) z.base (z.at_ g q + i))).isNone)).map (fun q =>
            .inl { FaultInfo.of 0x03 with pos := some (g.lane q, g.member q), daddr := z.base })

/-- The bytes and flags of one element of a row (R272): the wire form, or the value scaled, biased, and rounded once. -/
def Ix.ardsOne (x : Ix) (atb p b : Nat) (sc : List (Nat × Nat)) (q j : Nat) : List Byte × Half :=
  let z := x.storePair p
  let a := x.g.tile (x.g.accKey atb q j)
  match z.tgt with
  | 6 => (bytesOf 24 (xaImage a), 0)
  | 7 => (xlWire x.g.slots a, 0)
  | _ =>
    let r := x.g.scaled x.mode (scaleOf sc (x.g.quarter q * 8 + j)) a
    let v := if z.bias then addBias x.mode r.1 (x.g.v1 (b + j) q).toNat else (r.1, 0)
    let y := roundTarget z.tgt x.mode v.1
    (bytesOf (ardsSize z.tgt) y.1, y.2 ||| v.2 ||| r.2)

/-- The rows of a readout entry: one for each active position. -/
def Ix.ardsRows (x : Ix) (atb p b : Nat) (sc : List (Nat × Nat)) : List RoRow :=
  let z := x.storePair p
  (positions x.g.n x.act).map (fun q =>
    { lane := x.g.lane q, member := x.g.member q, addr := z.base + z.at_ x.g q,
      bytes := (List.range 8).flatMap (fun j => (x.ardsOne atb p b sc q j).1) })

/-- ARDS (R271-R273): the results stand in a readout entry at once. The group stalls until its earlier accesses are performed (R133), and the
entry owns its destination lines from now on (R134, R135). -/
def execArds (t : BitVec 4) (k : BitVec 6) (p b : BitVec 7) (s : State) : Host.Outcome State Fault Refusal :=
  s.word .never (fun s x =>
    s.need (s.ardsEarly x t.toNat k.toNat p.toNat b.toNat) (
      if !s.sliceRoom x.p then .wait s .slice
      else if !s.tilesFree x.g t.toNat (t.toNat + setTiles x.g.w) then .wait s (.tiles t.toNat (t.toNat + setTiles x.g.w))
      else if !s.readoutRoom x.p then .wait s .readout
      else if s.outstanding x.g x.path.id || x.g.polling.isSome then .wait s (.order true)
      else match s.readScales x (x.g.kreg k.toNat) with
        | .error (.inl f) => .trap f
        | .error (.inr w) => .wait s w
        | .ok sc =>
          let rows := x.ardsRows t.toNat p.toNat b.toNat sc
          let fl (q : Nat) : Half := (List.range 8).foldl (fun f j => f ||| (x.ardsOne t.toNat p.toNat b.toNat sc q j).2) 0
          let e : Readout := { id := s.nextId, gid := x.g.gid, vf := x.g.vf, part := x.p, share := s.share x.g,
                               scratch := (x.storePair p.toNat).sp, target := (x.storePair p.toNat).tgt, rows := rows,
                               reqs := [], parked := none, pinned := none, first := false,
                               addr := x.addr, tag := x.g.tag, line := x.g.lineage x.path.id }
          let s := s.onGroup x.g.gid (fun g => { x.readFlags fl g with latch := none })
          .done (if rows.isEmpty then s else State.named { s.ownRows e with readouts := s.readouts ++ [e] }) Cost.matrix))

/-! ### The readout engine (R273, R274, R277) -/

/-- Replace a readout entry; release it when every row is written and acknowledged (R273). -/
def State.setReadout (s : State) (r : Readout) : State :=
  if r.rows.isEmpty && r.reqs.isEmpty then { s with readouts := s.readouts.filter (fun q => q.id != r.id) }
  else { s with readouts := updWhere (fun q => q.id == r.id) (fun _ => r) s.readouts }

/-- How the write of a row stands: its runs by line, or the address that does not stand (R109, R116, R358). -/
def State.rowRuns (s : State) (r : Readout) (w : RoRow) : Except (Nat × AccRes) (List (Nat × Loc × List Byte)) :=
  match (if w.abs then some w.addr else windowed (s.ctx r.vf) w.member w.addr) with
  | none => .error (w.addr, .fault 0x01 0)
  | some a =>
    (lineRuns (w.bytes.length / 128 + 2) a w.bytes.length).foldl (fun acc run =>
      match acc, run.src with
      | .ok l, .inl va => match s.access r.vf va true 1 with
        | .at_ k => .ok (l ++ [(va, k, (w.bytes.drop (va - a)).take run.len)])
        | e => .error (va, e)
      | acc, _ => acc) (.ok [])

/-- Write a run of a row to this device's memory. -/
def State.writeRun (s : State) (r : Readout) (e : Nat × Loc × List Byte) : State :=
  ((s.touch r.vf e.1 true e.2.1).writeLoc e.2.1 e.2.2 none r.vf).contribute r.vf e.1 e.2.2.length

/-- Does a run lie in a peer's memory? -/
def isPeerRun (e : Nat × Loc × List Byte) : Bool := match e.2.1 with | .peer _ _ => true | _ => false

/-- Write the runs of the first row of an entry, `ws` being the rows after it. The first run of a peer is requested (R317), and what follows
it in the row is left, as a row of its own, until its answer: rows are written in order (R277). -/
def State.writeRuns (s : State) (r : Readout) (w : RoRow) (ws : List RoRow) (runs : List (Nat × Loc × List Byte)) : State :=
  let here := runs.takeWhile (fun e => !isPeerRun e)
  let s := here.foldl (fun s e => s.writeRun r e) s
  match runs.drop here.length with
  | (va, .peer d pa, bs) :: more =>
    let line : FMap Byte := (List.range bs.length).foldl (fun m i => finsert (pa % 128 + i) (bs.getD i 0) m) []
    let q := (s.touch r.vf va true (.peer d pa)).departOverlap (coreOf r.part) d pa bs.length
    let left : List RoRow := match more with
      | [] => []
      | e :: _ => [{ w with addr := e.1, bytes := more.flatMap (·.2.2), abs := true }]
    let t := q.2.request r.vf d (carriageway pa) 2 0 (pa / 128 * 128) (linePayload line)
      (.row r.id { w with addr := va, bytes := bs, abs := true }) []
    t.setReadout { r with rows := left ++ ws, reqs := r.reqs ++ [q.2.nextId] }
  | _ => s.setReadout { r with rows := ws }

/-- READOUT_ENTRY_WRITE (R273, R274, R277): the entry's next row is written, the row before it done. A miss parks the entry alone; another
fault pins this row and every later one, with the halt line. Either names the address that failed, after the windows (R358). -/
def execReadoutEntryWrite (id : Nat) (s : State) : Host.Outcome State Fault Refusal :=
  match s.readouts.find? (fun r => r.id == id) with
  | none => .fault .notDue
  | some r =>
    match r.rows with
    | [] => .fault .notDue
    | w :: ws =>
      let due := s.drives r.vf && r.parked.isNone && r.pinned.isNone && r.reqs.isEmpty
      let pos := some (w.lane, w.member)
      if r.scratch then
        match scrTarget r.share w.addr with
        | none => .fault .notDue
        | some (b, o) =>
          let l : Loc := .scr b o
          s.event (due && s.shareReady b && !(s.rowDests r w).any (s.lineHeldBefore r.id)) ((s.writeLoc l w.bytes none r.vf).setReadout { r with rows := ws })
      else
        match s.rowRuns r w with
        | .ok runs =>
          s.event (due && !runs.any (fun e => s.lineHeldBefore r.id e.2.1 || s.storeHeld r.vf e.1 e.2.2.length)) (s.writeRuns r w ws runs)
        | .error (va, .miss d) =>
          let k := s.parkEntry r.vf (.readout id) (if d then 1 else 2) 7 pos false true va r.gid.toNat r.tag
          s.event due (k.2.setReadout { r with parked := some k.1 })
        | .error (va, .fault code cause) =>
          let f : FaultInfo := { FaultInfo.with code cause with pos := pos, faddr := r.addr, daddr := va }
          s.event due (((s.setReadout { r with pinned := some f }).reportPois r.vf r.gid.toNat f).raiseHalt r.vf (some (.readout r.part)) f)
        | .error (_, .at_ _) => .fault .notDue

/-! ### RQCVT (R275, R276) -/

/-- Is `2 ^ n * b` at least `m * 2 ^ x`? -/
def powCovers (b : Nat) (n : Int) (m : Nat) (x : Int) : Bool :=
  if x ≤ n then decide (m ≤ b * 2 ^ (n - x).toNat) else decide (m * 2 ^ (x - n).toNat ≤ b)

/-- The E8 scale code of a row of FP32 values (R276). -/
def rqScale (kind : Nat) (vs : List Nat) : Nat :=
  let amax := vs.foldl (fun (acc : Nat × Int) v =>
    match fval f32 v with
    | .fin _ m e => if m = 0 then acc else if acc.1 = 0 then (m, e) else
        if powCovers acc.1 acc.2 m e then acc else (m, e)
    | _ => acc) (0, 0)
  if amax.1 = 0 then 127
  else
    let b := rqMax kind
    let n0 : Int := amax.2 + bitLen amax.1 - bitLen b - 1
    let n := if powCovers b n0 amax.1 amax.2 then n0 else if powCovers b (n0 + 1) amax.1 amax.2 then n0 + 1 else n0 + 2
    let e := 127 + n
    if e < 0 then 0 else if 254 < e then 254 else e.toNat

/-- The packed codes and scale of a row of FP32 values, `n` bits a code, with the flags raised (R276). -/
def rqRow (kind mode : Nat) (row : List Nat) : Nat × Half :=
  let e := rqScale kind row
  let n := rqBits kind
  let cs := row.map (fun v => let c := rqCode kind mode e (fval f32 v); (c.1, c.2 ||| (if isSNaN f32 v then fNV else 0)))
  let big := (cs.zip (List.range row.length)).foldl (fun acc c => acc + c.1.1 * 2 ^ (n * c.2)) 0
  (big + e * 2 ^ (n * row.length), cs.foldl (fun fl c => fl ||| c.2) 0)

/-- What RQCVT reads and writes (R275). -/
def rqOp (d a : BitVec 7) (k : BitVec 2) (f : BitVec 3) : VOp :=
  let kk := 16 * 2 ^ k.toNat
  { acc := { mask := true, zero := true, rnd := true, epa := true }
    legal := decide (f.toNat ≤ 2) && decide (k.toNat ≤ 2)
    vs := (List.range kk).map (fun i => (⟨a.toNat + i, 4, false⟩ : VSrc))
    vd := (List.range (kk * rqBits f.toNat / 32 + 1)).map (d.toNat + ·)
    cost := { vec := true, hlp := false, wide := true, extra := 0, solo := true } }

/-- RQCVT: the codes of a row in registers from d up, then its scale. As one of the matrix instructions it finds room in the slice's queue
(R255). -/
def execRqcvt (d a : BitVec 7) (k : BitVec 2) (f : BitVec 3) (s : State) : Host.Outcome State Fault Refusal :=
  s.word .never (fun s x =>
    let kk := 16 * 2 ^ k.toNat
    if (x.vecFault (rqOp d a k f)).isNone && !s.sliceRoom x.p then .wait s .slice
    else s.vecWord x (rqOp d a k f) (fun s y vals =>
      let res (p : Nat) : Nat × Half := rqRow f.toNat y.mode (tab kk (fun i => vals.at' i p))
      .ok (s.onGroup y.g.gid (fun g =>
        let g := (List.range (kk * rqBits f.toNat / 32 + 1)).foldl (fun g i => y.writeResult false false (d.toNat + i)
          (fun p => let r := res p; (r.1 / 2 ^ (32 * i) % 2 ^ 32, r.2)) g) g
        { g with latch := none }))))

end Sys2Proof.Machine
end

