-- ==== Sys2Proof/Machine/RegSys.lean ====
section
/-! DEFINITION. REG and SYS (19 R299-R302, 20 R304, R305, 03 R35): claims of registers, software traps, counters, events. -/
namespace Sys2Proof.Machine

/-! ### Claims (R35, R299) -/

/-- The registers from `r` up are gone, values and shadows. -/
def Group.dropRegs (g : Group) (r : Nat) : Group :=
  let keep {α : Type} (m : FMap α) : FMap α := m.filter (fun e => decide (e.1 < r))
  { g with vcur := r, v := keep g.v, vEmpty := keep g.vEmpty, sh := keep g.sh, shEmpty := keep g.shEmpty, shLive := keep g.shLive }

/-- REGREL (R299): waits until what it releases is full, then the rows return at once. -/
def execRegrel (n : BitVec 8) (s : State) : Host.Outcome State Fault Refusal :=
  s.word .never (fun s x =>
    s.scalarWord x { acc := {}, legal := n != 0, ss := [], sd := [] } (fun s x =>
      if x.g.vcur < n.toNat + 8 then .trap (FaultInfo.of 0x13)
      else
        let top := (List.range n.toNat).map (x.g.vcur - n.toNat + ·)
        let v := (top.map (fun r => (r, fget 0 x.g.vEmpty r))).filter (fun e => e.2 != 0)
        let sh := (top.map (fun r => (r, fget 0 x.g.shEmpty r &&& fget 0 x.g.shLive r))).filter (fun e => e.2 != 0)
        if !v.isEmpty || !sh.isEmpty then .wait s (.regs v sh 0)
        else .done ((s.onGroup x.g.gid (fun g => g.dropRegs (g.vcur - n.toNat))).released x.p) Cost.alone))

/-- REGCLM (R35, R299, R304): granted at issue when no claim is parked and the pool can meet it; else the group parks. -/
def execRegclm (n : BitVec 8) (s : State) : Host.Outcome State Fault Refusal :=
  s.word .never (fun s x =>
    s.scalarWord x { acc := {}, legal := n != 0, ss := [], sd := [] } (fun s x =>
      let k := s.part x.p
      if 128 < x.g.vcur + n.toNat then .trap (FaultInfo.of 0x13)
      else if k.claims.isEmpty && s.poolMeets x.g n.toNat then .done (s.onGroup x.g.gid (fun g => g.grant n.toNat)) Cost.alone
      else
        let s := (s.setPart x.p { k with claims := k.claims ++ [(x.g.gid, x.path.id, n.toNat)] }).count x.g.vf (coreOf x.p) 0x0F 1
        let go : Nat × Nat × Bool := if x.cl.words.length ≤ x.next then (x.cl.after, 0, x.cl.hdr.ms) else (x.cl.base, x.next, false)
        let s := s.onGroup x.g.gid (fun g => { g with park := .regclm n.toNat x.path.id go.1 go.2.1 go.2.2 })
        .parked (s.released x.p)))

/-! ### SYS (R301, R302) -/

/-- trap, brk and halt: the fault with its code; the group is to go on at the clause after. -/
def State.sysFault (s : State) (code cause : Nat) : Host.Outcome State Fault Refusal :=
  s.word .never (fun s x =>
    s.scalarWord x { acc := {}, legal := true, ss := [], sd := [] } (fun s x =>
      .parked ((s.onGroup x.g.gid (fun g => g.onPath x.path.id (fun t => { t.goto x.cl.after with fresh := x.cl.hdr.ms }))).takeFault
        x.g.gid { FaultInfo.with code cause with faddr := x.addr })))

/-- SYS trap. -/
def execSysTrap (i : BitVec 8) (s : State) : Host.Outcome State Fault Refusal := s.sysFault 0x30 i.toNat

/-- SYS brk. -/
def execSysBrk (i : BitVec 8) (s : State) : Host.Outcome State Fault Refusal := s.sysFault 0x31 i.toNat

/-- SYS halt. -/
def execSysHalt (s : State) : Host.Outcome State Fault Refusal := s.sysFault 0x32 0

/-- A SYS word that writes s(D). -/
def State.sysRead (s : State) (d : BitVec 6) (f : State → Ix → Dword) : Host.Outcome State Fault Refusal :=
  s.word .never (fun s x =>
    s.scalarWord x { acc := {}, legal := true, ss := [], sd := [d.toNat] } (fun s x =>
      .done (s.onGroup x.g.gid (fun g => g.setS d.toNat (f s x))) Cost.alone))

/-- SYS pmrd: the core's counter, or zero when counters are not enabled for the function. -/
def execSysPmrd (d : BitVec 6) (c : BitVec 2) (s : State) : Host.Outcome State Fault Refusal :=
  s.sysRead d (fun s x =>
    if dbit s.manage.pmctl 63 && dfield s.manage.pmctl 53 48 == x.g.vf then fget 0 (s.core (coreOf x.p)).pm c.toNat else 0)

/-- SYS cyc: the core's cycle counter at the word's issue (R19). -/
def execSysCyc (d : BitVec 6) (s : State) : Host.Outcome State Fault Refusal := s.sysRead d (fun s x => dw (s.issueCycle x.p))

/-- SYS evsig (R289): the entry is written after the group's earlier accesses, without a wait of the group. -/
def execSysEvsig (a : BitVec 6) (i : BitVec 8) (s : State) : Host.Outcome State Fault Refusal :=
  s.word .never (fun s x =>
    s.scalarWord x { acc := Accept.scalar true false, legal := true, ss := [(a.toNat, 0)], sd := [] } (fun s x =>
      let v := x.g.sreg a.toNat
      .done (if s.outstanding x.g x.path.id then
          s.postUpdate x.g.vf (.glob x.g.vf 0) (toSigned 64 v.toNat) (.evsig x.g.gid i.toNat) x.g.tag (s.earlierIds x.g x.path.id)
        else s.postEvent x.g.vf 0 i.toNat 0 v.toNat) Cost.alone))

end Sys2Proof.Machine
end

