-- ==== Sys2Proof/Machine/Packets.lean ====
section
/-! DEFINITION. Packets received and answered (21 R309-R316, R319): taking a packet from its port's buffer, sequence numbers,
the response log, import windows, status packets. -/
namespace Sys2Proof.Machine

/-! ### Receive buffers (R312) -/

/-- The pause threshold of a port (R312). -/
def Port.threshold (k : Port) : Nat := 256 - cdiv (k.rtt * k.inn) 4 - 8

/-- Flits leave a channel's receive buffer; at 64 the port sends resume (R312). -/
def Port.release (k : Port) (vc n : Nat) : Port :=
  let o := fget 0 k.occ vc - n
  { k with occ := fset 0 k.occ vc o,
           pausedRx := if o ≤ 64 then k.pausedRx &&& ~~~(BitVec.ofNat 4 (2 ^ vc)) else k.pausedRx }

/-- Take a received packet: the first of its source, carriageway and channel (R314). -/
def State.takeArrived (s : State) (p : Packet) : Option State :=
  let same (q : Packet) : Bool := pktSrc q == pktSrc p && pktCw q == pktCw p && pktVc q == pktVc p
  match s.arrived.find? (fun e => same e.2) with
  | none => none
  | some e =>
    if e.2 = p then
      let s : State := { s with arrived := s.arrived.erase e }
      some (if pktSrc p = s.dev then s else s.setPort e.1 ((s.port e.1).release (pktVc p) (pktFlits p)))
    else none

/-- A packet of the given kind is taken and handled; no step when it is not there. -/
def State.onPacket (s : State) (p : Packet) (kind : Nat) (f : State → State) : Host.Outcome State Fault Refusal :=
  match s.takeArrived p with
  | none => .fault .notDue
  | some t => s.event (pktKind p == kind && pktVc p == vcOf kind) (f t)

/-- As `onPacket`, while `ready` holds. -/
def State.onPacketIf (s : State) (p : Packet) (kind : Nat) (ready : Bool) (f : State → State) : Host.Outcome State Fault Refusal :=
  if ready then s.onPacket p kind f else .fault .notDue

/-! ### Answers (R310, R315) -/

/-- Send an answer to a request's packet. -/
def State.respond (s : State) (dst cw pseq kind : Nat) (payload : List Byte) : State :=
  s.sendPacket (mkPacket dst s.dev kind cw pseq 0 0 0 payload)
def State.answer (s : State) (p : Packet) (kind : Nat) (payload : List Byte) : State :=
  s.respond (pktSrc p) (pktCw p) (pktPseq p) kind payload

/-- The bytes of a status packet: a cause, the task-record cause, the faulting address (R310). -/
def statusBytes (cause sub addr : Nat) : List Byte :=
  BitVec.ofNat 8 cause :: BitVec.ofNat 8 sub :: List.replicate 6 0 ++ bytesOf 8 addr

/-- Is a request new, in sequence (R315)? The highest PSEQ accepted is kept plus 1, 0 for none. -/
def State.isNew (s : State) (p : Packet) : Bool :=
  let a := fget 0 s.accepted (pairKey (pktSrc p) (pktCw p))
  a == 0 || follows (pktPseq p) (a - 1)

/-- Bytes of the response log in use (log entry 17). -/
def logBytes (l : List LogEntry) : Nat := (l.map (fun e => 16 + e.pkt.payload.length)).sum

/-- Is there room for a response? -/
def State.logRoom (s : State) (p : Packet) : Bool := decide (logBytes (s.rlog.filter (fun e => e.area == s.rlogBase)) + 16 + p.payload.length ≤ s.rlogSize.toNat)

/-- Keep and send an atomic response, or withhold it while the log is full (R315). -/
def State.logResponse (s : State) (e : LogEntry) : State :=
  if s.logRoom e.pkt then ({ s with rlog := s.rlog ++ [{ e with area := s.rlogBase }] } : State).sendPacket e.pkt else { s with withheld := s.withheld ++ [e] }

/-- Withheld responses that now find room are kept and sent, in order. -/
def State.flushWithheld (s : State) : State :=
  let l := s.withheld
  l.foldl (fun s e => s.logResponse e) { s with withheld := [] }

/-- A request has arrived: its PSEQ is accepted, and its ASEQ frees the responses it passes (R315). -/
def State.acceptSeq (s : State) (p : Packet) : State :=
  let mine (e : LogEntry) : Bool := e.src == pktSrc p && e.cw == pktCw p && !follows e.pseq (pktAseq p)
  let s : State := { s with rlog := s.rlog.filter (fun e => !mine e),
                            accepted := fset 0 s.accepted (pairKey (pktSrc p) (pktCw p)) (pktPseq p + 1) }
  s.flushWithheld

/-! ### Import windows (R316) -/

/-- Fields of window `i`. -/
def State.iwLo (s : State) (i : Nat) : Dword := fget 0 s.iwin (2 * i)
def State.iwHi (s : State) (i : Nat) : Dword := fget 0 s.iwin (2 * i + 1)

/-- The enabled window that holds a physical address. -/
def State.importWindow (s : State) (pa : Nat) : Option Dword :=
  ((List.range 16).find? (fun i => dbit (s.iwLo i) 63 && decide (dfield (s.iwLo i) 47 12 * 4096 ≤ pa)
    && decide (pa < dfield (s.iwHi i) 47 12 * 4096))).map s.iwLo

/-- Does a 4 KiB frame that `n` bytes at a physical address touch hold a poisoned line (R316), or one of those bytes a lost one? -/
def State.framePoisoned (s : State) (pa n : Nat) : Bool :=
  s.poisoned.any (fun l => !l.1 && decide (pa / 4096 ≤ l.2 / 32) && decide (l.2 / 32 ≤ (pa + n - 1) / 4096))
  || (linesOf pa n).any (fun l => s.lost.contains (false, l))

/-- The status cause of an access of `n` bytes at a physical address, or none (R316): 11 not-present, 10 remote demand-paged,
7 protection, 6 data-lost. -/
def State.importFault (s : State) (pa n : Nat) (write : Bool) : Option Nat :=
  match s.importWindow pa with
  | none => some 11
  | some w =>
    if (s.importWindow (pa + n - 1)).isNone || !s.inHbm pa n then some 11
    else if dbit w 60 then some 10
    else if !(if write then dbit w 61 else dbit w 62) then some 7
    else if s.framePoisoned pa n then some 6
    else none

/-- The function that owns the window of an address (R316, R318). -/
def State.importVf (s : State) (pa : Nat) : Nat := match s.importWindow pa with | some w => dfield w 59 54 | none => 0

/-! ### Requests answered -/

/-- The open request that a response answers. -/
def State.requestOf (s : State) (p : Packet) : Option FabReq :=
  s.reqs.find? (fun r => r.dev == pktSrc p && r.cw == pktCw p && r.pseq == pktPseq p)

end Sys2Proof.Machine
end

