-- ==== Sys2Proof/Machine/Route.lean ====
section
/-! DEFINITION. The route engine (21 R320-R329, R396, 22 R331, R332): RTSEND and RTRECV, tokens at their sender, tokens landing
at their receiver, the drop log. -/
namespace Sys2Proof.Machine

/-! ### RTSEND (R322) -/

def EngReq.rMemb (r : EngReq) : Nat := dfield r.r0 63 61
def EngReq.rRow (r : EngReq) : Nat := dfield r.r0 51 0
def EngReq.rAltv (r : EngReq) : Bool := dbit r.r2 63
def EngReq.rTokid (r : EngReq) : Nat := dfield r.r3 63 32
def EngReq.rLen (r : EngReq) : Nat := 16 * dfield r.r3 11 0
/-- Device and expert of a choice. -/
def EngReq.rDev (r : EngReq) (choice : Nat) : Nat := if choice = 1 then dfield r.r1 23 16 else dfield r.r2 23 16
def EngReq.rExp (r : EngReq) (choice : Nat) : Nat := if choice = 1 then dfield r.r1 9 0 else dfield r.r2 9 0

/-- The fault of a route request at issue. -/
def routeFault (e : Nat) (r : EngReq) : Option FaultInfo :=
  let len := dfield r.r3 11 0
  if dfield r.r0 60 52 != 0 || dfield r.r1 63 24 != 0 || dfield r.r1 15 10 != 0 || dfield r.r2 62 24 != 0 || dfield r.r2 15 10 != 0
    || (!r.rAltv && r.r2 != 0) || dfield r.r3 31 12 != 0 || len == 0 || decide (2048 < len) || decide (e ≤ r.rMemb) then some malformed
  else if r.rRow % 16 ≠ 0 then some (FaultInfo.of 0x02) else none

/-- The checks of a route request. -/
def routeCheck (_ : State) (x : Ix) (q : EngReq) : Option FaultInfo := routeFault x.g.e q

/-- RTSEND: the request stays in the copy request slot until the route engine has a place (R323). -/
def execRtsend (t r : BitVec 6) (s : State) : Host.Outcome State Fault Refusal :=
  s.engWord t r none 0x6D 0 4 routeCheck

/-! ### Send lists (R323, R332) -/

/-- The die of a token. -/
def Token.die (t : Token) : Nat := dieOfCore t.core

/-- A token; replace it; remove it. -/
def State.token (s : State) (id : Nat) : Option Token := s.tokens.find? (fun t => t.id == id)
def State.setToken (s : State) (t : Token) : State := { s with tokens := updWhere (fun u => u.id == t.id) (fun _ => t) s.tokens }
def State.dropToken (s : State) (id : Nat) : State := { s with tokens := s.tokens.filter (fun u => u.id != id) }

/-- The token joins, as the youngest, the send list of its choice's device, and takes the list's next number (R324, R332). -/
def State.joinList (s : State) (t : Token) : State :=
  let d := s.die t.die
  let dev := t.req.rDev t.choice
  let n := fget 0 d.lists dev
  let s := s.setDie t.die { d with lists := fset 0 d.lists dev ((n + 1) % 512) }
  { s with tokens := s.tokens.filter (fun u => u.id != t.id) ++ [{ t with lslot := n, sent := false }] }

/-- Fill a token's ticket and let it go. -/
def State.settle (s : State) (t : Token) (stat cause bytes : Nat) : State :=
  (s.fillTicket t.gid t.req.tkt (ticketWord stat cause 0 bytes)).dropToken t.id

/-- What reading a token's row gives (R243, R323). -/
inductive RowRes where
  | ok (bs : List Byte)
  | fault (code cause addr : Nat)
  | miss (demand : Bool) (addr : Nat)
  | wait
  | ask (dev pa va len : Nat)

/-- The bytes of a token's row, run by run. -/
def State.rowOf (s : State) (t : Token) : List SrcRun → List Byte → RowRes
  | [], acc => .ok acc
  | r :: rs, acc =>
    match r.src with
    | .inr _ => .wait
    | .inl a =>
      match s.memberAccess t.vf t.req.rMemb a false 1 with
      | (va, .fault code cause) => .fault code cause va
      | (va, .miss d) => .miss d va
      | (va, .at_ (.peer d pa)) =>
        if (List.range r.len).all (fun i => t.inbuf.any (fun e => e.1 == va + i)) then
          s.rowOf t rs (acc ++ tab r.len (fun i => fget 0 t.inbuf (va + i)))
        else .ask d pa va r.len
      | (_, .at_ l) => if s.lineHeld l then .wait else s.rowOf t rs (acc ++ bytesOf r.len (s.readLoc l r.len))

/-- The pages of a token's row that were read (R104). -/
def State.touchRow (s : State) (t : Token) (rs : List SrcRun) : State :=
  rs.foldl (fun s r => match r.src with
    | .inr _ => s
    | .inl a => match s.memberAccess t.vf t.req.rMemb a false 1 with
      | (va, .at_ l) => s.touch t.vf va false l
      | _ => s) s

/-- The runs of a token's row. -/
def Token.runs (t : Token) : List SrcRun := lineRuns (t.req.rLen / 128 + 2) t.req.rRow t.req.rLen

/-- The route header of a token (R324). -/
def State.routeHeader (s : State) (t : Token) : List Dword :=
  [dw (at' (t.req.rDev t.choice) 56 + at' s.dev 48 + at' t.die 46 + at' t.choice 44 + at' (t.req.rExp t.choice) 34 + dfield t.req.r3 11 0),
   dw (at' (dfield (s.ctx t.vf).rxtab 63 56) 56 + t.req.rTokid),
   dw (at' (dfield t.req.r2 23 0) 24 + t.lslot), 0]

/-- Send a token's first packet: the header and up to 224 bytes (R323). -/
def State.sendFirst (s : State) (t : Token) (bs : List Byte) : State :=
  let exp := t.req.rExp t.choice
  let s := s.setToken { t with bytes := some bs, inbuf := [], sent := true }
  s.request t.vf (t.req.rDev t.choice) (exp % 16) 8 0 0 ((s.routeHeader t).flatMap (fun w => bytesOf 8 w.toNat) ++ bs.take 224)
    (.token t.id true) []

/-- Start a token: its row is read, and its first packet leaves; a fault stops it with STAT 2 and the halt line, a miss parks it
alone (R243). -/
def State.startToken (s : State) (t : Token) : State :=
  match t.bytes with
  | some bs => s.sendFirst t bs
  | none =>
    match s.rowOf t t.runs [] with
    | .ok bs => (s.touchRow t t.runs).sendFirst t bs
    | .wait => s
    | .miss d a =>
      let r := s.parkEntry t.vf (.token t.id) (if d then 1 else 2) 5 none false false a t.gid.toNat t.tag
      r.2.setToken { t with parked := some r.1 }
    | .fault code cause a =>
      let f : FaultInfo := { FaultInfo.with code cause with faddr := t.req.addr, daddr := a }
      ((s.settle t 2 code 0).reportPois t.vf t.gid.toNat f).raiseHalt t.vf (some (.route t.die)) f
    | .ask dev pa va len =>
      let lo := pa / 4
      let hi := (pa + len - 1) / 4
      let q := s.departOverlap t.core dev pa len
      let s := q.2.setToken { t with reading := some q.2.nextId }
      s.request t.vf dev (carriageway pa) 0 (hi - lo) (4 * lo) [] (.tokenRead t.id (va - pa % 4)) q.1

/-! ### Drops (R327) -/

/-- The page, the fields and the entry of a drop. -/
def Token.dropEntry (t : Token) : List Byte :=
  let r3 := dw (t.req.r3.toNat % 2 ^ 16 + at' (dfield t.req.r3 63 32) 32 + at' (t.causes.getD 0 0) 16 + at' (t.causes.getD 1 0) 24)
  [t.req.r0, t.req.r1, t.req.r2, r3].flatMap (fun w => bytesOf 8 w.toNat)

/-- Where a token's drop writes next: the count, then the entry of the count that it found. -/
def State.dropAt (s : State) (t : Token) : Nat :=
  let base := dfield (s.ctx t.vf).dlbase 51 0
  match t.dropCount with | none => base | some n => base + 64 + 32 * n

/-- A token's drop cannot write: a miss parks it, another fault raises the halt line of the sending context, which retries the drop once it
has resumed. -/
def State.dropStops (s : State) (t : Token) (r : AccRes) : State :=
  let a := s.dropAt t
  match r with
  | .miss d =>
    let q := s.parkEntry t.vf (.token t.id) (if d then 1 else 2) 5 none false true a t.gid.toNat t.tag
    q.2.setToken { t with dropping := true, parked := some q.1 }
  | .fault code cause =>
    let f : FaultInfo := { FaultInfo.with code cause with faddr := t.req.addr, daddr := a }
    ((s.setToken { t with dropping := true }).reportPois t.vf t.gid.toNat f).raiseHalt t.vf (some (.route t.die)) f
  | .at_ _ => s

/-- May an engine write of a drop be performed (R107, R134)? -/
def State.dropFree (s : State) (t : Token) (l : Loc) (n : Nat) : Bool := !s.lineHeld l && !s.storeHeld t.vf (s.dropAt t) n

/-- A drop whose count is known: its entry, and then the ticket. A peer's memory takes one masked write (R317). -/
def State.dropRest (s : State) (t : Token) : State :=
  let a := s.dropAt t
  if (t.dropCount.getD 0) < dfield (s.ctx t.vf).dlcap 15 0 then
    match s.access t.vf a true 8 with
    | .at_ (.peer dev pa) =>
      let line : FMap Byte := t.dropEntry.zipIdx.map (fun e => (pa % 128 + e.2, e.1))
      let q := (s.touch t.vf a true (.peer dev pa)).departOverlap t.core dev pa 32
      (q.2.setToken { t with dropping := true, reading := some q.2.nextId }).request t.vf dev (carriageway pa) 2 0 (pa / 128 * 128)
        (linePayload line) (.tokenDrop t.id) []
    | .at_ l =>
      if s.dropFree t l 32 then ((s.touch t.vf a true l).writeLoc l t.dropEntry none t.vf).settle t 0 0 0
      else s.setToken { t with dropping := true }
    | e => s.dropStops t e
  else s.settle t 0 0 0

/-- Complete a token's drop: the count rises by 1, atomically; then the entry, and the ticket. A count in a peer's memory is an addition sent
there (R318), whose answer is the count before it. A page of the entry that is not there keeps the count as it was. -/
def State.dropLog (s : State) (t : Token) : State :=
  let a := s.dropAt t
  match t.dropCount with
  | some _ => s.dropRest t
  | none =>
    match s.access t.vf a true 8 with
    | .at_ (.peer dev pa) =>
      let q := (s.touch t.vf a true (.peer dev pa)).departOverlap t.core dev pa 8
      (q.2.setToken { t with dropping := true, reading := some q.2.nextId }).request t.vf dev (carriageway pa) 4 0 0
        (bytesOf 8 (mkE0 1 3 t.gid pa).toNat ++ bytesOf 8 1) (.tokenDrop t.id) []
    | .at_ l =>
      if s.dropFree t l 8 then
        let n := s.readLoc l 8
        let u : Token := { t with dropping := true, dropCount := some n }
        ((s.touch t.vf a true l).writeNum l 8 (n + 1) none t.vf).dropRest u
      else s.setToken { t with dropping := true }
    | e => s.dropStops t e

/-- Is a drop to go on: neither parked nor on its way to a peer, its function running or stopping (R329)? -/
def State.mayDrop (s : State) (t : Token) : Bool := s.drives t.vf && t.dropping && t.parked.isNone && t.reading.isNone

/-- Can a drop not go on until the context has resumed: it parked, or its page does not stand (R327)? -/
def State.dropStuck (s : State) (t : Token) : Bool :=
  t.parked.isSome || (match s.access t.vf (s.dropAt t) true 8 with | .at_ _ => false | _ => true)

/-! ### Tokens that start (R323) -/

/-- Does a token go on: its function runs, or its first packet has left once already, so that it is settled (R329)? -/
def State.tokenRuns (s : State) (t : Token) : Bool := s.runs t.vf || t.choice == 2

/-- May a token start, no token before it in its list having still to start (R323)? One that parked, alone, keeps back only those of its
carriageway (R117, R314); one whose context stops keeps back none. -/
def State.mayStart (s : State) (t : Token) : Bool :=
  s.tokenRuns t && !t.sent && t.parked.isNone && t.reading.isNone && !t.dropping
  && !((s.tokens.takeWhile (fun u => u.id != t.id)).any (fun u =>
    !u.sent && !u.dropping && s.tokenRuns u && u.die == t.die && u.req.rDev u.choice == t.req.rDev t.choice
      && (u.parked.isNone || u.req.rExp u.choice % 16 == t.req.rExp t.choice % 16)))

/-- Start the tokens that may start, in list order, and go on with drops that may go on. -/
def State.pumpTokens (s : State) : State :=
  s.tokens.foldl (fun s u => match s.token u.id with
    | some t => if s.mayStart t then s.startToken t else if s.mayDrop t then s.dropLog t else s
    | none => s) s

/-- Would the engine of a die do something more for a token: one whose row, or whose drop, waited for a line (R134)? -/
def State.tokenDue (s : State) (t : Token) : Bool :=
  (s.mayStart t && (match t.bytes, s.rowOf t t.runs [] with | none, .wait => false | _, _ => true))
  || (s.mayDrop t && (match s.access t.vf (s.dropAt t) true 8 with | .at_ l => s.dropFree t l 32 | _ => true))

/-- ROUTE_TOKEN_ACCEPT (R323): the engine of a die takes the next RTSEND request of a group, among groups in turn (R241), while it holds fewer
than 256 tokens, or goes on with the tokens that waited. -/
def execRouteTokenAccept (die : Nat) (s : State) : Host.Outcome State Fault Refusal :=
  let mine := s.tokens.filter (fun u => u.die == die)
  match s.xfers.find? (fun t => t.req.opcode == 0x6D && t.st == .queued && dieOfCore t.core == die && s.runs t.vf && s.myTurn t
      && decide (mine.length < 256)) with
  | none => s.event (mine.any s.tokenDue) s.pumpTokens
  | some x =>
    let t : Token := { id := x.id, vf := x.vf, gid := x.gid, core := x.core, req := x.req, choice := 1, lslot := 0, bytes := none,
                       inbuf := [], reading := none, sent := false, left := [], causes := [], dropping := false, parked := none,
                       tag := x.tag }
    s.event true (((s.serve x).dropXfer x.id).joinList t).pumpTokens

/-- The count of a peer's drop log has come. -/
def State.dropCounted (s : State) (id n : Nat) : State :=
  match s.token id with
  | some t => match t.dropCount with
    | none => (s.dropRest { t with reading := none, dropCount := some n }).pumpTokens
    | some _ => s
  | none => s

/-- The entry in a peer's drop log is written. -/
def State.dropWritten (s : State) (id : Nat) : State :=
  match s.token id with | some t => (s.settle t 0 0 0).pumpTokens | none => s

/-- A choice is refused: the second one joins its list, or the token is dropped (R323, R332). -/
def State.refuseToken (s : State) (t : Token) (cause : Nat) : State :=
  let t := { t with causes := t.causes ++ [cause], left := [] }
  if t.choice = 1 && t.req.rAltv then (s.joinList { t with choice := 2 }).pumpTokens
  else ((s.setToken t).dropLog t).pumpTokens

/-- The later packets of an accepted token (R323): 256 bytes at most in each, in order on its carriageway. -/
def State.sendRest (s : State) (t : Token) (bs : List Byte) : State :=
  let rest := bs.drop 224
  let cw := t.req.rExp t.choice % 16
  let n := cdiv rest.length 256
  let ids := tab n (s.nextId + ·)
  (List.range n).foldl (fun s i =>
    s.request t.vf (t.req.rDev t.choice) cw 8 0 0 ((rest.drop (256 * i)).take 256) (.token t.id false) []) (s.setToken { t with left := ids })

/-- ROUTE_REPLY (R323): settles the token, tries its second choice, or drops it. A refusal may also come in place of the acknowledgement of the
token's last packet (R396, log entry 103). -/
def execRouteReply (p : Packet) (s : State) : Host.Outcome State Fault Refusal :=
  s.onPacket p 9 (fun s =>
    match s.requestOf p with
    | none => s
    | some r =>
      match r.body with
      | .token id true =>
        let s := s.answered r.id
        match s.token id with
        | none => s
        | some t =>
          let w := numOf (p.payload.take 8)
          if w % 2 = 1 then
            let bs := t.bytes.getD []
            if bs.length ≤ 224 then s.settle t 0 0 t.req.rLen else s.sendRest t bs
          else s.refuseToken t (field w 15 8)
      | .token id false =>
        let s := s.answered r.id
        match s.token id with
        | some t => if t.left.contains r.id then s.refuseToken t (field (numOf (p.payload.take 8)) 15 8) else s
        | none => s
      | _ => s)

/-- A later packet of a token is acknowledged (R323). -/
def State.tokenAcked (s : State) (id req : Nat) : State :=
  match s.token id with
  | none => s
  | some t =>
    if t.left.contains req then
      let t := { t with left := t.left.filter (fun i => i != req) }
      if t.left.isEmpty then s.settle t 0 0 t.req.rLen else s.setToken t
    else s

/-! ### The receive table (R321, R325, R396) -/

/-- The function whose context holds a route domain. -/
def State.domainVf (s : State) (rdom : Nat) : Option Nat :=
  if rdom = 0 then none else (s.ctxs.find? (fun e => dfield e.2.rxtab 63 56 == rdom)).map (·.1)

/-- The route engine of a receiving context stops it on a fault (R396): one that is switched out takes it when it resumes. -/
def State.routeHalt (s : State) (vf : Nat) (f : FaultInfo) : State :=
  let s := s.reportPois vf 0 f
  let c := s.ctx vf
  match c.st with
  | .switched => s.setCtx vf { c with lateFault := some (c.lateFault.getD f) }
  | _ => s.raiseHalt vf (some (.route 0)) f

/-- A refusal of a first packet, by its cause; the answer. -/
def State.refuseFirst (s : State) (p : Packet) (cause : Nat) : State := s.answer p 9 (bytesOf 8 (at' cause 8))

/-- Decide a first packet at its entry (R325). -/
def State.decideToken (s : State) (p : Packet) : State :=
  let h (i : Nat) : Dword := dw (numOf ((p.payload.drop (8 * i)).take 8))
  let len := 16 * dfield (h 0) 11 0
  let exp := dfield (h 0) 43 34
  match s.domainVf (dfield (h 1) 63 56) with
  | none => s.refuseFirst p 2
  | some vf =>
    if dfield (s.ctx vf).rxtab 51 0 = 0 then s.refuseFirst p 2
    else
      let va := s.rtEntry vf exp
      match s.accessBoth vf va 32 with
      | .miss _ => s.refuseFirst p 2
      | .fault code cause => (s.refuseFirst p 2).routeHalt vf { FaultInfo.with code cause with daddr := va }
      | .at_ (.peer _ _) => s.refuseFirst p 2
      | .at_ l =>
        let x0 := dw (s.readLoc l 8)
        let x1 := dw (s.readLoc (l.add 8) 8)
        let cap := dfield x1 63 48
        let sl := 16 * dfield x1 43 32
        let fill := dfield x1 31 0
        if !dbit x0 63 then s.refuseFirst p 2
        else if sl < 32 + len then s.refuseFirst p 3
        else if cap ≤ fill then s.refuseFirst p 1
        else
          let s := (s.touch vf va true l).writeNum (l.add 8) 4 (fill + 1) none vf
          let whole := decide (len ≤ 224)
          let k : Landing :=
            { id := s.nextId, vf := vf, src := pktSrc p, cw := pktCw p, pseq := pktPseq p, expert := exp, slot := fill,
              addr := dfield x0 51 0 + sl * fill, header := tab 4 h, bytes := (p.payload.drop 32).take len, need := len,
              whole := whole, headerDone := false, landed := false, upd := none, lost := none, parked := none }
          let s := State.named { s with landings := s.landings ++ [k] }
          if whole then s else s.answer p 9 (bytesOf 8 1)

/-- Does a packet's payload begin with a route header for this device, and have the length of a first packet (R323, R324)? -/
def State.isFirst (s : State) (p : Packet) : Bool :=
  let h (i : Nat) : Dword := dw (numOf ((p.payload.drop (8 * i)).take 8))
  p.payload.length == 32 + min 224 (16 * dfield (h 0) 11 0) && dfield (h 0) 11 0 != 0 && dfield (h 0) 63 56 == s.dev && dfield (h 0) 55 48 == pktSrc p && dfield (h 0) 33 12 == 0
  && (dfield (h 0) 45 44 == 1 || dfield (h 0) 45 44 == 2) && dfield (h 0) 37 34 == pktCw p && dfield (h 1) 55 32 == 0
  && dfield (h 2) 63 48 == 0 && dfield (h 2) 23 9 == 0 && h 3 == 0

/-- The landing that a later packet of a source continues: its oldest one with bytes to come. -/
def State.continued (s : State) (p : Packet) : Option Landing :=
  s.landings.find? (fun k => k.src == pktSrc p && k.cw == pktCw p && decide (k.bytes.length < k.need))

/-- Replace a landing. -/
def State.setLanding (s : State) (k : Landing) : State := { s with landings := updWhere (fun j => j.id == k.id) (fun _ => k) s.landings }

/-- The landing that a packet continues, if it is a later packet. The packet header does not tell a later packet from a first one (R309): one
that could be either, because its bytes look like a first packet's while a landing of its source and carriageway lacks bytes, is taken openly
as the one or the other (log entry 18). -/
def State.laterOf (s : State) (p : Packet) : Option Landing :=
  if s.isFirst p && s.choice % 2 = 0 then none else s.continued p

/-- May the entry that a first packet names be read and written now: no engine's line over it, no move of its page (R107, R134)? -/
def State.entryFree (s : State) (vf va : Nat) : Bool :=
  match s.accessBoth vf va 32 with | .at_ l => !s.lineHeld l && !s.storeHeld vf va 32 | _ => true
def State.tokenFree (s : State) (p : Packet) : Bool :=
  let h (i : Nat) : Dword := dw (numOf ((p.payload.drop (8 * i)).take 8))
  match s.domainVf (dfield (h 1) 63 56) with
  | some vf => s.entryFree vf (s.rtEntry vf (dfield (h 0) 43 34))
  | none => true

/-- ROUTE_TOKEN (R325): a first packet is decided; a later one adds its bytes and is acknowledged, the last after the landing
(R331). -/
def execRouteToken (p : Packet) (s : State) : Host.Outcome State Fault Refusal :=
  s.onPacketIf p 8 (!s.isNew p || (s.laterOf p).isSome || s.tokenFree p) (fun s =>
    if !s.isNew p then s
    else
      let s := s.acceptSeq p
      match s.laterOf p with
      | none => if 32 ≤ p.payload.length then s.spend.decideToken p else s
      | some k =>
        let bs := (k.bytes ++ p.payload).take k.need
        let s := s.spend.setLanding { k with bytes := bs, pseq := if k.need ≤ bs.length then pktPseq p else k.pseq }
        if k.need ≤ bs.length then s else s.answer p 6 [])

/-! ### Landing (R326, R331) -/

/-- Runs of a span of a function's addresses, with how each stands for a write. -/
def State.spanRuns (s : State) (vf va : Nat) (bs : List Byte) : Except AccRes (List (Nat × Loc × List Byte)) :=
  (lineRuns (bs.length / 128 + 2) va bs.length).foldl (fun acc run =>
    match acc, run.src with
    | .ok l, .inl a => match s.access vf a true 1 with
      | .at_ k => .ok (l ++ [(a, k, (bs.drop (a - va)).take run.len)])
      | e => .error e
    | acc, _ => acc) (.ok [])

/-- Write the runs as engine writes of a function. -/
def State.writeSpan (s : State) (vf : Nat) (runs : List (Nat × Loc × List Byte)) : State :=
  runs.foldl (fun s e => ((s.touch vf e.1 true e.2.1).writeLoc e.2.1 e.2.2 none vf).contribute vf e.1 e.2.2.length) s

/-- ROUTE_TOKEN_HEADER_WRITE (R326): the token's bytes are performed from slot offset 32 on, then the header with ARRIVAL. A miss
parks the token alone; another fault loses it and raises the halt line of the receiving context. -/
def execRouteTokenHeaderWrite (id : Nat) (s : State) : Host.Outcome State Fault Refusal :=
  match s.landings.find? (fun k => k.id == id) with
  | none => .fault .notDue
  | some k =>
    let due := !k.headerDone && k.lost.isNone && k.parked.isNone && decide (k.need ≤ k.bytes.length)
    let head := (k.header.take 3 ++ [dw k.slot]).flatMap (fun w => bytesOf 8 w.toNat)
    let lose (code cause : Nat) : State :=
      let f : FaultInfo := { FaultInfo.with code cause with daddr := k.addr }
      (s.setLanding { k with lost := some f, headerDone := true }).routeHalt k.vf f
    match s.spanRuns k.vf (k.addr + 32) k.bytes, s.spanRuns k.vf k.addr head with
    | .ok a, .ok b =>
      let held := (a ++ b).any (fun e => s.lineHeld e.2.1 || s.storeHeld k.vf e.1 e.2.2.length)
      let peer := (a ++ b).any (fun e => match e.2.1 with | .peer _ _ => true | _ => false)
      if peer then s.event due (lose 0x07 0)
      else s.event (due && !held) (((s.writeSpan k.vf a).writeSpan k.vf b).setLanding { k with headerDone := true })
    | .error (.miss d), _ =>
      let r := s.parkEntry k.vf (.landing id) (if d then 1 else 2) 5 none false true k.addr 0 0
      s.event due (r.2.setLanding { k with parked := some r.1 })
    | .error (.fault code cause), _ => s.event due (lose code cause)
    | _, .error (.miss d) =>
      let r := s.parkEntry k.vf (.landing id) (if d then 1 else 2) 5 none false true k.addr 0 0
      s.event due (r.2.setLanding { k with parked := some r.1 })
    | _, .error (.fault code cause) => s.event due (lose code cause)
    | _, _ => .fault .notDue

/-- RTRECV requests that waited act (R328). -/
def State.tryRecvs (s : State) : State :=
  (s.xfers.filter (fun t => t.req.opcode == 0x6E)).foldl (fun s t => if s.recvDue t then s.recvAct t else s) s

/-- The reply of a landed token (R326, R331): accept, the acknowledgement of its last packet, or the status of its fault. -/
def State.replyLanding (s : State) (k : Landing) : State :=
  let s : State := { s with landings := s.landings.filter (fun j => j.id != k.id) }
  match k.lost with
  | some f => s.respond k.src k.cw k.pseq 11 (statusBytes f.code 0 f.daddr)
  | none => if k.whole then s.respond k.src k.cw k.pseq 9 (bytesOf 8 1) else s.respond k.src k.cw k.pseq 6 []

/-- The reply of a token whose entry cannot be updated when it lands (R396): refused with cause 2, in place of the accept or of the
acknowledgement of its last packet (log entry 103). -/
def State.refuseLanding (s : State) (k : Landing) : State :=
  ({ s with landings := s.landings.filter (fun j => j.id != k.id) } : State).respond k.src k.cw k.pseq 9 (bytesOf 8 (at' 2 8))

/-- TREC is counted down by 1 (R326): at once, or by an update the landing waits for. -/
def State.countTrec (s : State) (k : Landing) (trec : Dword) : State :=
  let none' : Share := { launch := 0, cluster := 0, blockNo := 0, blocks := 0, scr := 0 }
  match recordAt none' k.vf trec with
  | .ok none => s.replyLanding k
  | .error f => (s.postReport k.vf 5 f.code trec.toNat (ofSigned 64 (-1)) 0).replyLanding k
  | .ok (some r) =>
    if !s.recFree r then (s.postUpdate k.vf r (-1) .route 0 []).setLanding { k with landed := true, upd := some s.nextId }
    else match s.update k.vf r (-1) none 0 with
      | .ok t _ _ => t.replyLanding k
      | .fail c => (s.postReport k.vf 5 c trec.toNat (ofSigned 64 (-1)) 0).replyLanding k
      | .fault code _ => (s.postReport k.vf 5 code trec.toNat (ofSigned 64 (-1)) 0).replyLanding k
      | .miss _ => (s.postUpdate k.vf r (-1) .route 0 []).setLanding { k with landed := true, upd := some s.nextId }
      | .peer dev pa =>
        let u : Update := { id := s.nextId, vf := k.vf, target := r, d := -1, src := .route, tag := 0, after := [], parked := none }
        (s.sendUpdate k.vf dev pa 0 (-1) (.update u)).setLanding { k with landed := true, upd := some s.nextId }

/-- ROUTE_TOKEN_LAND (R326): LAND is incremented, TREC counted down, and the reply sent when both are performed. An entry that misses or
faults refuses the token (R396); a token that a fault has lost keeps the status of that fault. -/
def execRouteTokenLand (id : Nat) (s : State) : Host.Outcome State Fault Refusal :=
  match s.landings.find? (fun k => k.id == id) with
  | none => .fault .notDue
  | some k =>
    if k.landed then s.event (match k.upd with | some u => !s.isPending u | none => true) (s.replyLanding k)
    else
      let va := s.rtEntry k.vf k.expert
      match s.accessBoth k.vf va 32 with
      | .at_ l =>
        let s1 := (s.touch k.vf va true l).writeNum (l.add 24) 4 (s.readLoc (l.add 24) 4 + 1) none k.vf
        s.event (k.headerDone && s.entryFree k.vf va) ((s1.countTrec k (dw (s.readLoc (l.add 16) 8))).tryRecvs)
      | .fault code cause =>
        let t := s.routeHalt k.vf { FaultInfo.with code cause with daddr := va }
        s.event k.headerDone (if k.lost.isSome then t.replyLanding k else t.refuseLanding k)
      | .miss _ => s.event k.headerDone (if k.lost.isSome then s.replyLanding k else s.refuseLanding k)

/-! ### RTRECV (R328) -/

/-- The request of an RTRECV word. -/
def State.recvXfer (s : State) (x : Ix) (t r : BitVec 6) (fn : Nat) : Xfer :=
  { s.queuedXfer x (x.engReq t r none 0x6E fn 1) with st := .running }

/-- An RTRECV form: the entry of expert x is checked and acted on in one action, its result on its way to the ticket. What a page or
another request keeps from its entry goes on as a request (R117, R243); so does a reset that waits. -/
def State.recvWord (s : State) (t r : BitVec 6) (fn : Nat) : Host.Outcome State Fault Refusal :=
  s.word .never (fun s x =>
    s.scalarWord x { acc := {}, legal := r.toNat ≤ 60, ss := [(r.toNat, 3)], sd := [t.toNat] } (fun s x =>
      let e := (x.g.sreg r.toNat).toNat
      if s.outstanding x.g x.path.id || x.g.polling.isSome then .wait s (.order true)
      else if 1023 < e || dfield (s.ctx x.g.vf).rxtab 51 0 = 0 then .trap malformed
      else
        let q := s.recvXfer x t r fn
        let va := s.rtEntry x.g.vf e
        let empty := s.onGroup x.g.gid (fun g => g.markS t.toNat false)
        let posted := State.named { empty with xfers := s.xfers ++ [q] }
        match s.recvPlace q with
        | .at_ (.peer _ _) => .trap malformed
        | .at_ l =>
          if s.lineHeld l then .wait s (.line l)
          else if fn % 2 == 1 && s.storeHeld x.g.vf va 32 then .done posted Cost.alone
          else match (empty.touch x.g.vf va (fn % 2 == 1) l).recvAt x.g.vf fn l with
            | some (u, v) => .done (u.fill x.g.gid [.s t.toNat (dw v)]) Cost.alone
            | none => .done posted Cost.alone
        | _ => .done posted Cost.alone))

/-- RTRECV .fill. -/
def execRtrecvFill (t r : BitVec 6) (s : State) : Host.Outcome State Fault Refusal := s.recvWord t r 0

/-- RTRECV .next: the next allocated slot's address, which TAKE passes. -/
def execRtrecvNext (t r : BitVec 6) (s : State) : Host.Outcome State Fault Refusal := s.recvWord t r 1

/-- RTRECV .land. -/
def execRtrecvLand (t r : BitVec 6) (s : State) : Host.Outcome State Fault Refusal := s.recvWord t r 2

/-- RTRECV .reset: at once when LAND equals FILL, else when a landing makes it so. -/
def execRtrecvReset (t r : BitVec 6) (s : State) : Host.Outcome State Fault Refusal := s.recvWord t r 3

end Sys2Proof.Machine
end

