-- ==== Sys2Proof/Machine/Legs.lean ====
section
/-! DEFINITION. Legs: arbitration and unison (03 R36-R39, R50), clause fetch and the clause checks (11 R151-R156, R169), the
waits that end, and values that arrive in registers (R166). -/
namespace Sys2Proof.Machine

/-! ### Arbitration (R37, R50) -/

/-- The back-off level at which a slot is arbitrated: 0 once it has been passed over by 4b legs (R37). -/
def Path.level (t : Path) (g : Group) : Nat := if t.aged || decide (4 * g.backoff ≤ t.passed) then 0 else g.backoff

/-- The class in which a slot is arbitrated: 0 once it has been ready for 65,536 core cycles (R37). -/
def Path.cls (t : Path) (g : Group) (now : Nat) : Nat :=
  if t.classAged || decide (t.readyAt + 65536 ≤ now) then 0 else g.prio

/-- A slot's place in the order of R37: class, level, the later of its last leg completion and of becoming ready, resident
index, the older path first. -/
def slotRank (now : Nat) (e : Group × Path) : List Nat :=
  [e.2.cls e.1 now, e.2.level e.1, if e.2.lastLeg < e.2.readyAt then e.2.readyAt else e.2.lastLeg,
   e.1.slot, e.2.id]

/-- Lexicographic order. -/
def lexLt : List Nat → List Nat → Bool
  | a :: as, b :: bs => decide (a < b) || (a == b && lexLt as bs)
  | _, _ => false

/-- The slot that arbitration ranks highest. -/
def bestSlot (now : Nat) : List (Group × Path) → Option (Group × Path)
  | [] => none
  | e :: es => match bestSlot now es with
    | none => some e
    | some d => if lexLt (slotRank now d) (slotRank now e) then some d else some e

/-! ### Unison (R39) -/

/-- Does a slot stand at a clause header, where its next leg begins? -/
def Path.atHeader (t : Path) : Bool := t.widx == 0 && t.resumeAt == 0 && t.only.isNone

/-- A slot's (pass, physical lane) positions: those of its path mask, helpers included. -/
def Group.slotPhys (g : Group) (t : Path) : List (Nat × Nat) :=
  (positions g.n (t.mask ||| g.helperMask t.mask)).map g.phys

/-- May `b` be the unison partner of the winner `a`? -/
def unisonOk (a b : Group × Path) : Bool :=
  a.1.gid != b.1.gid && a.1.launch == b.1.launch && a.2.atHeader && b.2.atHeader && a.2.pc == b.2.pc
  && (a.1.slotPhys a.2).all (fun q => !(b.1.slotPhys b.2).contains q)

/-! ### A leg begins -/

/-- Words of the current leg counted for a slot that begins a leg where it stands (R156): with the header if it begins there, else from
the resume point. -/
def Path.legCount (t : Path) : Nat :=
  match t.fetched with
  | none => 0
  | some c => if t.widx = 0 && !t.entered then c.hdr.n + 1 else c.words.length - t.widx

/-- A slot begins a leg: its start is entered in the signature if it begins one (R387), its count restarts (R156). -/
def Group.beginLeg (g : Group) (id : Nat) : Group :=
  match g.path? id with
  | none => g
  | some t =>
    let u : Path := { t with count := t.legCount, fresh := false, passed := 0, aged := false, classAged := false }
    let g := g.setPath u
    if t.fresh then g.addStarts u [t.pc] else g

/-- The ready slots that a leg of a class passes over when it begins (R50). A leg counts in the class of its launch, also when class
ageing has let it issue in class 0 (R37), which R50 leaves open (log entry 91). -/
def State.waitingSlots (s : State) (p cls : Nat) (begun : List (Gid × Nat)) : List (Gid × Nat) :=
  ((s.readySlots p).filter (fun e => e.1.prio == cls && !begun.contains (e.1.gid, e.2.id))).map (fun e => (e.1.gid, e.2.id))

/-- Slots are passed over by `n` legs (R50). -/
def State.passOver (s : State) (n : Nat) (slots : List (Gid × Nat)) : State :=
  slots.foldl (fun s e => s.onGroup e.1 (fun g => g.onPath e.2 (fun t => { t with passed := t.passed + n }))) s

/-- Slots that yielded need wait no longer for slots that have begun a leg (R221). -/
def State.unyield (s : State) (p : Nat) (begun : List (Gid × Nat)) : State :=
  { s with groups := updWhere (fun g => g.part == p) (fun g => { g with paths := g.paths.map (fun t =>
      match t.wait with
      | .yield os since => { t with wait := .yield (os.filter (fun o => !begun.contains o)) since }
      | _ => t) }) s.groups }

/-- The winner and its partner begin a leg on a partition. -/
def State.startLeg (s : State) (p : Nat) (a : Group × Path) (b : Option (Group × Path)) : State :=
  let begun := (a.1.gid, a.2.id) :: (b.toList.map (fun e => (e.1.gid, e.2.id)))
  let run : Run := { gid := a.1.gid, path := a.2.id, partner := b.map (fun e => (e.1.gid, e.2.id)), turn := false, paid := false, passed := [] }
  let s := s.setPart p { s.part p with run := some run, next := none }
  let s := begun.foldl (fun s e => (s.unstall e.1).onGroup e.1 (fun g => g.beginLeg e.2)) s
  let skipped := s.waitingSlots p a.1.prio begun
  let s := s.setPart p { s.part p with run := some { run with passed := skipped } }
  let s := ((s.passOver begun.length skipped).unyield p begun).count a.1.vf (coreOf p) 0x02 begun.length
  if b.isSome then s.count a.1.vf (coreOf p) 0x05 1 else s

/-- A partner whose leg comes next, if it can still issue (R39). -/
def State.nextRunner (s : State) (p : Nat) : Option (Gid × Nat) :=
  match (s.part p).next with
  | none => none
  | some q => match (s.group q.1).bind (fun g => g.path? q.2) with
    | some t => if t.eligible then some q else none
    | none => none

/-- LEG_ISSUE (R36): the dissolved pair's partner goes on (R39); else the highest-ranked ready slot wins, with a partner if
one qualifies. -/
def execLegIssue (p : Nat) (s : State) : Host.Outcome State Fault Refusal :=
  let k := s.part p
  let now := (s.core (coreOf p)).cycles
  match s.nextRunner p with
  | some q => s.event k.run.isNone (s.setPart p { k with run := some { gid := q.1, path := q.2, partner := none, turn := false, paid := false, passed := [] }, next := none })
  | none =>
    let s : State := s.setPart p { k with next := none }
    let ready := s.readySlots p
    match bestSlot now ready with
    | none => .fault .notDue
    | some a => s.event k.run.isNone (s.startLeg p a (bestSlot now (ready.filter (unisonOk a))))

/-! ### Ageing (R37) -/

/-- A slot of a group, with the group. -/
def State.slot (s : State) (gid : Gid) (path : Nat) : Option (Group × Path) :=
  (s.group gid).bind (fun g => (g.path? path).map (fun t => (g, t)))

/-- A slot is changed by a step that is due under `due`. -/
def State.slotEvent (s : State) (gid : Gid) (path : Nat) (due : Group → Path → Bool) (f : Path → Path) :
    Host.Outcome State Fault Refusal :=
  match s.slot gid path with
  | none => .fault .notDue
  | some (g, t) => s.event (due g t) (s.onGroup gid (fun g => g.onPath path f))

/-- BACK_OFF_AGEING (R37). -/
def execBackOffAgeing (gid : Gid) (path : Nat) (s : State) : Host.Outcome State Fault Refusal :=
  s.slotEvent gid path (fun g t => s.slotReady g t && !t.aged && g.backoff != 0 && decide (4 * g.backoff ≤ t.passed))
    (fun t => { t with aged := true })

/-- CLASS_AGEING (R37). -/
def execClassAgeing (gid : Gid) (path : Nat) (s : State) : Host.Outcome State Fault Refusal :=
  s.slotEvent gid path (fun g t => s.slotReady g t && !t.classAged && decide (t.readyAt + 65536 ≤ (s.core (coreOf g.part)).cycles))
    (fun t => { t with classAged := true })

/-! ### Waits that end -/

/-- Is every s register that a ticket emptied full (R153)? -/
def Group.ticketsFull (g : Group) : Bool := g.sEmpty &&& g.sTicket == 0

/-- Does a fabric request carry a store of a group, not aggregated, that a path's later instructions come after? -/
def FabReq.quietFor (r : FabReq) (g : Group) (mine : List Nat) : Bool :=
  match r.body with | .access l => l.any (fun a => a.quiet && a.earlier g mine) | _ => false

/-- Are the stores that are earlier in a path's program order performed at group scope (R153, R127): those to this device once they are written
into the L1, or at their bank or home; those to peers once they are sent (R145); a readout's once it is written (R273)? -/
def State.storesDone (s : State) (g : Group) (path : Nat) : Bool :=
  let mine := g.lineage path
  !s.flight.any (fun a => a.quiet && a.l1.isNone && a.earlier g mine) && !s.waitReqs.any (fun r => r.quietFor g mine)
  && !s.readouts.any (fun r => r.earlier g mine)

/-- Do the conditions that a clause header selects hold for a path (R153)? -/
def State.headerReady (s : State) (g : Group) (path : Nat) (h : ClauseHeader) : Bool :=
  (!h.wtk || g.ticketsFull) && (!h.wcq || s.copyRoom g.gid) && (!h.wpa || !(s.part g.part).ops.any (fun o => o.gid == g.gid))
  && (!h.wst || s.storesDone g path)

/-- CLAUSE_WAIT_RELEASE (R153). -/
def execClauseWaitRelease (gid : Gid) (path : Nat) (s : State) : Host.Outcome State Fault Refusal :=
  match s.slot gid path with
  | none => .fault .notDue
  | some (g, t) =>
    let due := t.wait == .clause && (match t.fetched with | some c => s.headerReady g path c.hdr | none => false)
    s.event due (s.readyPath gid path)

/-- Can nothing issue on a core but what waits, so that its cycles pass (R221)? -/
def State.coreIdle (s : State) (core : Nat) : Bool :=
  (List.range 4).all (fun i => (s.part (4 * core + i)).run.isNone && (s.readySlots (4 * core + i)).isEmpty)

/-- YIELD_RELEASE (R221): every other slot has begun a leg, or 64 core cycles have passed; the cycle of the YIELD counts as
the last leg completion. R221 does not say from when the slot counts as ready for R37: the model takes the cycle of the YIELD too (log
entry 92). -/
def execYieldRelease (gid : Gid) (path : Nat) (s : State) : Host.Outcome State Fault Refusal :=
  match s.slot gid path with
  | none => .fault .notDue
  | some (g, t) =>
    match t.wait with
    | .yield os since =>
      let c := coreOf g.part
      let k := s.core c
      let idle := s.coreIdle c
      let due := os.isEmpty || decide (since + 64 ≤ k.cycles) || idle
      let t := if os.isEmpty then s else s.coreTo c (since + 64)
      s.event due (t.onGroup gid (fun g => g.onPath path (fun t => { t with wait := .none, readyAt := since, lastLeg := since })))
    | _ => .fault .notDue

/-- HOME_REPLY (R279): no request for the path's record is open any more. -/
def execHomeReply (gid : Gid) (path : Nat) (s : State) : Host.Outcome State Fault Refusal :=
  match s.slot gid path with
  | none => .fault .notDue
  | some (_, t) =>
    let away (r : FabReq) : Bool := match r.body with | .task g p _ _ _ => g == gid && p == path | _ => false
    s.event (t.wait == .reply && !(s.reqs ++ s.waitReqs).any away) (s.readyPath gid path)

/-! ### Values arrive (R166) -/

/-- One register write of a returning value. A shadow that was discarded meanwhile is not written (R33). -/
def Group.fillOne (g : Group) (i : FillItem) : Group :=
  match i with
  | .v false r p w => if r < g.vcur then g.writeV r (fun q => if q = p then some w else none) else g
  | .v true r p w =>
    if has (fget 0 g.shLive r) p then
      { g with sh := finsert r (tab g.n (fun q => if q = p then w else (fget [] g.sh r).getD q 0)) g.sh
               shEmpty := fset 0 g.shEmpty r (fget 0 g.shEmpty r &&& ~~~(maskOf g.n (fun q => q == p))) }
    else g
  | .s r w => g.setS r w
  | .q r key since w =>
    let q := g.stream r
    if q.since = since && decide (q.pos ≤ key / 8) then g.setStream r { q with fetched := finsert key w q.fetched } else g
  | .poll r v c =>
    { g.setS r v with polling := none, backoff := if v = c then (if g.backoff < 7 then g.backoff + 1 else 7) else 0 }
  | .code path a w => g.onPath path (fun t => { t with code := finsert a w t.code })

/-- Slots that waited for a stream or for code look again once what they waited for has come. -/
def Group.fillReady (g : Group) (now : Nat) (items : List FillItem) : Group :=
  { g with paths := g.paths.map (fun t =>
      let mine := items.any (fun i => match i with
        | .q r _ _ _ => t.wait.isStream r
        | .code path _ _ => t.wait == .code && path == t.id
        | _ => false)
      if mine then t.readied now else t) }

/-- REGISTER_FILL (R166, R38). -/
def execRegisterFill (id : Nat) (s : State) : Host.Outcome State Fault Refusal :=
  match s.fills.find? (fun f => f.id == id) with
  | none => .fault .notDue
  | some f =>
    let s : State := { s with fills := s.fills.filter (fun k => k.id != id) }
    match s.group f.gid with
    | none => s.event true s
    | some g =>
      let now := (s.core (coreOf g.part)).cycles
      let same := f.items.countP (fun i => match i with | .poll _ v c => v == c | _ => false)
      s.event true (((s.setGroup ((f.items.foldl Group.fillOne g).fillReady now f.items))).count g.vf (coreOf g.part) 0x0E same)

/-- STORE_ACKNOWLEDGE (R112): a home acknowledges a store, RED or atomic. -/
def execStoreAcknowledge (id : Nat) (s : State) : Host.Outcome State Fault Refusal :=
  s.event (s.unacked.any (fun a => a.id == id)) { s with unacked := s.unacked.filter (fun a => a.id != id) }

/-! ### Fetch (R151) -/

/-- What the fetch of some words of code finds (R116, R151): the words, a fault or a miss with its address, or words of a
peer page that have not come, with their places. -/
inductive CodeRes where
  | words (ws : List Word)
  | fault (code cause va : Nat)
  | miss (demand : Bool) (va : Nat)
  | away (l : List (Nat × Nat × Nat))
  deriving DecidableEq, Repr

/-- Where an aligned 8-byte word of code lies in an instruction cache, with its place; words of peers are not kept. -/
def codeKey (l : Loc) : Option (Nat × Loc) :=
  match l with
  | .hbm a => some (2 * (a / 8), .hbm (a / 8 * 8))
  | .host a => some (2 * (a / 8) + 1, .host (a / 8 * 8))
  | _ => none

/-- The aligned 8-byte word around a place that a fetch of a group reads (R149): the one that its core's instruction cache holds, while
the rule allows that value to this launch; else the value of the moment or one held since the launch was accepted, an open choice for each
word. -/
def State.codeDword (s : State) (g : Group) (key : Nat) (l : Loc) : Dword :=
  let allowed := s.olderCode g.launch l ++ [dw (s.readLoc l 8)]
  let k := s.core (coreOf g.part)
  match k.ic.find? (fun e => e.1 == key && allowed.contains e.2) with
  | some e => e.2
  | none => match allowed with
    | [v] => v
    | vs => vs.getD (Config.freeCode (key / 2) s.nextId k.cycles % vs.length) 0

/-- The instruction word that a fetch of a group reads at a place. -/
def State.codeWord (s : State) (g : Group) (l : Loc) : Word :=
  let a := match l with | .hbm a => a | .host a => a | _ => 0
  match codeKey l with
  | some (k, w) => BitVec.ofNat 32 ((s.codeDword g k w).toNat / 256 ^ (a % 8))
  | none => BitVec.ofNat 32 (s.readLoc l 4)

/-- The words of `n` instruction words at `a` stay in the instruction cache, which holds 64 KiB (R11). -/
def State.keepCode (s : State) (g : Group) (a : Nat) : Nat → FMap Dword → FMap Dword
  | 0, m => m
  | n + 1, m =>
    let m := match s.access g.vf a false 4 with
      | .at_ l => match codeKey l with
        | some (k, w) => cachePut Config.codeWords k (s.codeDword g k w) m
        | none => m
      | _ => m
    s.keepCode g (a + 4) n m

/-- Fetch `n` words at `a` for a path: every word is translated as a load is, without windows (R109, R151). -/
def State.codeAt (s : State) (g : Group) (t : Path) : Nat → Nat → CodeRes
  | 0, _ => .words []
  | n + 1, a =>
    match s.access g.vf a false 4 with
    | .fault code cause => .fault code cause a
    | .miss d => .miss d a
    | .at_ l =>
      match l, t.code.find? (fun e => e.1 == a) with
      | .peer d pa, none =>
        match s.codeAt g t n (a + 4) with
        | .away m => .away ((a, d, pa) :: m)
        | .words _ => .away [(a, d, pa)]
        | r => r
      | _, w? =>
        let w : Word := match w? with | some e => e.2 | none => s.codeWord g l
        match s.codeAt g t n (a + 4) with
        | .words ws => .words (w :: ws)
        | r => r

/-- The header's address and the clause's words. -/
def State.clauseAt (s : State) (g : Group) (t : Path) : CodeRes :=
  match s.codeAt g t 1 t.pc with
  | .words (h :: _) => if headerOk h then s.codeAt g t ((decodeHeader h).n + 1) t.pc else .words [h]
  | r => r

/-- The fault of a clause that breaks the rules of R152, R154, R156 or R157 (R169); `count` are the words of the leg so
far. -/
def clauseFault (base count : Nat) (inLeg : Bool) (ws : List Word) : Option FaultInfo :=
  match ws with
  | [] => none
  | w :: ws =>
    let h := decodeHeader w
    if !headerOk w || !clauseWordsOk h ws || (inLeg && decide (24 < count + h.n + 1)) then
      some { FaultInfo.of 0x10 with faddr := base }
    else if !prefixesOk ws then
      let bad := (List.range ws.length).find? (fun i =>
        match ws.drop i with | [v] => isPrefix v | v :: u :: _ => isPrefix v && isPrefix u | [] => false)
      some { FaultInfo.of 0x11 with faddr := base + 4 * (bad.getD 0 + 1) }
    else none

/-- The pair's fetches come one after the other, before the first word (R39). -/
def State.afterFetch (s : State) (p : Nat) : State :=
  let k := s.part p
  match k.run with
  | none => s
  | some r => match r.partner with
    | none => s
    | some q =>
      let other := if r.turn then (r.gid, r.path) else q
      let need := !r.turn && (match (s.group other.1).bind (fun g => g.path? other.2) with
        | some t => t.fetched.isNone
        | none => false)
      s.setPart p { k with run := some { r with turn := need } }

/-- The group parks at the header on a miss of its fetch (R151, R117). -/
def State.fetchMiss (s : State) (p : Nat) (g : Group) (t : Path) (d : Bool) (va : Nat) : State :=
  let cl : Clause := { base := t.pc, hdr := decodeHeader 0, words := [] }
  let x : Ix := { p := p, g := g, path := t, cl := cl, hasPre := false, pre := Prefix.none, addr := t.pc, idx := 0, next := 0 }
  (s.parkMiss x [(0, va, d)] 0 false false).endLeg p g.gid t.id .none

/-- Reads of code on peer pages (R317); they take no part in the order of the group's accesses (R123). -/
def State.requestCode (s : State) (p : Nat) (g : Group) (t : Path) (ws : List (Nat × Nat × Nat)) : State :=
  let accs : List Access := ws.map (fun w =>
    { id := s.nextId, gid := g.gid, vf := g.vf, core := coreOf p, helper := true, kind := .load, loc := .peer w.2.1 w.2.2,
      va := w.1, size := 4, ops := [], dest := .code t.id w.1, addr := t.pc, const := false })
  ((accs.foldl (fun s a => s.touch a.vf a.va false a.loc) s.named).sendReads g.vf (coreOf p) accs).endLeg p g.gid t.id .code

/-- The runner's clause is decoded and checked; it goes on, waits at its header (R153), or faults. -/
def State.openClause (s : State) (p : Nat) (g : Group) (t : Path) (ws : List Word) : State :=
  let inLeg := t.count != 0
  -- the word at which a resumed path goes on no longer stands in the clause
  let short : Option FaultInfo :=
    if t.resumeAt != 0 && decide (ws.length ≤ t.resumeAt + 1) then some { FaultInfo.of 0x10 with faddr := t.pc } else none
  match (clauseFault t.pc t.count inLeg ws).or short with
  | some f => (s.takeFault g.gid f).endLeg p g.gid t.id .none
  | none =>
    match ws with
    | [] => s
    | w :: ws =>
      let h := decodeHeader w
      let s := s.onGroup g.gid (fun g => g.onPath t.id (fun t =>
        { t with fetched := some { base := t.pc, hdr := h, words := ws }, widx := t.resumeAt, entered := false, resumeAt := 0,
                 count := t.count + (if t.resumeAt = 0 then h.n + 1 else ws.length - t.resumeAt) }))
      if t.resumeAt = 0 && !s.headerReady g t.id h then s.endLeg p g.gid t.id .clause else s.afterFetch p

/-- Does the clause lie outside the capsule's code (R291)? -/
def Group.outsideCapsule (g : Group) (t : Path) (n : Nat) : Bool :=
  g.cap.inMode && g.cap.path == t.id && !(decide (g.cap.code ≤ t.pc) && decide (t.pc + 4 * n ≤ g.cap.code + 256))

/-- The runner of a partition that has reached a header not yet fetched. -/
def State.fetcher (s : State) (p : Nat) : Option (Group × Path) :=
  match (s.part p).run with
  | none => none
  | some r => match s.slot r.current.1 r.current.2 with
    | some (g, t) => if t.fetched.isNone && t.eligible then some (g, t) else none
    | none => none

/-- CLAUSE_FETCH (R151): the clause is fetched, translated and decoded whole, or the group parks. -/
def execClauseFetch (p : Nat) (s : State) : Host.Outcome State Fault Refusal :=
  match s.fetcher p with
  | none => .fault .notDue
  | some (g, t) =>
    let trap (f : FaultInfo) : State := (s.takeFault g.gid { f with faddr := t.pc }).endLeg p g.gid t.id .none
    let capsule : FaultInfo := { FaultInfo.with 0x22 4 with daddr := g.cap.record }
    if g.outsideCapsule t 1 then s.event true (trap capsule)
    else match s.clauseAt g t with
      | .fault code cause va => s.event true (trap { FaultInfo.with code cause with daddr := va })
      | .miss d va => s.event true (s.fetchMiss p g t d va)
      | .away l => s.event true (s.requestCode p g t l)
      | .words ws =>
        if g.outsideCapsule t ws.length then s.event true (trap capsule)
        else
          let last := t.pc + 4 * (ws.length - 1)
          let at_ (va : Nat) : Loc := (s.locOf g.vf va).getD (.hbm 0)
          let touched := (s.touch g.vf t.pc false (at_ t.pc)).touch g.vf last false (at_ last)
          let k := touched.core (coreOf p)
          let kept := touched.setCore (coreOf p) { k with ic := s.keepCode g t.pc ws.length k.ic }
          s.event true (kept.openClause p g t ws)

/-- ILLEGAL_INSTRUCTION (R169): a word that is no instruction reaches issue. -/
def execIllegalInstruction (_w : Word) (s : State) : Host.Outcome State Fault Refusal := s.word .allowed (fun _ _ => .trap illegal)

end Sys2Proof.Machine
end

