-- ==== Sys2Proof/Machine/Scalar.lean ====
section
/-! DEFINITION. Scalar instructions and special registers (13 R212-R214). -/
namespace Sys2Proof.Machine

/-- A scalar word that writes s(D): once for the group (R28), one core cycle (R27). -/
def State.sword (s : State) (d : BitVec 6) (legal : Bool) (acc : Accept) (ss : List (Nat × Nat))
    (f : State → Ix → Dword × Half) : Host.Outcome State Fault Refusal :=
  s.word .allowed (fun s x =>
    s.scalarWord x { acc := acc, legal := legal, ss := ss, sd := [d.toNat] } (fun s x =>
      let r := f s x
      .done (s.onGroup x.g.gid (fun g => let g := g.setS d.toNat r.1; if r.2 = 0 then g else g.raiseAll r.2)) Cost.one))

/-- An S3 word of two operands (R212). -/
def State.s3 (s : State) (d a b : BitVec 6) (k : BitVec 1) (legal sat readD : Bool) (op : Bool → Nat → Nat → Nat → Dword × Half) :
    Host.Outcome State Fault Refusal :=
  s.sword d legal { Accept.scalar true true with sat := sat }
    ([(a.toNat, 0)] ++ skRead k b ++ if readD then [(d.toNat, 3)] else [])
    (fun _ x => op x.pre.sat (x.g.sreg a.toNat).toNat (x.g.sk k b).toNat (x.g.sreg d.toNat).toNat)

/-- The 64-bit integer type of an FN value: even signed, odd unsigned (R212). -/
def stype (f : Nat) : IType := itype (2 + f % 2)

/-- An exact result wrapped or clamped to 64 bits (R212). -/
def sresult (f : Nat) (sat : Bool) (i : Int) : Dword × Half := let r := (stype f).result sat i; (dw r.1, r.2)

/-- SADD (R212). -/
def execSadd (d a b : BitVec 6) (f k : BitVec 1) (s : State) : Host.Outcome State Fault Refusal :=
  s.s3 d a b k true true false (fun sat a b _ => sresult f.toNat sat ((stype f.toNat).val a + (stype f.toNat).val b))

/-- SSUB (R212). -/
def execSsub (d a b : BitVec 6) (f k : BitVec 1) (s : State) : Host.Outcome State Fault Refusal :=
  s.s3 d a b k true true false (fun sat a b _ => sresult f.toNat sat ((stype f.toNat).val a - (stype f.toNat).val b))

/-- SMUL (R212): FN 0, 1 the low half, 2, 3 the high half of the exact 128-bit product; SAT with the low forms only. -/
def execSmul (d a b : BitVec 6) (f : BitVec 2) (k : BitVec 1) (s : State) : Host.Outcome State Fault Refusal :=
  s.s3 d a b k true (f.toNat ≤ 1) false (fun sat a b _ =>
    let t := stype f.toNat
    let i := t.val a * t.val b
    if f.toNat ≤ 1 then sresult f.toNat sat i else (dw (ofSigned 128 i / 2 ^ 64), 0))

/-- SMAD (R212): a b + d modulo 2^64. -/
def execSmad (d a b : BitVec 6) (k : BitVec 1) (s : State) : Host.Outcome State Fault Refusal :=
  s.s3 d a b k true false true (fun _ a b d => (dw (a * b + d), 0))

/-- SAND (R212). -/
def execSand (d a b : BitVec 6) (k : BitVec 1) (s : State) : Host.Outcome State Fault Refusal :=
  s.s3 d a b k true false false (fun _ a b _ => (dw (a &&& b), 0))

/-- SOR (R212). -/
def execSor (d a b : BitVec 6) (k : BitVec 1) (s : State) : Host.Outcome State Fault Refusal :=
  s.s3 d a b k true false false (fun _ a b _ => (dw (a ||| b), 0))

/-- SXOR (R212). -/
def execSxor (d a b : BitVec 6) (k : BitVec 1) (s : State) : Host.Outcome State Fault Refusal :=
  s.s3 d a b k true false false (fun _ a b _ => (dw (a ^^^ b), 0))

/-- SSHL (R212). -/
def execSshl (d a b : BitVec 6) (k : BitVec 1) (s : State) : Host.Outcome State Fault Refusal :=
  s.s3 d a b k true false false (fun _ a b _ => (dw (a * 2 ^ (b % 64)), 0))

/-- SSHR (R212). -/
def execSshr (d a b : BitVec 6) (k : BitVec 1) (s : State) : Host.Outcome State Fault Refusal :=
  s.s3 d a b k true false false (fun _ a b _ => (dw (a / 2 ^ (b % 64)), 0))

/-- SSAR (R212). -/
def execSsar (d a b : BitVec 6) (k : BitVec 1) (s : State) : Host.Outcome State Fault Refusal :=
  s.s3 d a b k true false false (fun _ a b _ => (dw (ofSigned 64 (toSigned 64 a / 2 ^ (b % 64))), 0))

/-- SCMP's conditions (R212). -/
def scmpCond (c a b : Nat) : Bool :=
  match c with
  | 0 => a == b
  | 1 => a != b
  | 2 => decide (toSigned 64 a < toSigned 64 b)
  | 3 => decide (toSigned 64 a ≤ toSigned 64 b)
  | 4 => decide (a < b)
  | _ => decide (a ≤ b)

/-- SCMP (R212). -/
def execScmp (d a b : BitVec 6) (c : BitVec 3) (k : BitVec 1) (s : State) : Host.Outcome State Fault Refusal :=
  s.s3 d a b k (c.toNat ≤ 5) false false (fun _ a b _ => (dw (b2n (scmpCond c.toNat a b)), 0))

/-- SSEL (R212): a when d is not 0, else b. -/
def execSsel (d a b : BitVec 6) (k : BitVec 1) (s : State) : Host.Outcome State Fault Refusal :=
  s.s3 d a b k true false true (fun _ a b d => (dw (if d ≠ 0 then a else b), 0))

/-- SMOV (R212). -/
def execSmov (d b : BitVec 6) (k : BitVec 1) (s : State) : Host.Outcome State Fault Refusal :=
  s.sword d true (Accept.scalar false true) (skRead k b) (fun _ x => (x.g.sk k b, 0))

/-- SADDI (R212). -/
def execSaddi (d a : BitVec 6) (i : BitVec 8) (f : BitVec 1) (s : State) : Host.Outcome State Fault Refusal :=
  s.sword d true { Accept.scalar true false with sat := true } [(a.toNat, 0)] (fun _ x =>
    sresult f.toNat x.pre.sat ((stype f.toNat).val (x.g.sreg a.toNat).toNat + toSigned 8 i.toNat))

/-- SMIN (R212, R168). -/
def execSmin (d a b : BitVec 6) (t k : BitVec 1) (s : State) : Host.Outcome State Fault Refusal :=
  s.s3 d a b k true false false (fun _ a b _ => (dw (if (stype t.toNat).val a ≤ (stype t.toNat).val b then a else b), 0))

/-- SMAX (R212, R168). -/
def execSmax (d a b : BitVec 6) (t k : BitVec 1) (s : State) : Host.Outcome State Fault Refusal :=
  s.s3 d a b k true false false (fun _ a b _ => (dw (if (stype t.toNat).val a ≤ (stype t.toNat).val b then b else a), 0))

/-! ### Special registers (R214) -/

/-- Cycles of the weight store's window in the die's mode (R97). -/
def Die.windowCycles (d : Die) : Nat := if d.hot then 512 else 256

/-- The base-die cycle at which a die's WPHASE is read lies in the current window, and not before the last one read there; which one it is no
rule fixes (R97, log entry 15). -/
def State.advancePhase (s : State) (die : Nat) : State :=
  let d := s.die die
  s.spend.setDie die { d with phase := d.phase + s.choice % (d.windowCycles - d.phase) }

/-- A special register's value (R214); WPHASE's cycles left are those of the window after the current one (R97). -/
def State.special (s : State) (x : Ix) (i m : Nat) : Nat :=
  let g := x.g
  match i with
  | 0 => x.p
  | 1 => g.gid.toNat
  | 2 => g.cluster
  | 3 => at' (g.blocks - 1) 12 + at' (g.groups - 1) 8 + at' g.blockNo 4 + g.groupNo
  | 4 => at' g.atiles 28 + at' g.vregs 20 + at' g.vcur 12 + at' g.e 8 + g.w
  | 5 => g.backoff
  | 6 =>
    let d := s.die (dieOfCore (coreOf x.p))
    at' (b2n d.hot) 32 + at' (d.windowCycles - 1 - d.phase) 16 + d.window
  | 7 => if m < g.e then (g.flags m).toNat else 0
  | _ => g.tag.toNat

/-- SRD (R214): the A field is used by FSTAT alone; an unlisted number is illegal. -/
def execSrd (d a : BitVec 6) (i : BitVec 8) (s : State) : Host.Outcome State Fault Refusal :=
  let uses := i == 7
  s.word .allowed (fun s x =>
    s.scalarWord x { acc := Accept.scalar uses false, legal := decide (i.toNat ≤ 8) && (uses || a == 0),
                     ss := if uses then [(a.toNat, 0)] else [], sd := [d.toNat] } (fun s x =>
      let s := if i = 6 then s.advancePhase (dieOfCore (coreOf x.p)) else s
      .done (s.onGroup x.g.gid (fun g => g.setS d.toNat (dw (s.special x i.toNat ((x.g.sreg a.toNat).toNat % 8))))) Cost.one))

/-- SRD.clr of FSTAT (R214): exactly the bits returned are cleared. -/
def execSrdClr (d a : BitVec 6) (s : State) : Host.Outcome State Fault Refusal :=
  s.word .allowed (fun s x =>
    s.scalarWord x { acc := Accept.scalar true false, legal := true, ss := [(a.toNat, 0)], sd := [d.toNat] } (fun s x =>
      let m := (x.g.sreg a.toNat).toNat % 8
      let v : Half := if m < x.g.e then x.g.flags m else 0
      .done (s.onGroup x.g.gid (fun g => (g.clearFlags m v).setS d.toNat (dw v.toNat))) Cost.one))

end Sys2Proof.Machine
end

