-- ==== Sys2Proof/Machine/Home.lean ====
section
/-! DEFINITION. Accesses at their performing points (09 R120-R125, R131, R132, R134, R135; 07 R94, R97, R112-R115, R119), the
refresh steps of the memories (R97, R118) and the power state of the stacked layers (R114, R115). -/
namespace Sys2Proof.Machine

/-! ### When an access may be performed -/

/-- Is an access a POLL, which orders what follows after the write that it observes (R138)? -/
def Access.isPoll (a : Access) : Bool := match a.dest with | .poll _ _ => true | _ => false

/-- Does an access kept before `a` (R124) still stand in its way? A load or store of the L1 follows a store written there; what is performed at the
home alone waits for the store's home (R122). -/
def Access.waitsOn (a f : Access) : Bool :=
  match a.kind with
  | .atomic _ _ _ => true
  | _ => a.const || !(f.kind == .store && f.l1.isSome)

/-- Does an access wait for another one in flight: one kept before it; for an atomic, a store that its group has observed in the L1; for a POLL, any
store to its bytes in its core's L1, so that what it observes is performed (R122, R124, R138)? -/
def State.blockedBy (s : State) (a f : Access) : Bool :=
  let seen (id : Nat) : Bool := (s.group a.gid).any (fun g => g.seen.contains id)
  let atomic : Bool := match a.kind with | .atomic _ _ _ => true | _ => false
  f.id != a.id && f.loc.overlaps f.size a.loc a.size
    && ((a.after.contains f.id && a.waitsOn f) || (atomic && seen f.id) || (a.isPoll && f.core == a.core && f.l1.isSome))

/-- Does an access wait for any access in flight? -/
def State.blocked (s : State) (a : Access) : Bool := s.flight.any (s.blockedBy a)

/-- Stores of a core to a line that its home has not acknowledged (R119). -/
def State.unackedIn (s : State) (core : Nat) (host : Bool) (line : Nat) : List Access :=
  (s.flight ++ s.unacked).filter (fun f => f.core == core && f.kind == .store
    && (match f.loc.cached with | some (h, a) => h == host && a / 128 == line | none => false))

/-- Does a load that fetches its line wait for acknowledgements (R119): a miss for any store of the core to the line, a merging fill for
one whose bytes lie in an invalid word? A store that issued after the load counts once it is in the L1. -/
def State.fillWaits (s : State) (a : Access) (host : Bool) (pa : Nat) : Bool :=
  let stores := (s.unackedIn a.core host (pa / 128)).filter (fun f => f.l1.isSome || decide (f.id < a.id))
  match (s.core a.core).line host (pa / 128) with
  | none => !stores.isEmpty
  | some l =>
    stores.any (fun f => match f.loc.cached with
      | some (_, b) => wordMask b f.size &&& ~~~l.valid != 0
      | none => false)

/-- Stores of one core to one byte reach their home in the order in which they were written into the L1 (R122): does an earlier one stand in the
way? -/
def Access.behind (a f : Access) : Bool :=
  f.core == a.core && f.kind == .store && f.loc.overlaps f.size a.loc a.size
    && (match f.l1, a.l1 with | some j, some k => decide (j < k) | _, _ => false)

/-- Does a store wait for one written into its core's L1 before it? -/
def State.behindL1 (s : State) (a : Access) : Bool := s.flight.any a.behind

/-- May a global access be performed now (R107, R119, R122, R124, R134, R338): a load at the L1 if its words are valid there, else at its home; a store
at the L1, or at its home once it has been there; an atomic at its home? -/
def State.homeReady (s : State) (a : Access) : Bool :=
  !s.lineHeld a.loc && !(s.ctx a.vf).parks.any (fun e => e.work == .access a.id) && (match a.kind with
    | .load => !s.blocked a && (a.const || s.inL1 a.core a.loc a.size
        || (match a.loc.cached with | some (h, pa) => !s.fillWaits a h pa | none => false))
    | .store => if a.l1.isNone then !s.blocked a && !s.moving a.vf a.va else !s.behindL1 a && !s.storeHeld a.vf a.va a.size
    | .atomic _ _ _ => !s.blocked a && !s.moving a.vf a.va)

/-! ### What is performed -/

/-- The access leaves the list of those in flight. -/
def State.landed (s : State) (a : Access) : State := { s with flight := s.flight.filter (fun f => f.id != a.id) }

/-- The access awaits the acknowledgement of its home. -/
def State.unack (s : State) (a : Access) : State := { s with unacked := s.unacked ++ [a] }

/-- The stores on their way to their homes that a load at the L1 observes (R125): its group has seen them from now on, and a fence that waits for this load at a scope that leaves the core waits for
them too (R127, R128). -/
def State.observe (s : State) (a : Access) : State :=
  let ids := (s.flight.filter (fun f => f.core == a.core && f.l1.isSome && f.loc.overlaps f.size a.loc a.size)).map (·.id)
  if a.helper || ids.isEmpty then s
  else s.onGroup a.gid (fun g => { g with
    seen := s.seenIds g ++ ids
    paths := g.paths.map (fun t => match t.wait with
      | .fence l sc c => if l.contains a.id && decide (2 ≤ sc) then { t with wait := .fence (l ++ ids) sc c } else t
      | _ => t) })

/-- An LDC is performed: the constant cache answers it, or its home does, which leaves its 8-byte word in the cache (R100); which of the two, when
the cache holds the word, is an open choice. -/
def State.loadConst (s : State) (a : Access) (host : Bool) (pa : Nat) : State :=
  let at_ (p n : Nat) : Nat := s.readLoc (if host then .host p else .hbm p) n
  let k := s.core a.core
  let home := s.setCore a.core { k with cc := cachePut Config.constWords (constKey a.vf a.va) (dw (at_ (pa / 8 * 8) 8)) k.cc }
  let put (t : State) (v : Nat) : State := t.fill a.gid (a.dest.items a.ops a.size v)
  match k.cc.find? (fun e => e.1 == constKey a.vf a.va) with
  | some e => if s.choice % 2 = 0 then put s.spend (e.2.toNat / 2 ^ (8 * (a.va % 8)) % 2 ^ (8 * a.size)) else put home.spend (at_ pa a.size)
  | none => put home (at_ pa a.size)

/-- A load is performed: at the L1 when its words are valid there (R120); else its line comes from the home and fills the L1's invalid words, and the
load returns the merged bytes (R113). -/
def State.loadHome (s : State) (a : Access) (host : Bool) (pa : Nat) : State :=
  if a.const then s.loadConst a host pa
  else
    let k := if s.inL1 a.core a.loc a.size then s.core a.core else (s.core a.core).fillL1 (s.homeLine host (pa / 128))
    let v := match k.line host (pa / 128) with | some l => l.read pa a.size | none => 0
    ((s.setCore a.core k).observe a).fill a.gid (a.dest.items a.ops a.size v)

/-- An atomic at its performing point (R131, R132): its positions one after another. -/
def State.atomicAt (s : State) (a : Access) (op type : Nat) (ret : Bool) : State :=
  let r := atomRun op type a.ops (s.readLoc a.loc a.size)
  let s := s.writeNum a.loc a.size r.1 none a.vf
  if ret then s.fill a.gid (atomItems a.dest a.ops a.size r.2) else s

/-- The value that a store carries. -/
def Access.value (a : Access) : Nat := ((a.ops.map (fun o => o.x.toNat)).headD 0) % 2 ^ (8 * a.size)

/-- A store is written into its core's L1 (R112, R125), on its way to its home. -/
def State.storeAtL1 (s : State) (a : Access) (host : Bool) (pa : Nat) : State :=
  let s := s.setCore a.core ((s.core a.core).storeL1 host pa a.size a.value)
  State.named { s with flight := updWhere (fun f => f.id == a.id) (fun f => { f with l1 := some s.nextId }) s.flight }

/-- GLOBAL_ACCESS_AT_HOME (R120, R125): one access in flight is performed at its line's L2 home, a load with valid words at the L1. A store takes it
twice: it is written into the L1, and then performed at its home (log entry 98). -/
def execGlobalAccessAtHome (id : Nat) (s : State) : Host.Outcome State Fault Refusal :=
  match s.flight.find? (fun f => f.id == id) with
  | none => .fault .notDue
  | some a =>
    match a.loc.cached with
    | none => .fault .notDue
    | some (host, pa) =>
      let t := s.landed a
      let t := match a.kind with
        | .load => t.loadHome a host pa
        | .store =>
          if a.l1.isNone then s.storeAtL1 a host pa
          else ((t.writeNum a.loc a.size a.value (some a.core) a.vf).contribute a.vf a.va a.size).unack a
        | .atomic op type ret => if ret then t.atomicAt a op type true else (t.atomicAt a op type false).unack a
      s.event (s.homeReady a) t

/-- SCRATCHPAD_REMOTE_ACCESS (R94): one scratchpad access in flight, through the cluster window or of the own block, is
performed at the owning bank: not before the block has started (R45), nor on a pending line (R135). -/
def execScratchpadRemoteAccess (id : Nat) (s : State) : Host.Outcome State Fault Refusal :=
  match s.flight.find? (fun f => f.id == id) with
  | none => .fault .notDue
  | some a =>
    match a.loc with
    | .scr b _ =>
      let t := s.landed a
      let t := match a.kind with
        | .load => t.spend.fill a.gid (a.dest.items a.ops a.size (s.readLoc a.loc a.size))
        | .store => t.writeNum a.loc a.size a.value none a.vf
        | .atomic op type ret => (t.atomicAt a op type ret).spend
      s.event (s.shareReady b && !s.lineHeld a.loc && !s.blocked a) t
    | _ => .fault .notDue

/-! ### Refresh (R97, R118) -/

/-- Is a die's weight store past its refresh of this bank? -/
def weightWaits (window : Nat) (a : Access) (die : Nat) : Bool :=
  match a.loc with | .weight d w => d == die && w / 4096 % 64 == window % 64 | _ => false

/-- WEIGHT_REFRESH_WINDOW (R97): the window ends and the next bank begins; a change of mode takes effect at a rotation
boundary; reads that waited for the old bank complete. -/
def execWeightRefreshWindow (die : Nat) (s : State) : Host.Outcome State Fault Refusal :=
  let d := s.die die
  let next := (d.window + 1) % 64
  let d' : Die := { d with window := next, phase := 0, cycles := d.cycles + d.windowCycles, hot := if next = 0 then d.hotNext else d.hot }
  let isWeight (a : Access) : Bool := match a.loc with | .weight k _ => k == die | _ => false
  let ready := s.flight.filter (fun a => isWeight a && !weightWaits next a die)
  let t := ready.foldl (fun t a => (t.landed a).fill a.gid (a.dest.items a.ops a.size (s.readLoc a.loc a.size))) (s.setDie die d')
  s.event (s.dieOn die) t

/-- HBM_REFRESH (R118): a refresh of layer `layer` of stack `stack` changes nothing that a program reads. -/
def execHbmRefresh (stack layer : Nat) (s : State) : Host.Outcome State Fault Refusal :=
  s.event (decide (stack < 24) && decide (layer < 16) && s.dieOn (stack / 6)) s

/-! ### Stacked layers (R114, R115) -/

/-- Write back a layer's dirty lines: their data is in HBM from now on. -/
def State.flushLayer (s : State) (layer : Nat) : State := { s with dirty := s.dirty.filter (fun d => d.layer != layer) }

/-- The state of a stacked layer (R382): 0 in service, 1 clock-gated, 2 retention, 3 held by table T1, 4 by a thermal lock. -/
def State.layer (s : State) (k : Nat) : Nat := fget 0 s.manage.layers k
def State.setLayer (s : State) (k v : Nat) : State :=
  let m := s.manage
  { s with manage := { m with layers := fset 0 m.layers k v } }

/-- LAYER_WAKE (R115): a gated or retention layer that is not held wakes, and the hit completes. -/
def execLayerWake (layer : Nat) (s : State) : Host.Outcome State Fault Refusal :=
  s.event (s.layer layer == 1 || s.layer layer == 2) (s.setLayer layer 0)

/-- LAYER_GATE (R115): an idle layer is gated or put into retention after its dirty lines are written back. -/
def execLayerGate (layer : Nat) (mode : BitVec 2) (s : State) : Host.Outcome State Fault Refusal :=
  s.event (decide (layer < 16) && s.dieOn (layer / 4) && decide (s.layer layer ≤ 2) && (mode == 1 || mode == 2))
    ((s.flushLayer layer).setLayer layer mode.toNat)

end Sys2Proof.Machine
end

