-- ==== Sys2Proof/Machine/Launch.lean ====
section
/-! DEFINITION. The dispatchers: launch records and their checks (03 R40-R42, R393), placement (R44, R45, R51, R345, R394),
grid completion (R43, R139). -/
namespace Sys2Proof.Machine

/-! ### The launch record (R40) -/

/-- A launch record as read: its eight first words and whether its reserved bytes are zero. -/
structure LaunchRec where
  entry : Dword
  ktab : Dword
  shape : Dword
  grid : Dword
  alloc : Dword
  doneRec : Dword
  tag : Dword
  restZero : Bool
  deriving DecidableEq, Repr

/-- Fields of SHAPE, GRID and ALLOC. -/
def shKcount (w : Dword) : Nat := dfield w 43 37
def shDies (w : Dword) : Nat := dfield w 36 33
def shPrio (w : Dword) : Nat := dfield w 32 31
def shRound (w : Dword) : Nat := dfield w 30 28
def shHelp (w : Dword) : Bool := dbit w 27
def shAtiles (w : Dword) : Nat := dfield w 26 22
def shBlocks (w : Dword) : Nat := dfield w 21 17
def shGroups (w : Dword) : Nat := dfield w 16 12
def shVregs (w : Dword) : Nat := dfield w 11 4
def shE (w : Dword) : Nat := 2 ^ dfield w 3 2
def shW (w : Dword) : Nat := 16 * 2 ^ dfield w 1 0
def gridClusters (w : Dword) : Nat := dfield w 15 0 * dfield w 31 16 * dfield w 47 32
def alXext (w : Dword) : Nat := dfield w 24 19
def alDstk (w : Dword) : Nat := dfield w 18 11
def alScr (w : Dword) : Nat := dfield w 10 0

/-- A block's scratchpad in bytes (R41, R92). -/
def blockBytes (shape alloc : Dword) : Nat := alScr alloc * 256 + shGroups shape * (alDstk alloc * 64 + alXext alloc * 576)

/-- The record of 32 words. -/
def launchOf (ws : List Dword) : LaunchRec :=
  let w (i : Nat) : Dword := ws.getD i 0
  { entry := w 0, ktab := w 1, shape := w 2, grid := w 3, alloc := w 4, doneRec := w 5, tag := w 6,
    restZero := (ws.drop 7).all (· == 0) }

/-! ### Room (R34, R44, R253, R345) -/

/-- What a group takes of a partition. -/
structure Occ where
  part : Nat
  w : Nat
  e : Nat
  off : Nat
  v : Nat
  helpers : Bool
  tiles : Nat
  deriving DecidableEq, Repr

/-- Rows that groups take of a half of a partition. -/
def occRows (l : List Occ) (p half : Nat) : Nat :=
  ((l.filter (fun o => o.part == p)).map (fun o => rowsOf o.w o.e o.off o.v o.helpers half)).sum

/-- Do the groups of a partition fit it: rows of both halves, tiles, 32 groups? -/
def occOk (l : List Occ) (p : Nat) : Bool :=
  let mine := l.filter (fun o => o.part == p)
  decide (occRows l p 0 ≤ Config.rowsPerHalf) && decide (occRows l p 1 ≤ Config.rowsPerHalf)
  && decide ((mine.map (·.tiles)).sum ≤ Config.tilesPerPart) && decide (mine.length ≤ Config.groupsPerPart)

/-- Place one group on a partition: a group of W = 16 takes offset 0 when no other of that width holds it there and half 0 has
the rows (R345), else offset 16. -/
def occPlace (l : List Occ) (o : Occ) : Option (List Occ) :=
  let zero := l ++ [{ o with off := 0 }]
  let high := l ++ [{ o with off := 16 }]
  let free := !l.any (fun k => k.part == o.part && k.w == 16 && k.off == 0)
  if o.w = 16 then
    if free && occOk zero o.part then some zero else if occOk high o.part then some high else none
  else if occOk zero o.part then some zero else none

/-- Place groups `i` to `n - 1` of a block on the partitions of a core that has accepted `p` blocks (R44). -/
def occBlock (core p : Nat) (o : Occ) : Nat → Nat → List Occ → Option (List Occ)
  | 0, _, l => some l
  | n + 1, i, l =>
    match occPlace l { o with part := 4 * core + (i + p) % 4 } with
    | some l => occBlock core p o n (i + 1) l
    | none => none

/-- What the groups resident on a core take. -/
def State.occOn (s : State) (core : Nat) : List Occ :=
  (s.groups.filter (fun g => coreOf g.part == core)).map (fun g =>
    { part := g.part, w := g.w, e := g.e, off := g.laneOff, v := g.vcur, helpers := g.helpers, tiles := g.atiles * g.e })

/-- What one group of a shape takes. -/
def shapeOcc (w : Dword) : Occ :=
  { part := 0, w := shW w, e := shE w, off := 0, v := shVregs w, helpers := shHelp w, tiles := shAtiles w * shE w }

/-- Cores of a die in service (R377). -/
def State.dieCores (s : State) : Nat := if s.manage.mode = 2 then Config.minimalCores else Config.coresPerDie

/-- The dies a launch names (R40). -/
def State.launchDies (s : State) (shape : Dword) : List Nat :=
  (List.range 4).filter (fun d => if shDies shape = 0 then s.dieOn d else (shDies shape).testBit d)

/-- The cause with which a launch record is rejected, 0 if none (R41, R358). -/
def State.launchCause (s : State) (r : LaunchRec) : Nat :=
  let sh := r.shape
  if !r.restZero || dfield sh 63 44 != 0 || dfield r.grid 63 48 != 0 || dfield r.alloc 63 25 != 0 then 1
  else if 64 < shKcount sh || 5 < shRound sh || 16 < shAtiles sh || shBlocks sh == 0 || 16 < shBlocks sh || shGroups sh == 0
    || 16 < shGroups sh || shVregs sh < 8 || 128 < shVregs sh || dfield sh 1 0 == 3 || gridClusters r.grid == 0 || 1024 < alScr r.alloc
  then 2
  else if 256 < shE sh * shW sh then 3
  else if r.entry.toNat % 4 != 0 || 2 ^ 52 ≤ r.entry.toNat then 4
  else if Config.scratchBytes < blockBytes sh r.alloc then 5
  else if (occBlock 0 0 (shapeOcc sh) (shGroups sh) 0 []).isNone then 6
  else if (s.launchDies sh).all (fun _ => decide (s.dieCores < shBlocks sh)) && !(s.launchDies sh).isEmpty then 7
  else if (List.range 4).any (fun d => (shDies sh).testBit d && !s.dieOn d) then 8
  else if (shKcount sh != 0 && r.ktab.toNat % 8 != 0) || (r.doneRec != 0 && r.doneRec.toNat % 64 != 0) then 9
  else 0

/-! ### Reading (R40-R42) -/

/-- What stops the reading of a dispatcher or a sequencer at an address: a fault, a miss, a word of a peer page that has not come, a line that
an engine owns. -/
inductive ReadStop where
  | fault (code va : Nat)
  | miss (demand : Bool) (va : Nat)
  | away (va dev pa : Nat)
  | held
  deriving DecidableEq, Repr

/-- Read `n` words at a virtual address for a launch of a queue. -/
def State.launchWords (s : State) (vf : Nat) (spawn : Bool) : Nat → Nat → Except ReadStop (List Dword)
  | 0, _ => .ok []
  | n + 1, va =>
    let next (w : Dword) : Except ReadStop (List Dword) := (s.launchWords vf spawn n (va + 8)).map (fun ws => w :: ws)
    match s.access vf va false 8 with
    | .fault code _ => .error (.fault code va)
    | .miss d => .error (.miss d va)
    | .at_ (.peer d pa) =>
      match (s.ctx vf).launchBuf.find? (fun e => e.1 == 2 * va + b2n spawn) with
      | some e => next e.2
      | none => .error (.away va d pa)
    | .at_ l => if s.lineHeld l then .error .held else next (dw (s.readLoc l 8))

/-- The pages of `n` words read for a launch (R104). -/
def State.launchTouch (s : State) (vf va n : Nat) : State :=
  (linesOf va (8 * n)).foldl (fun s k =>
    let a := if 128 * k < va then va else 128 * k
    match s.access vf a false 1 with | .at_ l => s.touch vf a false l | _ => s) s

/-- The words of the next launch record of a queue with its address, if there is one: the launch ring's entry in host memory,
or the record that the spawn queue names. -/
def State.nextRecord (s : State) (vf : Nat) (spawn : Bool) : Option (Nat × Except ReadStop (List Dword)) :=
  if spawn then
    match (s.ctx vf).spawnq with
    | [] => none
    | a :: _ => some (a, s.launchWords vf true 32 a)
  else
    let k := s.ring vf 0
    if k.en && k.used != 0 then
      let a := k.entryAt 0 k.ci.toNat
      some (a, .ok (tab 32 (fun i => dw (readBytes s.host (a + 8 * i) 8))))
    else none

/-- The next launch of a queue is read from the start: words of peers read for it before are forgotten (R42, R393). -/
def Ctx.reread (c : Ctx) (spawn : Bool) : Ctx := { c with launchBuf := c.launchBuf.filter (fun e => e.1 % 2 != b2n spawn) }

/-- The TAG that an entry about a launch carries: 0 when the record itself could not be read (R41). -/
def recordTag (w : Except ReadStop (List Dword)) : Dword := match w with | .ok ws => (launchOf ws).tag | .error _ => 0

/-- The record is taken from its queue. -/
def State.popRecord (s : State) (vf : Nat) (spawn : Bool) : State :=
  let c := (s.ctx vf).reread spawn
  if spawn then s.setCtx vf { c with spawnq := c.spawnq.drop 1 }
  else
    let k := s.ring vf 0
    (s.setCtx vf c).setRing vf 0 { k with ci := k.ci + 1 }

/-- A launch-invalid entry (R41, R358). -/
def State.launchInvalid (s : State) (vf cause addr code : Nat) (tag : Dword) : State := s.postReport vf 4 cause addr code tag

/-- Now on every die, as base-die cycles. -/
def State.dieTimes (s : State) : FMap Nat :=
  (List.range 4).foldl (fun m d => fset 0 m d (s.die d).cycles) []

/-- An accepted launch (R40, R43, R99). -/
def State.acceptLaunch (s : State) (vf : Nat) (spawn replay : Bool) (addr : Nat) (r : LaunchRec) (k : List Dword) : State :=
  let l : Launch :=
    { id := s.nextId, vf := vf, spawn := spawn, recAddr := addr, entry := r.entry.toNat, shape := r.shape, grid := r.grid,
      alloc := r.alloc, doneRec := r.doneRec, tag := r.tag, k := k, nextCluster := 0, progress := [],
      waitSince := s.dieTimes, blocksLeft := gridClusters r.grid * shBlocks r.shape, replay := replay, gids := [], cores := [] }
  State.named { s with launches := s.launches ++ [l] }

/-- What a dispatcher's reading stops on: the report or the hold of the queue, or a read of a peer page. -/
def State.launchStop (s : State) (vf : Nat) (spawn : Bool) (addr : Nat) (tag : Dword) (e : ReadStop) : State :=
  match e with
  | .fault code va => ((s.reportPois vf 0 { FaultInfo.of code with daddr := va }).launchInvalid vf 10 addr code tag).popRecord vf spawn
  | .miss d va =>
    let (t, s) := s.parkEntry vf (.launch spawn) (if d then 1 else 2) 9 none false false va 0 tag
    let c := (s.ctx vf).reread spawn
    s.setCtx vf { c with heldLaunch := c.heldLaunch ++ [(spawn, t)] }
  | .held => s
  | .away va d pa => (s.touch vf va false (.peer d pa)).request vf d (carriageway pa) 0 1 pa [] (.launchRead vf spawn va) []

/-- May dispatchers read a record of a queue now (R42, R386, R393)? -/
def State.queueOpen (s : State) (vf : Nat) (spawn : Bool) : Bool :=
  (s.ctx vf).st == .live && (s.manage.mode != 2 || vf == 0) && !(s.ctx vf).heldLaunch.any (fun h => h.1 == spawn)
  && (spawn || match s.replay with | some r => r.cmd.vf != vf | none => true)
  && !(s.reqs ++ s.waitReqs).any (fun r => match r.body with | .launchRead v q _ => v == vf && q == spawn | _ => false)

/-- LAUNCH_RECORD_ACCEPT (R40-R42): the next record of a queue is read with its uniform table, and accepted, held or rejected
with the first cause that holds. -/
def execLaunchRecordAccept (vf : Nat) (spawn : Bool) (s : State) : Host.Outcome State Fault Refusal :=
  match s.nextRecord vf spawn with
  | none => .fault .notDue
  | some (addr, .error e) => s.event (s.queueOpen vf spawn && e != .held) (s.launchStop vf spawn addr 0 e)
  | some (addr, .ok ws) =>
    let r := launchOf ws
    let cause := s.launchCause r
    let t := if spawn then s.launchTouch vf addr 32 else s
    if cause ≠ 0 then s.event (s.queueOpen vf spawn) ((t.launchInvalid vf cause addr 0 r.tag).popRecord vf spawn)
    else match s.launchWords vf spawn (shKcount r.shape) r.ktab.toNat with
      | .error e => s.event (s.queueOpen vf spawn && e != .held) (t.launchStop vf spawn addr r.tag e)
      | .ok k =>
        s.event (s.queueOpen vf spawn)
          (((t.launchTouch vf r.ktab.toNat (shKcount r.shape)).acceptLaunch vf spawn false addr r k).popRecord vf spawn)

/-! ### Placement (R26, R44, R45, R165) -/

/-- Has a launch a cluster that is still to begin? -/
def Launch.waits (l : Launch) : Bool := decide (l.nextCluster < gridClusters l.grid)

/-- The launch of a queue that still has blocks to place, the first of them (R394): a later launch waits also for the clusters in
progress of an earlier one (log entry 94). -/
def State.frontLaunch (s : State) (vf : Nat) (spawn : Bool) : Option Launch :=
  s.launches.find? (fun l => l.vf == vf && l.spawn == spawn && (l.waits || !l.progress.isEmpty))

/-- The lowest resident index of a partition that no resident group holds (R26). -/
def State.freeSlot (s : State) (p : Nat) : Nat :=
  let used := (s.resident p).map (·.slot)
  ((List.range 32).find? (fun i => !used.contains i)).getD 0

/-- The identifier given at a resident index, and the GEN that comes next there: values that another group holds, resident or
switched out, are passed over (R26, R357). -/
def State.newGid (s : State) (p slot : Nat) : Gid × State :=
  let k := s.part p
  let n := fget 0 k.gens slot
  let mk (gen : Nat) : Gid := BitVec.ofNat 40 (at' (p / 4) 30 + at' (p % 4) 28 + at' slot 23 + gen % 2 ^ 23)
  let kept := s.groups.map (·.gid) ++ s.ctxs.flatMap (fun e => e.2.saved.groups.map (·.gid))
  let i := ((List.range (kept.length + 1)).find? (fun i => !kept.contains (mk (n + i)))).getD 0
  (mk (n + i), s.setPart p { k with gens := fset 0 k.gens slot ((n + i + 1) % 2 ^ 23) })

/-- The only path of a placed group (R29). -/
def Path.root (pc : Nat) (mask : Mask) (now : Nat) : Path :=
  { id := 0, pc := pc, mask := mask, rpc := 0, pending := 0, parent := none, takenChild := false, joinNext := none, fetched := none, code := [],
    widx := 0, entered := false, resumeAt := 0, count := 0, fresh := true, wait := .none, readyAt := now, lastLeg := 0, passed := 0, aged := false,
    classAged := false, only := none, starts := [], takenStarts := [], fallStarts := [] }

/-- A group as placed (R29, R40, R165). -/
def Launch.group (l : Launch) (gid : Gid) (slot uid cluster blockNo i off now : Nat) : Group :=
  let w := shW l.shape
  let e := shE l.shape
  { gid := gid, vf := l.vf, launch := l.id, block := uid, part := partOfGid gid, slot := slot, cluster := cluster, blockNo := blockNo,
    groupNo := i, w := w, e := e, laneOff := off, vregs := shVregs l.shape, vcur := shVregs l.shape, helpers := shHelp l.shape,
    atiles := shAtiles l.shape, xext := alXext l.alloc, dstack := alDstk l.alloc, blocks := shBlocks l.shape,
    groups := shGroups l.shape, round := shRound l.shape, prio := shPrio l.shape, tag := l.tag, k := l.k, v := [], vEmpty := [],
    sh := [], shEmpty := [], shLive := [], shOwner := [], s := [], sEmpty := 0, sTicket := 0, m := [], q := [], x := [],
    tiles := [], slots := [], fstat := [], paths := [Path.root l.entry (lowMask (w * e)) now], nextPath := 1, backoff := 0,
    polling := none, park := .none, tokens := [], chain := 0, cap := CapState.none, aggLost := 0, aggLog := [], latch := none,
    fault := none, stopped := false, sig := 0 }

/-- The groups of a block join their partitions. -/
def State.addGroups (s : State) (l : Launch) (uid cluster blockNo now : Nat) : List Occ → Nat → State
  | [], _ => s
  | o :: os, i =>
    let slot := s.freeSlot o.part
    let (gid, s) := s.newGid o.part slot
    let s : State := { s with groups := s.groups ++ [l.group gid slot uid cluster blockNo i o.off now],
                              launches := updWhere (fun k => k.id == l.id) (fun k => { k with gids := k.gids ++ [gid] }) s.launches }
    s.addGroups l uid cluster blockNo now os (i + 1)

/-- Scratchpad of a core in use by its blocks. -/
def State.scratchUsed (s : State) (core : Nat) : Nat :=
  ((s.blocks.filter (fun b => b.core == core)).map (fun b => b.scr * 256 + b.ngroups * (b.dstk * 64 + b.xext * 576))).sum

/-- Has a core room for a block of a launch, and where do its groups go (R44)? -/
def State.roomOn (s : State) (l : Launch) (core : Nat) : Option (List Occ) :=
  let base := s.occOn core
  if decide (core % 256 < s.dieCores) && decide ((s.blocks.filter (fun b => b.core == core)).length < Config.blocksPerCore)
    && decide (s.scratchUsed core + blockBytes l.shape l.alloc ≤ Config.scratchBytes) then
    (occBlock core (s.core core).accepted (shapeOcc l.shape) (shGroups l.shape) 0 base).map (fun o => o.drop base.length)
  else none

/-- The queues whose next cluster may go to a die (R394): those with a cluster to begin, of a live context, that name it. -/
def State.queuesOn (s : State) (die : Nat) : List Launch :=
  (((s.launches.map (fun l => (l.vf, l.spawn))).eraseDups).filterMap (fun q => s.frontLaunch q.1 q.2)).filter (fun l =>
    l.waits && (s.ctx l.vf).st == .live && (s.launchDies l.shape).contains die)

/-- The queue that holds a die because its next cluster has waited 65,536 base-die cycles for it (R394): the one that came to that
first. -/
def State.agedQueue (s : State) (die : Nat) : Option (Nat × Bool) :=
  let d := s.die die
  let since (l : Launch) : Nat := fget 0 l.waitSince die
  d.agedFor.or (((s.queuesOn die).filter (fun l => decide (since l + 65536 ≤ d.cycles))).foldl (fun (best : Option Launch) l =>
    match best with | some b => if since l < since b then some l else some b | none => some l) none |>.map (fun l => (l.vf, l.spawn)))

/-- Is a cluster in progress on a die (R45)? A later cluster waits for it, also one of another queue, which R45 and R394 leave open (log
entry 95); a cluster whose context is stopped holds nothing. -/
def State.dieBusy (s : State) (die : Nat) : Bool :=
  s.launches.any (fun l => l.progress.any (fun q => q.die == die)
    && (match (s.ctx l.vf).st with | .live => true | .stopping _ => true | _ => false))

/-- Does a weight copy of a function to a die keep its blocks away (R98)? -/
def State.weightCopying (s : State) (die vf : Nat) : Bool :=
  s.xfers.any (fun t => t.vf == vf && t.st != .queued && (t.req.opcode == 0x68 || t.req.opcode == 0x69) && t.req.dsp == 2
    && t.req.ddie == die && t.st != .finished)

/-- May a die's dispatcher take a queue's next cluster as far as other work goes: no cluster in progress (R45), no other queue aged
there (R394), no weight copy of the function to it running (R98)? -/
def State.dieOpen (s : State) (die : Nat) (l : Launch) : Bool :=
  s.dieOn die && !s.dieBusy die && (match s.agedQueue die with | some q => q == (l.vf, l.spawn) | none => true)
  && !s.weightCopying die l.vf

/-- Is there room on some core of a die for block 0 of a launch's next cluster? -/
def State.dieRoom (s : State) (die : Nat) (l : Launch) : Bool :=
  s.dieOpen die l && (List.range s.dieCores).any (fun i => (s.roomOn l (256 * die + i)).isSome)

/-- Is it a queue's turn on a die (R394): not visited in this round, or the round is over, since every queue whose cluster finds room
there has been visited? -/
def State.turnOf (s : State) (die : Nat) (l : Launch) : Bool :=
  let seen := (s.die die).visited
  !seen.contains (l.vf, l.spawn) || ((s.queuesOn die).filter (s.dieRoom die)).all (fun k => seen.contains (k.vf, k.spawn))

/-- The cluster and block number that a queue's launch places next on a die: the one after those placed of a cluster in progress there,
or block 0 of its next cluster. -/
def Launch.nextOn (l : Launch) (die : Nat) : Nat × Nat :=
  match l.progress.find? (fun q => q.die == die) with
  | some q => (q.cluster, q.next)
  | none => (l.nextCluster, 0)

/-- May the next block of a queue go to a core of a die (R24, R44, R45, R394)? The blocks of a cluster take distinct cores of its die; a
new cluster goes to the lowest named die with room whose dispatcher may take it. -/
def State.placeable (s : State) (die : Nat) (l : Launch) (core : Nat) : Bool :=
  (s.ctx l.vf).st == .live && dieOfCore core == die && s.dieOn die
  && (match l.progress.find? (fun q => q.die == die) with
    | some q => !q.cores.contains core && !s.weightCopying die l.vf
    | none => l.waits && (s.launchDies l.shape).contains die && s.dieOpen die l && s.turnOf die l
        && (s.launchDies l.shape).all (fun d => decide (die ≤ d) || !(s.dieRoom d l && s.turnOf d l)))

/-- A queue's next cluster is another one from now, so that its wait begins (R394). -/
def State.restartWait (s : State) (vf : Nat) (spawn : Bool) : State :=
  match s.frontLaunch vf spawn with
  | none => s
  | some f => { s with launches := updWhere (fun k => k.id == f.id) (fun k => { k with waitSince := s.dieTimes }) s.launches }

/-- After a block has been placed on a core of a die: the cluster's next block, or none (R43). A cluster that begins ends the wait of its
queue and its turn (R394). -/
def State.advanceLaunch (s : State) (die core : Nat) (l : Launch) : State :=
  let n := l.nextOn die
  let full := decide (shBlocks l.shape ≤ n.2 + 1)
  let old := l.progress.find? (fun q => q.die == die && q.cluster == n.1)
  let run : ClusterRun := { die := die, cluster := n.1, next := n.2 + 1, cores := core :: (match old with | some q => q.cores | none => []) }
  let rest := l.progress.filter (fun q => !(q.die == die && q.cluster == n.1))
  let step (k : Launch) : Launch :=
    { k with nextCluster := if old.isSome then k.nextCluster else k.nextCluster + 1, progress := if full then rest else rest ++ [run] }
  let t : State := { s with launches := updWhere (fun k => k.id == l.id) step s.launches }
  let q := (l.vf, l.spawn)
  if old.isSome then (if l.waits then t else t.restartWait l.vf l.spawn)
  else
    let seen := (t.die die).visited
    let t := t.setDie die { t.die die with visited := if seen.contains q then [q] else seen ++ [q] }
    let t := (List.range 4).foldl (fun t d => if (t.die d).agedFor = some q then t.setDie d { t.die d with agedFor := none } else t) t
    t.restartWait l.vf l.spawn

/-- Does an engine request stand still because this block has not started (R45): its next piece, what it reads for it, its list's next entry, or a piece
owed to it? -/
def Xfer.stalledOn (t : Xfer) (uid : Nat) : Bool :=
  let hits (v : Share) (a : Nat) : Bool := (scrTarget v a).any (fun e => e.1 == uid)
  let p := t.req.piece t.bytes
  t.owed.any (fun e => e.1 == uid)
  || (t.st == .running && (if t.req.opcode = 0x6B then hits t.share (dfield t.req.r0 31 0 + 32 * t.started)
    else (t.req.opcode == 0x68 || t.req.opcode == 0x69 || t.req.opcode == 0x6A) && !t.whole
      && (((t.req.isHalo || t.req.dsp == 1) && t.shares.any (fun v => hits v p.dst))
        || (!t.req.isHalo && t.req.ssp == 1 && (t.runs p).any (fun r => match r.src with | .inl a => hits t.share a | .inr _ => false)))))

/-- The accesses and engine requests that stalled on a block: from now on they are performed, in the order in which they reach its banks, before any
group of the block issues its first leg (R51). -/
def State.arrivalsOf (s : State) (uid : Nat) : List (Nat × Nat) :=
  (s.flight.filter (fun a => match a.loc with | .scr b _ => b == uid | _ => false)).map (fun a => (a.id, 0))
  ++ (s.xfers.filter (fun t => t.stalledOn uid)).map (fun t => (t.id, t.bytes + t.started))

/-- BLOCK_PLACEMENT (R44): the next block of a queue's launch is placed on a core of a die that has room, and starts. -/
def execBlockPlacement (die vf : Nat) (spawn : Bool) (core : Nat) (s : State) : Host.Outcome State Fault Refusal :=
  match s.frontLaunch vf spawn with
  | none => .fault .notDue
  | some l =>
    match s.roomOn l core with
    | none => .fault .notDue
    | some occ =>
      let no := (l.nextOn die).2
      let cw := clusterWord l.grid (l.nextOn die).1
      let uid := blockUid l.id cw no
      let b : Block := { uid := uid, vf := vf, launch := l.id, cluster := cw, blockNo := no, core := core,
                         scr := alScr l.alloc, dstk := alDstk l.alloc, xext := alXext l.alloc, ngroups := shGroups l.shape,
                         started := true, left := shGroups l.shape, data := [], arrivals := s.arrivalsOf uid }
      let k := s.core core
      let first := !l.cores.contains core
      let t := s.setCore core { k with accepted := k.accepted + 1, cc := if first then [] else k.cc, ic := if first then [] else k.ic }
      let t : State := { t with blocks := t.blocks ++ [b],
                                launches := updWhere (fun k => k.id == l.id) (fun k => { k with cores := core :: k.cores }) t.launches }
      let t := (t.addGroups l uid cw no k.cycles occ 0).advanceLaunch die core l
      s.event (s.placeable die l core) t

/-- DISPATCH_AGEING (R394): the queue's next cluster has waited 65,536 base-die cycles on a die it names. -/
def execDispatchAgeing (die vf : Nat) (spawn : Bool) (s : State) : Host.Outcome State Fault Refusal :=
  match s.frontLaunch vf spawn with
  | none => .fault .notDue
  | some l =>
    let d := s.die die
    s.event (s.dieOn die && (s.launchDies l.shape).contains die && l.waits && s.agedQueue die == some (vf, spawn) && d.agedFor.isNone
        && decide (fget 0 l.waitSince die + 65536 ≤ d.cycles))
      (s.setDie die { d with agedFor := some (vf, spawn) })

/-! ### Completion (R43, R139) -/

/-- Has a launch no block left to place or run, and nothing of its groups still to be performed at system scope? -/
def State.gridDone (s : State) (l : Launch) : Bool :=
  l.blocksLeft == 0 && !l.waits
  && l.gids.all (fun g => !s.unfinished g && !s.xfers.any (fun t => t.gid == g) && !s.tokens.any (fun t => t.gid == g))

/-- GRID_COMPLETION (R43): DONE is updated by -1. -/
def execGridCompletion (launch : Nat) (s : State) : Host.Outcome State Fault Refusal :=
  match s.launches.find? (fun l => l.id == launch) with
  | none => .fault .notDue
  | some l =>
    let t : State := { s with launches := s.launches.filter (fun k => k.id != launch) }
    s.event ((s.ctx l.vf).st == .live && s.gridDone l)
      (if l.doneRec = 0 then t else t.postUpdate l.vf (.glob l.vf l.doneRec.toNat) (-1) .done l.tag [])

end Sys2Proof.Machine
end

