-- ==== Sys2Proof/Machine/Records.lean ====
section
/-! DEFINITION. Stop records and the stop directory as bytes (25 R351-R354, 11 R153, 03 R29): headers, group records, unit
records. The layouts that no rule gives byte by byte are those of log entry 19. -/
namespace Sys2Proof.Machine

/-- A piece of a record: may software edit it (R352, R353)? -/
structure Seg where
  rw : Bool
  bytes : List Byte
  deriving DecidableEq, Repr

/-- A record: the unit and fault it is for, its owner, its KIND, its tag, resume point, and its body after the header. -/
structure StopRec where
  unit : StopUnit
  fault : Option FaultInfo
  owner : Gid
  kind : Nat
  tag : Dword
  resume : Nat
  rword : Nat
  body : List Seg
  deriving DecidableEq, Repr

/-- Zero bytes. -/
def zeros (n : Nat) : List Byte := List.replicate n 0

/-- Bytes padded with zeros to a multiple of 64. -/
def pad64 (bs : List Byte) : List Byte := bs ++ zeros ((64 - bs.length % 64) % 64)

/-- Words as bytes. -/
def wordBytes (ws : List Nat) : List Byte := ws.flatMap (bytesOf 8)

/-! ### The header (R352) -/

/-- H0 of a record. -/
def stopH0 (pre : Bool) (f : Option FaultInfo) : Nat :=
  let p := at' (b2n pre) 36
  match f with
  | none => p
  | some f =>
    let pos := match f.pos with | some (l, e) => at' 1 47 + at' (if f.shd then 0 else e) 44 + at' l 38 | none => 0
    at' f.code 56 + at' f.cause 48 + pos + at' (b2n f.shd) 37 + p

/-- The bytes of a record's body, padded. -/
def StopRec.bodyBytes (r : StopRec) : List Byte := pad64 (r.body.flatMap (·.bytes))

/-- The record's bytes. -/
def StopRec.bytes (r : StopRec) (pre : Bool) : List Byte :=
  let f := r.fault.getD (FaultInfo.of 0)
  wordBytes [stopH0 pre r.fault, f.faddr, f.daddr, r.owner.toNat, at' r.rword 52 + r.resume % 2 ^ 52, r.tag.toNat,
    at' r.kind 32 + (64 + r.bodyBytes.length), 0] ++ r.bodyBytes

/-- Which of its bytes software may edit: RWORD and RESUME, and what the body says. -/
def StopRec.editable (r : StopRec) : List Bool :=
  let flags := r.body.flatMap (fun g => g.bytes.map (fun _ => g.rw))
  tab 64 (fun i => (r.kind == 0 && decide (32 ≤ i) && decide (i < 39))) ++ flags
    ++ List.replicate (r.bodyBytes.length - flags.length) false

/-! ### Group records (R353) -/

/-- A path in the 64-byte form of R29. -/
def Path.bytes (t : Path) : List Byte :=
  wordBytes [t.pc, t.rpc, at' (match t.parent with | some q => q + 1 | none => 0) 8 + t.pending, 0] ++ bytesOf 32 t.mask.toNat

/-- The path at whose word a group stopped: for a fault, the slot whose clause holds the word; else the first slot. -/
def Group.stopPath (g : Group) : Option Path :=
  let here (t : Path) : Bool := match g.fault, t.fetched with
    | some f, some c => decide (c.base ≤ f.faddr) && decide (f.faddr < c.after)
    | _, _ => false
  match g.slotPaths.find? here with | some t => some t | none => g.slotPaths.head?

/-- A path as a stop keeps it: at the header and word where it goes on (R348), waiting for nothing. -/
def Path.kept (t : Path) : Path :=
  { t with resumeAt := if t.fetched.isSome then t.widx else t.resumeAt, fetched := none, code := [], widx := 0, entered := false, wait := .none }

/-- Full bits of registers: bit `r * n + p`. -/
def Group.fullBits (g : Group) (shadow : Bool) : List Byte :=
  let bit (r p : Nat) : Bool := if shadow then !g.shEmptyAt r p else !g.vEmptyAt r p
  let v := (List.range g.vcur).foldl (fun acc r => acc + at' (maskOf g.n (bit r)).toNat (r * g.n)) 0
  bytesOf ((g.vcur * g.n + 7) / 8) v

/-- Values of registers or shadows. -/
def Group.regBytes (g : Group) (shadow : Bool) : List Byte :=
  (List.range g.vcur).flatMap (fun r => (List.range g.n).flatMap (fun p =>
    bytesOf 4 (if shadow then g.sh1 r p else g.v1 r p).toNat))

/-- An entry of the copy request slot. -/
def EngReq.slotBytes (r : EngReq) : List Byte :=
  wordBytes [r.r0.toNat, r.r1.toNat, r.r2.toNat, r.r3.toNat, at' 1 63 + at' r.opcode 56 + at' r.tkt 50 + at' r.fn 43, r.task.toNat]

/-- The binding word of a stream register. -/
def Stream.bindWord (q : Stream) : Nat := match q.bind with | some (slot, r) => at' 1 8 + at' slot 6 + r % 64 | none => 0

/-- P of a stream register (R235). -/
def Stream.posWord (q : Stream) : Nat := at' (b2n (q.total != 0 && q.total == q.pos)) 63 + q.pos % 2 ^ 48

/-- A group's record body; `slot` are the requests in its copy request slot. -/
def Group.record (g : Group) (slot : List Xfer) : List Seg :=
  let ro (b : List Byte) : Seg := ⟨false, b⟩
  let rw (b : List Byte) : Seg := ⟨true, b⟩
  let slots := g.slotPaths
  let path (i : Nat) : List Byte := match slots[i]? with | some t => t.bytes | none => zeros 64
  let count := match g.stopPath with | some t => t.count | none => 0
  let log := (g.aggLog.take 8).flatMap (fun f => bytesOf 8 f.e0.toNat ++ [BitVec.ofNat 8 f.index, BitVec.ofNat 8 f.cause] ++ zeros 6)
  [ro (path 0 ++ path 1),
   rw ((List.range 64).flatMap (fun i => bytesOf 8 (g.sreg i).toNat)),
   ro (wordBytes [(~~~g.sEmpty).toNat, at' g.chain.toNat 24 + at' g.vcur 16 + at' count 11 + at' g.parkCode 8 + g.backoff]),
   rw ((List.range 8).flatMap (fun e => bytesOf 2 (fget 0 g.fstat e).toNat)),
   rw ((List.range 15).flatMap (fun i => bytesOf 32 (g.mreg (i + 1)).toNat)),
   ro ((List.range 8).flatMap (fun i => let q := fget Stream.reset g.q i
     wordBytes [q.q0.toNat, q.q1.toNat, q.q2.toNat, q.posWord, q.bindWord])),
   ro ((List.range 4).flatMap (fun i => match slot[i]? with | some t => t.req.slotBytes | none => zeros 48)),
   ro g.cap.bytes,
   ro (bytesOf 8 (at' g.aggLog.length 16 + g.aggLost) ++ log ++ zeros (128 - log.length)),
   ro (zeros 56),
   ro (pad64 (g.fullBits false)),
   rw (pad64 (g.regBytes false))]
  ++ (if g.helpers then [ro (pad64 (g.fullBits true)), ro (pad64 (g.regBytes true))] else [])
  ++ [rw (pad64 ((List.range 4).flatMap (fun i => (List.range g.n).flatMap (fun p => bytesOf 24 (xaImage (g.xreg i p)))))),
      ro (pad64 ((List.range (g.atiles * g.e)).flatMap (fun k => (List.range 64).flatMap (fun i =>
        bytesOf 24 (xaImage (fget Xa.reset g.tiles (((k / g.e) * 8 + k % g.e) * 64 + i)))))))]

/-- Where the v registers lie in a group's record, from its start. -/
def Group.vOffset (g : Group) : Nat := 2048 + ((g.vcur * g.n + 7) / 8 + 63) / 64 * 64

/-- Where the x registers lie in a group's record, from its start. -/
def Group.xOffset (g : Group) : Nat :=
  let up (n : Nat) : Nat := (n + 63) / 64 * 64
  let one := up ((g.vcur * g.n + 7) / 8) + up (4 * g.vcur * g.n)
  2048 + (if g.helpers then 2 * one else one)

/-! ### Unit records (R354) -/

/-- A record of one read-only piece. -/
def unitRec (u : StopUnit) (f : Option FaultInfo) (owner : Gid) (kind : Nat) (tag : Dword) (b : List Byte) : StopRec :=
  { unit := u, fault := f, owner := owner, kind := kind, tag := tag, resume := 0, rword := 0, body := [⟨false, b⟩] }

/-- A queued or running matrix instruction: its progress, and the operands of the member that it has reached (R354). -/
def MatOp.bytes (o : MatOp) (g : Group) : List Byte :=
  let member := (g.members o.act).getD (o.steps / o.kSteps) 0
  let now := (positions g.n o.act).filter (fun p => g.member p == member)
  bytesOf 4 o.pre.toNat ++ bytesOf 4 o.word.toNat ++ bytesOf 8 o.fbo.toNat ++ o.pairs.flatMap (fun w => bytesOf 8 w.toNat)
  ++ o.idx.flatMap (fun w => bytesOf 4 w.toNat) ++ bytesOf 8 (at' member 56 + at' (o.steps % o.kSteps) 48) ++ bytesOf 32 o.act.toNat ++ bytesOf 32 o.zeroed.toNat
  ++ now.flatMap (fun p => bytesOf 128 (fget 0 o.a p)) ++ o.b.flatMap (bytesOf 128) ++ now.map (fun p => fget 0 o.asc p)

/-- The REUSE latch. -/
def Latch.bytes (l : Latch) : List Byte :=
  wordBytes [l.bop, l.bkind, l.bfmt, l.kb] ++ l.pair.flatMap (fun w => bytesOf 8 w.toNat) ++ l.idx.flatMap (fun w => bytesOf 4 w.toNat)
  ++ l.b.flatMap (bytesOf 128)

/-- The product array's record of a group, if it has one. -/
def State.arrayRecord (s : State) (g : Group) : List StopRec :=
  let ops := (s.part g.part).ops.filter (fun o => o.gid == g.gid)
  if ops.isEmpty && g.latch.isNone then []
  else
    let f := (ops.filterMap (·.fault)).head?
    [unitRec (.array g.part) f g.gid 1 g.tag (ops.flatMap (fun o => o.bytes g) ++ (match g.latch with | some l => l.bytes | none => []))]

/-- The request words. -/
def EngReq.words (r : EngReq) : List Nat := [r.r0.toNat, r.r1.toNat, r.r2.toNat, r.r3.toNat]

/-- The record of a request that an engine has taken; entries of a KICK stand in that of the KICK. -/
def State.xferRecord (s : State) (t : Xfer) : List StopRec :=
  let f := match t.st with | .faulted f => some f | _ => none
  if t.kick.isSome || t.st == .queued || t.req.opcode == 0x6E then []
  else if t.req.opcode = 0x6B then
    let es := s.xfers.filter (fun u => u.kick == some t.id)
    [unitRec t.unit f t.gid 4 t.tag (wordBytes ([t.req.r0.toNat, t.req.r1.toNat, t.started]
      ++ es.flatMap (fun u => u.req.words ++ [u.bytes])))]
  else
    let rows := if t.req.isHalo && t.req.hRowBytes != 0 then [t.bytes / t.req.hRowBytes] else []
    [unitRec t.unit f t.gid (if t.req.isHalo then 3 else 2) t.tag
      (wordBytes (t.req.words ++ [t.req.task.toNat, at' t.req.tkt 58 + t.bytes % 2 ^ 32] ++ rows))]

/-- The record of the tokens that a group has not yet started on a die. -/
def State.routeRecords (s : State) (vf : Nat) : List StopRec :=
  let ts := s.tokens.filter (fun t => t.vf == vf)
  ((ts.map (fun t => (t.die, t.gid, t.tag))).eraseDups).map (fun k =>
    unitRec (.route k.1) none k.2.1 5 k.2.2 (wordBytes ((ts.filter (fun t => t.die == k.1 && t.gid == k.2.1)).flatMap (fun t =>
      t.req.words ++ [at' t.req.tkt 58]))))

/-- The record of the ring sequencers: round and counts of each enabled region. -/
def State.ringRecord (s : State) (vf : Nat) : List StopRec :=
  let c := s.ctx vf
  let on := (List.range 16).filter c.rrEn
  let keys (n : Nat) : List Nat :=
    (List.range (if c.rrLoop n then 4 else 1)).flatMap (fun d => (List.range (c.rrChunks n)).map (chunkKey n d))
  let round (n : Nat) : Nat :=
    match (keys n).map (fun k => fget 0 c.rounds k) with | [] => 0 | r :: rs => rs.foldl (fun a b => if b < a then b else a) r
  if on.isEmpty then []
  else [unitRec .ring none 0 6 0 (on.flatMap (fun n => bytesOf 8 (at' (round n) 32 + n)
    ++ (keys n).flatMap (fun k => bytesOf 4 (if c.ready.contains k then 0 else fget 0 c.counts k))))]

/-- The record of a readout entry. -/
def readoutRecord (r : Readout) : StopRec :=
  unitRec (.readout r.part) r.pinned r.gid 7 r.tag (r.rows.flatMap (fun w =>
    wordBytes [w.addr, r.target + at' w.member 4 + at' w.lane 7 + at' (b2n r.scratch) 13] ++ w.bytes))

/-- The flags of the accumulator that names a long slot. -/
def Group.longXa (g : Group) (k : Nat) : Xa :=
  match (g.x ++ g.tiles).find? (fun e => e.2.long == some k) with
  | some e => e.2
  | none => { Xa.reset with long := some k }

/-- A block's allocation (R92): the program area, the divergence stacks and the extended-accumulator areas of its groups. The last 24
bytes of a slot name its owner in a form that R81 leaves open: the image holds zeros there (log entry 93). -/
def State.blockImage (s : State) (b : Block) : List Byte :=
  let gs := (List.range b.ngroups).map (fun i => s.groups.find? (fun g => g.block == b.uid && g.groupNo == i))
  let stack (g : Option Group) : List Byte :=
    let ps := match g with
      | some g => (g.paths.filter (fun t => !g.slotPaths.any (fun q => q.id == t.id))).reverse.flatMap Path.bytes
      | none => []
    (ps ++ zeros (b.dstk * 64 - ps.length)).take (b.dstk * 64)
  let ext (g : Option Group) : List Byte := (List.range b.xext).flatMap (fun k => match g with
    | some g => if g.slots.any (fun e => e.1 == k) then bytesOf 576 (longImage g.slots (g.longXa k) k) else zeros 576
    | none => zeros 576)
  tab (b.scr * 256) (fun i => fget 0 b.data i) ++ gs.flatMap stack ++ gs.flatMap ext

/-- A block's record, with its bitmap of pending lines: of engine requests from their issue, and of readout entries (R135, R273). -/
def State.blockRecord (s : State) (b : Block) : StopRec :=
  let lines := s.xfers.flatMap (fun t => if t.holds then t.rest.flatMap (s.pieceDests t) else [])
    ++ s.readouts.flatMap (fun r => r.rows.flatMap (s.rowDests r))
  let pending (i : Nat) : Bool := lines.any (fun l => l.line == .scr b.uid i)
  let map := (List.range 2048).foldl (fun m i => if pending i then m + 2 ^ i else m) 0
  unitRec (.block b.uid) none 0 8 0 (wordBytes [b.cluster, b.blockNo, b.scr, b.dstk, b.xext] ++ zeros 24 ++ bytesOf 256 map ++ s.blockImage b)

/-! ### The directory (R351) -/

/-- The group record of a group. -/
def State.groupRecord (s : State) (g : Group) : StopRec :=
  let t := g.stopPath
  { unit := .group g.gid, fault := g.fault, owner := g.gid, kind := 0, tag := g.tag,
    resume := (match t with | some t => t.pc | none => 0), rword := (match t with | some t => t.kept.resumeAt % 16 | none => 0),
    body := g.record (s.copySlot g.gid) }

/-- KIND of a unit. -/
def unitKind (u : StopUnit) : Nat :=
  match u with
  | .group _ => 0 | .array _ => 1 | .copy _ => 2 | .halo _ => 3 | .request _ => 4 | .route _ => 5 | .ring => 6 | .readout _ => 7
  | .block _ => 8

/-- All records of a context: groups, units, blocks; the unit that raised the halt line has one with its fault. -/
def State.stopRecords (s : State) (vf : Nat) : List StopRec :=
  let c := s.ctx vf
  let gs := s.groups.filter (fun g => g.vf == vf)
  let rs := gs.map s.groupRecord ++ gs.flatMap s.arrayRecord ++ (s.xfers.filter (fun t => t.vf == vf)).flatMap s.xferRecord
    ++ s.routeRecords vf ++ s.ringRecord vf ++ (s.readouts.filter (fun r => r.vf == vf)).map readoutRecord
    ++ (s.blocks.filter (fun b => b.vf == vf)).map s.blockRecord
  match c.first, c.firstFault with
  | some u, some f =>
    if rs.any (fun r => r.unit == u && r.fault.isSome) then rs
    else if rs.any (fun r => r.unit == u) then
      let k := rs.findIdx (fun r => r.unit == u)
      rs.mapIdx (fun i r => if i = k then { r with fault := some f } else r)
    else rs ++ [unitRec u (some f) 0 (unitKind u) 0 []]
  | _, _ => rs

/-- Offsets of records that follow one another from `o`. -/
def recordOffsets : Nat → List (List Byte) → List Nat
  | _, [] => []
  | o, b :: bs => o :: recordOffsets (o + b.length) bs

/-- The save area: its bytes, and the offset of each record. -/
def State.stopImage (s : State) (vf : Nat) (pre : Bool) : List Byte × List Nat :=
  let c := s.ctx vf
  let rs := s.stopRecords vf
  let bs := rs.map (fun r => r.bytes pre)
  let dir := (64 + 8 * rs.length + 63) / 64 * 64
  let offs := recordOffsets dir bs
  let total := dir + (bs.map List.length).sum
  let first := match c.first with
    | some u => if pre then 2 ^ 32 - 1 else rs.findIdx (fun r => r.unit == u && r.fault.isSome)
    | none => 2 ^ 32 - 1
  (pad64 (wordBytes [rs.length, total, first] ++ zeros 40 ++ wordBytes offs) ++ bs.flatten, offs)

end Sys2Proof.Machine
end

