-- ==== Sys2Proof/Machine/Stop.lean ====
section
/-! DEFINITION. Stopping and resuming a context (25 R346-R349, R355-R357, R274, 09 R148, 27 R375): the units' stops, the
collector, PREEMPT, RESUME, ENDCTX. -/
namespace Sys2Proof.Machine

/-! ### Commands (R375) -/

/-- Fields of a command. -/
def cmdVf (c : Cmd) : Nat := dfield c.w0 55 50
def cmdTag (c : Cmd) : Nat := dfield c.w0 31 0

/-- The completion of a command: STATUS and a value. -/
def State.complete (s : State) (c : Cmd) (status value : Nat) : State :=
  s.pushOrDrop 0 6 [dw (at' status 56 + cmdTag c), dw value]

/-- Is a command malformed whatever it asks: a nonzero reserved bit of W0, or a VF in minimal mode (R375, R377)? -/
def State.cmdBad (s : State) (c : Cmd) : Bool := dfield c.w0 49 32 != 0 || (s.manage.mode == 2 && cmdVf c != 0)

/-- A completion whose value no rule gives: a free value (log entry 27). -/
def State.answerCmd (s : State) (c : Cmd) (status : Nat) : State := s.spend.complete c status (Config.freeValue s.free).toNat

/-- A command that completes in one step, with a status. -/
def State.command (s : State) (f : State → Cmd → State × Nat) : Host.Outcome State Fault Refusal :=
  match s.cmd with
  | none => .fault .notDue
  | some c =>
    let s : State := { s with cmd := none }
    if s.cmdBad c then s.event true (s.answerCmd c 2)
    else
      let r := f s c
      s.event true (r.1.answerCmd c r.2)

/-! ### Stop points (R347) -/

/-- Is a context stopping? -/
def State.stopping (s : State) (vf : Nat) : Bool := match (s.ctx vf).st with | .stopping _ => true | _ => false

/-- Requests that engines of a unit work on for a function. -/
def State.unitXfers (s : State) (vf : Nat) (u : StopUnit) : List Xfer :=
  s.xfers.filter (fun t => t.vf == vf && t.st != .queued && t.unit == u)

/-- The units that work for a context. -/
def State.unitsOf (s : State) (vf : Nat) : List StopUnit :=
  ((s.groups.filter (fun g => g.vf == vf)).map (fun g => StopUnit.group g.gid)
  ++ (s.parts.filter (fun e => e.2.ops.any (fun o => o.vf == vf))).map (fun e => StopUnit.array e.1)
  ++ (s.xfers.filter (fun t => t.vf == vf && t.st != .queued)).map Xfer.unit
  ++ (s.tokens.filter (fun t => t.vf == vf)).map (fun t => StopUnit.route t.die)
  ++ (if (List.range 16).any (s.ctx vf).rrEn then [StopUnit.ring] else [])
  ++ (s.readouts.filter (fun r => r.vf == vf)).map (fun r => StopUnit.readout r.part)
  ++ (s.blocks.filter (fun b => b.vf == vf)).map (fun b => StopUnit.block b.uid)).eraseDups

/-- The state with the engine requests and readout entries of one function: what stops with its context. -/
def State.onlyOf (s : State) (vf : Nat) : State :=
  { s with xfers := s.xfers.filter (fun t => t.vf == vf), readouts := s.readouts.filter (fun r => r.vf == vf) }

/-- Do `n` bytes at an address lie in a chunk that is ready and unread (R338)? -/
def State.inUnread (s : State) (vf va n : Nat) : Bool := (s.chunksOf vf va n).any (fun k => (s.ctx vf).ready.contains k.1)

/-- Can a row of a readout entry not be written while the context stops: a line of a stopped request, an unread chunk, a block not
started? -/
def State.rowStuck (s : State) (r : Readout) : Bool :=
  let held (l : Loc) : Bool := (s.onlyOf r.vf).lineHeldBefore r.id l
  r.parked.isSome || r.pinned.isSome || (match r.rows with
    | [] => false
    | w :: _ =>
      if r.scratch then match scrTarget r.share w.addr with
        | some (b, _) => !s.shareReady b || (s.rowDests r w).any held
        | none => true
      else match s.rowRuns r w with
        | .ok runs => runs.any (fun e => held e.2.1 || s.inUnread r.vf e.1 e.2.2.length)
        | _ => false)

/-- Is an access kept from being performed by what else stops: a share not started, a line of a stopped request, an unread
chunk? -/
def State.heldBack (s : State) (vf : Nat) (a : Access) : Bool :=
  (s.onlyOf vf).lineHeld a.loc || (s.ctx vf).parks.any (fun e => e.work == .access a.id) || (match a.loc with | .scr b _ => !s.shareReady b | _ => false)
  || (a.kind == .store && s.inUnread a.vf a.va a.size)

/-- Does an access wait for another one (R119, R122, R124)? -/
def State.waitsFor (s : State) (a f : Access) : Bool :=
  s.blockedBy a f || a.behind f
  || (a.kind == .load && f.kind == .store && f.core == a.core && (match f.loc.cached, a.loc.cached with
      | some x, some y => x.1 == y.1 && x.2 / 128 == y.2 / 128
      | _, _ => false))

/-- The accesses of a context that cannot be performed while it stops. -/
def State.stuck (s : State) (vf : Nat) : List Access :=
  (s.flight.filter (fun a => a.vf == vf)).foldl (fun acc a =>
    if s.heldBack vf a || acc.any (s.waitsFor a) then acc ++ [a] else acc) []

/-- Has a unit reached its stop point? -/
def State.atStop (s : State) (vf : Nat) (u : StopUnit) : Bool :=
  match u with
  | .group gid =>
    match s.group gid with
    | none => true
    | some g => g.stopped || !g.paths.any (fun t => (s.part g.part).holds (gid, t.id))
  | .array _ => true
  | .route die => !s.tokens.any (fun t => t.vf == vf && t.die == die && (t.reading.isSome
      || (if t.dropping then !s.dropStuck t else t.sent || t.choice == 2)))
      && !(s.unitXfers vf u).any (fun t => match t.st with | .remote _ => true | _ => false)
  | .ring => !s.results.any (fun r => r.vf == vf && r.parked.isNone)
  | .readout p => (s.readouts.filter (fun r => r.vf == vf && r.part == p)).all (fun r =>
      (r.reqs.isEmpty || r.parked.isSome) && s.rowStuck r)
  | .halo core => (s.unitXfers vf (.halo core)).all (fun t => match t.st with
      | .remote _ => false
      | .running => !(s.lands t && t.midRow) || (match s.landPiece t with | .wait => true | _ => false)
      | _ => true)
  | .block uid => match s.block uid with
    | none => true
    | some b => [StopUnit.copy b.core, .halo b.core, .request b.core].all (fun e =>
        (s.unitXfers vf e).isEmpty || (s.ctx vf).acked.contains e)
  | e => !(s.unitXfers vf e).any (fun t => match t.st with | .remote _ => true | _ => false)

/-- A unit stops: a group's tenure is marked stalled (R296), its parked claim leaves the pool; the product array stops in the operation in
progress (R347). -/
def State.stopUnit (s : State) (vf : Nat) (u : StopUnit) : State :=
  match u with
  | .array p => if (s.part p).busy.any (fun o => o.vf == vf) then s.stopSlice p else s
  | .group gid =>
    match s.group gid with
    | none => s
    | some g =>
      let s := s.stall gid
      let s := s.onGroup gid (fun g => { g with stopped := true })
      let k := s.part g.part
      if k.claims.any (fun c => c.1 == gid) then
        (s.setPart g.part { k with claims := k.claims.filter (fun c => c.1 != gid) }).released g.part
      else s
  | _ => s

/-- The aggregation buffers with an entry of a function's groups, ended ones too, depart when its context stops (R141, R148). -/
def State.departVf (s : State) (vf : Nat) : State := (s.departWhere (fun b => b.entries.any (fun e => e.vf == vf))).2

/-- UNIT_STOP (R347): a unit at its stop point stops and acknowledges the collector; the context's buffers depart. -/
def execUnitStop (vf : Nat) (u : StopUnit) (s : State) : Host.Outcome State Fault Refusal :=
  let c := s.ctx vf
  let t := (s.departVf vf).stopUnit vf u
  s.event (s.stopping vf && (s.unitsOf vf).contains u && !c.acked.contains u && s.atStop vf u)
    (t.setCtx vf { t.ctx vf with acked := u :: (t.ctx vf).acked })

/-! ### The collector (R349, R355) -/

/-- Does a request carry work of a context's groups or engines that a stop waits for? -/
def FabReq.drives (r : FabReq) (vf : Nat) : Bool :=
  r.parked.isNone && (match r.body with
    | .update _ => false
    | .launchRead _ _ _ => false
    | .dropped => false
    | .agg l => l.any (fun e => e.vf == vf)
    | _ => r.vf == vf)

/-- Is everything of a context performed that a stop drives (R148, R349)? -/
def State.driven (s : State) (vf : Nat) : Bool :=
  let mine (gid : Gid) : Bool := s.groups.any (fun g => g.gid == gid && g.vf == vf)
  let stuck := s.stuck vf
  (s.flight.filter (fun a => a.vf == vf)).all (fun a => stuck.any (fun b => b.id == a.id))
  && !s.unacked.any (fun a => a.vf == vf) && !s.fills.any (fun f => mine f.gid)
  && !(s.reqs ++ s.waitReqs).any (fun r => r.drives vf) && !s.agg.any (fun b => b.entries.any (fun e => e.vf == vf))
  && !s.updates.any (fun u => u.vf == vf && u.parked.isNone && !u.after.any s.isPending && s.recFree u.target
      && (match u.src with | .evsig _ _ => true | _ => false))

/-- A group as a stop keeps it. -/
def Group.kept (g : Group) : Group :=
  { g with stopped := true, paths := g.paths.map Path.kept, q := g.q.map (fun e => (e.1, { e.2 with fetched := [] })) }

/-- The context's rows, tiles, slots, scratchpad and queues return; what a stop keeps is kept (R355). -/
def State.takeAway (s : State) (vf : Nat) (image : List Byte) (offs : List Nat) : State :=
  let gs := s.groups.filter (fun g => g.vf == vf)
  let parts := (gs.map (·.part)).eraseDups
  let mine {α : Type} (f : α → Nat) (l : List α) : List α := l.filter (fun x => f x == vf)
  let rest {α : Type} (f : α → Nat) (l : List α) : List α := l.filter (fun x => f x != vf)
  let ops := s.parts.flatMap (fun e => (e.2.ops.filter (fun o => o.vf == vf)).map (fun o => (e.1, o)))
  let held := s.stuck vf
  let kept : Saved :=
    { groups := gs.map Group.kept, blocks := mine (·.vf) s.blocks, xfers := mine (·.vf) s.xfers, ops := ops,
      readouts := mine (·.vf) s.readouts, tokens := mine (·.vf) s.tokens, held := (s.ctx vf).saved.held ++ held, image := image, offsets := offs }
  let clean (k : Part) : Part :=
    { k with queue := rest (·.vf) k.queue, busy := k.busy.filter (fun o => o.vf != vf),
             run := match k.run with | some r => if gs.any (fun g => g.gid == r.gid) then none else some r | none => none,
             next := match k.next with | some q => if gs.any (fun g => g.gid == q.1) then none else some q | none => none }
  let leave (d : Die) : Die := { d with visited := d.visited.filter (fun q => q.1 != vf), agedFor := d.agedFor.filter (fun q => q.1 != vf) }
  let s : State := { s with
    groups := rest (·.vf) s.groups, blocks := rest (·.vf) s.blocks, xfers := rest (·.vf) s.xfers,
    readouts := rest (·.vf) s.readouts, tokens := rest (·.vf) s.tokens,
    flight := s.flight.filter (fun a => !held.any (fun b => b.id == a.id)),
    parts := (s.parts.map (fun e => (e.1, clean e.2))).filter (fun e => e.2 != Part.reset),
    dies := (s.dies.map (fun e => (e.1, leave e.2))).filter (fun e => e.2 != Die.reset) }
  let s := s.setCtx vf { s.ctx vf with saved := kept }
  parts.foldl (fun s p => s.released p) s

/-- Pending PREEMPT commands of a function complete with the bytes of the save area in use. -/
def State.finishPreempts (s : State) (vf bytes : Nat) : State :=
  let ours (c : Cmd) : Bool := cmdVf c == vf && dfield c.w0 63 56 == 3
  (s.pending.filter ours).foldl (fun s c => s.complete c 0 bytes) { s with pending := s.pending.filter (fun c => !ours c) }

/-- COLLECTOR_COMPLETE (R355): the records and the directory are written, the resources return, the context is halted or
switched out. -/
def execCollectorComplete (vf : Nat) (s : State) : Host.Outcome State Fault Refusal :=
  let c := s.ctx vf
  match c.st with
  | .stopping pre =>
    let due := (s.unitsOf vf).all (fun u => c.acked.contains u) && s.driven vf
    let im := s.stopImage vf pre
    let t := s.writeLoc (.hbm c.saveBase.toNat) im.1 none noVf
    let t := t.takeAway vf im.1 im.2
    let t := t.setCtx vf { t.ctx vf with st := if pre then .switched else .halted }
    s.event due (t.finishPreempts vf im.1.length)
  | _ => .fault .notDue

/-! ### PREEMPT and ENDCTX (R355, R375) -/

/-- PREEMPT (R355): a live context begins to stop, and the command completes with the collector; one already stopped
completes at once. -/
def execPreempt (s : State) : Host.Outcome State Fault Refusal :=
  match s.cmd with
  | none => .fault .notDue
  | some c =>
    let vf := cmdVf c
    let k := s.ctx vf
    let t : State := { s with cmd := none }
    if s.cmdBad c then s.event true (t.answerCmd c 2)
    else match k.st with
    | .live =>
      let t := t.departVf vf
      s.event true { t.setCtx vf { t.ctx vf with st := .stopping true } with pending := t.pending ++ [c] }
    | .stopping _ => s.event true { t with pending := t.pending ++ [c] }
    | _ => s.event true (t.complete c 0 k.saved.image.length)

/-- Launch records are read from the start (R393): what was read of them before goes, and answers still to come serve nothing. -/
def State.rereadLaunches (s : State) (vf : Nat) : State :=
  let drop (r : FabReq) : FabReq :=
    match r.body with | .launchRead v _ _ => if v == vf then { r with body := .dropped } else r | _ => r
  let s := s.setCtx vf (((s.ctx vf).reread true).reread false)
  { s with reqs := s.reqs.map drop, waitReqs := s.waitReqs.filter (fun r => match r.body with | .launchRead v _ _ => v != vf | _ => true) }

/-- ENDCTX (R375, R393): a halted or switched-out context is discarded, its rings apart; a resident one answers busy. -/
def State.endCtx (s : State) (vf : Nat) : State :=
  let c := s.ctx vf
  let s := s.rereadLaunches vf
  let s := s.setCtx vf { Ctx.reset with rings := c.rings, token := c.token }
  { s with launches := s.launches.filter (fun l => l.vf != vf), updates := s.updates.filter (fun u => u.vf != vf),
           waitReqs := s.waitReqs.filter (fun r => r.vf != vf), landings := s.landings.filter (fun k => k.vf != vf),
           results := s.results.filter (fun r => r.vf != vf), hists := s.hists.filter (fun h => h.vf != vf),
           moves := s.moves.filter (fun m => m.vf != vf), tlb := s.tlb.filter (fun t => t.vf != vf) }

/-- Has a function work resident on the part: groups, or a context that is stopping? -/
def State.resides (s : State) (vf : Nat) : Bool := s.groups.any (fun g => g.vf == vf) || s.stopping vf

/-- ENDCTX. -/
def execEndctx (s : State) : Host.Outcome State Fault Refusal :=
  s.command (fun s c =>
    let vf := cmdVf c
    match (s.ctx vf).st with
    | .halted => (s.endCtx vf, 0)
    | .switched => (s.endCtx vf, 0)
    | _ => if s.resides vf then (s, 1) else (s.endCtx vf, 0))

/-! ### RESUME (R357, R359) -/

/-- Does the save area hold what was written, the bytes that software may edit apart (R359)? Only group records have such
bytes; they come first. -/
def editsOk (old new : List Byte) (rw : List Bool) : Bool :=
  match old, new, rw with
  | o :: os, n :: ns, r :: rs => (r || o == n) && editsOk os ns rs
  | os, ns, _ => os == ns

/-- The x registers of an edited record: an image as written keeps its accumulator; another one must stand for a short
accumulator. -/
def Group.loadX (g : Group) (old new : List Byte) : Option Group :=
  (List.range (4 * g.n)).foldl (fun acc k =>
    match acc with
    | none => none
    | some h =>
      let o := g.xOffset + 24 * k
      let i := k / g.n
      let p := k % g.n
      let v := numAt new o 24
      if numAt old o 24 = v then some h
      else if xaImageOk v then some { (h.setX i p (xaOfImage v)) with slots := freeXa h.slots (h.xreg i p) } else none) (some g)

/-- A group with the fields that software may edit taken from its record (R353): the reserved bits {15:11} of FSTAT stay zero (R5,
R64). -/
def Group.loadEdits (g : Group) (old new : List Byte) : Option Group :=
  let g := (List.range 64).foldl (fun g i => { g with s := fset 0 g.s i (dw (numAt new (192 + 8 * i) 8)) }) g
  let g := (List.range g.vcur).foldl (fun g r =>
    let v := tab g.n (fun p => BitVec.ofNat 32 (numAt new (g.vOffset + 4 * (r * g.n + p)) 4))
    { g with v := fset [] g.v r (if v.all (· == 0) && fget [] g.v r == [] then [] else v) }) g
  let g := (List.range 8).foldl (fun g e => { g with fstat := fset 0 g.fstat e (BitVec.ofNat 16 (numAt new (720 + 2 * e) 2 % 2 ^ 11)) }) g
  let g := (List.range 15).foldl (fun g i => g.setM (i + 1) (BitVec.ofNat 256 (numAt new (736 + 32 * i) 32))) g
  let h4 := numAt new 32 8
  let was := numAt old 32 8
  let g := match g.slotPaths.find? (fun t => t.pc == field was 51 0 && t.resumeAt % 16 == field was 55 52) with
    | none => g
    | some t =>
      if was = h4 then g
      else g.onPath t.id (fun t => { t with pc := field h4 51 0, resumeAt := field h4 55 52, only := none })
  g.loadX old new

/-- May a block of a launch stand on a core as far as its launch goes (R44): on a die in DIES, and on no core that a block of its cluster, now
gone, has taken? -/
def State.launchAllows (s : State) (b : Block) (core : Nat) : Bool :=
  match s.launches.find? (fun l => l.id == b.launch) with
  | none => true
  | some l => (s.launchDies l.shape).contains (dieOfCore core)
      && !l.progress.any (fun q => clusterWord l.grid q.cluster == b.cluster && q.cores.contains core)

/-- A block, and its groups, placed on a core with room as a new block of their launch would be (R44). -/
def State.placeBlock (s : State) (b : Block) (gs : List Group) (placed : List (Nat × Nat × Nat)) : Option State :=
  let mates := placed.filter (fun q => q.1 == b.launch && q.2.1 == b.cluster)
  let occ (core : Nat) : Option (List Occ) :=
    let base := s.occOn core
    let want (i : Nat) : Occ := match gs.find? (fun g => g.groupNo == i) with
      | some g => { part := 4 * core + (i + (s.core core).accepted) % 4, w := g.w, e := g.e, off := 0, v := g.vcur, helpers := g.helpers, tiles := g.atiles * g.e }
      | none => { part := 0, w := 0, e := 0, off := 0, v := 0, helpers := false, tiles := 0 }
    ((List.range b.ngroups).filter (fun i => gs.any (fun g => g.groupNo == i))).foldl (fun l i => l.bind (fun l => occPlace l (want i))) (some base)
      |>.map (fun o => o.drop base.length)
  let ok (core : Nat) : Bool :=
    s.dieOn (dieOfCore core) && decide (core % 256 < s.dieCores) && s.launchAllows b core
    && mates.all (fun q => dieOfCore q.2.2 == dieOfCore core && q.2.2 != core)
    && decide ((s.blocks.filter (fun k => k.core == core)).length < Config.blocksPerCore)
    && decide (s.scratchUsed core + b.scr * 256 + b.ngroups * (b.dstk * 64 + b.xext * 576) ≤ Config.scratchBytes) && (occ core).isSome
  let cores := (List.range 1024).filter ok
  match cores[s.choice % cores.length]? with
  | none => none
  | some core =>
    let k := s.core core
    let s := s.spend.setCore core { k with accepted := k.accepted + 1, cc := [], ic := [] }
    let s : State := { s with blocks := s.blocks ++ [{ b with core := core }] }
    let idx := (List.range b.ngroups).filter (fun i => gs.any (fun g => g.groupNo == i))
    let os := (occ core).getD []
    some ((List.range idx.length).foldl (fun s j =>
      match gs.find? (fun g => g.groupNo == idx.getD j 0), os[j]? with
      | some g, some o =>
        let h : Group := { g with part := o.part, slot := s.freeSlot o.part, laneOff := o.off,
                                  paths := g.paths.map (fun t => { t with readyAt := k.cycles, lastLeg := 0 }) }
        { s with groups := s.groups ++ [h] }
      | _, _ => s) s)

/-- Place blocks one after another. -/
def State.placeBlocks (s : State) (gs : List Group) : List Block → List (Nat × Nat × Nat) → Option State
  | [], _ => some s
  | b :: bs, placed =>
    match s.placeBlock b (gs.filter (fun g => g.block == b.uid)) placed with
    | none => none
    | some t =>
      let core := match t.block b.uid with | some k => k.core | none => 0
      t.placeBlocks gs bs (placed ++ [(b.launch, b.cluster, core)])

/-- Claims join their pools again (R35). -/
def State.rejoin (s : State) (g : Group) : State :=
  match g.park with
  | .regclm n path _ _ _ =>
    let k := s.part g.part
    (s.setPart g.part { k with claims := k.claims ++ [(g.gid, path, n)] }).released g.part
  | _ => s

/-- The rest of a resumption: engine requests, matrix operations, readout rows, tokens and held accesses go back to the units
that now serve their groups (R357); a request that a fault ended does not. -/
def State.restoreWork (s : State) (k : Saved) : State :=
  let partOf (gid : Gid) (old : Nat) : Nat := match s.group gid with | some g => g.part | none => old
  let coreFor (gid : Gid) (v : Share) (old : Nat) : Nat :=
    match s.group gid with
    | some g => coreOf g.part
    | none => match s.block (blockUid v.launch v.cluster v.blockNo) with | some b => b.core | none => old
  let live (t : Xfer) : Bool := match t.st with | .faulted _ => false | _ => true
  let s : State := { s with
    xfers := s.xfers ++ (k.xfers.filter live).map (fun t => { t with core := coreFor t.gid t.share t.core }),
    readouts := s.readouts ++ k.readouts.map (fun r =>
      { r with part := partOf r.gid r.part, first := r.pinned.isSome, pinned := none }),
    tokens := s.tokens ++ k.tokens.map (fun t => { t with core := (match s.group t.gid with | some g => coreOf g.part | none => t.core) }),
    flight := s.flight ++ k.held }
  let s := k.ops.foldl (fun s e =>
    let p := partOf e.2.gid e.1
    let q := s.part p
    s.setPart p { q with queue := q.queue ++ [{ e.2 with fault := none }] }) s
  s.groups.foldl (fun s g => if k.groups.any (fun h => h.gid == g.gid) then s.rejoin g else s) s

/-- A change of the clusters in progress of a function's launches, by the blocks of each. -/
def State.onRuns (s : State) (vf : Nat) (blocks : List Block) (f : ClusterRun → List Block → ClusterRun) : State :=
  let follow (l : Launch) (q : ClusterRun) : ClusterRun :=
    f q (blocks.filter (fun b => b.launch == l.id && b.cluster == clusterWord l.grid q.cluster))
  { s with launches := s.launches.map (fun l => if l.vf == vf then { l with progress := l.progress.map (follow l) } else l) }

/-- The cores of the blocks that a stop kept no longer count as taken. -/
def State.leaveClusters (s : State) (vf : Nat) (old : List Block) : State :=
  s.onRuns vf old (fun q bs => { q with cores := q.cores.filter (fun c => !bs.any (fun b => b.core == c)) })

/-- Clusters in progress go on where their placed blocks now are. -/
def State.followClusters (s : State) (vf : Nat) : State :=
  s.onRuns vf s.blocks (fun q bs => match bs with
    | [] => q
    | b :: _ => { q with die := dieOfCore b.core, cores := bs.map (·.core) ++ q.cores })

/-- Requests that a fault had stopped are sent again (R348). -/
def State.resend (s : State) (vf : Nat) : State :=
  let again (r : FabReq) : FabReq := if r.vf == vf && r.parked == some 0 then { r with parked := none } else r
  ({ s with waitReqs := s.waitReqs.map again } : State).pumpReqs

/-- What RESUME does to a halted or switched-out context: the resumed state, or the status of its refusal. -/
def State.resumeCtx (s : State) (vf : Nat) : Except Nat State :=
  let c := s.ctx vf
  let k := c.saved
  let old := k.image
  let new := bytesOf old.length (readBytes s.hbm c.saveBase.toNat old.length)
  let dirEnd := k.offsets.headD old.length
  let edit (i : Nat) (g : Group) : Option Group :=
    let o := k.offsets.getD i 0
    let len := numAt old (o + 48) 4
    g.loadEdits ((old.drop o).take len) ((new.drop o).take len)
  let size (i : Nat) : Nat := numAt old (k.offsets.getD i 0 + 48) 4
  let flags : List Bool := List.replicate dirEnd false ++ (List.range k.offsets.length).flatMap (fun i =>
    match k.groups[i]? with
    | some g => ({ unit := StopUnit.group g.gid, fault := none, owner := 0, kind := 0, tag := 0, resume := 0, rword := 0,
                   body := g.record [] } : StopRec).editable
    | none => List.replicate (size i) false)
  if !editsOk old new flags then .error 3
  else
    let gs := k.groups.mapIdx edit
    if gs.any Option.isNone then .error 3
    else
      let gs := (gs.filterMap id).map Group.resumed
      match (s.leaveClusters vf k.blocks).placeBlocks gs k.blocks [] with
      | none => .error 1
      | some t =>
        let t := ((t.restoreWork k).followClusters vf).resend vf
        let t := (t.rereadLaunches vf).leaveFault vf
        let t := t.pumpTokens
        .ok (match c.lateFault with
          | none => t
          | some f => (t.setCtx vf { t.ctx vf with lateFault := none }).raiseHalt vf (some (.route 0)) f)

end Sys2Proof.Machine
end

