-- ==== Sys2Proof/Machine/Ring.lean ====
section
/-! DEFINITION. Ring sequencers (23 R333-R343): region entries and their checks, the operators, chunks on their way round the
ring, results. -/
namespace Sys2Proof.Machine

/-! ### Region entries (R333, R334) -/

/-- The element's FP format, if it is one. -/
def rrFmt (type : Nat) : Option Fmt := match type with | 2 => some f32 | 3 => some f64 | _ => none

/-- The TYPEs an operator takes (R335). -/
def opTakes (op type : Nat) : Bool :=
  match op with
  | 0 => type == 2
  | 1 => decide (type ≤ 4)
  | 2 => type == 5
  | 3 => decide (type ≤ 3)
  | 4 => decide (type ≤ 3)
  | 5 => type == 2 || type == 3
  | 6 => type == 2 || type == 3
  | 7 => type == 2 || type == 3
  | _ => false

/-- The result address, record pointer, list and observations of an entry. -/
def Ctx.rrList (c : Ctx) (n : Nat) : Nat := dfield (c.rr n 3) 51 0
def Ctx.rrResult (c : Ctx) (n : Nat) : Nat := dfield (c.rr n 4) 51 0
def Ctx.rrObs (c : Ctx) (n : Nat) : Nat := dfield (c.rr n 6) 51 0

/-- May an enabled entry stand, as far as its own fields say (R334)? -/
def Ctx.rrLegal (c : Ctx) (n : Nat) : Bool :=
  let op := c.rrOp n
  let l := c.rrLen n
  opTakes op (c.rrType n) && c.rrRout n != 3 && decide (1 ≤ c.rrRnd n) && decide (c.rrRnd n ≤ 5) && c.rrNpts n != 0
  && decide (c.rrPos n < l) && c.rrBase n % 4096 == 0 && !(c.rrLoop n && dfield (c.rr n 2) 23 16 != 0)
  && decide (c.rrCpts n * c.rrPoint n ≤ 65536) && !(op == 6 && decide (64 < l * c.rrPv n))
  && !(op == 7 && decide (4096 < l * c.rrPv n))

/-- Does an entry's LIST name this device at its position (R334)? A loopback ring uses no list. -/
def State.listOk (s : State) (vf : Nat) (c : Ctx) (n : Nat) : Bool :=
  c.rrLoop n || (match s.access vf (c.rrList n + c.rrPos n) false 1 with
    | .at_ (.peer _ _) => false
    | .at_ l => s.readLoc l 1 == s.dev
    | _ => false)

/-! ### Values (R335, R336) -/

/-- An exact partial in units of 2^-2148 (R81); a sum outside the long range is a free value (log entry 20). -/
def exactSum (free : Nat) (i j : Int) : Int := if inLong (i + j) then i + j else toSigned 64 (Config.freeValue free).toNat

/-- A term as an exact partial. -/
def exactOf (t : Term) : RingItem :=
  match t with
  | .nan => .exact 0 (-2148) true false false
  | .inf s => .exact 0 (-2148) false (!s) s
  | .fin i e => .exact (longUnits i e) (-2148) false false false

/-- A partial as a receiver takes it (R87): a wire form by its length, 24 bytes short or 560 bytes long; a bad short image or a header other
than 552 stands for a NaN term. The answer says whether it was bad. -/
def takenItem (it : RingItem) : RingItem × Bool :=
  match it with
  | .wire bs =>
    let v := numOf bs
    let r := v / 2 ^ 64
    if bs.length = 24 && xaImageOk v then
      let x := xaOfImage v
      let u := xaValue [] x
      (.exact (longUnits u.1 u.2) (-2148) x.nan x.pinf x.ninf, false)
    else if bs.length = 560 && v % 2 ^ 64 == 552 then
      (.exact (toSigned 4352 (r % 2 ^ 4352)) (-2148) (r.testBit 4412) (r.testBit 4413) (r.testBit 4414), false)
    else (exactOf .nan, true)
  | it => (it, false)

/-- The term of a contribution element: integer, FP value, short image (R87). -/
def rrTerm (type v : Nat) : RingItem :=
  match type with
  | 0 => exactOf (.fin (toSigned 32 v) 0)
  | 1 => exactOf (.fin (toSigned 64 v) 0)
  | 2 => exactOf (fpTerm f32 v)
  | 3 => exactOf (fpTerm f64 v)
  | _ => (takenItem (.wire (bytesOf 24 v))).1

/-- Does a member's chunk hold a short image that stands for no accumulator (R87)? -/
def badImages (op type : Nat) (bs : List Byte) : Bool :=
  op == 1 && type == 4 && (List.range (bs.length / 24)).any (fun i => !xaImageOk (numOf ((bs.drop (24 * i)).take 24)))

/-- A bad image or header sets VB in the FSTAT of the receiving members (R87). A sequencer has none and the rule names no group: the model sets
it in every member of the function's resident groups on this device (log entry 105). -/
def State.flagImages (s : State) (vf : Nat) (bad : Bool) : State :=
  if bad then { s with groups := updWhere (fun g => g.vf == vf) (fun g => g.raiseAll fVB) s.groups } else s

/-- Insert a value in ascending order, −0 before +0. -/
def insertSorted (f : Fmt) (v : Nat) : List Dword → List Dword
  | [] => [dw v]
  | w :: ws => if fpLess f v w.toNat then dw v :: w :: ws else w :: insertSorted f v ws

/-- The values of a point as items (R335, R336). -/
def rrItems (op type : Nat) (vs : List Nat) : List RingItem :=
  match op with
  | 1 => vs.map (rrTerm type)
  | 5 =>
    let f := (rrFmt type).getD f32
    let ok := vs.filter (fun v => !isNaN f v)
    let sum (t : Nat → Term) : RingItem := ok.foldl (fun acc v =>
      match acc, exactOf (t v) with
      | .exact i e a b c, .exact j _ a' b' c' => .exact (i + j) e (a || a') (b || b') (c || c')
      | acc, _ => acc) (.exact 0 (-2148) false false false)
    [.bits (dw ok.length), sum (fpTerm f), sum (fun v => (mulTerm (fpTerm f v) (fpTerm f v)).1)]
  | 6 => [.sorted ((vs.filter (fun v => !isNaN ((rrFmt type).getD f32) v)).foldl (fun l v => insertSorted ((rrFmt type).getD f32) v l) [])]
  | 7 => [.sorted ((vs.filter (fun v => !isNaN ((rrFmt type).getD f32) v)).foldl (fun l v => insertSorted ((rrFmt type).getD f32) v l) [])]
  | 3 => vs.map (fun v => .bits (dw (match rrFmt type with | some f => if isNaN f v then fDefNaN f else v | none => v)))
  | 4 => vs.map (fun v => .bits (dw (match rrFmt type with | some f => if isNaN f v then fDefNaN f else v | none => v)))
  | _ => vs.map (fun v => .bits (dw v))

/-- Combine a travelling item with a member's. -/
def combineItem (op type rnd free : Nat) (a b : RingItem) : RingItem :=
  match a, b with
  | .exact i e n p q, .exact j _ n' p' q' => .exact (exactSum free i j) e (n || n') (p || p') (q || q')
  | .sorted l, .sorted m => .sorted (m.foldl (fun l v => insertSorted ((rrFmt type).getD f32) v.toNat l) l)
  | .bits v, .bits w =>
    let v := v.toNat
    let w := w.toNat
    .bits (dw (match op with
      | 0 => (fpAdd f32 rnd v w).1
      | 2 => rsAdd v w
      | 3 => (match rrFmt type with
        | some f => if isNaN f v || isNaN f w then fDefNaN f else (fpMin f v w).1
        | none => if toSigned (8 * rrElem type) w < toSigned (8 * rrElem type) v then w else v)
      | 4 => (match rrFmt type with
        | some f => if isNaN f v || isNaN f w then fDefNaN f else (fpMax f v w).1
        | none => if toSigned (8 * rrElem type) v < toSigned (8 * rrElem type) w then w else v)
      | _ => v + w))
  | a, _ => a

/-- The items of a member's chunk from its bytes, point by point. -/
def chunkItems (op type pv : Nat) (bs : List Byte) (points : Nat) : List RingItem :=
  let e := rrElem type
  (List.range points).flatMap (fun i =>
    rrItems op type (tab pv (fun j => numOf ((bs.drop ((i * pv + j) * e)).take e))))

/-- Items of a point (R335, R336). -/
def itemsPer (op pv : Nat) : Nat := match op with | 5 => 3 | 6 => 1 | 7 => 1 | _ => pv

/-! ### Results (R335, R336, R342) -/

/-- An exact partial read out to ROUT in RND. -/
def exactBytes (rout rnd : Nat) (it : RingItem) : List Byte :=
  match it with
  | .exact i _ n p q =>
    let x : Xa := { Xa.reset with long := some 0, nan := n, pinf := p, ninf := q }
    let slots : FMap LongRec := [(0, ⟨i⟩)]
    match rout with
    | 0 => bytesOf 4 (roundRVal f32 rnd (xaRVal slots rnd x)).1
    | 1 => bytesOf 8 (roundRVal f64 rnd (xaRVal slots rnd x)).1
    | _ => xlWire slots x
  | _ => []

/-- The result bytes of a chunk, rank apart. -/
def resultBytes (op type rout rnd total : Nat) (items : List RingItem) : List Byte :=
  items.flatMap (fun it =>
    match it with
    | .bits v => bytesOf (if op = 5 then 8 else rrElem type) v.toNat
    | .exact _ _ _ _ _ => exactBytes rout rnd it
    | .wire _ => []
    | .sorted vs =>
      let nan := fDefNaN ((rrFmt type).getD f32)
      (vs.map (·.toNat) ++ List.replicate (total - vs.length) nan).flatMap (bytesOf (rrElem type)))

/-- Result bytes of a point. -/
def Ctx.rrResultPoint (c : Ctx) (n : Nat) : Nat :=
  let ro := match c.rrRout n with | 0 => 4 | 1 => 8 | _ => 560
  let e := rrElem (c.rrType n)
  match c.rrOp n with
  | 1 => c.rrPv n * ro
  | 5 => 8 + 2 * ro
  | 6 => c.rrLen n * c.rrPv n * e
  | _ => c.rrPv n * e

/-- The bin of a point of a rank region (R336): `total` is L × PV. -/
def rankBin (f : Fmt) (total obs : Nat) (vs : List Dword) : Nat :=
  if isNaN f obs then total + 1
  else
    let below := vs.countP (fun v => fpCompare f v.toNat obs == .lt)
    let same := vs.countP (fun v => fpCompare f v.toNat obs == .eq)
    below + same / 2

/-! ### Reading and faults (R342) -/

/-- Read bytes for a sequencer. -/
def State.ringRead (s : State) (vf va n : Nat) : Except ReadStop (List Byte) :=
  (lineRuns (n / 128 + 2) va n).foldl (fun acc run =>
    match acc, run.src with
    | .ok bs, .inl a => match s.access vf a false 1 with
      | .fault code _ => .error (.fault code a)
      | .miss d => .error (.miss d a)
      | .at_ (.peer d pa) =>
        let buf := (s.ctx vf).ringBuf
        if (List.range run.len).all (fun i => buf.any (fun e => e.1 == a + i)) then .ok (bs ++ tab run.len (fun i => fget 0 buf (a + i)))
        else .error (.away a d pa)
      | .at_ l => if s.lineHeld l then .error .held else .ok (bs ++ bytesOf run.len (s.readLoc l run.len))
    | acc, _ => acc) (.ok [])

/-- The pages of bytes that a sequencer has read (R104). -/
def State.ringTouch (s : State) (vf va n : Nat) : State :=
  (lineRuns (n / 128 + 2) va n).foldl (fun s run => match run.src with
    | .inl a => match s.access vf a false 1 with | .at_ l => s.touch vf a false l | _ => s
    | .inr _ => s) s

/-- Does a sequencer's read wait for a line (R134)? -/
def State.ringWaits (s : State) (vf va n : Nat) : Bool := match s.ringRead vf va n with | .error .held => true | _ => false

/-- A chunk is abandoned (R342): the region-fault entry, EN 0. -/
def State.regionFault (s : State) (vf n k cause : Nat) : State :=
  let c := s.ctx vf
  let s := s.setCtx vf { c with regions := fset 0 c.regions (8 * n) (c.rr n 0 &&& ~~~(dw (2 ^ 63))), ringBuf := [] }
  let s := s.postReport vf 6 cause k (dw n).toNat 0
  { s with chunks := s.chunks.filter (fun m => !(m.vf == vf && m.region == n && m.chunk == k)),
           results := s.results.filter (fun r => !(r.vf == vf && r.region == n && r.chunk == k)) }

/-- What a sequencer's reading stops on: abandons the chunk, parks it, or reads a peer. -/
def State.ringStop (s : State) (vf n k : Nat) (e : ReadStop) : State :=
  match e with
  | .fault code va => (s.reportPois vf 0 { FaultInfo.of code with daddr := va }).regionFault vf n k code
  | .miss d va => (s.parkEntry vf (.chunk n k) (if d then 1 else 2) 6 none false false va 0 0).2
  | .held => s
  | .away va d pa =>
    let len := 128 - pa % 128
    s.request vf d (carriageway pa) 0 ((pa + len - 1) / 4 - pa / 4) (pa / 4 * 4) [] (.ringRead vf n k (va - pa % 4)) []

/-- Is a chunk's work of a context held: parked, or a read of a peer under way? -/
def State.ringHeld (s : State) (vf n k : Nat) : Bool :=
  (s.ctx vf).parks.any (fun e => e.work == .chunk n k)
  || (s.reqs ++ s.waitReqs).any (fun r => match r.body with | .ringRead v m j _ => v == vf && m == n && j == k | _ => false)

/-! ### Chunks (R338-R341) -/

/-- The die at a position of a loopback ring (R341). -/
def loopDie (pos : Nat) : Nat := match pos with | 2 => 3 | 3 => 2 | p => p

/-- The position at which a chunk starts (R339). -/
def Ctx.ringStart (c : Ctx) (n k : Nat) : Nat := if c.rrOp n = 0 then 0 else k % c.rrLen n

/-- The message with which a chunk starts. -/
def Ctx.ringFirst (c : Ctx) (vf n k : Nat) : RingMsg :=
  { vf := vf, region := n, chunk := k, op := BitVec.ofNat 4 (c.rrOp n), type := BitVec.ofNat 3 (c.rrType n), pv := c.rrPv n,
    cpts := c.rrCpts n, npts := c.rrNpts n, len := c.rrLen n, pos := c.ringStart n k, visited := 0, writing := false, items := [],
    cw := c.rrCw n }

/-- Does a message's form agree with the entry (R340)? -/
def Ctx.ringAgrees (c : Ctx) (m : RingMsg) : Bool :=
  let n := m.region
  m.op.toNat == c.rrOp n && m.type.toNat == c.rrType n && m.pv == c.rrPv n && m.cpts == c.rrCpts n && m.npts == c.rrNpts n
  && m.len == c.rrLen n && decide (m.chunk < c.rrChunks n)

/-- Is the position of a message one of this device's? -/
def Ctx.ringHere (c : Ctx) (m : RingMsg) : Bool := if c.rrLoop m.region then decide (m.pos < 4) else m.pos == c.rrPos m.region

/-- Where the chunk of a message lies on this device: its key and address. -/
def Ctx.ringSpot (c : Ctx) (m : RingMsg) : Nat × Nat :=
  let n := m.region
  let d := if c.rrLoop n then loopDie m.pos else 0
  (chunkKey n d m.chunk, c.rrBase n + d * c.rrPart n + m.chunk * (c.rrCpts n * c.rrPoint n))

/-- The key under which a region's written histograms are counted. -/
def histKey (n : Nat) : Nat := 2 ^ 40 + n

/-- The message goes on: to a die of this device, or out on the region's carriageway (R313, R339), where the last one sent of a chunk is kept;
while that carriageway is held it waits (R315). -/
def State.ringPass (s : State) (m : RingMsg) : State :=
  let c := s.ctx m.vf
  let m : RingMsg := { m with cw := c.rrCw m.region, waits := !c.rrLoop m.region && !c.ringHere m && s.heldCw.contains (c.rrCw m.region) }
  { s with chunks := s.chunks.filter (fun k => !(k.vf == m.vf && k.region == m.region && k.chunk == m.chunk)) ++ [m] }

/-- A message has ended its way here. -/
def State.ringDrop (s : State) (m : RingMsg) : State :=
  { s with chunks := s.chunks.filter (fun k => !(k.vf == m.vf && k.region == m.region && k.chunk == m.chunk)) }

/-- The sequencer has read its chunk (R338): the count restarts. -/
def State.chunkRead (s : State) (vf key : Nat) : State :=
  let c := s.ctx vf
  s.setCtx vf { c with ready := c.ready.erase key, counts := fset 0 c.counts key 0, rounds := fset 0 c.rounds key (fget 0 c.rounds key + 1),
                       ringBuf := [] }

/-- Queue a chunk's result, or a rank chunk's share of the histogram (R339, R342). -/
def State.ringResult (s : State) (m : RingMsg) : Except ReadStop State :=
  let c := s.ctx m.vf
  let n := m.region
  let s := s.flagImages m.vf (m.items.any (fun it => (takenItem it).2))
  let m : RingMsg := { m with items := m.items.map (fun it => (takenItem it).1) }
  let total := c.rrLen n * c.rrPv n
  let first := m.chunk * c.rrCpts n
  let put (s : State) (addr : Nat) (bs : List Byte) : State :=
    { s with results := s.results ++ [{ vf := m.vf, region := n, chunk := m.chunk, addr := addr, bytes := bs, size := bs.length,
                                        reqs := [], parked := none }] }
  if c.rrOp n ≠ 7 then
    .ok (put s (c.rrResult n + first * c.rrResultPoint n) (resultBytes (c.rrOp n) (c.rrType n) (c.rrRout n) (c.rrRnd n) total m.items))
  else
    let f := (rrFmt (c.rrType n)).getD f32
    let e := rrElem (c.rrType n)
    match s.ringRead m.vf (c.rrObs n + first * e) (m.items.length * e) with
    | .error r => .error r
    | .ok obs =>
      let h := (s.hists.find? (fun h => h.vf == m.vf && h.region == n)).getD { vf := m.vf, region := n, bins := [], chunks := 0 }
      let bins := (List.range m.items.length).foldl (fun b i =>
        let vs := match m.items[i]? with | some (.sorted vs) => vs | _ => []
        let j := rankBin f total (numOf ((obs.drop (i * e)).take e)) vs
        fset 0 b j (fget 0 b j + 1)) h.bins
      let s := s.ringTouch m.vf (c.rrObs n + first * e) (m.items.length * e)
      let others := s.hists.filter (fun h => !(h.vf == m.vf && h.region == n))
      if c.rrChunks n ≤ h.chunks + 1 then
        let c' := s.ctx m.vf
        let t : State := State.setCtx { s with hists := others } m.vf { c' with ringBuf := [] }
        .ok (put t (c.rrResult n) ((tab (total + 2) (fun i => bytesOf 8 (fget 0 bins i))).flatten))
      else .ok { s with hists := others ++ [{ h with bins := bins, chunks := h.chunks + 1 }] }

/-- The chunk has been combined with the last member: its result is written here, or goes on to those that write it (R339,
R341). -/
def State.ringRound (s : State) (m : RingMsg) : Except ReadStop State :=
  let c := s.ctx m.vf
  let n := m.region
  let next := (m.pos + 1) % c.rrLen n
  if c.rrLoop n || c.rrLen n == 1 || (!dbit (c.rr n 0) 61 && m.pos == 0) then (s.ringDrop m).ringResult m
  else .ok (s.ringPass { m with pos := next, visited := 0, writing := true })

/-- A combining step at a member: its contribution is read once and joins the partial (R338, R339). -/
def State.ringCombine (s : State) (m : RingMsg) : State :=
  let c := s.ctx m.vf
  let n := m.region
  let spot := c.ringSpot m
  match s.ringRead m.vf spot.2 (c.rrBytes n m.chunk) with
  | .error e => s.ringStop m.vf n m.chunk e
  | .ok bs =>
    let own := chunkItems (c.rrOp n) (c.rrType n) (c.rrPv n) bs (c.rrPoints n m.chunk)
    let had := m.items.map (fun it => (takenItem it).1)
    let items := if m.visited = 0 then own else List.zipWith (combineItem (c.rrOp n) (c.rrType n) (c.rrRnd n) s.free) had own
    let bad := (m.visited != 0 && m.items.any (fun it => (takenItem it).2)) || badImages (c.rrOp n) (c.rrType n) bs
    let m' : RingMsg := { m with items := items, visited := m.visited + 1 }
    let t := ((s.ringTouch m.vf spot.2 bs.length).chunkRead m.vf spot.1).flagImages m.vf bad
    let t := t.spend
    if c.rrLen n ≤ m'.visited then
      match t.ringRound m' with
      | .ok u => u
      | .error e => s.ringStop m.vf n m.chunk e
    else t.ringPass { m' with pos := (m.pos + 1) % c.rrLen n }

/-- A writing step at a member (R339): it writes the result, and passes it on while others write it too. -/
def State.ringWriting (s : State) (m : RingMsg) : State :=
  let c := s.ctx m.vf
  let n := m.region
  let all := dbit (c.rr n 0) 61
  let mine := all || m.pos == 0
  let on : RingMsg := { m with pos := (m.pos + 1) % c.rrLen n, visited := m.visited + 1 }
  let go (s : State) : State := if (all && decide (c.rrLen n ≤ on.visited)) || (!all && m.pos == 0) then s.ringDrop m else s.ringPass on
  if mine then match s.ringResult m with
    | .ok t => go t
    | .error e => s.ringStop m.vf n m.chunk e
  else go s

/-- Does a message arrive from another device: on a carriageway whose link works here (R313, R315)? -/
def State.ringComes (s : State) (m : RingMsg) : Bool :=
  !(s.ctx m.vf).rrLoop m.region && decide (m.visited != 0 || m.writing) && decide (m.cw < 16) && !m.waits && (s.port (s.linkOf m.cw)).up

/-- Does a step of a chunk wait for a line that an engine owns (R134): of its contribution, or of the observations of a rank? -/
def State.ringBlocked (s : State) (m : RingMsg) : Bool :=
  let c := s.ctx m.vf
  let n := m.region
  let k := c.rrPoints n m.chunk
  let e := rrElem (c.rrType n)
  (!m.writing && s.ringWaits m.vf (c.ringSpot m).2 (c.rrBytes n m.chunk))
  || (c.rrOp n == 7 && s.ringWaits m.vf (c.rrObs n + m.chunk * c.rrCpts n * e) (k * e))

/-- RING_CHUNK (R339-R341): a chunk starts, or a ring chunk that has arrived meets this member's ready chunk, or a result on its
second way is taken. A message that differs from the entry abandons the chunk. -/
def execRingChunk (m : RingMsg) (s : State) : Host.Outcome State Fault Refusal :=
  let c := s.ctx m.vf
  let n := m.region
  let live := s.runs m.vf && c.rrEn n && !s.ringHeld m.vf n m.chunk
  let here := s.chunks.contains m
  let away := s.ringComes m
  if !c.ringAgrees m then s.event (live && away && m.pos == c.rrPos n) (s.regionFault m.vf n m.chunk 0x0A)
  else
    let key := (c.ringSpot m).1
    let fresh := m == c.ringFirst m.vf n m.chunk && !s.chunks.any (fun k => k.vf == m.vf && k.region == n && k.chunk == m.chunk && c.ringHere k)
      && (c.rrOp n != 7 || !(c.rrLoop n || dbit (c.rr n 0) 61 || c.rrPos n == 0)
        || fget 0 c.rounds key == fget 0 c.rounds (histKey n))
    let live := live && !s.ringBlocked m
    if m.writing then s.event (live && c.ringHere m && (here || away)) (s.ringWriting m)
    else s.event (live && c.ringHere m && c.ready.contains key && (here || away || fresh)) (s.ringCombine m)

/-! ### Result writes (R342, R343) -/

/-- The countdown of TREC. -/
def State.ringCount (s : State) (vf n bytes : Nat) : State :=
  let none' : Share := { launch := 0, cluster := 0, blockNo := 0, blocks := 0, scr := 0 }
  let p := (s.ctx vf).rr n 5
  match recordAt none' vf p with
  | .ok none => s
  | .ok (some r) => s.postUpdate vf r (-(bytes : Int)) .ring 0 []
  | .error f => s.postReport vf 5 f.code p.toNat (ofSigned 64 (-(bytes : Int))) 0

/-- Replace a result. -/
def State.setResult (s : State) (r : RingResult) : State :=
  { s with results := updWhere (fun k => k.vf == r.vf && k.region == r.region && k.chunk == r.chunk) (fun _ => r) s.results }

/-- A result is performed: its histogram counts as written, its record is counted down. -/
def State.resultDone (s : State) (r : RingResult) : State :=
  let s : State := { s with results := s.results.filter (fun k => !(k.vf == r.vf && k.region == r.region && k.chunk == r.chunk)) }
  let c := s.ctx r.vf
  let s := if c.rrOp r.region = 7 then s.setCtx r.vf { c with rounds := fset 0 c.rounds (histKey r.region) (fget 0 c.rounds (histKey r.region) + 1) }
    else s
  s.ringCount r.vf r.region r.size

/-- RING_RESULT_WRITE (R342): the result's bytes are written, then counted down; a miss parks the chunk, another fault abandons
it. -/
def execRingResultWrite (vf region chunk : Nat) (s : State) : Host.Outcome State Fault Refusal :=
  match s.results.find? (fun r => r.vf == vf && r.region == region && r.chunk == chunk) with
  | none => .fault .notDue
  | some r =>
    if r.bytes.isEmpty then s.event (r.reqs.all (fun i => !s.isPending i)) (s.resultDone r)
    else
      let due := s.drives vf && r.parked.isNone
      match s.spanRuns vf r.addr r.bytes with
      | .error (.fault code cause) =>
        s.event due ((s.reportPois vf 0 { FaultInfo.with code cause with daddr := r.addr }).regionFault vf region chunk code)
      | .error (.miss d) =>
        let p := s.parkEntry vf (.result region chunk) (if d then 1 else 2) 6 none false true r.addr 0 0
        s.event due (p.2.setResult { r with parked := some p.1 })
      | .error (.at_ _) => .fault .notDue
      | .ok runs =>
        let held := runs.any (fun e => s.lineHeld e.2.1 || s.moving vf e.1)
        let w := runs.foldl (fun (acc : State × List Nat) e =>
          match e.2.1 with
          | .peer d pa =>
            let line : FMap Byte := (List.range e.2.2.length).foldl (fun m i => finsert (pa % 128 + i) (e.2.2.getD i 0) m) []
            let q := (acc.1.touch vf e.1 true (.peer d pa))
            (q.request vf d (carriageway pa) 2 0 (pa / 128 * 128) (linePayload line) (.ringWrite vf region chunk) [], acc.2 ++ [q.nextId])
          | l => ((acc.1.touch vf e.1 true l).writeLoc l e.2.2 none vf, acc.2)) (s, [])
        s.event (due && !held) (if w.2.isEmpty then w.1.resultDone r else w.1.setResult { r with bytes := [], reqs := w.2 })

end Sys2Proof.Machine
end

