-- ==== Sys2Proof/Machine/Parking.lean ====
section
/-! DEFINITION. Parked work (25 R358-R360, R366, 07 R117, 21 R319): the fault queue's waiting entries, resume entries, and the
RESUME command, which also takes the resume entries that came while the context was stopped. -/
namespace Sys2Proof.Machine

/-- FAULT_QUEUE_ENTRY_WRITE (R360): waiting parking entries are written while there is room. -/
def execFaultQueueEntryWrite (vf : Nat) (s : State) : Host.Outcome State Fault Refusal :=
  let c := s.ctx vf
  s.event (c.parks.any (fun e => !e.written) && (s.ring vf 1).room) (s.flushParks vf c.parks.length)

/-! ### Resume entries (R359) -/

/-- The position that a parking entry names. -/
def ParkEntry.pos (e : ParkEntry) : Option (Nat × Nat) :=
  let w := e.words.headD 0
  if dbit w 47 then some (dfield w 43 38, dfield w 46 44) else none

/-- The fault that a resume entry of ACTION 1 names. -/
def ParkEntry.fault (e : ParkEntry) (code addr : Nat) : FaultInfo :=
  { FaultInfo.of code with pos := e.pos, shd := dbit (e.words.headD 0) 37, faddr := addr, daddr := (e.words.getD 1 0).toNat }

/-- One miss of a group is served: with the last of them the group is parked no longer (R117). -/
def State.unparkGroup (s : State) (gid : Gid) (token : Nat) : State :=
  s.onGroup gid (fun g =>
    let ts := g.tokens.filter (· != token)
    let g := { g with tokens := ts }
    if ts.isEmpty && g.park == .miss then
      { g with park := .none, paths := g.paths.map (fun t => if t.wait = .none then t.readied (s.core (coreOf g.part)).cycles else t) }
    else g)

/-- The group that a fabric request serves, with the address of the word it came from. -/
def FabReq.issuer (r : FabReq) : Option (Gid × Nat) :=
  match r.body with
  | .access (a :: _) => some (a.gid, a.addr)
  | .task gid _ _ a _ => some (gid, a)
  | _ => none

/-- The positions of an access that are helpers (R33). -/
def Access.helperOps (a : Access) : List PosOp :=
  match a.dest with | .v _ _ _ h => a.ops.filter (fun o => has h o.pos) | _ => []

/-- A request that meets a fault or miss, without the helper positions of its loads, which get zero and report nothing (R33); none when
nothing else is left of it. -/
def State.dropHelpers (s : State) (r : FabReq) : State × Option FabReq :=
  match r.body with
  | .access as =>
    let s := as.foldl (fun s a => if a.helperOps.isEmpty then s else s.fill a.gid (a.dest.items a.helperOps a.size 0)) s
    let rest := (as.map (fun a => { a with ops := a.ops.filter (fun o => !a.helperOps.contains o) })).filter (fun a =>
      !a.ops.isEmpty || as.any (fun b => b.id == a.id && b.ops.isEmpty))
    if rest.isEmpty && !as.isEmpty then (s.answered r.id, none)
    else
      let q : FabReq := { r with body := .access rest }
      let put (k : FabReq) : FabReq := if k.id = r.id then { k with body := .access rest } else k
      ({ s with reqs := s.reqs.map put, waitReqs := s.waitReqs.map put }, some q)
  | _ => (s, some r)

/-- Hold a request back until its context resumes: the fault it met is taken (R348). -/
def State.holdReq (s : State) (id : Nat) : State :=
  { s with reqs := s.reqs.filter (fun r => r.id != id),
           waitReqs := s.waitReqs.filter (fun r => r.id != id)
             ++ ((s.reqs ++ s.waitReqs).filter (fun r => r.id == id)).map (fun r => { r with parked := some 0 }) }

/-- A fault of a fabric request as its issuer takes it (R319): a group, an engine, a readout entry, a token, a landing's or
engine's update, a sequencer, a dispatcher. -/
def State.takeReqFault (s : State) (r : FabReq) (f : FaultInfo) : State :=
  match r.body with
  | .access as =>
    match as with
    | a :: _ => (s.holdReq r.id).takeFault a.gid { f with faddr := a.addr }
    | [] => s.answered r.id
  | .task gid _ _ a _ => (s.holdReq r.id).takeFault gid { f with faddr := a }
  | .line x _ =>
    let s := s.answered r.id
    match s.xfers.find? (fun t => t.id == x) with | some t => s.engFault t f | none => s
  | .lineRead x _ =>
    let s := s.answered r.id
    match s.xfers.find? (fun t => t.id == x) with | some t => s.engFault t f | none => s
  | .row ro w =>
    let s := s.answered r.id
    match s.readouts.find? (fun k => k.id == ro) with
    | some k =>
      let f := { f with pos := some (w.lane, w.member), faddr := k.addr, daddr := w.addr }
      (s.setReadout { k with rows := w :: k.rows, reqs := k.reqs.filter (· != r.id), pinned := some f }).raiseHalt k.vf
        (some (.readout k.part)) f
    | none => s
  | .update u => (s.answered r.id).updateFailed u f.code f.cause
  | .tokenRead id _ =>
    let s := s.answered r.id
    match s.token id with
    | some t => (s.settle t 2 f.code 0).raiseHalt t.vf (some (.route t.die)) { f with faddr := t.req.addr }
    | none => s
  | .token id _ =>
    -- a fabric-timeout counts as a refusal (R323)
    let s := s.answered r.id
    match s.token id with | some t => s.refuseToken t 4 | none => s
  | .tokenDrop id =>
    let s := s.answered r.id
    match s.token id with
    | some t => (s.setToken { t with reading := none }).raiseHalt t.vf (some (.route t.die)) { f with faddr := t.req.addr }
    | none => s
  | .launchRead vf sp va =>
    let s := s.answered r.id
    match s.nextRecord vf sp with
    | some (a, w) => s.launchStop vf sp a (recordTag w) (.fault f.code va)
    | none => s
  | .dropped => s.answered r.id
  | .ringRead vf n k _ => (s.answered r.id).regionFault vf n k f.code
  | .ringWrite vf n k => (s.answered r.id).regionFault vf n k f.code
  | .agg es => es.zipIdx.foldl (fun s e => s.logAgg e.1.gid { e0 := e.1.e0, index := e.2, cause := f.code }) (s.answered r.id)

/-- The same for what the request carries besides helper loads (R33). -/
def State.reqFault (s : State) (r : FabReq) (f : FaultInfo) : State :=
  match s.dropHelpers r with
  | (s, some q) => s.takeReqFault q f
  | (s, none) => s

/-- The work of a parking entry is released: it retries, or takes the named fault (R359). -/
def State.release (s : State) (vf : Nat) (e : ParkEntry) (action code : Nat) : State :=
  let c := s.ctx vf
  let s := s.setCtx vf { c with parks := c.parks.filter (fun k => k.token != e.token) }
  let fail := action == 1
  match e.work with
  | .group gid =>
    let s := s.unparkGroup gid e.token
    if fail then s.takeFault gid (e.fault code e.word) else s
  | .xfer id =>
    match s.xfers.find? (fun t => t.id == id) with
    | none => s
    | some t => if fail then s.engFault t (e.fault code 0) else s.setXfer { t with st := .running }
  | .readout id =>
    match s.readouts.find? (fun r => r.id == id) with
    | none => s
    | some r =>
      if fail then
        let f := e.fault code r.addr
        (s.setReadout { r with parked := none, pinned := some f }).raiseHalt r.vf (some (.readout r.part)) f
      else s.setReadout { r with parked := none }
  | .token id =>
    match s.token id with
    | none => s
    | some t =>
      let t := { t with parked := none }
      let f := e.fault code t.req.addr
      if fail then
        (if t.dropping then s.setToken t else s.settle t 2 code 0).raiseHalt t.vf (some (.route t.die)) f
      else (s.setToken t).pumpTokens
  | .landing id =>
    match s.landings.find? (fun k => k.id == id) with
    | none => s
    | some k =>
      if fail then
        let f := e.fault code 0
        (s.setLanding { k with parked := none, lost := some f, headerDone := true }).routeHalt k.vf f
      else s.setLanding { k with parked := none }
  | .update id =>
    match s.updates.find? (fun u => u.id == id) with
    | none => s
    | some u =>
      if fail then ({ s with updates := s.updates.filter (fun k => k.id != id) } : State).updateFailed u code 0
      else { s with updates := updWhere (fun k => k.id == id) (fun k => { k with parked := none }) s.updates }
  | .launch sp =>
    let c := s.ctx vf
    let s := s.setCtx vf ({ c with heldLaunch := c.heldLaunch.filter (fun h => h.2 != e.token) }.reread sp)
    if fail then match s.nextRecord vf sp with
      | some (a, .ok ws) => (s.launchInvalid vf 10 a code (launchOf ws).tag).popRecord vf sp
      | some (a, _) => (s.launchInvalid vf 10 a code 0).popRecord vf sp
      | none => s
    else s
  | .result n k =>
    if fail then s.regionFault vf n k code
    else { s with results := updWhere (fun r => r.vf == vf && r.region == n && r.chunk == k) (fun r => { r with parked := none }) s.results }
  | .access id =>
    match s.flight.find? (fun a => a.id == id) with
    | none => s
    | some a =>
      if fail then
        let c := s.ctx vf
        let s := s.setCtx vf { c with saved := { c.saved with held := c.saved.held ++ [a] } }
        ({ s with flight := s.flight.filter (fun f => f.id != id) } : State).takeFault a.gid (e.fault code a.addr)
      else match s.locOf vf a.va with
        | some l => { s with flight := updWhere (fun f => f.id == id) (fun f => { f with loc := l }) s.flight }
        | none => s
  | .chunk n k => if fail then s.regionFault vf n k code else s
  | .request id =>
    match s.waitReqs.find? (fun r => r.id == id) with
    | none => s
    | some r =>
      let s := match r.issuer with | some (gid, _) => s.unparkGroup gid e.token | none => s
      if fail then s.reqFault r (e.fault code 0)
      else
        let free (q : FabReq) : FabReq := if q.id = id then { q with parked := none } else q
        ({ s with waitReqs := s.waitReqs.map free } : State).pumpReqs

/-- The codes a resume entry may name (R359). -/
def resumeCode (action code : Nat) : Bool := action == 0 || (action == 1 && (code == 1 || code == 6 || code == 7))

/-- A resume entry is taken: released, or ignored and counted in the resume ring's OVF. -/
def State.takeResume (s : State) (vf : Nat) (w0 : Dword) : State :=
  let action := dfield w0 63 60
  let code := dfield w0 55 48
  match (s.ctx vf).parks.find? (fun e => e.token == dfield w0 31 0) with
  | some e => if resumeCode action code then s.release vf e action code else s.setRing vf 2 (s.ring vf 2).drop
  | none => s.setRing vf 2 (s.ring vf 2).drop

/-- RESUME_ENTRY (R359): the next entry of the resume ring; that of a context not resident is kept until it resumes. -/
def execResumeEntry (vf : Nat) (s : State) : Host.Outcome State Fault Refusal :=
  let k := s.ring vf 2
  let a := k.entryAt 2 k.ci.toNat
  let w0 := dw (readBytes s.host a 8)
  let w1 := dw (readBytes s.host (a + 8) 8)
  let t := s.setRing vf 2 { k with ci := k.ci + 1 }
  let c := t.ctx vf
  let out := match c.st with | .halted => true | .switched => true | _ => false
  s.event (k.en && k.used != 0) (if out then t.setCtx vf { c with keptResume := c.keptResume ++ [(w0, w1)] } else t.takeResume vf w0)

/-- RESUME (R357): a halted or switched-out context goes on from its save area; another one answers busy. A save area that
was edited elsewhere than allowed is refused (R359). -/
def execResume (s : State) : Host.Outcome State Fault Refusal :=
  s.command (fun s c =>
    let vf := cmdVf c
    let kept := (s.ctx vf).keptResume
    match (s.ctx vf).st with
    | .live => (s, 1)
    | .stopping _ => (s, 1)
    | _ => match s.resumeCtx vf with
      | .error e => (s, e)
      | .ok t => (kept.foldl (fun t w => t.takeResume vf w.1) t, 0))

end Sys2Proof.Machine
end

