-- ==== Sys2Proof/Machine/Migrate.lean ====
section
/-! DEFINITION. Page migration (07 R107, 27 R376): the period of a die's engine, and the end of a move. -/
namespace Sys2Proof.Machine

/-- A page of a page table: its address, its leaf entry and where that lies, its size. -/
structure PageRef where
  va : Nat
  pte : Nat
  at_ : Nat
  size : Nat
  deriving DecidableEq, Repr

/-- The pages that a table and those below it map and that may be moved by size (R107): 4 KiB, 64 KiB runs, 2 MiB. -/
def State.pagesFrom (s : State) : Nat → Nat → Nat → List PageRef
  | 0, _, _ => []
  | fuel + 1, table, va =>
    let level := 4 - fuel
    (List.range (if level = 0 then 16 else 512)).flatMap (fun i =>
      let at_ := table + 8 * i
      let e := readBytes s.hbm at_ 8
      let va := va + i * 2 ^ levelShift level
      let kind := field e 2 1
      if !e.testBit 0 || e.testBit 10 then []
      else if kind = 0 then if level = 4 then [] else s.pagesFrom fuel (field e 51 12 * 4096) va
      else if kind = 1 && level == 4 then [⟨va, e, at_, 4096⟩]
      else if kind = 1 && level == 3 then [⟨va, e, at_, 2097152⟩]
      else if kind = 2 && level == 4 && i % 16 == 0 then [⟨va, e, at_, 65536⟩]
      else [])

/-- The frame, tier and engine's die of a page (R106). -/
def PageRef.frame (p : PageRef) : Nat := field p.pte 51 12
def PageRef.tier (p : PageRef) : Nat := field p.pte 6 5
def PageRef.die (p : PageRef) : Nat := if p.tier = 0 then p.frame * 4096 / Config.dieSpan else p.frame % 4

/-- May a page be moved (R107)? One whose data is lost or poisoned, or that is being moved, may not. -/
def State.movable (s : State) (vf : Nat) (p : PageRef) : Bool :=
  let lines := (s.poisoned ++ s.lost).any (fun l => l.1 == (p.tier == 1) && decide (p.frame * 32 ≤ l.2) && decide (l.2 < p.frame * 32 + p.size / 128))
  decide (p.tier < 2) && !p.pte.testBit 7 && field p.pte 55 52 == 0 && !s.moving vf p.va && !lines
  && (match s.walk vf p.va with | .leaf _ _ _ => true | _ => false)

/-- Accesses of a page in the period, and its hint: where hints cover parts of a larger page, the first hinted 4 KiB unit found decides for
the whole page, which no rule settles (log entry 101). -/
def Ctx.pageHeat (c : Ctx) (p : PageRef) : Nat :=
  ((c.heat.filter (fun e => decide (p.va / 4096 ≤ e.1) && decide (e.1 < (p.va + p.size) / 4096))).map (·.2)).sum
def Ctx.pageHint (c : Ctx) (p : PageRef) : Nat :=
  match c.hints.find? (fun e => decide (p.va / 4096 ≤ e.1) && decide (e.1 < (p.va + p.size) / 4096)) with
  | some e => e.2
  | none => 0

/-- The tier for which a page is a candidate (R376); a hint goes before the counters (log entry 21). -/
def Ctx.candidate (c : Ctx) (p : PageRef) : Option Nat :=
  let w := c.migPolicy
  let n := c.pageHeat p
  match c.pageHint p with
  | 1 => if p.tier = 1 then some 0 else none
  | 2 => if p.tier = 0 then some 1 else none
  | _ =>
    if !dbit w 63 then none
    else if p.tier = 1 && dfield w 47 32 != 0 && decide (dfield w 47 32 ≤ n) then some 0
    else if p.tier = 0 && dfield w 31 16 != 0 && decide (n < dfield w 31 16) then some 1
    else none

/-- A page size's code in a pool word. -/
def sizeCode (size : Nat) : Nat := if size = 4096 then 0 else if size = 65536 then 1 else 2

/-- Word `i` of a context's frame pool. -/
def State.poolWord (s : State) (c : Ctx) (i : Nat) : Nat := readBytes s.hbm (c.poolAddr.toNat + 8 * i) 8

/-- The lowest pool word that is free for a tier and size. -/
def State.poolFind (s : State) (c : Ctx) (tier size : Nat) : Option Nat :=
  (List.range c.poolCount.toNat).find? (fun i =>
    let w := s.poolWord c i
    w.testBit 63 && field w 43 42 == sizeCode size && field w 41 40 == tier && field w 39 0 % (size / 4096) == 0)

/-- A page begins to move: a pool word is taken with an atomic update (R376). -/
def State.beginMove (s : State) (vf die : Nat) (p : PageRef) (tier : Nat) : State :=
  let c := s.ctx vf
  match s.poolFind c tier p.size with
  | none => s
  | some i =>
    let w := s.poolWord c i
    let s := s.writeNum (.hbm (c.poolAddr.toNat + 8 * i)) 8 (w - 2 ^ 63) none noVf
    let m : Move := { id := s.nextId, vf := vf, die := die, va := p.va, pteAddr := p.at_, frame := field w 39 0, tier := tier,
                      size := p.size, poolWord := i }
    State.named { s with moves := s.moves ++ [m] }

/-- MIGRATION_PERIOD (R376): the period of a die's engine ends for a context; its candidates begin to move while the pool holds
suitable frames, and the counters of its pages restart. -/
def execMigrationPeriod (die vf : Nat) (s : State) : Host.Outcome State Fault Refusal :=
  let c := s.ctx vf
  let per := if dfield c.migPolicy 15 0 = 0 then 1 else dfield c.migPolicy 15 0
  let now := (s.die die).cycles
  let pages := (s.pagesFrom 5 (c.root * 4096) 0).filter (fun p => p.die == die && s.movable vf p)
  let t := pages.foldl (fun t p => match c.candidate p with | some tier => t.beginMove vf die p tier | none => t) s
  let k := t.ctx vf
  let mine (page : Nat) : Bool := pages.any (fun p => decide (p.va / 4096 ≤ page) && decide (page < (p.va + p.size) / 4096))
  let k : Ctx := { k with heat := k.heat.filter (fun e => !mine e.1), periods := fset 0 k.periods die now }
  s.event (s.dieOn die && decide (fget 0 c.periods die + 65536 * per ≤ now)) (t.setCtx vf k)

/-- The place of a frame of a tier. -/
def frameLoc (tier frame : Nat) : Loc := if tier = 0 then .hbm (frame * 4096) else .host (frame * 4096)

/-- A place in the moved page, at its new frame. -/
def Move.follow (m : Move) (old : Loc) (l : Loc) : Loc :=
  match old, l with
  | .hbm a, .hbm b => if a ≤ b && b < a + m.size then (frameLoc m.tier m.frame).add (b - a) else l
  | .host a, .host b => if a ≤ b && b < a + m.size then (frameLoc m.tier m.frame).add (b - a) else l
  | _, l => l

/-- Change FRAME and TIER of an entry, and of its run for a 64 KiB page. -/
def State.retarget (s : State) (m : Move) : State :=
  (List.range (if m.size = 65536 then 16 else 1)).foldl (fun s i =>
    let a := m.pteAddr + 8 * i
    let e := readBytes s.hbm a 8
    let e' := e - at' (field e 51 12) 12 - at' (field e 6 5) 5 + at' (m.frame + i) 12 + at' m.tier 5
    s.writeNum (.hbm a) 8 e' none noVf) s

/-- The freed frame goes into the lowest pool word whose VALID is clear (R376). -/
def State.poolReturn (s : State) (vf tier frame size : Nat) : State :=
  let c := s.ctx vf
  match (List.range c.poolCount.toNat).find? (fun i => !(s.poolWord c i).testBit 63) with
  | none => s
  | some i => s.writeNum (.hbm (c.poolAddr.toNat + 8 * i)) 8 (at' 1 63 + at' (sizeCode size) 42 + at' tier 40 + frame) none noVf

/-- PAGE_MOVE_COMPLETE (R107): the bytes stand at the new frame, the entry changes, the old translation is gone, and the accesses
that stalled go on at the new frame. -/
def execPageMoveComplete (id : Nat) (s : State) : Host.Outcome State Fault Refusal :=
  match s.moves.find? (fun m => m.id == id) with
  | none => .fault .notDue
  | some m =>
    let e := readBytes s.hbm m.pteAddr 8
    let tier := field e 6 5
    let old := frameLoc tier (field e 51 12)
    let t := s.writeNum (frameLoc m.tier m.frame) m.size (s.readLoc old m.size) none noVf
    let t := t.retarget m
    let move (a : Access) : Access := { a with loc := m.follow old a.loc }
    let t : State := { t with moves := t.moves.filter (fun k => k.id != id), flight := t.flight.map move, unacked := t.unacked.map move,
                              ctxs := t.ctxs.map (fun k => (k.1, { k.2 with saved := { k.2.saved with held := k.2.saved.held.map move } })),
                              tlb := t.tlb.filter (fun k => !(k.vf == m.vf && k.meets m.va m.size)) }
    s.event true (t.poolReturn m.vf tier (field e 51 12) m.size)

end Sys2Proof.Machine
end

