-- ==== Sys2Proof/WellFormed.lean ====
section
/-! DEFINITION. Well-formed instructions: the field values the spec gives each row. A word whose own fields are ill-formed raises
illegal-instruction (11 R160, R161, R168, R169); a step that is ill-formed names nothing of the part. -/
namespace Sys2Proof

/-- A 64-bit operand in v registers names an even register (R161). -/
def evenIf (pair : Bool) (r : BitVec 7) : Bool := !pair || r.toNat % 2 == 0

/-- The B field of a V3 word: an s register under BS = 1 leaves B{6} zero (R160), a pair names an even register (R161). -/
def bFieldOk (pair : Bool) (b : BitVec 7) (bs : BitVec 1) : Bool := if bs = 1 then decide (b.toNat < 64) else evenIf pair b

/-- The registers of a V3 word of one width (R161). -/
def v3Ok (pair : Bool) (d a b : BitVec 7) (bs : BitVec 1) : Bool := evenIf pair d && evenIf pair a && bFieldOk pair b bs

/-- Integer types 2 and 3 are pairs (R183); of floating-point types 1 (R191); of conversions 1, 6 and 7 (R196). -/
def intPair (f : Nat) : Bool := f == 2 || f == 3
def fpPair (f : Nat) : Bool := f == 1
def cvtIsPair (t : Nat) : Bool := t == 1 || t == 6 || t == 7

/-- FCVT (R196): not between equal types or integers; E = 1 only where one side is packed. -/
def cvtOk (e : BitVec 1) (src dst : Nat) : Bool :=
  let packed (t : Nat) : Bool := t == 2 || t == 3
  src != dst && !(decide (4 ≤ src) && decide (4 ≤ dst)) && (packed src != packed dst || e == 0)

/-- A reduction (R205): integers take operators 0-5, FP 0-2, accumulators x0-x3 operator 0; pairs are even. `kind` is 0 for an
integer, 1 FP, 2 accumulators. -/
def reduceOk (kind : Nat) (pair : Bool) (d a : BitVec 7) (o : BitVec 3) : Bool :=
  match kind with
  | 0 => decide (o.toNat ≤ 5) && evenIf pair d && evenIf pair a
  | 1 => decide (o.toNat ≤ 2) && evenIf pair d && evenIf pair a
  | _ => o == 0 && decide (d.toNat < 4) && decide (a.toNat < 4)

/-- VRED and VSCAN (R206): FN 0-3 integers, 4 and 5 FP, 6 accumulators. -/
def laneReduceOk (d a : BitVec 7) (o f : BitVec 3) : Bool :=
  decide (f.toNat ≤ 6)
  && reduceOk (if f.toNat ≤ 3 then 0 else if f.toNat ≤ 5 then 1 else 2) (intPair f.toNat || f.toNat == 5) d a o

/-- MXCH reductions (R210): FN 2-6; B{5} only with an integer min or max. -/
def memberReduceOk (d a : BitVec 7) (u : BitVec 1) (o f : BitVec 3) : Bool :=
  decide (2 ≤ f.toNat) && decide (f.toNat ≤ 6) && (u == 0 || ((f == 2 || f == 3) && (o == 1 || o == 2)))
  && reduceOk (if f.toNat ≤ 3 then 0 else if f.toNat ≤ 5 then 1 else 2) (f.toNat == 3 || f.toNat == 5) d a o

/-- A load's or store's data register and extension (R160, R224): 64 bits name an even register, SX goes with 8 and 16 bits. -/
def memOk (d : BitVec 7) (z : BitVec 2) (x : BitVec 1) : Bool := evenIf (z == 3) d && (x == 0 || decide (z.toNat ≤ 1))

/-- An atomic's operator and type (R230): FP takes add, min, max, exch and cas; 64-bit types and global addresses are pairs. -/
def atomOk (scratch : Bool) (d a : BitVec 7) (o f : BitVec 3) : Bool :=
  decide (f.toNat ≤ 5) && (decide (f.toNat ≤ 3) || !(decide (3 ≤ o.toNat) && decide (o.toNat ≤ 5)))
  && evenIf (intPair f.toNat || f.toNat == 5) d && (scratch || evenIf true a)

/-- BRA (R162): COND 0 leaves CREG zero, 5-7 name an m register. -/
def braOk (c : BitVec 6) (o : BitVec 3) : Bool := (o != 0 || c == 0) && (decide (o.toNat ≤ 4) || decide (c.toNat < 16))

/-- A packet's payload holds at most 256 bytes (R309). -/
def packetOk (p : Packet) : Bool := decide (p.payload.length ≤ 256)

/-- Numbers of functions, dies, cores, partitions, ports, stacked layers (R9, R11, R306, R370, R382). -/
def vfOk (n : Nat) : Bool := decide (n < 64)
def dieOk (n : Nat) : Bool := decide (n < 4)
def coreOk (n : Nat) : Bool := decide (n < 1024)
def partOk (n : Nat) : Bool := decide (n < 4096)
def portOk (n : Nat) : Bool := decide (n < 18)
def layerOk (n : Nat) : Bool := decide (n < 16)

/-- Does what the surroundings decide in a start name steps, slots and banks that exist (R11, R15, R377)? -/
def startEnvOk (e : StartEnv) : Bool :=
  (match e.failure with | some (k, _) => decide (1 ≤ k) && decide (k ≤ 5) | none => true)
  && e.badSlots.all (fun b => decide (b.1 < 4) && decide (b.2 < 272))
  && e.badBanks.all (fun b => decide (b.1 < 4) && decide (b.2 < 65))

/-- The die of a fabric port, by the number of its link (R17). -/
def linkDie (n : Nat) : Nat := if n < 16 then n / 4 else if n = 16 then 0 else 3

/-- Is there a unit of this number on a die, for a SOURCE of error records (R11, R15, R17, R361, log entry 22): stacks, base die,
layers, banks, scratchpads, partitions' registers, tiles and arrays, fabric ports on their own die, die-to-die boundaries, the
host link on die 0, cores? -/
def errorUnitOk (source die unit : Nat) : Bool :=
  match source with
  | 0 => decide (unit < 6)
  | 1 => unit == 0
  | 2 => decide (unit < 4)
  | 3 => decide (unit < 65)
  | 4 => decide (unit < 256)
  | 5 => true
  | 6 => true
  | 7 => true
  | 8 => portOk unit && linkDie unit == die
  | 9 => decide (unit < 4)
  | 10 => unit == 0 && die == 0
  | 11 => decide (unit < 256)
  | _ => false

/-- Does a unit that stops exist? -/
def stopUnitOk (u : StopUnit) : Bool :=
  match u with
  | .group _ => true
  | .array p => partOk p
  | .copy c => coreOk c
  | .halo c => coreOk c
  | .request c => coreOk c
  | .route d => dieOk d
  | .ring => true
  | .readout p => partOk p
  | .block _ => true

/-- Does the place of an error exist? -/
def errorSiteOk (e : ErrorSite) : Bool :=
  match e with
  | .cleanLine _ => true
  | .dirtyLine _ _ vf => vfOk vf
  | .registers _ => true
  | .scratchpad _ => true
  | .tiles _ => true

/-- Does every field of the instruction hold a value that its row gives it? -/
def wellFormed (i : Instr) : Bool :=
  match i with
  | .vadd d a b f s => decide (f.toNat ≤ 5) && v3Ok (intPair f.toNat) d a b s
  | .vsub d a b f s => decide (f.toNat ≤ 5) && v3Ok (intPair f.toNat) d a b s
  | .vmul d a b f s => decide (f.toNat ≤ 5) && v3Ok (intPair f.toNat) d a b s
  | .vmulh d a b f s => decide (f.toNat ≤ 5) && v3Ok (intPair f.toNat) d a b s
  | .vmad d a b f s => decide (f.toNat ≤ 5) && v3Ok (intPair f.toNat) d a b s
  | .vmin d a b f s => decide (f.toNat ≤ 5) && v3Ok (intPair f.toNat) d a b s
  | .vmax d a b f s => decide (f.toNat ≤ 5) && v3Ok (intPair f.toNat) d a b s
  | .vabsd d a b f s => decide (f.toNat ≤ 5) && v3Ok (intPair f.toNat) d a b s
  | .vand d a b f s => v3Ok (intPair f.toNat) d a b s
  | .vor d a b f s => v3Ok (intPair f.toNat) d a b s
  | .vxor d a b f s => v3Ok (intPair f.toNat) d a b s
  | .vandn d a b f s => v3Ok (intPair f.toNat) d a b s
  | .vshl d a b f s => decide (f.toNat ≤ 5) && evenIf (intPair f.toNat) d && evenIf (intPair f.toNat) a && bFieldOk false b s
  | .vshr d a b f s => decide (f.toNat ≤ 5) && evenIf (intPair f.toNat) d && evenIf (intPair f.toNat) a && bFieldOk false b s
  | .vsar d a b f s => decide (f.toNat ≤ 5) && evenIf (intPair f.toNat) d && evenIf (intPair f.toNat) a && bFieldOk false b s
  | .vrot d a b f s => decide (f.toNat ≤ 5) && evenIf (intPair f.toNat) d && evenIf (intPair f.toNat) a && bFieldOk false b s
  | .vbfx d a b _ s => v3Ok false d a b s
  | .vbfi d a b _ s => v3Ok false d a b s
  | .vpopc _ a f => evenIf (intPair f.toNat) a
  | .vclz _ a f => evenIf (intPair f.toNat) a
  | .vcmp t m a b c s => decide (c.toNat ≤ 5) && m != 0 && evenIf (intPair t.toNat) a && bFieldOk (intPair t.toNat) b s
  | .vsel d a b f s => v3Ok (intPair f.toNat) d a b s
  | .vmov d b f s => evenIf (intPair f.toNat) d && bFieldOk (intPair f.toNat) b s
  | .vaddi d a _ f => evenIf (intPair f.toNat) d && evenIf (intPair f.toNat) a
  | .vshli d a _ f => decide (f.toNat ≤ 5) && evenIf (intPair f.toNat) d && evenIf (intPair f.toNat) a
  | .vshri d a _ f => decide (f.toNat ≤ 5) && evenIf (intPair f.toNat) d && evenIf (intPair f.toNat) a
  | .vandi d a _ f => evenIf (intPair f.toNat) d && evenIf (intPair f.toNat) a
  | .vcmpi t m a _ c => decide (c.toNat ≤ 5) && m != 0 && evenIf (intPair t.toNat) a
  | .vmovi d _ f => evenIf (intPair f.toNat) d
  | .fadd d a b f s => v3Ok (fpPair f.toNat) d a b s
  | .fsub d a b f s => v3Ok (fpPair f.toNat) d a b s
  | .fmul d a b f s => v3Ok (fpPair f.toNat) d a b s
  | .ffma d a b f s => v3Ok (fpPair f.toNat) d a b s
  | .fmin d a b f s => v3Ok (fpPair f.toNat) d a b s
  | .fmax d a b f s => v3Ok (fpPair f.toNat) d a b s
  | .fsgn d a b f s => decide (f.toNat ≤ 5) && v3Ok (decide (3 ≤ f.toNat)) d a b s
  | .fcmp t m a b _ s => m != 0 && evenIf (fpPair t.toNat) a && bFieldOk (fpPair t.toNat) b s
  | .fcvt d a e t f => cvtOk e t.toNat f.toNat && evenIf (cvtIsPair f.toNat) d && evenIf (cvtIsPair t.toNat) a
  | .fclass _ a f => evenIf (fpPair f.toNat) a
  | .fsfn _ _ f => decide (f.toNat ≤ 6)
  | .fdiv d a b f s => v3Ok (fpPair f.toNat) d a b s
  | .fsqrt d a f => evenIf (fpPair f.toNat) d && evenIf (fpPair f.toNat) a
  | .frnd d a f => evenIf (fpPair f.toNat) d && evenIf (fpPair f.toNat) a
  | .fldexp d a b f s => evenIf (fpPair f.toNat) d && evenIf (fpPair f.toNat) a && bFieldOk false b s
  | .fdot2 d a b _ s => v3Ok false d a b s
  | .xclr _ => true
  | .xadd _ a f => decide (f.toNat ≤ 5) && evenIf (f.toNat == 1 || decide (4 ≤ f.toNat)) a
  | .xfma _ a b f => decide (f.toNat ≤ 5) && evenIf (fpPair f.toNat) a && evenIf (fpPair f.toNat) b
  | .xsub _ a f => decide (f.toNat ≤ 5) && evenIf (f.toNat == 1 || decide (4 ≤ f.toNat)) a
  | .xrd d _ f => decide (f.toNat ≤ 5) && evenIf (f.toNat == 1 || decide (4 ≤ f.toNat)) d
  | .xmrg _ _ => true
  | .xst d _ => evenIf true d
  | .xld _ a => evenIf true a
  | .qswz _ _ f => decide (f.toNat ≤ 6)
  | .qdiff _ _ f => decide (f.toNat ≤ 3)
  | .shfl d a b f s => decide (f.toNat ≤ 3) && v3Ok false d a b s
  | .vred d a o f => laneReduceOk d a o f
  | .vscan d a _ o f => laneReduceOk d a o f
  | .vballot m _ => m != 0
  | .vballotCnt _ _ => true
  | .vmatch d a f => decide (f.toNat ≤ 1) && evenIf true d && evenIf (f == 1) a
  | .mxchBc d a b f s => (if s = 1 then decide (b.toNat < 64) else decide (b.toNat < 8)) && evenIf (f == 1) d && evenIf (f == 1) a
  | .mxchRed d a u o f => memberReduceOk d a u o f
  | .sadd _ _ _ _ _ => true
  | .ssub _ _ _ _ _ => true
  | .smul _ _ _ _ _ => true
  | .smad _ _ _ _ => true
  | .sand _ _ _ _ => true
  | .sor _ _ _ _ => true
  | .sxor _ _ _ _ => true
  | .sshl _ _ _ _ => true
  | .sshr _ _ _ _ => true
  | .ssar _ _ _ _ => true
  | .scmp _ _ _ c _ => decide (c.toNat ≤ 5)
  | .ssel _ _ _ _ => true
  | .smov _ _ _ => true
  | .saddi _ _ _ _ => true
  | .smin _ _ _ _ _ => true
  | .smax _ _ _ _ _ => true
  | .srd _ a i => decide (i.toNat ≤ 8) && (i == 7 || a == 0)
  | .srdClr _ _ => true
  | .bra c o _ => braOk c o
  | .bdiv _ _ _ => true
  | .call _ _ => true
  | .ret _ => true
  | .jmpi _ => true
  | .ld d _ _ z x _ => memOk d z x
  | .st d _ _ z => memOk d z 0
  | .ldx d _ _ z x _ _ => memOk d z x
  | .stx d _ _ z _ => memOk d z 0
  | .lds d _ _ z x _ _ => memOk d z x
  | .sts d _ _ z _ => memOk d z 0
  | .ldw d _ _ z x _ _ => memOk d z x
  | .ldc d _ _ z x _ _ => memOk d z x
  | .atom d a _ _ o f => atomOk false d a o f
  | .red d a _ o f => atomOk false d a o f && decide (o.toNat ≤ 5)
  | .atoms d a _ _ o f => atomOk true d a o f
  | .fence _ sc => decide (sc.toNat ≤ 4)
  | .qsetBase _ _ => true
  | .qsetShape _ _ _ _ => true
  | .qbind _ _ f => f != 3
  | .qbindOff _ => true
  | .qposRd _ _ => true
  | .qposWr _ _ => true
  | .cpy _ r _ => decide (r.toNat ≤ 60)
  | .cpym _ r _ => decide (r.toNat ≤ 60)
  | .halo _ r _ => decide (r.toNat ≤ 60)
  | .haloAllm _ r _ => decide (r.toNat ≤ 60)
  | .kick _ r => decide (r.toNat ≤ 60)
  | .mighHot _ r => decide (r.toNat ≤ 60)
  | .mighCold _ r => decide (r.toNat ≤ 60)
  | .mighClr _ r => decide (r.toNat ≤ 60)
  | .rtsend _ r => decide (r.toNat ≤ 60)
  | .rtrecvFill _ r => decide (r.toNat ≤ 60)
  | .rtrecvNext _ r => decide (r.toNat ≤ 60)
  | .rtrecvLand _ r => decide (r.toNat ≤ 60)
  | .rtrecvReset _ r => decide (r.toNat ≤ 60)
  | .mma _ _ _ _ _ => true
  | .mmag _ _ _ _ _ => true
  | .aclr _ _ => true
  | .ard _ _ d g => evenIf (g == 1 || g == 5) d
  | .ards _ _ p _ => p.toNat % 2 == 0 && decide (p.toNat < 64)
  | .rqcvt _ _ k f => decide (f.toNat ≤ 2) && decide (k.toNat ≤ 2)
  | .tarm _ b => b.toNat % 2 == 0
  | .tarmClr _ => true
  | .tarmInit _ _ _ => true
  | .tadd _ _ _ => true
  | .taddR _ _ _ _ => true
  | .arrive _ => true
  | .arriveAdd _ _ _ => true
  | .arriveWait _ => true
  | .poll _ _ _ _ => true
  | .capenter _ _ => true
  | .capstep _ _ => true
  | .capexit _ _ => true
  | .capres _ _ => true
  | .regrel n => n != 0
  | .regclm n => n != 0
  | .tspawn _ => true
  | .sysTrap _ => true
  | .sysBrk _ => true
  | .sysPmrd _ _ => true
  | .sysCyc _ => true
  | .sysEvsig _ _ => true
  | .join => true
  | .exit => true
  | .nop => true
  | .yield => true
  | .flushagg => true
  | .flushaggWait => true
  | .sysHalt => true
  | .clauseFetch p => partOk p
  | .clauseWaitRelease _ _ => true
  | .legIssue p => partOk p
  | .backOffAgeing _ _ => true
  | .classAgeing _ _ => true
  | .yieldRelease _ _ => true
  | .registerFill _ => true
  | .homeReply _ _ => true
  | .storeAcknowledge _ => true
  | .globalAccessAtHome _ => true
  | .scratchpadRemoteAccess _ => true
  | .faultQueueEntryWrite vf => vfOk vf
  | .resumeEntry vf => vfOk vf
  | .layerWake k => layerOk k
  | .layerGate k mode => layerOk k && (mode == 1 || mode == 2)
  | .weightRefreshWindow die => dieOk die
  | .hbmRefresh stack layer => decide (stack < 24) && layerOk layer
  | .migrationPeriod die vf => dieOk die && vfOk vf
  | .pageMoveComplete _ => true
  | .aggBufferAgeExpiry _ => true
  | .fenceComplete _ _ => true
  | .engineRequestAccept _ => true
  | .engineLineLand _ => true
  | .engineRequestComplete _ => true
  | .kickEntryStart _ => true
  | .streamElementArrival _ q => decide (q < 8)
  | .matrixOperation p => partOk p
  | .matrixOperationComplete p => partOk p
  | .sliceHang p => partOk p
  | .readoutEntryWrite _ => true
  | .taskUpdate _ => true
  | .spawnQueueEntry vf => vfOk vf
  | .launchRecordAccept vf _ => vfOk vf
  | .blockPlacement die vf _ core => dieOk die && vfOk vf && coreOk core
  | .dispatchAgeing die vf _ => dieOk die && vfOk vf
  | .gridCompletion _ => true
  | .unitStop vf u => vfOk vf && stopUnitOk u
  | .collectorComplete vf => vfOk vf
  | .uncorrectableError site => errorSiteOk site
  | .correctableRateThreshold source die unit => errorUnitOk source.toNat die.toNat unit.toNat
  | .coreRetirement core => coreOk core
  | .layerThermalLoss k => layerOk k
  | .loopLoss _ => true
  | .loopRestored _ => true
  | .coldStart env => startEnvOk env
  | .warmRestart env => startEnvOk env
  | .startStepTimeout stage => decide (1 ≤ stage) && decide (stage ≤ 5)
  | .hbmtRefresh index _ => decide (index < 384)
  | .laneFailure port _ => portOk port
  | .laneWidthChange port _ => portOk port
  | .widthChangeIdleEnd port _ => portOk port
  | .flitReceive port f => portOk port && decide (f.data.length = 64)
  | .replayRequest port _ => portOk port
  | .flitAcknowledge port _ => portOk port
  | .linkRetrain port => portOk port
  | .linkPause port _ => portOk port
  | .linkResume port _ => portOk port
  | .linkDeath port => decide (port < 36)
  | .carriagewayDrainComplete _ => true
  | .fabricTimeout _ => true
  | .read p => packetOk p
  | .readData p => packetOk p
  | .write p => packetOk p
  | .aggregated p => packetOk p
  | .atomic p => packetOk p
  | .atomicData p => packetOk p
  | .acknowledge p => packetOk p
  | .elementFaults p => packetOk p
  | .status p => packetOk p
  | .discardedPacket port p => portOk port && packetOk p
  | .routeTokenAccept die => dieOk die
  | .routeToken p => packetOk p
  | .routeTokenHeaderWrite _ => true
  | .routeTokenLand _ => true
  | .routeReply p => packetOk p
  | .ringChunk _ => true
  | .ringResultWrite vf _ _ => vfOk vf
  | .hostSnoop addr data => decide (addr % 128 + data.length ≤ 128)
  | .ringPiWrite fn ring _ => vfOk fn && decide (ring < 7)
  | .ringCiWrite fn ring _ => vfOk fn && decide (ring < 7)
  | .ringControlWrite fn ring _ => vfOk fn && decide (ring < 7)
  | .registerWriteOther fn _ width _ => vfOk fn && (width == 4 || width == 8)
  | .illegalInstruction _ => true
  | .normalFlowReturn _ => true
  | .linkTrainingEnd port lostOut lostIn => portOk port && decide (lostOut + lostIn ≤ 16)
  | .tableChange => true
  | .setctxRoot => true
  | .setctxWindow => true
  | .setctxAgel => true
  | .setctxRoute => true
  | .setctxRegion => true
  | .setctxSavebase => true
  | .setctxWeightRegion => true
  | .setctxMigrationPolicy => true
  | .setctxFramePool => true
  | .setctxT2Limit => true
  | .inval => true
  | .preempt => true
  | .resume => true
  | .endctx => true
  | .lsplit => true
  | .dbgrd => true
  | .pmctl => true
  | .replay => true
  | .replayPassEnd => true
  | .attest => true
  | .fwload => true
  | .fullstart => true
  | .fabcfgImportWindow => true
  | .fabcfgResponseLog => true
  | .unknownOp => true
  | .powerLoss => true

end Sys2Proof
end

