-- ==== Sys2Proof/Machine/Errors.lean ====
section
/-! DEFINITION. Errors (25 R361-R364, 01 R13), cooling loops and operating tables (01 R21, R22), starts and power (27 R377, R378,
R383, 28 R389). -/
namespace Sys2Proof.Machine

/-! ### Error records (R361) -/

/-- The fault of an error in registers, scratchpad or tiles (R362). -/
def dataLost (cause addr : Nat) : FaultInfo := { FaultInfo.with 0x06 cause with daddr := addr }

/-- A group's own fault, with the halt line: the group ends its leg and stops (R347). -/
def State.faultGroup (s : State) (g : Group) (f : FaultInfo) : State :=
  (s.onGroup g.gid (fun h => { h with fault := some (h.fault.getD f) })).raiseHalt g.vf (some (.group g.gid)) f

/-- UNCORRECTABLE_ERROR (R362): the access of a clean line parks, with a parking entry of KIND 2 (log entry 23); a dirty line is
poisoned and the context that met it halts; an error in registers, scratchpad or tiles halts the owning context. -/
def execUncorrectableError (site : ErrorSite) (s : State) : Host.Outcome State Fault Refusal :=
  match site with
  | .cleanLine id =>
    match s.flight.find? (fun a => a.id == id) with
    | none => .fault .notDue
    | some a =>
      match a.loc with
      | .weight _ _ => .fault .notDue
      | .scr _ _ => .fault .notDue
      | .peer _ _ => .fault .notDue
      | .host pa =>
        let parked := (s.ctx a.vf).parks.any (fun e => e.work == .access id)
        let clean := !s.dirty.any (fun d => d.is true (pa / 128))
        let t := s.reportError 1 1 (homeDie true pa) 0 pa a.vf a.gid.toNat 1
        let tag : Dword := match s.group a.gid with | some g => g.tag | none => 0
        s.event (clean && !parked) (t.parkEntry a.vf (.access id) 2 0 none false (a.kind != .load) a.va a.gid.toNat tag).2
      | .hbm pa =>
        let parked := (s.ctx a.vf).parks.any (fun e => e.work == .access id)
        let clean := !s.dirty.any (fun d => d.is false (pa / 128))
        let t := s.reportError 0 1 (dieOfPa pa) (stackOfPa pa) pa a.vf a.gid.toNat 1
        let tag : Dword := match s.group a.gid with | some g => g.tag | none => 0
        s.event (clean && !parked) (t.parkEntry a.vf (.access id) 2 0 none false (a.kind != .load) a.va a.gid.toNat tag).2
  | .dirtyLine host pa vf =>
    match s.dirty.find? (fun d => d.is host (pa / 128)) with
    | none => .fault .notDue
    | some d =>
      let die := homeDie host pa
      let t := if d.layer < 16 then s.reportError 2 1 die (d.layer % 4) pa vf 0 2 else s.reportError 1 1 die 0 pa vf 0 2
      let t : State := { t with poisoned := (host, pa / 128) :: t.poisoned.filter (fun l => l != (host, pa / 128)),
                                dirty := t.dirty.filter (fun d => !d.is host (pa / 128)) }
      s.event (decide (vf < 64)) (t.raiseHalt vf none (dataLost 1 pa))
  | .registers gid =>
    match s.group gid with
    | none => .fault .notDue
    | some g => s.event true ((s.reportError 5 1 (dieOfCore (coreOf g.part)) (g.part % 1024) 0 g.vf gid.toNat 2).faultGroup g (dataLost 3 0))
  | .tiles gid =>
    match s.group gid with
    | none => .fault .notDue
    | some g => s.event true ((s.reportError 6 1 (dieOfCore (coreOf g.part)) (g.part % 1024) 0 g.vf gid.toNat 2).faultGroup g (dataLost 3 0))
  | .scratchpad uid =>
    match s.block uid with
    | none => .fault .notDue
    | some b => s.event true ((s.reportError 4 1 (dieOfCore b.core) (b.core % 256) 0 b.vf 0 2).raiseHalt b.vf (some (.block uid)) (dataLost 3 0))

/-- The core that a unit of an error source belongs to (log entry 22), if it is part of one. -/
def coreOfUnit (source die unit : Nat) : Option Nat :=
  match source with
  | 4 => some (256 * die + unit % 256)
  | 11 => some (256 * die + unit % 256)
  | 5 => some (256 * die + unit / 4 % 256)
  | 6 => some (256 * die + unit / 4 % 256)
  | 7 => some (256 * die + unit / 4 % 256)
  | _ => none

/-- CORRECTABLE_RATE_THRESHOLD (R362): the unit reports CAUSE 2 and its retirement is pending. -/
def execCorrectableRateThreshold (source : BitVec 8) (die : BitVec 2) (unit : BitVec 10) (s : State) : Host.Outcome State Fault Refusal :=
  let t := s.reportError source.toNat 2 die.toNat unit.toNat 0 0 0 3
  s.event (errorUnitOk source.toNat die.toNat unit.toNat && s.dieOn die.toNat)
    (match coreOfUnit source.toNat die.toNat unit.toNat with
      | some c => t.setCore c { t.core c with retiring := true }
      | none => t)

/-! ### The repair map (R13, R16) -/

/-- The physical slot of a logical core of a die (R13). -/
def Manage.slotOf (m : Manage) (die idx : Nat) : Nat :=
  match m.repair.find? (fun r => r.1 == die && r.2.1 == idx) with | some r => r.2.2 | none => idx

/-- The logical core of a die that a physical slot serves, if any (R13). -/
def Manage.servedBy (m : Manage) (die slot : Nat) : Option Nat :=
  match m.repair.find? (fun r => r.1 == die && r.2.2 == slot) with
  | some r => some r.2.1
  | none => if slot < 256 && !m.repair.any (fun r => r.1 == die && r.2.1 == slot) then some slot else none

/-- The next usable spare slot of a die: of the 16 beyond the 256 of log entry 4, one neither bad nor bound (R11, R13). -/
def Manage.freeSlot (m : Manage) (die : Nat) : Option Nat :=
  ((List.range 16).map (256 + ·)).find? (fun p => !m.badSlots.contains (die, p) && !m.repair.any (fun r => r.1 == die && r.2.2 == p))

/-- A logical core of a die leaves its slot, which is bad, for a spare one, if there is one (R13). -/
def Manage.rebind (m : Manage) (die idx : Nat) : Option Manage :=
  (m.freeSlot die).map (fun p =>
    { m with badSlots := m.badSlots ++ [(die, m.slotOf die idx)],
             repair := m.repair.filter (fun r => !(r.1 == die && r.2.1 == idx)) ++ [(die, idx, p)] })

/-- A slot of a die is found bad; the logical core that it serves is bound to a spare slot, if there is one (R13). The answer says
whether a core had no spare. -/
def Manage.retire (m : Manage) (die slot : Nat) : Manage × Option Nat :=
  match m.servedBy die slot with
  | none => ({ m with badSlots := m.badSlots ++ [(die, slot)] }, none)
  | some i => match m.rebind die i with
    | none => (m, some i)
    | some n => (n, none)

/-- Self-test retires the slots it finds bad; a core that it cannot place anew leaves the die with too few (R13). The logical
cores so left are listed. Spares found bad are marked first, so that none is bound to a core. -/
def Manage.selfTest (m : Manage) (bad : List (Nat × Nat)) : Manage × List (Nat × Nat) :=
  let fresh := bad.filter (fun b => !m.badSlots.contains b)
  let idle := fresh.filter (fun b => (m.servedBy b.1 b.2).isNone)
  let used := fresh.filter (fun b => (m.servedBy b.1 b.2).isSome)
  used.foldl (fun acc b =>
    let r := acc.1.retire b.1 b.2
    (r.1, acc.2 ++ (r.2.map (fun i => (b.1, i))).toList)) ({ m with badSlots := m.badSlots ++ idle }, [])

/-- The physical bank that holds a weight-store bank of a die: its own, or the spare in its place (R16). -/
def Manage.bankOf (m : Manage) (die bank : Nat) : Nat := if m.badBanks.contains (die, bank) then 64 else bank

/-- Has a die's weight store fewer than 64 usable banks of its 65 (R15, R377)? -/
def Manage.banksShort (m : Manage) (die : Nat) : Bool := decide (1 < (m.badBanks.filter (fun b => b.1 == die)).eraseDups.length)

/-- CORE_RETIREMENT (R13): at a context boundary a retiring core moves to its die's next spare slot, or stays with the cause spare
exhausted. The rule does not say what a context boundary on a core is: the model takes it as a moment when no block of any context
is resident there (log entry 87). The record of the second case has SOURCE 11, core logic, and ACTION 0, which no rule names for it
(log entry 88). -/
def execCoreRetirement (core : Nat) (s : State) : Host.Outcome State Fault Refusal :=
  let k := s.core core
  let die := dieOfCore core
  let free := !s.blocks.any (fun b => b.core == core)
  s.event (decide (core < 1024) && k.retiring && free)
    (match s.manage.rebind die (core % 256) with
    | some m =>
      let t : State := { s with manage := m }
      t.setCore core { k with retiring := false, l1 := [], cc := [], ic := [] }
    | none => (s.setCore core { k with retiring := false }).reportError 11 3 die (core % 256) 0 0 0 0)

/-- LAYER_THERMAL_LOSS (R364): the layer's unwritten dirty lines are lost, with a record for each lost frame; the layer is held. -/
def execLayerThermalLoss (layer : Nat) (s : State) : Host.Outcome State Fault Refusal :=
  let gone := (s.dirty.filter (fun d => d.layer == layer)).map (fun d => (d.host, d.line))
  let frames := (gone.map (fun l => l.2 / 32)).eraseDups
  let t := (s.flushLayer layer).setLayer layer 4
  let t : State := { t with lost := gone ++ t.lost }
  s.event (decide (layer < 16) && s.dieOn (layer / 4) && decide (s.layer layer ≤ 2))
    (frames.foldl (fun t f => t.reportError 2 4 (layer / 4) (layer % 4) (f * 4096) 0 0 4) t)

/-! ### Loops and tables (R21, R22, R382) -/

/-- The table that the loops call for: 0 nominal, 1, 2, 3 the thermal stop. -/
def Manage.wants (m : Manage) : Nat :=
  match m.topOk, m.botOk with | true, true => 0 | false, true => 1 | true, false => 2 | false, false => 3

/-- The functions with a context. -/
def State.functions (s : State) : List Nat :=
  (s.ctxs.map (·.1) ++ s.groups.map (·.vf) ++ s.launches.map (·.vf)).eraseDups

/-- LOOP_LOSS (R21): the table is chosen; with both loops lost the halt line is raised for every function. -/
def execLoopLoss (top : Bool) (s : State) : Host.Outcome State Fault Refusal :=
  let m := s.manage
  let flows := if top then m.topOk || m.topHeld else m.botOk || m.botHeld
  let m : Manage := if top then { m with topOk := false, topHeld := false } else { m with botOk := false, botHeld := false }
  let m : Manage := { m with tableNext := if m.wants = m.table then none else some m.wants }
  let t : State := { s with manage := m }
  s.event flows (if m.wants = 3 then t.functions.foldl (fun t vf => t.raiseHalt vf none (FaultInfo.of 0x41)) t else t)

/-- NORMAL_FLOW_RETURN (R22): a lost loop flows again, and its 60 seconds begin. -/
def execNormalFlowReturn (top : Bool) (s : State) : Host.Outcome State Fault Refusal :=
  let m := s.manage
  let due := if top then !m.topOk && !m.topHeld else !m.botOk && !m.botHeld
  s.event (due && m.tableNext != some 3)
    { s with manage := if top then { m with topHeld := true } else { m with botHeld := true } }

/-- LOOP_RESTORED (R22): the loop has held normal flow for 60 seconds. -/
def execLoopRestored (top : Bool) (s : State) : Host.Outcome State Fault Refusal :=
  let m := s.manage
  let due := if top then m.topHeld else m.botHeld
  let m : Manage := if top then { m with topOk := true, topHeld := false } else { m with botOk := true, botHeld := false }
  s.event (due && m.tableNext != some 3) { s with manage := { m with tableNext := if m.wants = m.table then none else some m.wants } }

/-- The module without power: nothing but what is kept remains, and what lies outside it (R21, R378). -/
def State.powerOff (s : State) (thermal : Bool) : State :=
  let m := s.manage
  { State.reset with
    dev := s.dev, host := s.host, agenda := s.agenda, nextId := s.nextId, free := s.free,
    manage := { Manage.reset with
      mode := 0, stage := 0, cause0 := m.cause0, cause1 := m.cause1, cause2 := m.cause2, failStep := m.failStep,
      attempt := m.attempt, poweredDown := true, thermal := thermal, repair := m.repair, badSlots := m.badSlots, badBanks := m.badBanks,
      firmware := m.firmware, fwNext := m.fwNext } }

/-- Every layer's state under a table (R21, R382): all held under table T1; all in service in the nominal table; under table T2
as they were, but that a hold of table T1 ends with that table. -/
def State.holdLayers (s : State) (table : Nat) : State :=
  (List.range 16).foldl (fun s k =>
    match table with
    | 1 => (s.flushLayer k).setLayer k (if s.layer k = 4 then 4 else 3)
    | 0 => if 3 ≤ s.layer k then s.setLayer k 0 else s
    | _ => if s.layer k = 3 then s.setLayer k 0 else s) s

/-- TABLE_CHANGE (R22): with every group at a leg boundary the table takes effect; the thermal stop powers the module down. -/
def execTableChange (s : State) : Host.Outcome State Fault Refusal :=
  let m := s.manage
  match m.tableNext with
  | none => .fault .notDue
  | some 3 => s.event true (s.powerOff true)
  | some t =>
    let boundary := s.parts.all (fun e => e.2.run.isNone && e.2.next.isNone)
    let s1 := { s with manage := { m with table := t, tableNext := none, changes := if m.changes < 255 then m.changes + 1 else 255 } }
    let s2 := s1.holdLayers t
    s.event boundary ((List.range 4).foldl (fun s d => s.setDie d { s.die d with hotNext := t == 2 }) s2)

/-! ### Starts (R377, R378, R389) -/

/-- A failed start's cause is recorded, the latest in CAUSE2. -/
def Manage.fail (m : Manage) (step : Nat) (cause : BitVec 8) : Manage :=
  { m with cause0 := m.cause1, cause1 := m.cause2, cause2 := cause, failStep := step, stage := 0, mode := 0 }

/-- The failure that self-test finds by itself (R13, R377): a die with fewer than 256 usable slots, or with fewer than 64 usable
banks. In minimal mode only the 64 cores and the banks of die 0 count (log entry 89). -/
def Manage.testFailure (m : Manage) (minimal : Bool) (left : List (Nat × Nat)) : Option (Nat × BitVec 8) :=
  if left.any (fun b => !minimal || (b.1 == 0 && decide (b.2 < Config.minimalCores))) then some (3, 3)
  else if (List.range 4).any (fun d => m.banksShort d && (!minimal || d == 0)) then some (3, 4) else none

/-- The failure of a start: what the surroundings bring, unless self-test has failed before (R377). -/
def StartEnv.fails (env : StartEnv) (own : Option (Nat × BitVec 8)) : Option (Nat × BitVec 8) :=
  match env.failure, own with
  | some f, some d => if f.1 ≤ 3 then some f else some d
  | some f, none => some f
  | none, d => d

/-- A start: the attempt counter rises on entering step 1, and its value before decides for minimal mode. A cold start builds the
repair map from what self-test finds, a warm restart adds to the map (log entry 4). A step fails with its cause, hangs (a failure of
cause 0), or all pass and the module is ready. -/
def State.start (s : State) (env : StartEnv) (cold : Bool) : State :=
  let m := s.manage
  let minimal := decide (3 ≤ m.attempt)
  let early := match env.failure with | some (k, _) => decide (k < 3) | none => false
  let map : Manage := if cold && !early then { m with repair := [], badSlots := [], badBanks := [] } else m
  let tested : Manage × List (Nat × Nat) := if early then (map, [])
    else ({ map with badBanks := (map.badBanks ++ env.badBanks).eraseDups } : Manage).selfTest env.badSlots
  let fails := if early then env.failure else StartEnv.fails env (tested.1.testFailure minimal tested.2)
  let base : Manage :=
    { Manage.reset with
      mode := 0, stage := 1, cause0 := m.cause0, cause1 := m.cause1, cause2 := m.cause2, failStep := m.failStep,
      attempt := if m.attempt < 15 then m.attempt + 1 else 15, repair := tested.1.repair, badSlots := tested.1.badSlots,
      badBanks := tested.1.badBanks,
      firmware := if m.fwNext.isEmpty then m.firmware else m.fwNext, fwNext := m.fwNext }
  let base := if m.thermal then { base.fail m.failStep 9 with stage := 1 } else base
  let done : Manage := match fails with
    | some (step, cause) => if cause = 0 then { base with stage := step } else base.fail step cause
    | none =>
      if minimal then { base with mode := 2, stage := 6 }
      else { base with mode := 1, stage := 6, attempt := 0, cause0 := 0, cause1 := 0, cause2 := 0 }
  let dead : Port := { Port.reset with dead := true }
  { State.reset with
    dev := s.dev, host := s.host, agenda := s.agenda, nextId := s.nextId, free := s.free + 1, manage := { done with cxl := s.choice % 2 == 0 },
    ports := if minimal then tab 18 (fun i => (i, dead)) else [] }

/-- COLD_START (R377): a module without power starts. -/
def execColdStart (env : StartEnv) (s : State) : Host.Outcome State Fault Refusal :=
  if s.manage.poweredDown then .next (s.start env true) else .fault .notDue

/-- WARM_RESTART (R377): keeps the repair map and the attempt counter. -/
def execWarmRestart (env : StartEnv) (s : State) : Host.Outcome State Fault Refusal := s.event true (s.start env false)

/-- START_STEP_TIMEOUT (R377): a step that hangs fails with cause 0x0A. -/
def execStartStepTimeout (stage : Nat) (s : State) : Host.Outcome State Fault Refusal :=
  let m := s.manage
  s.event (m.mode == 0 && m.stage == stage && decide (1 ≤ stage) && decide (stage ≤ 5)) { s with manage := m.fail stage 0x0A }

/-- POWER_LOSS (R378): only what is kept remains. -/
def execPowerLoss (s : State) : Host.Outcome State Fault Refusal := s.event true (s.powerOff s.manage.thermal)

/-- HBMT_REFRESH (R383): the word of a layer's sensors, its low bits zero. RATE has the values 0 to 2, and in table T2 it is at least
1, since it includes that table's doubling of the refresh rate (R21, R118). -/
def execHbmtRefresh (index : Nat) (value : Half) (s : State) : Host.Outcome State Fault Refusal :=
  let m := s.manage
  let rate := value.toNat / 64 % 4
  s.event (decide (index < 384) && s.dieOn (index / 96) && decide (rate < 3) && (m.table != 2 || decide (0 < rate))) { s with manage := { m with hbmt := fset 0 m.hbmt index (value &&& 0xFFC0) } }

/-- FULLSTART (R377): the command is answered, the counter cleared, and a warm restart performed, in which every step passes (log
entry 24). -/
def execFullstart (s : State) : Host.Outcome State Fault Refusal :=
  match s.cmd with
  | none => .fault .notDue
  | some c =>
    let s0 : State := { s with cmd := none }
    let t := s0.answerCmd c 0
    let m := t.manage
    if s.cmdBad c then s.event true (s0.answerCmd c 2)
    else s.event true (({ t with manage := { m with attempt := 0 } } : State).start { failure := none, badSlots := [], badBanks := [] } false)

end Sys2Proof.Machine
end

