-- ==== Sys2Proof/Machine/Link.lean ====
section
/-! DEFINITION. Links (21 R306-R312, R315, 22 R330): lanes lost and turned, flits received, replayed and acknowledged, pause and
resume, retraining, a dead link's carriageways. -/
namespace Sys2Proof.Machine

/-! ### Lanes (R307, R308, R330) -/

/-- Lanes outbound and inbound of a port's good lanes (R307). -/
def Port.split (k : Port) : Nat × Nat :=
  let o := k.good * k.lsplit / 16
  let o := if o < 1 then 1 else if k.good - 1 < o then k.good - 1 else o
  (o, k.good - o)

/-- The width changes that a port's good lanes and LSPLIT now call for: a direction that has lost a lane since its last change changes even
where its count stays (R330). A link with fewer than two good lanes is dead (R307). -/
def Port.replan (k : Port) (lostOut lostIn : Bool) : Port :=
  let (o, i) := k.split
  let lo := k.lostOut || lostOut
  let li := k.lostIn || lostIn
  { k with lostOut := lo, lostIn := li
           newOut := if lo || o != k.out then some o else none
           newIn := if li || i != k.inn then some i else none
           dead := k.dead || decide (k.good < 2) }

/-- Does a pending change turn a lane round, so that both directions change together (R330)? -/
def Port.turns (k : Port) : Bool :=
  (match k.newOut with | some n => decide (k.out < n) | none => false) || (match k.newIn with | some n => decide (k.inn < n) | none => false)

/-- The first retained flit of the packet that a channel is sending, of which `n` flits have been sent. -/
def Port.firstOf (k : Port) (vc n : Nat) : Option Flit :=
  let mine := k.replay.filter (fun f => f.vc.toNat == vc)
  if mine.length < n then none else (mine.drop (mine.length - n)).head?

/-- A lane loss cuts the packets being sent: they are sent again whole, from the replay buffer where it holds all their flits, once the
width has changed (R308). -/
def Port.cutOut (k : Port) : Port :=
  k.prog.foldl (fun k e =>
    let k := { k with cut := true }
    match k.firstOf e.1 e.2 with
    | some f => { k with resendAt := some (match k.resendAt with | some q => if q < f.seq then q else f.seq | none => f.seq) }
    | none => { k with prog := fremove e.1 k.prog }) k

/-- A lane loss cuts the packets being received: the flits held of them are discarded, and come again (R308). -/
def Port.cutIn (k : Port) : Port :=
  let gone := k.held.flatMap (fun e => e.2.map (·.seq))
  let k := k.held.foldl (fun k e => k.release e.1 e.2.length) k
  { k with missing := (gone ++ k.missing).mergeSort, held := [] }

/-- LANE_FAILURE (R308). -/
def execLaneFailure (port : Nat) (outbound : Bool) (s : State) : Host.Outcome State Fault Refusal :=
  let k := s.port port
  let due := decide (port < 18) && !k.dead && (if outbound then decide (0 < k.out) else decide (0 < k.inn))
  let k := if outbound then ({ k with good := k.good - 1, out := k.out - 1 } : Port).cutOut
    else ({ k with good := k.good - 1, inn := k.inn - 1 } : Port).cutIn
  s.event due (s.setPort port (k.replan outbound (!outbound)))

/-- Is a direction at a packet boundary? -/
def Port.atEnd (k : Port) (outbound : Bool) : Bool := if outbound then k.prog.isEmpty || k.cut else k.held.isEmpty

/-- A channel at or above the threshold is paused (R312). -/
def Port.pauseFull (k : Port) : Port :=
  { k with pausedRx := (List.range 4).foldl (fun m i => if k.thresh ≤ fget 0 k.occ i then m ||| BitVec.ofNat 4 (2 ^ i) else m) k.pausedRx }

/-- A direction takes its new width and idles; the threshold is recomputed before the inbound one does (R312). -/
def Port.turnOut (k : Port) : Port :=
  match k.newOut with
  | some n => { k with out := n, newOut := none, lostOut := false, idleOut := true, cut := false }
  | none => k
def Port.turnIn (k : Port) : Port :=
  match k.newIn with
  | some n =>
    let k := { k with inn := n, newIn := none, lostIn := false, idleIn := true }
    ({ k with thresh := k.threshold } : Port).pauseFull
  | none => k

/-- LANE_WIDTH_CHANGE (R308, R330): a direction at its packet boundary changes width; both together when a lane turns round. -/
def execLaneWidthChange (port : Nat) (outbound : Bool) (s : State) : Host.Outcome State Fault Refusal :=
  let k := s.port port
  let due := !k.dead && (if outbound then k.newOut.isSome else k.newIn.isSome)
    && (if k.turns then k.atEnd true && k.atEnd false else k.atEnd outbound)
  s.event due (s.setPort port (if k.turns then k.turnOut.turnIn else if outbound then k.turnOut else k.turnIn))

/-- WIDTH_CHANGE_IDLE_END (R308, R330). -/
def execWidthChangeIdleEnd (port : Nat) (outbound : Bool) (s : State) : Host.Outcome State Fault Refusal :=
  let k := s.port port
  s.event (!k.dead && (if outbound then k.idleOut else k.idleIn))
    (s.setPort port (if outbound then ({ k with idleOut := false } : Port).pump 64 else { k with idleIn := false }))

/-! ### Flits received (R309, R311, R312) -/

/-- The sequence number that the port expects next. -/
def Port.expects (k : Port) : Nat := k.missing.headD k.recvSeq

/-- A packet from the bytes of its flits. -/
def packetOf (b : List Byte) : Packet :=
  let w (i : Nat) : Dword := dw (numOf ((b.drop (8 * i)).take 8))
  { w0 := w 0, w1 := w 1, payload := (b.drop 16).take (dfield (w 0) 37 29) }

/-- A flit in its place joins its packet; a whole packet has arrived, but for ring chunks (log entry 25). -/
def State.acceptFlit (s : State) (port : Nat) (f : Flit) : State :=
  let k := s.port port
  let vc := f.vc.toNat
  let k := if k.missing.isEmpty then { k with recvSeq := k.recvSeq + 1 } else { k with missing := k.missing.drop 1 }
  let k := ({ k with askedReplay := none, fails := 0, occ := fset 0 k.occ vc (fget 0 k.occ vc + 1) } : Port).pauseFull
  let fs := fget [] k.held vc ++ [f]
  let p := packetOf (fs.flatMap (·.data))
  if fs.length < pktFlits { p with payload := List.replicate (pktLen p) 0 } then s.setPort port { k with held := finsert vc fs k.held }
  else
    let k := { k with held := fremove vc k.held }
    if pktKind p = 10 && vc = 3 then s.setPort port (k.release vc fs.length)
    else { s.setPort port k with arrived := s.arrived ++ [(port, p)] }

/-- FLIT_RECEIVE (R311): the expected flit with a good CRC is taken; one before it has come already; else the port asks for replay from
the first missing flit. -/
def execFlitReceive (port : Nat) (f : Flit) (s : State) : Host.Outcome State Fault Refusal :=
  let k := s.port port
  let vc := f.vc.toNat
  let first := (fget [] k.held vc).isEmpty
  let due := decide (port < 18) && !k.dead && !k.training && !k.idleIn && decide (f.data.length = 64) && decide (fget 0 k.occ vc < 256)
    && (k.newIn.isNone || !first)
  let ask (k : Port) : Port := { k with askedReplay := some k.expects }
  if f.crcOk && f.seq = k.expects then
    let p := packetOf f.data
    s.event (due && (!first || pktVc p == vc)) (s.acceptFlit port f)
  else if f.crcOk && f.seq < k.recvSeq && !k.missing.contains f.seq then s.event due s
  else
    let again := k.askedReplay == some k.expects && f.seq == k.expects
    s.event due (s.setPort port (ask (if again then { k with fails := k.fails + 1 } else k)))

/-- DISCARDED_PACKET (R310): a packet of reserved kind, or on a channel other than its kind's, is discarded and counted. -/
def execDiscardedPacket (port : Nat) (p : Packet) (s : State) : Host.Outcome State Fault Refusal :=
  match s.takeArrived p with
  | none => .fault .notDue
  | some t =>
    let k := t.port port
    s.event (s.arrived.contains (port, p) && (decide (12 ≤ pktKind p) || pktVc p != vcOf (pktKind p)))
      (t.setPort port { k with errors := k.errors + 1 })

/-! ### Replay and pause (R311, R312) -/

/-- REPLAY_REQUEST (R311): the sender resends from the first missing flit, in order; a request for the flit asked for before is a
failed replay. -/
def execReplayRequest (port seq : Nat) (s : State) : Host.Outcome State Fault Refusal :=
  let k := s.port port
  let fails := if k.lastAsk = some seq then k.sentFails + 1 else 0
  let j : Port := { k with resendAt := some (match k.resendAt with | some q => if q < seq then q else seq | none => seq),
                           lastAsk := some seq, sentFails := fails }
  s.event (decide (port < 18) && k.up && k.replay.any (fun f => f.seq == seq)) (s.setPort port (j.pump 64))

/-- FLIT_ACKNOWLEDGE (R311): the flits up to the acknowledged one leave the replay buffer. -/
def execFlitAcknowledge (port seq : Nat) (s : State) : Host.Outcome State Fault Refusal :=
  let k := s.port port
  let j : Port := { k with replay := k.replay.filter (fun f => decide (seq < f.seq)), lastAsk := none, sentFails := 0 }
  s.event (decide (port < 18) && k.up && k.replay.any (fun f => f.seq == seq)) (s.setPort port (j.pump 64))

/-- LINK_RETRAIN (R311): after 8 consecutive failed replays of one flit. -/
def execLinkRetrain (port : Nat) (s : State) : Host.Outcome State Fault Refusal :=
  let k := s.port port
  s.event (k.up && (decide (8 ≤ k.fails) || decide (8 ≤ k.sentFails)))
    (s.setPort port { k with training := true, fails := 0, sentFails := 0 })

/-- LINK_TRAINING_END (R311, R312): lanes that failed are lost; the round trip measured is an open value, and a link on which it
exceeds 44 cycles is not brought up. -/
def execLinkTrainingEnd (port lostOut lostIn : Nat) (s : State) : Host.Outcome State Fault Refusal :=
  let k := s.port port
  let rt := s.choice
  let j : Port := { k with training := false, good := k.good - lostOut - lostIn, out := k.out - lostOut, inn := k.inn - lostIn,
                           rtt := if rt ≤ 44 then rt else k.rtt, dead := decide (44 < rt), resendAt := k.lastAsk }
  let j := (j.replan (decide (0 < lostOut)) (decide (0 < lostIn)))
  let j := ({ j with thresh := j.threshold } : Port).pauseFull
  s.event (k.training && !k.dead && decide (lostOut ≤ k.out) && decide (lostIn ≤ k.inn)) (s.spend.setPort port (j.pump 64))

/-- LINK_PAUSE (R312): the far end pauses a channel. -/
def execLinkPause (port : Nat) (vc : BitVec 2) (s : State) : Host.Outcome State Fault Refusal :=
  let k := s.port port
  s.event (decide (port < 18) && k.up) (s.setPort port { k with pausedTx := k.pausedTx ||| BitVec.ofNat 4 (2 ^ vc.toNat) })

/-- LINK_RESUME (R312): a paused channel goes on. -/
def execLinkResume (port : Nat) (vc : BitVec 2) (s : State) : Host.Outcome State Fault Refusal :=
  let k := s.port port
  s.event (decide (port < 18) && k.up)
    (s.setPort port (({ k with pausedTx := k.pausedTx &&& ~~~(BitVec.ofNat 4 (2 ^ vc.toNat)) } : Port).pump 64))

/-! ### Dead links (R315) -/

/-- The carriageways a link serves. -/
def State.servedBy (s : State) (port : Nat) : List Nat := (List.range 16).filter (fun c => s.linkOf c == port)

/-- Firmware holds carriageways (R315). -/
def State.hold (s : State) (cws : List Nat) : State := { s with heldCw := s.heldCw ++ cws.filter (fun c => !s.heldCw.contains c) }

/-- LINK_DEATH (R315): the link of this device's port dies; what it held is lost, and firmware holds the carriageways it served. Numbers
from 18 on name the link `port - 18` of another device of the domain, whose carriageways are held here too. -/
def execLinkDeath (port : Nat) (s : State) : Host.Outcome State Fault Refusal :=
  if 18 ≤ port then
    let l := port - 18
    s.event (decide (l < 18) && (!(s.port l).farDead || (s.servedBy l).any (fun c => !s.heldCw.contains c)))
      ((s.setPort l { s.port l with farDead := true }).hold (s.servedBy l))
  else
  let k := s.port port
  let cws := s.servedBy port
  let j : Port := { k with dead := true, replay := [], txq := [], prog := [], held := [], missing := [], occ := [], cut := false,
                           resendAt := none }
  s.event (decide (port < 18) && (!k.dead || cws.any (fun c => !s.heldCw.contains c)))
    ((s.setPort port j).hold cws)

/-- Is a link live at this device and at the others of its domain (R315)? -/
def State.linkLive (s : State) (l : Nat) : Bool := !(s.port l).dead && !(s.port l).farDead

/-- The links that may serve a carriageway now: free spare links, else any live one (R315). -/
def State.replacements (s : State) : List Nat :=
  let live := (List.range 18).filter s.linkLive
  let spare := live.filter (fun l => decide (16 ≤ l) && (s.servedBy l).isEmpty)
  if spare.isEmpty then live else spare

/-- A request without response is sent again under its PSEQ (R315). -/
def State.resendReq (s : State) (r : FabReq) : State :=
  s.sendPacket (mkPacket r.dev s.dev r.kind r.cw r.pseq (s.aseq r.dev r.cw) r.rw r.addr r.payload)

/-- CARRIAGEWAY_DRAIN_COMPLETE (R315): a held carriageway of a dead link has drained: its entry is written, its requests are resent in PSEQ
order, and it is released, its ring chunks with it. Which of several links serves it is an open choice. -/
def execCarriagewayDrainComplete (cw : BitVec 4) (s : State) : Host.Outcome State Fault Refusal :=
  let c := cw.toNat
  let links := s.replacements
  let l := links.getD (s.choice % links.length) c
  let go (m : RingMsg) : RingMsg := if m.cw = c then { m with waits := false } else m
  let t : State := { s.spend with remap := finsert c l s.remap, heldCw := s.heldCw.filter (· != c), chunks := s.chunks.map go }
  let t := (t.reqs.filter (fun r => r.cw == c)).foldl State.resendReq t
  s.event (s.heldCw.contains c && !s.linkLive (s.linkOf c) && !links.isEmpty && !s.arrived.any (fun e => pktCw e.2 == c)) t.pumpReqs

end Sys2Proof.Machine
end

