-- ==== Sys2Proof/Machine/Remote.lean ====
section
/-! DEFINITION. Requests of peers performed here and responses to this device's own (21 R310, R315-R319, 09 R140-R145), time-outs
and the age limit of aggregation buffers (R141). -/
namespace Sys2Proof.Machine

/-! ### Requests of peers (R315, R316, R318, R319) -/

/-- Is no line of a span held by an engine request (R135)? -/
def State.linesFree (s : State) (pa n : Nat) : Bool := (linesOf pa n).all (fun l => !s.lineHeld (.hbm (128 * l)))

/-- Is a page of this device that holds some of these bytes being moved, so that stores and atomics to it stall (R107)? -/
def State.frameMoving (s : State) (pa n : Nat) : Bool :=
  s.moves.any (fun m =>
    let e := readBytes s.hbm m.pteAddr 8
    field e 6 5 == 0 && decide (field e 51 12 * 4096 < pa + n) && decide (pa < field e 51 12 * 4096 + m.size))

/-- A status packet answers a request (R310). -/
def State.answerStatus (s : State) (p : Packet) (cause sub addr : Nat) : State := s.answer p 11 (statusBytes cause sub addr)

/-- The words of a read packet are read and returned (R310, R319). -/
def State.serveRead (s : State) (p : Packet) : State :=
  let n := 4 * (pktRw p + 1)
  match s.importFault (pktAddr p) n false with
  | some c => s.answerStatus p c 0 (pktAddr p)
  | none => s.answer p 1 (bytesOf n (readBytes s.hbm (pktAddr p) n))

/-- READ (R319): a duplicate is performed again (R315). -/
def execRead (p : Packet) (s : State) : Host.Outcome State Fault Refusal :=
  s.onPacketIf p 0 (s.linesFree (pktAddr p) (4 * (pktRw p + 1)))
    (fun s => if s.isNew p then (s.acceptSeq p).serveRead p else s.serveRead p)

/-- The bytes that a write packet's mask selects, each with its place in the line (R310; log entry 26). -/
def maskedBytes (payload : List Byte) : List (Nat × Byte) :=
  let m := numOf (payload.take 16)
  (List.range 128).filterMap (fun i => if m.testBit i then some (i, (payload.drop 16).getD i 0) else none)

/-- The write is performed at its line's home. -/
def State.serveWrite (s : State) (p : Packet) : State :=
  let pa := pktAddr p / 128 * 128
  match s.importFault pa 128 true with
  | some c => s.answerStatus p c 0 pa
  | none =>
    ((maskedBytes p.payload).foldl (fun s e => s.writeLoc (.hbm (pa + e.1)) [e.2] none (s.importVf pa)) s).answer p 6 []

/-- WRITE (R310): a duplicate is acknowledged again (R315). -/
def execWrite (p : Packet) (s : State) : Host.Outcome State Fault Refusal :=
  s.onPacketIf p 2 (s.linesFree (pktAddr p / 128 * 128) 128 && !s.frameMoving (pktAddr p / 128 * 128) 128)
    (fun s => if s.isNew p then (s.acceptSeq p).serveWrite p else s.answer p 6 [])

/-! ### Entries (R318) -/

/-- An operation of an aggregated or atomic packet: its first entry's index, E0, its operand and a cas's compare value. -/
structure PktOp where
  index : Nat
  e0 : Dword
  x : Dword
  c : Dword
  deriving DecidableEq, Repr

/-- The operations of a list of entries, the first of index `i`; a cas takes two. -/
def pktOps (i : Nat) (skip : Bool) : List (Dword × Dword) → List PktOp
  | [] => []
  | e :: rest =>
    if skip then pktOps (i + 1) false rest
    else
      let cas := e0Op e.1 == 8
      { index := i, e0 := e.1, x := e.2, c := if cas then (rest.headD (0, 0)).2 else 0 } :: pktOps (i + 1) cas rest

/-- The operations of a payload. -/
def opsOf (payload : List Byte) : List PktOp :=
  pktOps 0 false (tab (payload.length / 16) (fun i =>
    let w (k : Nat) : Dword := dw (numOf ((payload.drop (16 * i + 8 * k)).take 8))
    (w 0, w 1)))

/-- Address and size of an operation; a task update concerns its record's 64 bytes. -/
def PktOp.pa (o : PktOp) : Nat := e0Addr o.e0
def PktOp.size (o : PktOp) : Nat := if e0Op o.e0 = 9 then 64 else typeSize (e0Type o.e0)

/-- Is an operation one that R318 defines, with a type of R229 and an aligned address? -/
def PktOp.legal (o : PktOp) (task : Bool) : Bool :=
  let op := e0Op o.e0
  let t := e0Type o.e0
  o.pa % o.size == 0 && dfield o.e0 49 46 == 0
  && (if op = 9 then task else decide (op ≤ 8) && decide (t ≤ 5) && (decide (t ≤ 3) || !(decide (4 ≤ op) && decide (op ≤ 6))))

/-- Perform a store or atomic entry (R230, R318): the old value and the state. -/
def State.serveOp (s : State) (o : PktOp) : Nat × State :=
  let n := typeSize (e0Type o.e0)
  let old := readBytes s.hbm o.pa n
  let new := if e0Op o.e0 = 0 then o.x.toNat else atomApply (e0Op o.e0 - 1) (e0Type o.e0) old o.x.toNat o.c.toNat
  (old, s.writeNum (.hbm o.pa) n new none (s.importVf o.pa))

/-- May the operations of a packet be performed now? -/
def State.opsReady (s : State) (os : List PktOp) (task : Bool) : Bool :=
  os.all (fun o => o.legal task && s.linesFree o.pa o.size && !s.frameMoving o.pa o.size && (e0Op o.e0 != 9 || s.recFree (.phys o.pa)))

/-- An element of an element-faults packet (R319). -/
def faultElement (o : PktOp) (cause : Nat) : List Byte :=
  bytesOf 8 o.e0.toNat ++ BitVec.ofNat 8 o.index :: BitVec.ofNat 8 cause :: List.replicate 6 0

/-- Entries that do not fault are performed in order; the packet is acknowledged, with the faulted elements if there are any
(R144, R319). -/
def State.serveAgg (s : State) (p : Packet) : State :=
  let r := (opsOf p.payload).foldl (fun (acc : State × List Byte) o =>
    match acc.1.importFault o.pa o.size true with
    | some c => (acc.1, acc.2 ++ faultElement o c)
    | none => ((acc.1.serveOp o).2, acc.2)) (s, [])
  if r.2.isEmpty then r.1.answer p 6 [] else r.1.answer p 7 r.2

/-- AGGREGATED (R319): a duplicate is acknowledged again (R315). -/
def execAggregated (p : Packet) (s : State) : Host.Outcome State Fault Refusal :=
  s.onPacketIf p 3 (s.opsReady (opsOf p.payload) false)
    (fun s => if s.isNew p then (s.acceptSeq p).serveAgg p else s.answer p 6 [])

/-- What the operations of an atomic packet give, in order (R318): the old values, or the cause, task-record cause and address
with which the packet is answered. -/
def State.serveOps (s : State) : List PktOp → List Byte → Except (Nat × Nat × Nat) (State × List Byte)
  | [], acc => .ok (s, acc)
  | o :: os, acc =>
    if e0Op o.e0 = 9 then
      match s.update (s.importVf o.pa) (.phys o.pa) (toSigned 64 o.x.toNat) none 0 with
      | .ok t old _ => t.serveOps os (acc ++ bytesOf 8 (ofSigned 64 old))
      | .fail c => .error (0x21, c, o.pa)
      | .fault code _ => .error (code, 0, o.pa)
      | .miss _ => .error (11, 0, o.pa)
      | .peer _ _ => .error (11, 0, o.pa)
    else
      let r := s.serveOp o
      r.2.serveOps os (acc ++ bytesOf 8 r.1)

/-- An atomic packet is answered with the old values, or with the status of its first fault (R316, R318); the answer is kept in
the response log. -/
def State.serveAtomic (s : State) (p : Packet) : State :=
  let os := opsOf p.payload
  let reply (kind : Nat) (bs : List Byte) : LogEntry :=
    { src := pktSrc p, cw := pktCw p, pseq := pktPseq p, pkt := mkPacket (pktSrc p) s.dev kind (pktCw p) (pktPseq p) 0 0 0 bs, area := s.rlogBase }
  match (os.filterMap (fun o => (s.importFault o.pa o.size true).map (fun c => (c, o.pa)))).head? with
  | some (c, pa) => s.logResponse (reply 11 (statusBytes c 0 pa))
  | none => match s.serveOps os [] with
    | .ok (t, bs) => t.logResponse (reply 5 bs)
    | .error (c, sub, pa) => s.logResponse (reply 11 (statusBytes c sub pa))

/-- ATOMIC (R318): a duplicate returns what the response log keeps (R315). -/
def execAtomic (p : Packet) (s : State) : Host.Outcome State Fault Refusal :=
  s.onPacketIf p 4 (s.opsReady (opsOf p.payload) true) (fun s =>
    if s.isNew p then (s.acceptSeq p).serveAtomic p
    else match s.rlog.find? (fun e => e.src == pktSrc p && e.cw == pktCw p && e.pseq == pktPseq p) with
      | some e => s.sendPacket e.pkt
      | none => s)

/-! ### Responses (R310, R317) -/

/-- The response to an open request of one of the given kinds is taken. -/
def State.onResponse (s : State) (p : Packet) (kind : Nat) (kinds : List Nat) (f : State → FabReq → State) :
    Host.Outcome State Fault Refusal :=
  s.onPacket p kind (fun s => match s.requestOf p with
    | some r => if kinds.contains r.kind then f s r else s
    | none => s)

/-- Read data reach what asked for them (R317). -/
def State.dataArrives (s : State) (r : FabReq) (bs : List Byte) : State :=
  match r.body with
  | .access as =>
    as.foldl (fun s a => s.fill a.gid (a.dest.items a.ops a.size (numOf ((bs.drop (a.peerAt.2 - r.addr)).take a.size)))) s
  | .lineRead x va =>
    { s with xfers := updWhere (fun t => t.id == x) (fun t => { t with inbuf := fillBytes t.inbuf va bs, st := .running }) s.xfers }
  | .tokenRead id va =>
    ({ s with tokens := updWhere (fun t => t.id == id) (fun t => { t with inbuf := fillBytes t.inbuf va bs, reading := none }) s.tokens }
      : State).pumpTokens
  | .launchRead vf sp va =>
    let c := s.ctx vf
    s.setCtx vf { c with launchBuf := finsert (2 * va + b2n sp) (dw (numOf (bs.take 8))) c.launchBuf }
  | .ringRead vf _ _ va =>
    let c := s.ctx vf
    s.setCtx vf { c with ringBuf := fillBytes c.ringBuf va bs }
  | _ => s

/-- READ_DATA (R310). -/
def execReadData (p : Packet) (s : State) : Host.Outcome State Fault Refusal :=
  s.onResponse p 1 [0] (fun s r => (s.answered r.id).dataArrives r p.payload)

/-- The old values of an atomic access: one for each operation sent, from which those of combined positions follow in order
(R231). -/
def oldValues (a : Access) (bs : List Byte) : List Nat :=
  let v (i : Nat) : Nat := numOf ((bs.drop (8 * i)).take 8)
  match a.kind with
  | .atomic op type _ => if oneEntry op type then (atomRun op type a.ops (v 0)).2 else tab a.ops.length v
  | _ => []

/-- The number of old values of an access (R310). -/
def oldCount (a : Access) : Nat := match a.kind with | .atomic op type _ => if oneEntry op type then 1 else a.ops.length | _ => 0

/-- The old values of the accesses of a packet fill their positions, in the order sent (R317). -/
def State.fillOlds (s : State) : List Access → List Byte → State
  | [], _ => s
  | a :: as, bs => (s.fill a.gid (atomItems a.dest a.ops a.size (oldValues a bs))).fillOlds as (bs.drop (8 * oldCount a))

/-- ATOMIC_DATA (R310): old values fill the issuing positions, or the register of a TADD.r (R284). -/
def execAtomicData (p : Packet) (s : State) : Host.Outcome State Fault Refusal :=
  s.onResponse p 5 [4] (fun s r =>
    let s := s.answered r.id
    match r.body with
    | .access as => s.fillOlds as p.payload
    | .task gid _ (some d) _ _ => s.fill gid [.s d (dw (numOf (p.payload.take 8)))]
    | .tokenDrop id => s.dropCounted id (numOf (p.payload.take 8))
    | _ => s)

/-- ACKNOWLEDGE (R310): a write, an aggregated packet or a later packet of a token is complete. -/
def execAcknowledge (p : Packet) (s : State) : Host.Outcome State Fault Refusal :=
  s.onResponse p 6 [2, 3, 8] (fun s r =>
    let s := s.answered r.id
    match r.body with
    | .line x n =>
      match s.xfers.find? (fun t => t.id == x) with
      | some t => (s.setXfer { t with bytes := t.bytes + n, inbuf := [], st := .running }).count t.vf t.core 0x0C n
      | none => s
    | .row ro _ => match s.readouts.find? (fun k => k.id == ro) with
      | some k => s.setReadout { k with reqs := k.reqs.filter (· != r.id) }
      | none => s
    | .token id false => s.tokenAcked id r.id
    | .tokenDrop id => s.dropWritten id
    | _ => s)

/-- The faulted elements of a packet go into their groups' logs (R144). -/
def State.elementFault (s : State) (es : List AggEntry) (bs : List Byte) : State :=
  let e0 := dw (numOf (bs.take 8))
  let i := numOf ((bs.drop 8).take 1)
  match es.drop i with
  | e :: _ => s.logAgg e.gid { e0 := e0, index := i, cause := numOf ((bs.drop 9).take 1) }
  | [] => s

/-- ELEMENT_FAULTS (R319). -/
def execElementFaults (p : Packet) (s : State) : Host.Outcome State Fault Refusal :=
  s.onResponse p 7 [3] (fun s r => match r.body with
    | .agg es => (List.range (p.payload.length / 16)).foldl (fun s i => s.elementFault es ((p.payload.drop (16 * i)).take 16)) (s.answered r.id)
    | _ => s)

/-! ### Status (R310, R319) -/

/-- What a request serves, as its parking entry and fault name it: the virtual address, the position, the owner, the launch's
tag, the unit (R352, R358). -/
structure ReqSpot where
  va : Nat
  pos : Option (Nat × Nat)
  owner : Nat
  tag : Dword
  unit : Nat
  deriving DecidableEq, Repr

/-- The spot of a request whose fault was reported at a physical address. -/
def State.reqSpot (s : State) (r : FabReq) (pa : Nat) : ReqSpot :=
  let tag (g : Gid) : Dword := match s.group g with | some h => h.tag | none => 0
  let bare : ReqSpot := { va := 0, pos := none, owner := 0, tag := 0, unit := 0 }
  match r.body with
  | .access as =>
    match (as.find? (fun a => decide (a.peerAt.2 ≤ pa) && decide (pa < a.peerAt.2 + a.size))).orElse (fun _ => as.head?) with
    | some a =>
      let pos := match s.group a.gid, a.ops with | some g, o :: _ => some (g.lane o.pos, g.member o.pos) | _, _ => none
      { va := a.va, pos := pos, owner := a.gid.toNat, tag := tag a.gid, unit := 0 }
    | none => bare
  | .task g _ _ _ va => { bare with va := va, owner := g.toNat, tag := tag g }
  | .line x _ =>
    match s.xfers.find? (fun t => t.id == x) with
    | some t =>
      let p := t.req.piece t.bytes
      { va := (s.memberAccess t.vf (t.member p) p.dst true 1).1, pos := none, owner := t.gid.toNat, tag := t.tag,
        unit := if t.kick.isSome then 4 else 2 }
    | none => bare
  | .lineRead x va =>
    match s.xfers.find? (fun t => t.id == x) with
    | some t => { va := va + (pa - r.addr), pos := none, owner := t.gid.toNat, tag := t.tag,
                  unit := if t.kick.isSome then 4 else if t.req.isHalo then 3 else 2 }
    | none => bare
  | .row ro w =>
    match s.readouts.find? (fun k => k.id == ro) with
    | some k => { va := w.addr, pos := some (w.lane, w.member), owner := k.gid.toNat, tag := k.tag, unit := 7 }
    | none => bare
  | .update u =>
    { va := u.target.va, pos := none, owner := 0, tag := u.tag,
      unit := match u.src with | .route => 5 | .ring => 6 | .done => 9 | _ => 2 }
  | .tokenRead id va =>
    match s.token id with
    | some t => { va := va + (pa - r.addr), pos := none, owner := t.gid.toNat, tag := t.tag, unit := 5 }
    | none => bare
  | .tokenDrop id =>
    match s.token id with
    | some t => { va := s.dropAt t, pos := none, owner := t.gid.toNat, tag := t.tag, unit := 5 }
    | none => bare
  | .launchRead _ _ va => { bare with va := va, unit := 9 }
  | .ringRead _ _ _ va => { bare with va := va + (pa - r.addr), unit := 6 }
  | .ringWrite vf n k =>
    match s.results.find? (fun q => q.vf == vf && q.region == n && q.chunk == k) with
    | some q => { bare with va := q.addr, unit := 6 }
    | none => { bare with unit := 6 }
  | _ => bare

/-- A miss at the destination (R319): an entry of kind 3 or 2 that names the device; the issuing group parks, another agent's
request waits alone. A readout row goes back to its entry. -/
def State.parkMissed (s : State) (r : FabReq) (kind pa : Nat) : State :=
  let sp := s.reqSpot r pa
  let info := sp.owner + at' r.dev 40 + at' 1 48
  match r.body with
  | .row ro w =>
    match s.readouts.find? (fun k => k.id == ro) with
    | some k =>
      let q := (s.answered r.id).parkEntry r.vf (.readout ro) kind 7 sp.pos false true sp.va info sp.tag
      q.2.setReadout { k with rows := w :: k.rows, reqs := k.reqs.filter (· != r.id), parked := some q.1 }
    | none => s.answered r.id
  | .tokenDrop id =>
    match s.token id with
    | some t =>
      let q := (s.answered r.id).parkEntry r.vf (.token id) kind 5 none false true sp.va info sp.tag
      q.2.setToken { t with reading := none, parked := some q.1 }
    | none => s.answered r.id
  | .launchRead vf spawn _ =>
    -- the dispatcher holds the launch, and reads it from the start when the entry is released (R42)
    let tag := match s.nextRecord vf spawn with | some (_, w) => recordTag w | none => 0
    let q := (s.answered r.id).parkEntry vf (.launch spawn) kind 9 none false false sp.va info tag
    let c := (q.2.ctx vf).reread spawn
    q.2.setCtx vf { c with heldLaunch := c.heldLaunch ++ [(spawn, q.1)] }
  | _ =>
    let q := s.parkEntry r.vf (.request r.id) kind sp.unit sp.pos false (r.kind != 0) sp.va info sp.tag
    let hold : FabReq := { r with parked := some q.1 }
    let t : State := { q.2 with reqs := q.2.reqs.filter (fun k => k.id != r.id), waitReqs := q.2.waitReqs ++ [hold] }
    match r.issuer with
    | some (gid, _) => (t.stall gid).onGroup gid (fun g => { g with park := .miss, tokens := g.tokens ++ [q.1] })
    | none => t

/-- The same for what the request carries besides helper loads (R33). -/
def State.parkReq (s : State) (r : FabReq) (kind pa : Nat) : State :=
  match s.dropHelpers r with
  | (s, some q) => s.parkMissed q kind pa
  | (s, none) => s

/-- STATUS (R319): a miss parks, a fault is taken by what issued the request. -/
def execStatus (p : Packet) (s : State) : Host.Outcome State Fault Refusal :=
  s.onResponse p 11 [0, 2, 4, 8] (fun s r =>
    let cause := numOf (p.payload.take 1)
    let sub := numOf ((p.payload.drop 1).take 1)
    let pa := numOf ((p.payload.drop 8).take 8)
    match r.body with
    | .token id _ =>
      let s := s.answered r.id
      match s.token id with | some t => (s.settle t 2 cause 0).pumpTokens | none => s
    | _ =>
      if cause = 10 then s.parkReq r 3 pa
      else if cause = 11 then s.parkReq r 2 pa
      else
        let sp := s.reqSpot r pa
        let f : FaultInfo := { FaultInfo.with cause (if cause = 0x21 then sub else 0) with pos := sp.pos, daddr := sp.va }
        s.reqFault r f)

/-! ### Time (R141, R315) -/

/-- The chunk that a name of a departed ring message stands for: function, region, chunk (log entry 25). -/
def ringName (id : Nat) : Option (Nat × Nat × Nat) :=
  if id < 2 ^ 60 then none else some ((id - 2 ^ 60) / 2 ^ 36, (id - 2 ^ 60) / 2 ^ 32 % 16, (id - 2 ^ 60) % 2 ^ 32)

def chunkName (vf n k : Nat) : Nat := 2 ^ 60 + vf * 2 ^ 36 + n * 2 ^ 32 + k

/-- FABRIC_TIMEOUT (R315): a request without response completes with fabric-timeout: the entries of an aggregated packet go into
their groups' logs (R144), a token's first packet counts as refused with cause 4 (R323), a chunk that this member holds is abandoned
(R342), other work takes the fault. A member that has passed a chunk on holds it while its result is still to come to it, which is never
so where ALL is 0 and its position is not 0 (log entry 75). Time on a held carriageway does not count. -/
def execFabricTimeout (id : Nat) (s : State) : Host.Outcome State Fault Refusal :=
  match ringName id with
  | some (vf, n, k) =>
    s.event ((s.ctx vf).st == .live && s.chunks.any (fun m => m.vf == vf && m.region == n && m.chunk == k && !m.waits
        && !s.heldCw.contains m.cw && (m.pos == (s.ctx vf).rrPos n
          || (((s.ctx vf).rrAll n || (s.ctx vf).rrPos n == 0) && (!m.writing || m.visited == 0)))) && !(s.ctx vf).rrLoop n)
      (s.regionFault vf n k 9)
  | none =>
    match s.reqs.find? (fun r => r.id == id) with
    | none => .fault .notDue
    | some r =>
      let sp := s.reqSpot r r.addr
      s.event (!s.heldCw.contains r.cw) (s.reqFault r { FaultInfo.of 0x09 with pos := sp.pos, daddr := sp.va })

/-- AGG_BUFFER_AGE_EXPIRY (R141): a buffer's oldest entry has reached the age limit, and the buffer departs, unless its carriageway
is held (R315). -/
def execAggBufferAgeExpiry (id : Nat) (s : State) : Host.Outcome State Fault Refusal :=
  match s.agg.find? (fun b => b.id == id) with
  | none => .fault .notDue
  | some b => s.event (!s.heldCw.contains b.cw) (s.depart b)

end Sys2Proof.Machine
end

