-- ==== Sys2Proof/Machine/HostLink.lean ====
section
/-! DEFINITION. What the host does to the device: writes to lines of tier T2 (27 R370), ring registers (R372-R374) and other
registers of a function's BAR (R373). -/
namespace Sys2Proof.Machine

/-! ### Tier T2 lines (R370) -/

/-- A host write over a PCI Express link: the words keep their old contents beside the new ones until an INVAL covers them; a
word of which an old copy is kept already keeps that one. -/
def State.hostLate (s : State) (a : Nat) (bs : List Byte) : State :=
  let words := ((List.range bs.length).map (fun i => (a + i) / 8)).eraseDups
  let old := words.foldl (fun m w => if m.any (fun e => e.1 == w) then m else finsert w (dw (readBytes s.host (8 * w) 8)) m) s.hostOld
  { s with host := writeList s.host a bs, hostOld := old, codeOld := s.oldCode true a bs.length }

/-- HOST_SNOOP (R370): a snoop changes nothing that a program reads; a host write within one line is performed at its home when the
link is CXL, and may stay unseen until an INVAL when it is PCI Express. -/
def execHostSnoop (addr : Nat) (data : List Byte) (s : State) : Host.Outcome State Fault Refusal :=
  s.event (decide (addr % 128 + data.length ≤ 128) && !s.lineHeld (.host addr))
    (if s.manage.cxl then s.writeLoc (.host addr) data none noVf else s.hostLate addr data)

/-- What the host wrote before a launch doorbell is seen from then on (R139), by every function (log entry 107). -/
def State.hostSeen (s : State) : State :=
  s.hostOld.foldl (fun s e => s.dropL1 (fun _ => true) true (e.1 / 16)) { s with hostOld := [] }

/-! ### Ring registers (R372, R374) -/

/-- Does a function have a ring, and is the function there (R373, R377)? -/
def State.hasRing (s : State) (fn r : Nat) : Bool :=
  (if fn = 0 then r == 0 || (decide (4 ≤ r) && decide (r ≤ 6)) else decide (fn < 64) && decide (r ≤ 3) && s.manage.mode != 2)

/-- Does the host produce a ring's entries? -/
def hostProduced (r : Nat) : Bool := r == 0 || r == 2 || r == 5

/-- RING_PI_WRITE (R374): on a host-produced ring the doorbell; a count too far ahead is ignored and counted. On the launch ring it ends what R370 lets the device miss (R139). On a device-produced
ring PI is read-only. -/
def execRingPiWrite (fn ring : Nat) (value : Word) (s : State) : Host.Outcome State Fault Refusal :=
  let k := s.ring fn ring
  s.event (s.hasRing fn ring)
    (if !hostProduced ring then s
     else if 2 ^ k.log2 < (value - k.ci).toNat then s.setRing fn ring k.drop
     else (if ring = 0 then s.hostSeen else s).setRing fn ring { k with pi := value })

/-- RING_CI_WRITE (R374): on a device-produced ring it frees places; on a host-produced ring CI is read-only. -/
def execRingCiWrite (fn ring : Nat) (value : Word) (s : State) : Host.Outcome State Fault Refusal :=
  let k := s.ring fn ring
  s.event (s.hasRing fn ring) (if hostProduced ring then s else s.setRing fn ring { k with ci := value })

/-- RING_CONTROL_WRITE (R372): LOG2 while the ring is out of service, and EN; a ring put into service starts with its counts 0,
and a write of EN = 1 to a ring in service changes none (log entry 78). -/
def execRingControlWrite (fn ring : Nat) (value : Dword) (s : State) : Host.Outcome State Fault Refusal :=
  let k := s.ring fn ring
  let n := dfield value 7 4
  let en := dbit value 0
  let log2 := if k.en then k.log2 else if n < 4 then 4 else n
  s.event (s.hasRing fn ring)
    (s.setRing fn ring (if en && !k.en then { k with log2 := log2, en := true, pi := 0, ci := 0, ovf := 0 }
      else { k with log2 := log2, en := en }))

/-- The ring and the byte within its block of a BAR offset. -/
def ringAt (offset : Nat) : Option (Nat × Nat) :=
  if 0x100 ≤ offset && offset < 0x100 + 32 * 7 then some ((offset - 0x100) / 32, (offset - 0x100) % 32) else none

/-- REGISTER_WRITE_OTHER (R372, R373): RBASE is stored while its ring is out of service; every other write, one of a wrong width or
outside a function's registers among them, is ignored. Writes of RCTL, PI and CI are steps of their own. -/
def execRegisterWriteOther (fn offset width : Nat) (value : Dword) (s : State) : Host.Outcome State Fault Refusal :=
  match ringAt offset with
  | some (r, b) =>
    let own := s.hasRing fn r && ((b == 8 && width == 8) || (b == 16 && width == 4) || (b == 20 && width == 4))
    let k := s.ring fn r
    s.event (decide (fn < 64) && !own)
      (if s.hasRing fn r && b == 0 && width == 8 && !k.en then s.setRing fn r { k with base := value &&& ~~~0xFFF } else s)
  | none => s.event (decide (fn < 64)) s

end Sys2Proof.Machine
end

