-- ==== Sys2Proof/Machine/Commands.lean ====
section
/-! DEFINITION. Management commands that set something (27 R375, R376, R385; 07 R95, R101, R105, R106, R108; 21 R307, R315, R316,
R320; 23 R333, R334; 25 R351): SETCTX, INVAL, LSPLIT, PMCTL, FABCFG. -/
namespace Sys2Proof.Machine

/-! ### SETCTX (R375) -/

/-- Operand word `i` of a command. -/
def cmdWord (c : Cmd) (i : Nat) : Dword :=
  match i with | 1 => c.w1 | 2 => c.w2 | 3 => c.w3 | 4 => c.w4 | 5 => c.w5 | 6 => c.w6 | 7 => c.w7 | _ => c.w0

/-- The field of a SETCTX. -/
def cmdField (c : Cmd) : Nat := dfield c.w1 7 0

/-- Is a SETCTX free of bits where zero is required: above the field in W1, and in the words after its `n` values? -/
def setctxZero (c : Cmd) (n : Nat) : Bool :=
  dfield c.w1 63 8 == 0 && (List.range 7).all (fun i => decide (i < n + 1) || cmdWord c (i + 1) == 0)

/-- Bits {hi:lo} of a word, in their place: the fields that are not reserved. -/
def keepBits (w : Dword) (hi lo : Nat) : Dword := dw (at' (dfield w hi lo) lo)

/-- A SETCTX (R375): invalid when `ok` fails, busy while work of the function is resident if the field requires it switched out,
else done by `f`. No rule gives
an order of the two answers (log entry 27). -/
def State.setctx (s : State) (away : Bool) (ok : State → Cmd → Bool) (f : State → Cmd → Ctx → Ctx) : Host.Outcome State Fault Refusal :=
  s.command (fun s c =>
    let vf := cmdVf c
    if !ok s c then (s, 2)
    else if away && s.resides vf then (s, 1)
    else (s.setCtx vf (f s c (s.ctx vf)), 0))

/-- SETCTX 1 (R101): the root frame, which must lie in installed HBM. -/
def execSetctxRoot (s : State) : Host.Outcome State Fault Refusal :=
  s.setctx true (fun s c => setctxZero c 1 && s.inHbm (c.w2.toNat * 4096) 4096) (fun _ c k => { k with root := c.w2.toNat })

/-- SETCTX 2-5 (R108): the three words of a member window, reserved fields zero. -/
def execSetctxWindow (s : State) : Host.Outcome State Fault Refusal :=
  s.setctx true (fun _ c => setctxZero c 3) (fun _ c k =>
    let w := cmdField c - 2
    let m := fset 0 k.windows (3 * w) (keepBits c.w2 51 12 ||| keepBits c.w2 0 0)
    let m := fset 0 m (3 * w + 1) (keepBits c.w3 51 12)
    { k with windows := fset 0 m (3 * w + 2) (keepBits c.w4 51 12) })

/-- SETCTX 6 (R141): the age limit; a value below 64 is stored as 64. -/
def execSetctxAgel (s : State) : Host.Outcome State Fault Refusal :=
  s.setctx false (fun _ c => setctxZero c 1 && decide (c.w2.toNat < 65536))
    (fun _ c k => { k with agel := if c.w2.toNat < 64 then 64 else c.w2.toNat })

/-- SETCTX 7 (R320, R396): the route words; a nonzero RDOM must be no other context's. -/
def execSetctxRoute (s : State) : Host.Outcome State Fault Refusal :=
  s.setctx true (fun s c =>
      let rdom := dfield c.w2 63 56
      setctxZero c 3 && dfield c.w2 51 0 % 32 == 0 && dfield c.w3 51 0 % 64 == 0
      && (rdom == 0 || !s.ctxs.any (fun e => e.1 != cmdVf c && dfield e.2.rxtab 63 56 == rdom)))
    (fun _ c k => { k with rxtab := keepBits c.w2 63 56 ||| keepBits c.w2 51 0, dlbase := keepBits c.w3 51 0, dlcap := keepBits c.w4 15 0 })

/-- The words RR0-RR7 that a SETCTX gives a region entry, reserved fields zero (R333, R375). -/
def regionWords (c : Cmd) : List Dword :=
  [keepBits c.w2 63 23, keepBits c.w3 51 0, keepBits c.w4 63 16, keepBits c.w5 51 0, keepBits c.w6 51 0, c.w7,
   dw (dfield c.w1 59 8), 0]

/-- A context with entry `n` replaced; its counts and rounds begin anew (log entry 28). -/
def Ctx.withRegion (k : Ctx) (n : Nat) (ws : List Dword) : Ctx :=
  let other (key : Nat) : Bool := key / 2 ^ 34 != n
  { k with regions := ws.zipIdx.foldl (fun m e => fset 0 m (8 * n + e.2) e.1) k.regions
           counts := k.counts.filter (fun e => other e.1)
           ready := k.ready.filter other
           rounds := k.rounds.filter (fun e => other e.1 && e.1 != histKey n) }

/-- SETCTX 8-22 (R334): an entry written with EN = 1 must be legal. The three answers are in the order of
log entry 27. What stands here of the region's last round goes with the old entry (log entry 28). -/
def execSetctxRegion (s : State) : Host.Outcome State Fault Refusal :=
  s.command (fun s c =>
    let vf := cmdVf c
    let n := cmdField c - 7
    let k := (s.ctx vf).withRegion n (regionWords c)
    if dfield c.w1 63 60 != 0 then (s, 2)
    else if s.resides vf then (s, 1)
    else if k.rrEn n && !(k.rrLegal n && s.listOk vf k n) then (s, 3)
    else ({ s.setCtx vf k with hists := s.hists.filter (fun h => !(h.vf == vf && h.region == n))
                               chunks := s.chunks.filter (fun m => !(m.vf == vf && m.region == n)) }, 0))

/-- SETCTX 23 (R351): the save area, 4 KiB aligned in tier T1. -/
def execSetctxSavebase (s : State) : Host.Outcome State Fault Refusal :=
  s.setctx true (fun s c => setctxZero c 1 && c.w2.toNat % 4096 == 0 && s.inHbm c.w2.toNat 4096) (fun _ c k => { k with saveBase := c.w2 })

/-- Does a weight region of a function on a die overlap another function's (R95)? In units of 256 KiB. -/
def State.weightClash (s : State) (vf die base size : Nat) : Bool :=
  s.ctxs.any (fun e =>
    let b := fget 0 e.2.weight (2 * die) / Config.scratchBytes
    let n := fget 0 e.2.weight (2 * die + 1) / Config.scratchBytes
    e.1 != vf && n != 0 && size != 0 && decide (b < base + size) && decide (base < b + n))

/-- SETCTX 24-27 (R95): base and size of the region on a die, in units of 256 KiB, within its 512 MiB. -/
def execSetctxWeightRegion (s : State) : Host.Outcome State Fault Refusal :=
  s.setctx true (fun s c => setctxZero c 2 && decide (c.w2.toNat + c.w3.toNat ≤ 2048)
      && !s.weightClash (cmdVf c) (cmdField c - 24) c.w2.toNat c.w3.toNat)
    (fun _ c k =>
      let d := cmdField c - 24
      { k with weight := fset 0 (fset 0 k.weight (2 * d) (c.w2.toNat * 262144)) (2 * d + 1) (c.w3.toNat * 262144) })

/-- SETCTX 28 (R376): the migration policy word. -/
def execSetctxMigrationPolicy (s : State) : Host.Outcome State Fault Refusal :=
  s.setctx false (fun _ c => setctxZero c 1) (fun _ c k => { k with migPolicy := keepBits c.w2 63 63 ||| keepBits c.w2 47 0 })

/-- SETCTX 29 (R376): the frame pool's list and its count. -/
def execSetctxFramePool (s : State) : Host.Outcome State Fault Refusal :=
  s.setctx false (fun s c => setctxZero c 2 && c.w2.toNat % 8 == 0 && decide (c.w3.toNat ≤ 2 ^ 24)
      && (c.w3 == 0 || s.inHbm c.w2.toNat (8 * c.w3.toNat)))
    (fun _ c k => { k with poolAddr := c.w2, poolCount := c.w3 })

/-- SETCTX 30 (R106): the tier T2 limit. -/
def execSetctxT2Limit (s : State) : Host.Outcome State Fault Refusal :=
  s.setctx true (fun _ c => setctxZero c 1 && dfield c.w2 63 40 == 0) (fun _ c k => { k with t2limit := c.w2.toNat })

/-! ### INVAL (R105, R370) -/

/-- Does an access of a function use a translation of a range? -/
def Access.inRange (a : Access) (vf va n : Nat) : Bool := a.vf == vf && decide (a.va < va + n) && decide (va < a.va + a.size)

/-- Does a request still to be answered use a translation of a range? Those of engines and other units are taken to. -/
def FabReq.inRange (r : FabReq) (vf va n : Nat) : Bool :=
  r.vf == vf && r.parked.isNone && (match r.body with
    | .access as => as.any (fun a => a.inRange vf va n)
    | .agg _ => false
    | _ => true)

/-- Does a page of a range lie at this 8-byte word of host memory? -/
def State.mapsHost (s : State) (vf va n word : Nat) : Bool :=
  (List.range (n / 4096 + 2)).any (fun i =>
    let a := va / 4096 * 4096 + 4096 * i
    decide (a < va + n) && (match s.walk vf a with
      | .leaf e _ span => (match leafLoc e span a with | .host pa => pa / 4096 == word / 512 | _ => false)
      | _ => false))

/-- The translations of a range are forgotten: every access uses the new entries, accesses kept by a stop among them; host writes to
its pages are seen. -/
def State.invalidate (s : State) (vf va n : Nat) : State :=
  let t : State := { s with tlb := s.tlb.filter (fun t => !(t.vf == vf && t.meets va n)) }
  let c := t.ctx vf
  let again (a : Access) : Access := if a.inRange vf va n then (match t.locOf vf a.va with | some l => { a with loc := l } | none => a) else a
  let t := t.setCtx vf { c with saved := { c.saved with held := c.saved.held.map again } }
  let seen := (t.hostOld.map (·.1)).filter (t.mapsHost vf va n)
  seen.foldl (fun t w => ({ t with hostOld := fremove w t.hostOld } : State).dropL1 (fun _ => true) true (w / 16)) t

/-- INVAL (R105): completes once every access of the range that began under an old entry has completed. -/
def execInval (s : State) : Host.Outcome State Fault Refusal :=
  match s.cmd with
  | none => .fault .notDue
  | some c =>
    let vf := cmdVf c
    let va := c.w1.toNat
    let n := c.w2.toNat
    if 2 ^ 52 < va + n then s.command (fun s _ => (s, 2))
    else if (s.flight ++ s.unacked).any (fun a => a.inRange vf va n) || (s.reqs ++ s.waitReqs).any (fun r => r.inRange vf va n) then
      .fault .notDue
    else s.command (fun s _ => (s.invalidate vf va n, 0))

/-! ### Device settings (R307, R315, R316, R385) -/

/-- LSPLIT (R307): the lane split of a port, 1-15; the widths follow at packet boundaries. -/
def execLsplit (s : State) : Host.Outcome State Fault Refusal :=
  s.command (fun s c =>
    let p := c.w1.toNat
    let v := c.w2.toNat
    if 18 ≤ p || v = 0 || 15 < v then (s, 2)
    else (s.setPort p (({ s.port p with lsplit := v } : Port).replan false false), 0))

/-- Apply a word of R385: every core's counters restart. -/
def State.setPm (s : State) (w : Dword) : State :=
  let m := s.manage
  { s with manage := { m with pmctl := w },
           cores := (s.cores.map (fun e => (e.1, { e.2 with pm := [] }))).filter (fun e => e.2 != Core.reset) }

/-- PMCTL (R385). -/
def execPmctl (s : State) : Host.Outcome State Fault Refusal := s.command (fun s c => (s.setPm c.w1, 0))

/-- FABCFG 0-15 (R316, R376): an import window, reserved fields zero. -/
def execFabcfgImportWindow (s : State) : Host.Outcome State Fault Refusal :=
  s.command (fun s c =>
    let i := c.w1.toNat
    let lo := keepBits c.w2 63 54 ||| keepBits c.w2 47 12
    ({ s with iwin := fset 0 (fset 0 s.iwin (2 * i) lo) (2 * i + 1) (keepBits c.w3 47 12) }, 0))

/-- FABCFG 16 (R315, R376): the response log's area; responses kept stay until they are passed. -/
def execFabcfgResponseLog (s : State) : Host.Outcome State Fault Refusal :=
  s.command (fun s c =>
    if c.w2.toNat % 4096 ≠ 0 || c.w3.toNat < 65536 || !s.inHbm c.w2.toNat c.w3.toNat then (s, 2)
    else (({ s with rlogBase := c.w2, rlogSize := c.w3 } : State).flushWithheld, 0))

/-- UNKNOWN_OP (R375). -/
def execUnknownOp (s : State) : Host.Outcome State Fault Refusal := s.command (fun s _ => (s, 2))

end Sys2Proof.Machine
end

