-- ==== Sys2Proof/Machine/Control.lean ====
section
/-! DEFINITION. Control transfers (11 R162, 13 R215-R221): the issuing path as a whole. -/
namespace Sys2Proof.Machine

/-- The branch target (R162): the clause header's address plus 4 sext(DISP). -/
def Ix.target (x : Ix) (d : BitVec 16) : Nat := ofSigned 64 ((x.cl.base : Int) + 4 * toSigned 16 d.toNat)

/-- Move the issuing path. -/
def State.gotoPath (s : State) (x : Ix) (pc : Nat) : State :=
  s.onGroup x.g.gid (fun g => g.onPath x.path.id (fun t => t.goto pc))

/-- Why an address is no clause address (R162, R217). Of an address that is misaligned and beyond 52 bits the model names the
alignment, since R162 gives no order (log entry 90). -/
def badTarget (a : Nat) : Option FaultInfo :=
  if a % 4 ≠ 0 then some { FaultInfo.of 0x02 with daddr := a }
  else if 2 ^ 52 ≤ a then some { FaultInfo.of 0x01 with daddr := a }
  else none

/-- A control word: scalar checks, then the transfer. -/
def State.cword (s : State) (u : CapUse) (legal : Bool) (acc : Accept) (ss : List (Nat × Nat)) (sd : List Nat)
    (f : State → Ix → Res) : Host.Outcome State Fault Refusal :=
  s.word u (fun s x => s.scalarWord x { acc := acc, legal := legal, ss := ss, sd := sd } f)

/-- BRA's condition (R162). -/
def braCond (g : Group) (mask : Mask) (c o : Nat) : Bool :=
  let v := (g.sreg c).toNat
  match o with
  | 0 => true
  | 1 => v == 0
  | 2 => v != 0
  | 3 => decide (toSigned 64 v < 0)
  | 4 => decide (0 ≤ toSigned 64 v)
  | 5 => g.mreg c &&& mask != 0
  | 6 => g.mreg c &&& mask == 0
  | _ => g.mreg c &&& mask == mask

/-- BRA (R216); in capsule mode only forward (R291, R298 cause 4). -/
def execBra (c : BitVec 6) (o : BitVec 3) (d : BitVec 16) (s : State) : Host.Outcome State Fault Refusal :=
  let k := o.toNat
  let reads := decide (1 ≤ k) && decide (k ≤ 4)
  s.cword .allowed ((k != 0 || c == 0) && (k ≤ 4 || decide (c.toNat < 16))) {} (if reads then [(c.toNat, 3)] else []) [] (fun s x =>
    if x.inCapsule && (d.toNat == 0 || decide (2 ^ 15 ≤ d.toNat)) then .trap (FaultInfo.with 0x22 4)
    else .moved (s.gotoPath x (if braCond x.g x.path.mask c.toNat k then x.target d else x.cl.after)))

/-- A new path of a split (R30). -/
def Path.child (p : Path) (id pc : Nat) (mask : Mask) (rpc : Nat) (taken : Bool) : Path :=
  { p with id := id, pc := pc, mask := mask, rpc := rpc, pending := 0, parent := some p.id, takenChild := taken, joinNext := none, fetched := none, code := [],
           widx := 0, entered := false, resumeAt := 0, count := 0, fresh := true, wait := .none, passed := 0, aged := false, classAged := false,
           only := none, starts := [], takenStarts := [], fallStarts := [] }

/-- The group after a split: the taken child is the youngest, the fall-through child next (R30). -/
def Group.split (g : Group) (p : Path) (taken fall : Mask) (t next j : Nat) : Group :=
  let g := g.setPath { p.goto j with pending := 2 }
  { g with paths := p.child (g.nextPath + 1) t taken j true :: p.child g.nextPath next fall j false :: g.paths,
           nextPath := g.nextPath + 2 }

/-- Paths that have come into a PC slot are ready from now, unless they wait (R37). -/
def Group.freshReady (g old : Group) (now : Nat) : Group :=
  { g with paths := g.paths.map (fun t =>
      if g.slotPaths.any (fun q => q.id == t.id) && !old.slotPaths.any (fun q => q.id == t.id) then
        { t with readyAt := now, classAged := false } else t) }

/-- BDIV (R30, R31, R217). -/
def execBdiv (m : BitVec 4) (n : BitVec 1) (d : BitVec 16) (s : State) : Host.Outcome State Fault Refusal :=
  s.word .never (fun s x =>
    let j := if x.pre.cp then (x.g.sreg x.pre.creg.toNat).toNat else x.target d
    s.scalarWord x { acc := { cp := true }, legal := x.pre.creg.toNat < 64, sd := [],
                     ss := if x.pre.cp then [(x.pre.creg.toNat, 2)] else [] } (fun s x =>
      match badTarget j with
      | some f => .trap f
      | none =>
        let c := if n = 0 then x.g.mreg m.toNat else ~~~(x.g.mreg m.toNat)
        let taken := x.path.mask &&& c
        let fall := x.path.mask &&& ~~~c
        if taken = 0 then .moved (s.gotoPath x x.cl.after)
        else if fall = 0 then .moved (s.gotoPath x (x.target d))
        else
          let g := x.g.split x.path taken fall (x.target d) x.cl.after j
          if g.dstack < g.stackUsed then .trap (FaultInfo.of 0x16)
          else .moved (s.setGroup (g.freshReady x.g (s.core (coreOf x.p)).cycles))))

/-- JOIN (R30, R218): the path goes; its parent is to go on after this clause when its last child has gone. -/
def execJoin (s : State) : Host.Outcome State Fault Refusal :=
  s.cword .never true {} [] [] (fun s x =>
    match x.path.parent with
    | some q =>
      if x.path.rpc = x.cl.base then
        let now := (s.core (coreOf x.p)).cycles
        .moved (s.onGroup x.g.gid (fun g =>
          ((g.onPath q (fun t => { t with joinNext := some x.cl.after })).removePath
            (g.paths.length + 1) x.path.id).freshReady x.g now))
      else .moved (s.gotoPath x x.cl.after)
    | none => .moved (s.gotoPath x x.cl.after))

/-- CALL (R219). -/
def execCall (c : BitVec 6) (d : BitVec 16) (s : State) : Host.Outcome State Fault Refusal :=
  s.cword .never true {} [] [c.toNat] (fun s x =>
    .moved ((s.onGroup x.g.gid (fun g => g.setS c.toNat (dw x.cl.after))).gotoPath x (x.target d)))

/-- A move to the address in an s register (R219). -/
def State.jumpTo (s : State) (c : BitVec 6) : Host.Outcome State Fault Refusal :=
  s.cword .never true {} [(c.toNat, 3)] [] (fun s x =>
    let a := (x.g.sreg c.toNat).toNat
    match badTarget a with
    | some f => .trap f
    | none => .moved (s.gotoPath x a))

/-- RET (R219). -/
def execRet (c : BitVec 6) (s : State) : Host.Outcome State Fault Refusal := s.jumpTo c

/-- JMPI (R219). -/
def execJmpi (c : BitVec 6) (s : State) : Host.Outcome State Fault Refusal := s.jumpTo c

/-- EXIT (R30, R220): the last path ends the group. -/
def execExit (s : State) : Host.Outcome State Fault Refusal :=
  s.cword .never true {} [] [] (fun s x =>
    let g := (x.g.clearFrom x.path.mask (x.g.paths.length + 1) x.path.id).removePath (x.g.paths.length + 1) x.path.id
    if g.paths.isEmpty then .moved (s.endGroup g)
    else .moved (s.setGroup (g.freshReady x.g (s.core (coreOf x.p)).cycles)))

/-- NOP (R221). -/
def execNop (s : State) : Host.Outcome State Fault Refusal := s.cword .allowed true {} [] [] (fun s _ => .done s Cost.one)

/-- A leg that a YIELD ends has passed no slot over (R50, R221). -/
def State.uncount (s : State) (p : Nat) : State :=
  match (s.part p).run with
  | none => s
  | some r => r.passed.foldl (fun s e => s.onGroup e.1 (fun g => g.onPath e.2 (fun t =>
      { t with passed := t.passed - 1, aged := t.aged && decide (4 * g.backoff < t.passed) }))) s

/-- YIELD (R221): the slot waits for the other ready slots of its class. -/
def execYield (s : State) : Host.Outcome State Fault Refusal :=
  s.cword .never true {} [] [] (fun s x =>
    let others := ((s.readySlots x.p).filter (fun e => e.1.prio == x.g.prio)).map (fun e => (e.1.gid, e.2.id))
    .doneWait (s.uncount x.p) (.yield others (s.issueCycle x.p)))

end Sys2Proof.Machine
end

