-- ==== Sys2Proof/Machine/Cross.lean ====
section
/-! DEFINITION. Quad, lane and member exchange (13 R202-R211, 14 R222). -/
namespace Sys2Proof.Machine

/-! ### Quads (R202, R203) -/

/-- The positions that a word executes at read their sources at others (R211). -/
def Ix.readsOf (hlp : Bool) (src : Ix → Nat → List Nat) (x : Ix) : Mask :=
  maskAt ((positions x.g.n (if hlp then x.act ||| x.hlp else x.act)).flatMap (src x))

/-- A word that reads a at quad mates, `src` of a position, through shadows and writes one register. -/
def State.quadWord (s : State) (d a : BitVec 7) (legal : Bool) (src : Nat → List Nat) (f : Ix → (Nat → Nat) → Nat → Nat × Half) :
    Host.Outcome State Fault Refusal :=
  s.word .never (fun s x =>
    let o : VOp := { acc := Accept.vec true false, legal := legal, vs := [⟨a.toNat, 0, false⟩], vd := [d.toNat], hlp := true,
                     shadowSrc := true, cross := true, cost := { Cost.vector true with reads := Ix.readsOf true (fun _ p => src p) } }
    s.vecWord x o (fun s y vals => .ok (s.onGroup y.g.gid (y.writeResult true false d.toNat (f y (vals.at' 0))))))

/-- The source position of QSWZ (R202). -/
def quadSrc (f p : Nat) : Nat := if f < 4 then p / 4 * 4 + f else p ^^^ (f - 3)

/-- QSWZ (R202). -/
def execQswz (d a : BitVec 7) (f : BitVec 3) (s : State) : Host.Outcome State Fault Refusal :=
  s.quadWord d a (f.toNat ≤ 6) (fun p => [quadSrc f.toNat p]) (fun _ v p => (v (quadSrc f.toNat p), 0))

/-- The positions whose values QDIFF subtracts, the second from the first (R203). -/
def diffSrc (f p : Nat) : Nat × Nat :=
  let q := p / 4 * 4
  match f with
  | 0 => (q + 1, q)
  | 1 => (q + 2, q)
  | 2 => (p ||| 1, (p ||| 1) - 1)
  | _ => (p ||| 2, (p ||| 2) - 2)

/-- QDIFF (R203): in the kernel default mode, with the flags of FSUB. -/
def execQdiff (d a : BitVec 7) (f : BitVec 3) (s : State) : Host.Outcome State Fault Refusal :=
  s.quadWord d a (f.toNat ≤ 3) (fun p => [(diffSrc f.toNat p).1, (diffSrc f.toNat p).2]) (fun x v p =>
    fpSub f32 x.g.mode (v (diffSrc f.toNat p).1) (v (diffSrc f.toNat p).2))

/-! ### Lanes (R204) -/

/-- The source lane of SHFL (R204): `b` is an i32, W a power of two. -/
def shflLane (f w l : Nat) (b : Int) : Nat :=
  match f with
  | 0 => (b % w).toNat
  | 1 => ((l + b) % w).toNat
  | 2 =>
    let k := (b % 8).toNat
    let k := if k < w.log2 then k else w.log2
    l ^^^ (2 ^ k - 1)
  | _ => l ^^^ (b % w).toNat

/-- SHFL (R204): registers are read whatever the lane's activity, never shadows. -/
def execShfl (d a b : BitVec 7) (f : BitVec 3) (s1 : BitVec 1) (s : State) : Host.Outcome State Fault Refusal :=
  let v : V3 := { d := d.toNat, a := a.toNat, b := b.toNat, bs := s1 == 1, pd := false, pa := false, pb := false }
  let src (y : Ix) (vals : VVals) (p : Nat) : Nat :=
    y.g.member p * y.g.w + shflLane f.toNat y.g.w (y.g.lane p) (toSigned 32 (v.args y vals p).2.1)
  s.word .never (fun s x =>
    let o := v.op x (f.toNat ≤ 3) (Accept.vec true true) false (Cost.vector false)
    let from_ (y : Ix) (p : Nat) : List Nat := [src y (o.vs.map (y.srcVal o s.free)) p]
    s.vecWord x { o with cross := true, cost := { o.cost with reads := Ix.readsOf false from_ } } (fun s y vals =>
      .ok (s.onGroup y.g.gid (y.writeResult false false d.toNat (fun p => (vals.at' 0 (src y vals p), 0))))))

/-! ### Reductions (R205-R207, R210) -/

/-- A reduction's type: integers, FP, or accumulators. -/
inductive RType where
  | int (t : IType)
  | fp (t : FType)
  | x

/-- Does a type allow an operator (R205)? -/
def RType.allows (t : RType) (op : Nat) : Bool :=
  match t with
  | .int _ => decide (op ≤ 5)
  | .fp _ => decide (op ≤ 2)
  | .x => op == 0

/-- Is a value of the type a pair? -/
def RType.pair (t : RType) : Bool := match t with | .int t => t.pair | .fp t => t.pair | .x => false

/-- SAT is accepted with an integer add (R181). -/
def RType.sat (t : RType) (op : Nat) : Bool := match t with | .int _ => op == 0 | _ => false

/-- VRED's and VSCAN's types (R206). -/
def rtype (f : Nat) : RType := match f with | 0 | 1 | 2 | 3 => .int (itype f) | 4 => .fp (ftype 0) | 5 => .fp (ftype 1) | _ => .x

/-- The exact sum of finite terms with the flags of the others, as an accumulator of unbounded window (R205). -/
def sumTerms (ts : List Term) : Xa :=
  let e0 := ts.foldl (fun m t => match t with | .fin _ e => if e < m then e else m | _ => m) 0
  ts.foldl (fun x t => match t with
    | .nan => { x with nan := true }
    | .inf false => { x with pinf := true }
    | .inf true => { x with ninf := true }
    | .fin i e => { x with int := x.int + i * 2 ^ (e - e0).toNat }) { Xa.reset with anchor := some e0 }

/-- A reduction of a list of values (R205), with the flags of R222. An empty list gives the identity. -/
def reduce (t : RType) (op : Nat) (sat unsignedCmp : Bool) (mode : Nat) (vs : List Nat) : Nat × Half :=
  match t with
  | .int t =>
    let c : IType := if unsignedCmp then { t with signed := false } else t
    match op with
    | 0 => t.result sat (vs.foldl (fun acc v => acc + t.val v) 0)
    | 1 => (ofSigned t.n (vs.foldl (fun acc v => if c.val v < acc then c.val v else acc) (typeMax c.signed c.n)), 0)
    | 2 => (ofSigned t.n (vs.foldl (fun acc v => if acc < c.val v then c.val v else acc) (typeMin c.signed c.n)), 0)
    | 3 => (vs.foldl (fun acc v => acc &&& v) (2 ^ t.n - 1), 0)
    | 4 => (vs.foldl (fun acc v => acc ||| v) 0, 0)
    | _ => (vs.foldl (fun acc v => acc ^^^ v) 0, 0)
  | .fp t =>
    match op with
    | 0 => roundRVal t.fmt mode (xaRVal [] mode (sumTerms (vs.map (fpTerm t.fmt))))
    | 1 => if vs.any (isNaN t.fmt) then (fDefNaN t.fmt, 0)
           else (vs.foldl (fun acc v => if fpLess t.fmt v acc then v else acc) (fInf t.fmt false), 0)
    | _ => if vs.any (isNaN t.fmt) then (fDefNaN t.fmt, 0)
           else (vs.foldl (fun acc v => if fpLess t.fmt acc v then v else acc) (fInf t.fmt true), 0)
  | .x => (0, 0)

/-- Accumulators merged one after another into a cleared one of its own long slot (R84, R205), in ascending order of their positions. R86
leaves the order open, and with it whether a result is short or long and so whether XA-overflow arises (log entry 97). -/
def mergeList (slots : FMap LongRec) : List Xa → Except XaErr (Xa × Int)
  | xs =>
    let go := xs.foldl (fun (acc : Except XaErr (Xa × FMap LongRec)) y =>
      match acc with
      | .error r => .error r
      | .ok (x, own) =>
        let (i, e) := xaValue slots y
        match addTerm 1 own x (.fin i e) with
        | .error r => .error r
        | .ok (x, own, _) => .ok ({ x with nan := x.nan || y.nan, pinf := x.pinf || y.pinf, ninf := x.ninf || y.ninf }, own))
      (.ok (Xa.reset, []))
    match go with
    | .error r => .error r
    | .ok (x, own) => .ok (x, (fget ⟨0⟩ own 0).val)

/-- Put a merged value into a destination whose old slot is already free: a long value takes a slot and sets WID (R206). -/
def Group.placeX (g : Group) (i p : Nat) (r : Xa × Int) : Except XaErr Group :=
  match r.1.long with
  | none => .ok (g.setX i p r.1)
  | some _ =>
    match freeSlot g.xext g.slots with
    | none => .error .noSlot
    | some k =>
      let g := g.setX i p { r.1 with long := some k }
      .ok ({ g with slots := finsert k ⟨r.2⟩ g.slots }.raiseFlags (g.member p) fWID)

/-- The results of an accumulator reduction in place (R206): the destinations' old slots are freed, then each result is placed in order. -/
def Ix.reduceX (y : Ix) (d a : Nat) (from_ : Ix → Nat → List Nat) : Except FaultInfo Group :=
  let results := (positions y.g.n y.act).map (fun p => (p, mergeList y.g.slots ((from_ y p).map (fun q => y.g.xreg a q))))
  let freed := (positions y.g.n (y.act ||| y.off)).foldl (fun g p => g.clearX d p) y.g
  results.foldl (fun (acc : Except FaultInfo Group) r =>
    match acc with
    | .error e => .error e
    | .ok g => match r.2 with
      | .error e => .error (xaFault g d r.1 e)
      | .ok v => match g.placeX d r.1 v with
        | .error e => .error (xaFault g d r.1 e)
        | .ok g => .ok g) (.ok freed)

/-- Two further cycles a reduction takes (R211); the prefix fields it accepts (R181). -/
def redCost : Cost := { vec := true, hlp := false, wide := false, extra := 2 }
def redAccept (t : RType) (op : Nat) : Accept := { Accept.vec true false with sat := t.sat op }

/-- The registers of a reduction of values. -/
def redShape (d a : BitVec 7) (t : RType) : V3 :=
  { d := d.toNat, a := a.toNat, b := 0, bs := false, pd := t.pair, pa := t.pair, pb := false, hasB := false }

/-- What a reduction reads and writes, for accumulators and for values. -/
def redOpX (d a : BitVec 7) (op : Nat) (legal : Bool) : VOp :=
  { acc := redAccept .x op, legal := legal && decide (d.toNat < 4) && decide (a.toNat < 4) && RType.x.allows op, vs := [],
    cross := true, cost := redCost }
def redOp (d a : BitVec 7) (t : RType) (op : Nat) (legal : Bool) (x : Ix) : VOp :=
  { (redShape d a t).op x (legal && t.allows op) (redAccept t op) false redCost with cross := true }

/-- A reduction over groups of positions: `from_ x p` lists the positions that the result at `p` is formed from. -/
def State.redWord (s : State) (d a : BitVec 7) (t : RType) (op : Nat) (legal unsignedCmp : Bool)
    (from_ : Ix → Nat → List Nat) : Host.Outcome State Fault Refusal :=
  s.word .never (fun s x =>
    match t with
    | .x =>
      s.vecWord x (redOpX d a op legal) (fun s y _ =>
        match y.reduceX d.toNat a.toNat from_ with
        | .error e => .error e
        | .ok g => .ok (s.setGroup g))
    | t =>
      s.vecWord x (redOp d a t op legal x) (fun s y vals =>
        .ok (s.onGroup y.g.gid (y.writeResult false t.pair d.toNat (fun p =>
          reduce t op x.pre.sat unsignedCmp x.g.mode ((from_ y p).map (vals.at' 0)))))))

/-- The active positions of a position's member. -/
def Ix.memberActive (x : Ix) (p : Nat) : List Nat :=
  (positions x.g.n x.act).filter (fun q => x.g.member q == x.g.member p)

/-- VRED (R206). -/
def execVred (d a : BitVec 7) (o f : BitVec 3) (s : State) : Host.Outcome State Fault Refusal :=
  s.redWord d a (rtype f.toNat) o.toNat (f.toNat ≤ 6) false (fun x p => x.memberActive p)

/-- VSCAN (R207): the active lanes of the member up to the lane, without it in the exclusive form. -/
def execVscan (d a : BitVec 7) (x1 : BitVec 1) (o f : BitVec 3) (s : State) : Host.Outcome State Fault Refusal :=
  s.redWord d a (rtype f.toNat) o.toNat (f.toNat ≤ 6) false
    (fun x p => (x.memberActive p).filter (fun q => if x1 = 1 then decide (q < p) else decide (q ≤ p)))

/-- VBALLOT (R208): a mask register. -/
def execVballot (m : BitVec 4) (a : BitVec 7) (s : State) : Host.Outcome State Fault Refusal :=
  s.vmask { d := 0, a := a.toNat, b := 0, bs := false, pd := false, pa := false, pb := false, hasB := false } m true
    (Accept.vec true false) (Cost.vector false) (fun _ a _ => (a != 0, 0))

/-- VBALLOT.cnt (R208): the count into an s register. -/
def execVballotCnt (d : BitVec 6) (a : BitVec 7) (s : State) : Host.Outcome State Fault Refusal :=
  s.word .never (fun s x =>
    let o : VOp := { acc := Accept.vec true false, legal := true, vs := [⟨a.toNat, 0, false⟩], sd := [d.toNat], cross := true,
                     cost := Cost.vector false }
    s.vecWord x o (fun s y vals =>
      .ok (s.onGroup y.g.gid (fun g => g.setS d.toNat (dw ((positions g.n y.act).countP (fun p => vals.at' 0 p != 0)))))))

/-- VMATCH (R209): the active lanes of the member whose value equals the position's own. -/
def execVmatch (d a : BitVec 7) (f : BitVec 3) (s : State) : Host.Outcome State Fault Refusal :=
  let w := f == 1
  let v : V3 := { d := d.toNat, a := a.toNat, b := 0, bs := false, pd := true, pa := w, pb := false, hasB := false }
  s.word .never (fun s x =>
    s.vecWord x { v.op x (f.toNat ≤ 1) (Accept.vec true false) false (Cost.vector false) with cross := true } (fun s y vals =>
      .ok (s.onGroup y.g.gid (y.writeResult false true d.toNat (fun p =>
        (((y.memberActive p).filter (fun q => vals.at' 0 q == vals.at' 0 p)).foldl (fun acc q => acc + 2 ^ y.g.lane q) 0, 0))))))

/-! ### Members (R210) -/

/-- MXCH broadcasts (R210): the source member's register, whether that member is active or not. -/
def execMxchBc (d a b : BitVec 7) (f : BitVec 1) (s1 : BitVec 1) (s : State) : Host.Outcome State Fault Refusal :=
  let bs := s1 == 1
  s.word .never (fun s x =>
    let w := f == 1
    let src (y : Ix) (p : Nat) : Nat := (if bs then (y.g.sreg (b.toNat % 64)).toNat else b.toNat) % y.g.e * y.g.w + y.g.lane p
    let o : VOp := { acc := Accept.vec true bs,
                     legal := (if bs then decide (b.toNat < 64) else decide (b.toNat < 8)) && (!w || (d.toNat % 2 == 0 && a.toNat % 2 == 0)),
                     vs := [⟨a.toNat, 0, w⟩], ss := if bs then [(b.toNat % 64, 1)] else [],
                     vd := if w then [d.toNat, d.toNat + 1] else [d.toNat], cross := true,
                     cost := { Cost.vector false with reads := Ix.readsOf false (fun y p => [src y p]) } }
    s.vecWord x o (fun s y vals =>
      .ok (s.onGroup y.g.gid (y.writeResult false w d.toNat (fun p => (vals.at' 0 (src y p), 0))))))

/-- The type of an MXCH reduction (R210). -/
def mxchType (f : Nat) : RType :=
  match f with
  | 2 => .int (itype 0)
  | 3 => .int (itype 2)
  | 4 => .fp (ftype 0)
  | 5 => .fp (ftype 1)
  | _ => .x

/-- MXCH reductions (R210): over the members active in the lane; B{5} compares integers unsigned in min and max. -/
def execMxchRed (d a : BitVec 7) (u : BitVec 1) (o f : BitVec 3) (s : State) : Host.Outcome State Fault Refusal :=
  let intMm := (f == 2 || f == 3) && (o == 1 || o == 2)
  s.redWord d a (mxchType f.toNat) o.toNat (decide (2 ≤ f.toNat) && decide (f.toNat ≤ 6) && (u == 0 || intMm)) (u == 1)
    (fun x p => (positions x.g.n x.act).filter (fun q => x.g.lane q == x.g.lane p))

end Sys2Proof.Machine
end

