-- ==== Sys2Proof/Machine/Measure.lean ====
section
/-! DEFINITION. Management commands that read or measure: DBGRD (25 R365), ATTEST, FWLOAD (27 R379-R383), REPLAY and its passes
(R386-R388). -/
namespace Sys2Proof.Machine

/-! ### DBGRD (R365) -/

/-- What a debugger's read gives: bytes, no data by the state of a layer or of a line, or an address that cannot be read. -/
inductive DbgRes where
  | data (bs : List Byte)
  | withheld
  | bad
  deriving DecidableEq, Repr

/-- May a line lie in a held layer of its home die (R365)? Which layer holds a line is an open choice. -/
def State.inHeldLayer (s : State) (host : Bool) (pa : Nat) : Bool :=
  (List.range 4).any (fun k => s.layer (4 * homeDie host pa + k) ≥ 3) && s.choice % 2 == 1

/-- Read bytes of a function for a debugger. -/
def State.dbgRead (s : State) (vf va n : Nat) : DbgRes :=
  (lineRuns (n / 128 + 2) va n).foldl (fun acc run =>
    match acc, run.src with
    | .data bs, .inl a => match s.access vf a false 1 with
      | .at_ l => match l.cached with
        | some (host, pa) => if s.inHeldLayer host pa then .withheld else .data (bs ++ bytesOf run.len (s.readLoc l run.len))
        | none => .bad
      | .fault code _ => if code = 0x06 then .withheld else .bad
      | .miss _ => .bad
    | acc, _ => acc) (.data [])

/-- DBGRD: of a halted context, naming a core that it was stopped on; the data go to the host. -/
def execDbgrd (s : State) : Host.Outcome State Fault Refusal :=
  s.command (fun s c =>
    let vf := cmdVf c
    let k := s.ctx vf
    let n := c.w3.toNat
    let core := dfield c.w1 11 2
    if 4096 ≤ c.w1.toNat || n = 0 || 4096 < n then (s, 2)
    else if k.st != .halted || !k.saved.blocks.any (fun b => b.core == core) then (s, 3)
    else match s.dbgRead vf c.w2.toNat n with
      | .data bs => (s.spend.writeLoc (.host c.w4.toNat) bs none noVf, 0)
      | .withheld => (s.spend, 3)
      | .bad => (s, 2))

/-! ### Registers read, ATTEST and FWLOAD (R378-R382) -/

/-- BOOTST (R378). -/
def Manage.bootst (m : Manage) : Dword :=
  dw (at' m.cause2.toNat 56 + at' m.cause1.toNat 48 + at' m.cause0.toNat 40 + at' m.failStep 32 + at' m.attempt 4 + m.mode)

/-- THSTAT (R382); the seconds of normal flow that a lost loop has held are an open count up to 60. -/
def Manage.thstat (m : Manage) (choice : Nat) : Dword :=
  let held := if m.topHeld || m.botHeld then choice % 61 else 0
  dw (at' m.changes 16 + at' held 8 + at' m.table 4 + at' (b2n (m.botOk || m.botHeld)) 1 + b2n (m.topOk || m.topHeld))

/-- LAYST (R382): two bits for each stacked layer; a layer held by a thermal lock reads as held. -/
def State.layst (s : State) : Nat := ((List.range 16).map (fun k => at' (min (s.layer k) 3) (2 * k))).foldl (· + ·) 0

/-- The value that a read of a function's BAR returns (R5, R372, R373): reserved bits and bytes, registers of other functions and accesses of
another width read zero. -/
def State.barRead (s : State) (fn offset width : Nat) : Nat :=
  match ringAt offset with
  | some (r, b) =>
    let k := s.ring fn r
    if !s.hasRing fn r then 0
    else match b, width with
      | 0, 8 => k.base.toNat / 4096 * 4096
      | 8, 8 => at' k.log2 4 + b2n k.en
      | 16, 4 => k.pi.toNat
      | 20, 4 => k.ci.toNat
      | 24, 4 => k.ovf.toNat
      | _, _ => 0
  | none =>
    if fn ≠ 0 then 0
    else if offset = 0x400 && width = 8 then s.manage.bootst.toNat
    else if offset = 0x408 && width = 8 then (s.manage.thstat s.choice).toNat
    else if offset = 0x410 && width = 4 then s.layst
    else if 0x800 ≤ offset && offset < 0x800 + 768 && offset % 2 = 0 && width = 2 then (fget 0 s.manage.hbmt ((offset - 0x800) / 2)).toNat
    else 0

/-- A list brought to a length. -/
def fitBytes (n : Nat) (bs : List Byte) : List Byte := (bs ++ List.replicate n 0).take n

/-- The repair map as bytes for its digest. -/
def Manage.repairBytes (m : Manage) : List Byte :=
  m.repair.flatMap (fun r => bytesOf 1 r.1 ++ bytesOf 2 r.2.1 ++ bytesOf 2 r.2.2)
  ++ m.badBanks.flatMap (fun b => bytesOf 1 b.1 ++ bytesOf 2 b.2)

/-- The report of R381: 192 bytes and their signature. -/
def State.report (s : State) (nonce : List Byte) : List Byte :=
  let m := s.manage
  let body := fitBytes 32 nonce ++ fitBytes 16 Config.serial ++ fitBytes 64 (Config.digest m.firmware)
    ++ fitBytes 64 (Config.digest m.repairBytes) ++ bytesOf 8 m.bootst.toNat ++ bytesOf 8 (m.thstat s.choice).toNat
  body ++ fitBytes 512 (Config.signature body)

/-- ATTEST (R381). -/
def execAttest (s : State) : Host.Outcome State Fault Refusal :=
  s.command (fun s c =>
    let nonce := [c.w1, c.w2, c.w3, c.w4].flatMap (fun w => bytesOf 8 w.toNat)
    (s.spend.writeLoc (.host c.w5.toNat) (s.report nonce) none noVf, 0))

/-- FWLOAD (R379): the image in host memory is stored for the next start if it verifies. -/
def execFwload (s : State) : Host.Outcome State Fault Refusal :=
  s.command (fun s c =>
    let image := bytesOf c.w2.toNat (s.hostRead c.w1.toNat c.w2.toNat)
    let m := s.manage
    if Config.verifies image then ({ s with manage := { m with fwNext := image } }, 0) else (s, 5))

/-! ### REPLAY (R386-R388) -/

/-- Bytes of a pass's result record (R388). -/
def passBytes : Nat := 32832

/-- The number of passes. -/
def cmdPasses (c : Cmd) : Nat := dfield c.w5 3 0

/-- The selections of the passes: of the first four from W6 and W7, of the others from the result area. -/
def State.replaySels (s : State) (c : Cmd) : List Word :=
  let w (v i : Nat) : Word := BitVec.ofNat 32 (v / 2 ^ (32 * i))
  let first := c.w6.toNat + 2 ^ 64 * c.w7.toNat
  let more := readBytes s.hbm c.w4.toNat 16
  tab 4 (w first) ++ (if 5 ≤ cmdPasses c then tab 4 (w more) else [])

/-- A pass begins: counters cleared for the function with the pass's selections, the launch accepted; none when the record cannot be
read or accepted. -/
def State.beginPass (s : State) (r : Replay) : Option State :=
  let vf := cmdVf r.cmd
  let sel := r.sels.getD (r.pass - 1) 0
  let s := s.setPm (dw (2 ^ 63 + at' vf 48 + sel.toNat))
  match s.launchWords vf false 32 r.cmd.w1.toNat with
  | .error _ => none
  | .ok ws =>
    let l := launchOf ws
    if s.launchCause l ≠ 0 then none
    else match s.launchWords vf false (shKcount l.shape) l.ktab.toNat with
      | .error _ => none
      | .ok k =>
        let s := (s.launchTouch vf r.cmd.w1.toNat 32).launchTouch vf l.ktab.toNat (shKcount l.shape)
        let s : State := { s with replay := some { r with psig := 0, startCycle := (s.die 0).cycles } }
        some (s.acceptLaunch vf false true r.cmd.w1.toNat l k)

/-- Has a function work resident or accepted? -/
def State.working (s : State) (vf : Nat) : Bool :=
  let c := s.ctx vf
  s.resides vf || s.launches.any (fun l => l.vf == vf) || !c.spawnq.isEmpty || !c.heldSpawns.isEmpty
  || s.xfers.any (fun t => t.vf == vf) || s.flight.any (fun a => a.vf == vf) || s.unacked.any (fun a => a.vf == vf)
  || s.updates.any (fun u => u.vf == vf) || s.readouts.any (fun r => r.vf == vf) || s.tokens.any (fun t => t.vf == vf)
  || (s.reqs ++ s.waitReqs).any (fun r => r.vf == vf)

/-- Are the operands of a REPLAY in range? -/
def State.replayOk (s : State) (c : Cmd) : Bool :=
  let n := cmdPasses c
  dfield c.w5 63 4 == 0 && decide (2 ≤ n) && decide (n ≤ 8) && c.w2.toNat % 4096 == 0
  && (c.w3 == 0 || s.inHbm c.w2.toNat c.w3.toNat) && s.inHbm c.w4.toNat (n * passBytes)

/-- REPLAY (R386): the command runs until its last pass has ended; busy while work of the function is there or another replay
runs. -/
def execReplay (s : State) : Host.Outcome State Fault Refusal :=
  match s.cmd with
  | none => .fault .notDue
  | some c =>
    let r : Replay := { cmd := c, pass := 1, captured := [], sels := s.replaySels c, psig1 := 0, psig := 0, startCycle := 0, full := false }
    let t : State := { s with cmd := none }
    if s.cmdBad c || !s.replayOk c then s.command (fun s _ => (s, 2))
    else if s.working (cmdVf c) || s.replay.isSome || (s.ctx (cmdVf c)).st != .live then s.command (fun s _ => (s, 1))
    else match t.beginPass r with
      | none => s.command (fun s _ => (s, 2))
      | some u => s.event true u

/-- The result record of the pass that has ended (R388); the cycles passed are at least those the die has counted. -/
def State.passRecord (s : State) (r : Replay) : List Byte :=
  let bad := decide (1 < r.pass) && r.psig != r.psig1
  let cycles := (s.die 0).cycles - r.startCycle + s.choice
  let head := [r.pass, r.psig.toNat, b2n bad, r.captured.length, cycles, 0, 0, 0]
  head.flatMap (bytesOf 8)
    ++ (List.range 1024).flatMap (fun c => (List.range 4).flatMap (fun i => bytesOf 8 (fget 0 (s.core c).pm i).toNat))

/-- Captured pages and stripes take their contents back, and the function's lines leave the caches (R386). -/
def State.restorePages (s : State) (r : Replay) : State :=
  let vf := cmdVf r.cmd
  let s : State := { s with replay := none }
  let s := r.captured.foldl (fun s e => s.writeLoc e.1 e.2 none noVf) s
  let back (d : DirtyLine) : Bool := r.captured.any (fun e =>
    e.1 == (if d.host then Loc.host (d.line * 128 / 4096 * 4096) else Loc.hbm (d.line * 128 / 4096 * 4096)))
  let cold (k : Core) : Core := { k with l1 := [], ic := [], cc := k.cc.filter (fun e => e.1 / 2 ^ 49 != vf) }
  { s with dirty := s.dirty.filter (fun d => !back d),
           cores := (s.cores.map (fun e => (e.1, cold e.2))).filter (fun e => e.2 != Core.reset) }

/-- REPLAY_PASS_END (R386): nothing of the launch remains, and the pass's record is written; the next pass begins on restored memory, or
the command completes. A context stopped because the shadow area was full ends the command when it has halted. -/
def execReplayPassEnd (s : State) : Host.Outcome State Fault Refusal :=
  match s.replay with
  | none => .fault .notDue
  | some r =>
    let vf := cmdVf r.cmd
    if r.full then s.event ((s.ctx vf).st == .halted) ((s.restorePages r).answerCmd r.cmd 4)
    else
      let due := !s.working vf
      let t := s.spend.writeLoc (.hbm (r.cmd.w4.toNat + (r.pass - 1) * passBytes)) (s.passRecord r) none noVf
      if cmdPasses r.cmd ≤ r.pass then s.event due (({ t with replay := none } : State).answerCmd r.cmd 0)
      else
        let next : Replay := { r with pass := r.pass + 1, psig1 := if r.pass = 1 then r.psig else r.psig1 }
        let u := t.restorePages r
        match u.beginPass next with
        | some v => s.event due v
        | none => s.event due (u.answerCmd r.cmd 2)

end Sys2Proof.Machine
end

