-- ==== Sys2Proof/Machine/Dispatch.lean ====
section
/-! DEFINITION. The one meaning of each instruction and step: one arm per constructor. -/
namespace Sys2Proof.Machine

def exec (i : Instr) (s : State) : Host.Outcome State Fault Refusal :=
  match i with
  | .vadd d a b f s1 => Sys2Proof.Machine.execVadd d a b f s1 s
  | .vsub d a b f s1 => Sys2Proof.Machine.execVsub d a b f s1 s
  | .vmul d a b f s1 => Sys2Proof.Machine.execVmul d a b f s1 s
  | .vmulh d a b f s1 => Sys2Proof.Machine.execVmulh d a b f s1 s
  | .vmad d a b f s1 => Sys2Proof.Machine.execVmad d a b f s1 s
  | .vmin d a b f s1 => Sys2Proof.Machine.execVmin d a b f s1 s
  | .vmax d a b f s1 => Sys2Proof.Machine.execVmax d a b f s1 s
  | .vabsd d a b f s1 => Sys2Proof.Machine.execVabsd d a b f s1 s
  | .vand d a b f s1 => Sys2Proof.Machine.execVand d a b f s1 s
  | .vor d a b f s1 => Sys2Proof.Machine.execVor d a b f s1 s
  | .vxor d a b f s1 => Sys2Proof.Machine.execVxor d a b f s1 s
  | .vandn d a b f s1 => Sys2Proof.Machine.execVandn d a b f s1 s
  | .vshl d a b f s1 => Sys2Proof.Machine.execVshl d a b f s1 s
  | .vshr d a b f s1 => Sys2Proof.Machine.execVshr d a b f s1 s
  | .vsar d a b f s1 => Sys2Proof.Machine.execVsar d a b f s1 s
  | .vrot d a b f s1 => Sys2Proof.Machine.execVrot d a b f s1 s
  | .vbfx d a b f s1 => Sys2Proof.Machine.execVbfx d a b f s1 s
  | .vbfi d a b f s1 => Sys2Proof.Machine.execVbfi d a b f s1 s
  | .vpopc d a f => Sys2Proof.Machine.execVpopc d a f s
  | .vclz d a f => Sys2Proof.Machine.execVclz d a f s
  | .vcmp t m a b c s1 => Sys2Proof.Machine.execVcmp t m a b c s1 s
  | .vsel d a b f s1 => Sys2Proof.Machine.execVsel d a b f s1 s
  | .vmov d b f s1 => Sys2Proof.Machine.execVmov d b f s1 s
  | .vaddi d a i1 f => Sys2Proof.Machine.execVaddi d a i1 f s
  | .vshli d a i1 f => Sys2Proof.Machine.execVshli d a i1 f s
  | .vshri d a i1 f => Sys2Proof.Machine.execVshri d a i1 f s
  | .vandi d a i1 f => Sys2Proof.Machine.execVandi d a i1 f s
  | .vcmpi t m a i1 c => Sys2Proof.Machine.execVcmpi t m a i1 c s
  | .vmovi d i1 f => Sys2Proof.Machine.execVmovi d i1 f s
  | .fadd d a b f s1 => Sys2Proof.Machine.execFadd d a b f s1 s
  | .fsub d a b f s1 => Sys2Proof.Machine.execFsub d a b f s1 s
  | .fmul d a b f s1 => Sys2Proof.Machine.execFmul d a b f s1 s
  | .ffma d a b f s1 => Sys2Proof.Machine.execFfma d a b f s1 s
  | .fmin d a b f s1 => Sys2Proof.Machine.execFmin d a b f s1 s
  | .fmax d a b f s1 => Sys2Proof.Machine.execFmax d a b f s1 s
  | .fsgn d a b f s1 => Sys2Proof.Machine.execFsgn d a b f s1 s
  | .fcmp t m a b c s1 => Sys2Proof.Machine.execFcmp t m a b c s1 s
  | .fcvt d a e t f => Sys2Proof.Machine.execFcvt d a e t f s
  | .fclass d a f => Sys2Proof.Machine.execFclass d a f s
  | .fsfn d a f => Sys2Proof.Machine.execFsfn d a f s
  | .fdiv d a b f s1 => Sys2Proof.Machine.execFdiv d a b f s1 s
  | .fsqrt d a f => Sys2Proof.Machine.execFsqrt d a f s
  | .frnd d a f => Sys2Proof.Machine.execFrnd d a f s
  | .fldexp d a b f s1 => Sys2Proof.Machine.execFldexp d a b f s1 s
  | .fdot2 d a b f s1 => Sys2Proof.Machine.execFdot2 d a b f s1 s
  | .xclr d => Sys2Proof.Machine.execXclr d s
  | .xadd d a f => Sys2Proof.Machine.execXadd d a f s
  | .xfma d a b f => Sys2Proof.Machine.execXfma d a b f s
  | .xsub d a f => Sys2Proof.Machine.execXsub d a f s
  | .xrd d a f => Sys2Proof.Machine.execXrd d a f s
  | .xmrg d a => Sys2Proof.Machine.execXmrg d a s
  | .xst d a => Sys2Proof.Machine.execXst d a s
  | .xld d a => Sys2Proof.Machine.execXld d a s
  | .qswz d a f => Sys2Proof.Machine.execQswz d a f s
  | .qdiff d a f => Sys2Proof.Machine.execQdiff d a f s
  | .shfl d a b f s1 => Sys2Proof.Machine.execShfl d a b f s1 s
  | .vred d a o f => Sys2Proof.Machine.execVred d a o f s
  | .vscan d a x o f => Sys2Proof.Machine.execVscan d a x o f s
  | .vballot m a => Sys2Proof.Machine.execVballot m a s
  | .vballotCnt d a => Sys2Proof.Machine.execVballotCnt d a s
  | .vmatch d a f => Sys2Proof.Machine.execVmatch d a f s
  | .mxchBc d a b f s1 => Sys2Proof.Machine.execMxchBc d a b f s1 s
  | .mxchRed d a u o f => Sys2Proof.Machine.execMxchRed d a u o f s
  | .sadd d a b f k => Sys2Proof.Machine.execSadd d a b f k s
  | .ssub d a b f k => Sys2Proof.Machine.execSsub d a b f k s
  | .smul d a b f k => Sys2Proof.Machine.execSmul d a b f k s
  | .smad d a b k => Sys2Proof.Machine.execSmad d a b k s
  | .sand d a b k => Sys2Proof.Machine.execSand d a b k s
  | .sor d a b k => Sys2Proof.Machine.execSor d a b k s
  | .sxor d a b k => Sys2Proof.Machine.execSxor d a b k s
  | .sshl d a b k => Sys2Proof.Machine.execSshl d a b k s
  | .sshr d a b k => Sys2Proof.Machine.execSshr d a b k s
  | .ssar d a b k => Sys2Proof.Machine.execSsar d a b k s
  | .scmp d a b c k => Sys2Proof.Machine.execScmp d a b c k s
  | .ssel d a b k => Sys2Proof.Machine.execSsel d a b k s
  | .smov d b k => Sys2Proof.Machine.execSmov d b k s
  | .saddi d a i1 f => Sys2Proof.Machine.execSaddi d a i1 f s
  | .smin d a b t k => Sys2Proof.Machine.execSmin d a b t k s
  | .smax d a b t k => Sys2Proof.Machine.execSmax d a b t k s
  | .srd d a i1 => Sys2Proof.Machine.execSrd d a i1 s
  | .srdClr d a => Sys2Proof.Machine.execSrdClr d a s
  | .bra c o d => Sys2Proof.Machine.execBra c o d s
  | .bdiv m n d => Sys2Proof.Machine.execBdiv m n d s
  | .call c d => Sys2Proof.Machine.execCall c d s
  | .ret c => Sys2Proof.Machine.execRet c s
  | .jmpi c => Sys2Proof.Machine.execJmpi c s
  | .ld d s1 o z x h => Sys2Proof.Machine.execLd d s1 o z x h s
  | .st d s1 o z => Sys2Proof.Machine.execSt d s1 o z s
  | .ldx d s1 v z x h c => Sys2Proof.Machine.execLdx d s1 v z x h c s
  | .stx d s1 v z c => Sys2Proof.Machine.execStx d s1 v z c s
  | .lds d s1 v z x h c => Sys2Proof.Machine.execLds d s1 v z x h c s
  | .sts d s1 v z c => Sys2Proof.Machine.execSts d s1 v z c s
  | .ldw d s1 v z x h c => Sys2Proof.Machine.execLdw d s1 v z x h c s
  | .ldc d s1 v z x h c => Sys2Proof.Machine.execLdc d s1 v z x h c s
  | .atom d a r g o f => Sys2Proof.Machine.execAtom d a r g o f s
  | .red d a g o f => Sys2Proof.Machine.execRed d a g o f s
  | .atoms d a r g o f => Sys2Proof.Machine.execAtoms d a r g o f s
  | .fence q s1 => Sys2Proof.Machine.execFence q s1 s
  | .qsetBase q a => Sys2Proof.Machine.execQsetBase q a s
  | .qsetShape q a b k => Sys2Proof.Machine.execQsetShape q a b k s
  | .qbind q a f => Sys2Proof.Machine.execQbind q a f s
  | .qbindOff q => Sys2Proof.Machine.execQbindOff q s
  | .qposRd d q => Sys2Proof.Machine.execQposRd d q s
  | .qposWr q a => Sys2Proof.Machine.execQposWr q a s
  | .cpy t r k => Sys2Proof.Machine.execCpy t r k s
  | .cpym t r k => Sys2Proof.Machine.execCpym t r k s
  | .halo t r k => Sys2Proof.Machine.execHalo t r k s
  | .haloAllm t r k => Sys2Proof.Machine.execHaloAllm t r k s
  | .kick t r => Sys2Proof.Machine.execKick t r s
  | .mighHot t r => Sys2Proof.Machine.execMighHot t r s
  | .mighCold t r => Sys2Proof.Machine.execMighCold t r s
  | .mighClr t r => Sys2Proof.Machine.execMighClr t r s
  | .rtsend t r => Sys2Proof.Machine.execRtsend t r s
  | .rtrecvFill t r => Sys2Proof.Machine.execRtrecvFill t r s
  | .rtrecvNext t r => Sys2Proof.Machine.execRtrecvNext t r s
  | .rtrecvLand t r => Sys2Proof.Machine.execRtrecvLand t r s
  | .rtrecvReset t r => Sys2Proof.Machine.execRtrecvReset t r s
  | .mma t k a b u => Sys2Proof.Machine.execMma t k a b u s
  | .mmag t k a b u => Sys2Proof.Machine.execMmag t k a b u s
  | .aclr t n => Sys2Proof.Machine.execAclr t n s
  | .ard t k d g => Sys2Proof.Machine.execArd t k d g s
  | .ards t k p b => Sys2Proof.Machine.execArds t k p b s
  | .rqcvt d a k f => Sys2Proof.Machine.execRqcvt d a k f s
  | .tarm a b => Sys2Proof.Machine.execTarm a b s
  | .tarmClr a => Sys2Proof.Machine.execTarmClr a s
  | .tarmInit a b k => Sys2Proof.Machine.execTarmInit a b k s
  | .tadd a b k => Sys2Proof.Machine.execTadd a b k s
  | .taddR d a b k => Sys2Proof.Machine.execTaddR d a b k s
  | .arrive a => Sys2Proof.Machine.execArrive a s
  | .arriveAdd a b k => Sys2Proof.Machine.execArriveAdd a b k s
  | .arriveWait a => Sys2Proof.Machine.execArriveWait a s
  | .poll d a b k => Sys2Proof.Machine.execPoll d a b k s
  | .capenter d a => Sys2Proof.Machine.execCapenter d a s
  | .capstep d a => Sys2Proof.Machine.execCapstep d a s
  | .capexit d a => Sys2Proof.Machine.execCapexit d a s
  | .capres d a => Sys2Proof.Machine.execCapres d a s
  | .regrel n => Sys2Proof.Machine.execRegrel n s
  | .regclm n => Sys2Proof.Machine.execRegclm n s
  | .tspawn a => Sys2Proof.Machine.execTspawn a s
  | .sysTrap i1 => Sys2Proof.Machine.execSysTrap i1 s
  | .sysBrk i1 => Sys2Proof.Machine.execSysBrk i1 s
  | .sysPmrd d c => Sys2Proof.Machine.execSysPmrd d c s
  | .sysCyc d => Sys2Proof.Machine.execSysCyc d s
  | .sysEvsig a i1 => Sys2Proof.Machine.execSysEvsig a i1 s
  | .clauseFetch p => Sys2Proof.Machine.execClauseFetch p s
  | .clauseWaitRelease gid path => Sys2Proof.Machine.execClauseWaitRelease gid path s
  | .legIssue p => Sys2Proof.Machine.execLegIssue p s
  | .backOffAgeing gid path => Sys2Proof.Machine.execBackOffAgeing gid path s
  | .classAgeing gid path => Sys2Proof.Machine.execClassAgeing gid path s
  | .yieldRelease gid path => Sys2Proof.Machine.execYieldRelease gid path s
  | .registerFill id => Sys2Proof.Machine.execRegisterFill id s
  | .homeReply gid path => Sys2Proof.Machine.execHomeReply gid path s
  | .storeAcknowledge id => Sys2Proof.Machine.execStoreAcknowledge id s
  | .globalAccessAtHome id => Sys2Proof.Machine.execGlobalAccessAtHome id s
  | .scratchpadRemoteAccess id => Sys2Proof.Machine.execScratchpadRemoteAccess id s
  | .faultQueueEntryWrite vf => Sys2Proof.Machine.execFaultQueueEntryWrite vf s
  | .resumeEntry vf => Sys2Proof.Machine.execResumeEntry vf s
  | .layerWake layer => Sys2Proof.Machine.execLayerWake layer s
  | .layerGate layer mode => Sys2Proof.Machine.execLayerGate layer mode s
  | .weightRefreshWindow die => Sys2Proof.Machine.execWeightRefreshWindow die s
  | .hbmRefresh stack layer => Sys2Proof.Machine.execHbmRefresh stack layer s
  | .migrationPeriod die vf => Sys2Proof.Machine.execMigrationPeriod die vf s
  | .pageMoveComplete id => Sys2Proof.Machine.execPageMoveComplete id s
  | .aggBufferAgeExpiry id => Sys2Proof.Machine.execAggBufferAgeExpiry id s
  | .fenceComplete gid path => Sys2Proof.Machine.execFenceComplete gid path s
  | .engineRequestAccept gid => Sys2Proof.Machine.execEngineRequestAccept gid s
  | .engineLineLand id => Sys2Proof.Machine.execEngineLineLand id s
  | .engineRequestComplete id => Sys2Proof.Machine.execEngineRequestComplete id s
  | .kickEntryStart id => Sys2Proof.Machine.execKickEntryStart id s
  | .streamElementArrival gid q => Sys2Proof.Machine.execStreamElementArrival gid q s
  | .matrixOperation p => Sys2Proof.Machine.execMatrixOperation p s
  | .matrixOperationComplete p => Sys2Proof.Machine.execMatrixOperationComplete p s
  | .sliceHang p => Sys2Proof.Machine.execSliceHang p s
  | .readoutEntryWrite id => Sys2Proof.Machine.execReadoutEntryWrite id s
  | .taskUpdate id => Sys2Proof.Machine.execTaskUpdate id s
  | .spawnQueueEntry vf => Sys2Proof.Machine.execSpawnQueueEntry vf s
  | .launchRecordAccept vf spawn => Sys2Proof.Machine.execLaunchRecordAccept vf spawn s
  | .blockPlacement die vf spawn core => Sys2Proof.Machine.execBlockPlacement die vf spawn core s
  | .dispatchAgeing die vf spawn => Sys2Proof.Machine.execDispatchAgeing die vf spawn s
  | .gridCompletion launch => Sys2Proof.Machine.execGridCompletion launch s
  | .unitStop vf u => Sys2Proof.Machine.execUnitStop vf u s
  | .collectorComplete vf => Sys2Proof.Machine.execCollectorComplete vf s
  | .uncorrectableError site => Sys2Proof.Machine.execUncorrectableError site s
  | .correctableRateThreshold source die unit => Sys2Proof.Machine.execCorrectableRateThreshold source die unit s
  | .coreRetirement core => Sys2Proof.Machine.execCoreRetirement core s
  | .layerThermalLoss layer => Sys2Proof.Machine.execLayerThermalLoss layer s
  | .loopLoss top => Sys2Proof.Machine.execLoopLoss top s
  | .loopRestored top => Sys2Proof.Machine.execLoopRestored top s
  | .coldStart env => Sys2Proof.Machine.execColdStart env s
  | .warmRestart env => Sys2Proof.Machine.execWarmRestart env s
  | .startStepTimeout stage => Sys2Proof.Machine.execStartStepTimeout stage s
  | .hbmtRefresh index value => Sys2Proof.Machine.execHbmtRefresh index value s
  | .laneFailure port outbound => Sys2Proof.Machine.execLaneFailure port outbound s
  | .laneWidthChange port outbound => Sys2Proof.Machine.execLaneWidthChange port outbound s
  | .widthChangeIdleEnd port outbound => Sys2Proof.Machine.execWidthChangeIdleEnd port outbound s
  | .flitReceive port f => Sys2Proof.Machine.execFlitReceive port f s
  | .replayRequest port seq => Sys2Proof.Machine.execReplayRequest port seq s
  | .flitAcknowledge port seq => Sys2Proof.Machine.execFlitAcknowledge port seq s
  | .linkRetrain port => Sys2Proof.Machine.execLinkRetrain port s
  | .linkPause port vc => Sys2Proof.Machine.execLinkPause port vc s
  | .linkResume port vc => Sys2Proof.Machine.execLinkResume port vc s
  | .linkDeath port => Sys2Proof.Machine.execLinkDeath port s
  | .carriagewayDrainComplete cw => Sys2Proof.Machine.execCarriagewayDrainComplete cw s
  | .fabricTimeout id => Sys2Proof.Machine.execFabricTimeout id s
  | .read pkt => Sys2Proof.Machine.execRead pkt s
  | .readData pkt => Sys2Proof.Machine.execReadData pkt s
  | .write pkt => Sys2Proof.Machine.execWrite pkt s
  | .aggregated pkt => Sys2Proof.Machine.execAggregated pkt s
  | .atomic pkt => Sys2Proof.Machine.execAtomic pkt s
  | .atomicData pkt => Sys2Proof.Machine.execAtomicData pkt s
  | .acknowledge pkt => Sys2Proof.Machine.execAcknowledge pkt s
  | .elementFaults pkt => Sys2Proof.Machine.execElementFaults pkt s
  | .status pkt => Sys2Proof.Machine.execStatus pkt s
  | .discardedPacket port pkt => Sys2Proof.Machine.execDiscardedPacket port pkt s
  | .routeTokenAccept die => Sys2Proof.Machine.execRouteTokenAccept die s
  | .routeToken pkt => Sys2Proof.Machine.execRouteToken pkt s
  | .routeTokenHeaderWrite id => Sys2Proof.Machine.execRouteTokenHeaderWrite id s
  | .routeTokenLand id => Sys2Proof.Machine.execRouteTokenLand id s
  | .routeReply pkt => Sys2Proof.Machine.execRouteReply pkt s
  | .ringChunk msg => Sys2Proof.Machine.execRingChunk msg s
  | .ringResultWrite vf region chunk => Sys2Proof.Machine.execRingResultWrite vf region chunk s
  | .hostSnoop addr data => Sys2Proof.Machine.execHostSnoop addr data s
  | .ringPiWrite fn ring value => Sys2Proof.Machine.execRingPiWrite fn ring value s
  | .ringCiWrite fn ring value => Sys2Proof.Machine.execRingCiWrite fn ring value s
  | .ringControlWrite fn ring value => Sys2Proof.Machine.execRingControlWrite fn ring value s
  | .registerWriteOther fn offset width value => Sys2Proof.Machine.execRegisterWriteOther fn offset width value s
  | .illegalInstruction w => Sys2Proof.Machine.execIllegalInstruction w s
  | .normalFlowReturn top => Sys2Proof.Machine.execNormalFlowReturn top s
  | .linkTrainingEnd port lostOut lostIn => Sys2Proof.Machine.execLinkTrainingEnd port lostOut lostIn s
  | .join => Sys2Proof.Machine.execJoin s
  | .exit => Sys2Proof.Machine.execExit s
  | .nop => Sys2Proof.Machine.execNop s
  | .yield => Sys2Proof.Machine.execYield s
  | .flushagg => Sys2Proof.Machine.execFlushagg s
  | .flushaggWait => Sys2Proof.Machine.execFlushaggWait s
  | .sysHalt => Sys2Proof.Machine.execSysHalt s
  | .tableChange => Sys2Proof.Machine.execTableChange s
  | .setctxRoot => Sys2Proof.Machine.execSetctxRoot s
  | .setctxWindow => Sys2Proof.Machine.execSetctxWindow s
  | .setctxAgel => Sys2Proof.Machine.execSetctxAgel s
  | .setctxRoute => Sys2Proof.Machine.execSetctxRoute s
  | .setctxRegion => Sys2Proof.Machine.execSetctxRegion s
  | .setctxSavebase => Sys2Proof.Machine.execSetctxSavebase s
  | .setctxWeightRegion => Sys2Proof.Machine.execSetctxWeightRegion s
  | .setctxMigrationPolicy => Sys2Proof.Machine.execSetctxMigrationPolicy s
  | .setctxFramePool => Sys2Proof.Machine.execSetctxFramePool s
  | .setctxT2Limit => Sys2Proof.Machine.execSetctxT2Limit s
  | .inval => Sys2Proof.Machine.execInval s
  | .preempt => Sys2Proof.Machine.execPreempt s
  | .resume => Sys2Proof.Machine.execResume s
  | .endctx => Sys2Proof.Machine.execEndctx s
  | .lsplit => Sys2Proof.Machine.execLsplit s
  | .dbgrd => Sys2Proof.Machine.execDbgrd s
  | .pmctl => Sys2Proof.Machine.execPmctl s
  | .replay => Sys2Proof.Machine.execReplay s
  | .replayPassEnd => Sys2Proof.Machine.execReplayPassEnd s
  | .attest => Sys2Proof.Machine.execAttest s
  | .fwload => Sys2Proof.Machine.execFwload s
  | .fullstart => Sys2Proof.Machine.execFullstart s
  | .fabcfgImportWindow => Sys2Proof.Machine.execFabcfgImportWindow s
  | .fabcfgResponseLog => Sys2Proof.Machine.execFabcfgResponseLog s
  | .unknownOp => Sys2Proof.Machine.execUnknownOp s
  | .powerLoss => Sys2Proof.Machine.execPowerLoss s

end Sys2Proof.Machine
end

