-- ==== Sys2Proof/Machine/Issue.lean ====
section
/-! DEFINITION. What an act of the agenda runs: the word at a partition's issue point, the fetch or arbitration that precedes
it, the next management command, or a step as given. -/
namespace Sys2Proof.Machine

/-- The word at an issue point (the one after its prefix). -/
def Ix.word (x : Ix) : Word := x.cl.words.getD (x.next - 1) 0

/-- The instruction of a word in its place; a word that is none raises illegal-instruction (R169). -/
def instrOf (w : Word) : Instr := match decode w with | .ok i => i | .error _ => .illegalInstruction w

/-- The next thing a partition does: arbitrate (R36), fetch the clause its runner has reached (R151), or issue a word. -/
def State.issueNext (s : State) (p : Nat) : Instr :=
  match (s.part p).run with
  | none => .legIssue p
  | some r =>
    match s.group r.current.1 with
    | none => .legIssue p
    | some g => match g.path? r.current.2 with
      | none => .legIssue p
      | some path => match path.fetched with
        | none => .clauseFetch p
        | some _ => match ixOf p g path with
          | some x => instrOf x.word
          | none => .clauseFetch p

/-- Does a command running for a function keep later ones for it back: a PREEMPT, or a REPLAY whose context has not halted (R375)? -/
def State.cmdHeld (s : State) (vf : Nat) : Bool :=
  s.pending.any (fun c => dfield c.w0 55 50 == vf)
  || (match s.replay with
      | some r => dfield r.cmd.w0 55 50 == vf && (match (s.ctx vf).st with | .live => true | .stopping _ => true | _ => false)
      | none => false)

/-- The command at the consumer count of the PF's command ring, with CI advanced (R374, R375). -/
def State.takeCommand (s : State) : Option (Cmd × State) :=
  let k := s.ring 0 5
  if k.en && k.used != 0 && (s.ring 0 6).room then
    let a := k.entryAt 5 k.ci.toNat
    let w (i : Nat) : Dword := dw (readBytes s.host (a + 8 * i) 8)
    if s.cmdHeld (dfield (w 0) 55 50) then none
    else some ({ w0 := w 0, w1 := w 1, w2 := w 2, w3 := w 3, w4 := w 4, w5 := w 5, w6 := w 6, w7 := w 7 },
      s.setRing 0 5 { k with ci := k.ci + 1 })
  else none

/-- What an act runs, and the state it runs in. None when no command waits. -/
def State.acts (s : State) (a : Act) : Option (Instr × State) :=
  match a with
  | .issue p => some (s.issueNext p, { s with cur := some p })
  | .command => (s.takeCommand).map (fun c => (decodeCommand c.1, { c.2 with cmd := some c.1 }))
  | .run i => some (i, s)

end Sys2Proof.Machine
end

