-- ==== Sys2Proof/Machine/Sched.lean ====
section
/-! DEFINITION. What happens next when the agenda is empty: of the acts that are due, which the state itself shows, one is chosen
openly; and how a word is placed at an issue point. -/
namespace Sys2Proof.Machine

/-- Perform one act. -/
def perform (a : Act) (s : State) : Host.Outcome State Fault Refusal :=
  match s.acts a with
  | some (i, t) => exec i t
  | none => .fault .notDue

/-- Is an act due: does it have a next state? -/
def State.isDue (s : State) (a : Act) : Bool := match perform a s with | .next _ => true | _ => false

/-! ### Acts that the state names -/

/-- Legs, waits and values of groups (R36, R37, R151, R153, R166, R221, R233, R239, R279). -/
def State.groupActs (s : State) : List Act :=
  let parts := (s.groups.map (·.part) ++ s.parts.map (·.1)).eraseDups
  let slots := s.groups.flatMap (fun g => g.paths.map (fun t => (g.gid, t)))
  let forWait (e : Gid × Path) : List Act :=
    match e.2.wait with
    | .clause => [.run (.clauseWaitRelease e.1 e.2.id)]
    | .yield _ _ => [.run (.yieldRelease e.1 e.2.id)]
    | .reply => [.run (.homeReply e.1 e.2.id)]
    | .fence _ _ _ => [.run (.fenceComplete e.1 e.2.id)]
    | _ => []
  parts.map Act.issue ++ slots.flatMap forWait
  ++ slots.flatMap (fun e => [.run (.backOffAgeing e.1 e.2.id), .run (.classAgeing e.1 e.2.id)])
  ++ s.groups.flatMap (fun g => g.q.map (fun q => .run (.streamElementArrival g.gid q.1)))
  ++ s.fills.map (fun f => .run (.registerFill f.id))

/-- Accesses, engines, matrix units, readouts, records, chunks (R94, R112, R120, R134, R241, R263, R273, R47, R338, R339). -/
def State.memoryActs (s : State) : List Act :=
  s.flight.flatMap (fun a => [.run (.globalAccessAtHome a.id), .run (.scratchpadRemoteAccess a.id)])
  ++ s.unacked.map (fun a => .run (.storeAcknowledge a.id))
  ++ s.updates.map (fun u => .run (.taskUpdate u.id))
  ++ ((s.xfers.map (·.gid)).eraseDups).map (fun g => .run (.engineRequestAccept g))
  ++ s.xfers.flatMap (fun t => [.run (.engineLineLand t.id), .run (.engineRequestComplete t.id), .run (.kickEntryStart t.id)])
  ++ s.parts.flatMap (fun e => [.run (.matrixOperation e.1), .run (.matrixOperationComplete e.1)])
  ++ s.readouts.map (fun r => .run (.readoutEntryWrite r.id))
  ++ s.moves.map (fun m => .run (.pageMoveComplete m.id))
  ++ s.results.map (fun r => .run (.ringResultWrite r.vf r.region r.chunk))
  ++ s.chunks.map (fun m => .run (.ringChunk m))
  ++ s.ctxs.flatMap (fun e => e.2.ready.map (fun k => .run (.ringChunk (e.2.ringFirst e.1 (k / 2 ^ 34) (k % 2 ^ 32)))))

/-- Has the period of a die's migration engine ended for a function, by the die's clock (R376)? -/
def State.periodOver (s : State) (die vf : Nat) : Bool :=
  let c := s.ctx vf
  decide (fget 0 c.periods die + 65536 * max 1 (dfield c.migPolicy 15 0) ≤ (s.die die).cycles)

/-- Dispatchers, stops, queues (R41, R43, R44, R287, R347, R355, R358, R359, R376, R394). -/
def State.contextActs (s : State) : List Act :=
  let vfs := s.ctxs.map (·.1)
  s.launches.flatMap (fun l => .run (.gridCompletion l.id) :: (List.range 4).flatMap (fun d =>
    .run (.dispatchAgeing d l.vf l.spawn) :: (List.range Config.coresPerDie).map (fun c => .run (.blockPlacement d l.vf l.spawn (256 * d + c)))))
  ++ vfs.flatMap (fun v => [.run (.launchRecordAccept v false), .run (.launchRecordAccept v true), .run (.spawnQueueEntry v),
       .run (.faultQueueEntryWrite v), .run (.resumeEntry v), .run (.collectorComplete v)]
       ++ ((s.unitsOf v).map (fun u => .run (.unitStop v u)))
       ++ ((List.range 4).filter (fun d => s.periodOver d v)).map (fun d => .run (.migrationPeriod d v)))
  ++ [.command, .run .replayPassEnd, .run .tableChange]
  ++ s.cores.flatMap (fun e => if e.2.retiring then [.run (.coreRetirement e.1)] else [])

/-- The step that takes a packet (R310). -/
def packetInstr (p : Packet) : Instr :=
  match pktKind p with
  | 0 => .read p | 1 => .readData p | 2 => .write p | 3 => .aggregated p | 4 => .atomic p | 5 => .atomicData p
  | 6 => .acknowledge p | 7 => .elementFaults p | 8 => .routeToken p | 9 => .routeReply p | _ => .status p

/-- The fabric (R308-R315, R323-R326, R330). -/
def State.fabricActs (s : State) : List Act :=
  s.arrived.flatMap (fun e => [.run (packetInstr e.2), .run (.discardedPacket e.1 e.2)])
  ++ s.landings.flatMap (fun k => [.run (.routeTokenHeaderWrite k.id), .run (.routeTokenLand k.id)])
  ++ (List.range 4).map (fun d => .run (.routeTokenAccept d))
  ++ s.ports.flatMap (fun e => [.run (.laneWidthChange e.1 true), .run (.laneWidthChange e.1 false), .run (.widthChangeIdleEnd e.1 true),
       .run (.widthChangeIdleEnd e.1 false), .run (.linkRetrain e.1)])
  ++ s.heldCw.map (fun c => .run (.carriagewayDrainComplete (BitVec.ofNat 4 c)))

/-- What only time brings about: refresh windows, the age limit, time-outs (R97, R141, R315). -/
def State.timeActs (s : State) : List Act :=
  (List.range 4).map (fun d => .run (.weightRefreshWindow d)) ++ s.agg.map (fun b => .run (.aggBufferAgeExpiry b.id))
  ++ s.reqs.map (fun r => .run (.fabricTimeout r.id))
  ++ s.chunks.map (fun m => .run (.fabricTimeout (chunkName m.vf m.region m.chunk)))

/-- Is work open that time may carry on: groups, engine requests, readouts, accesses, entries, requests, chunks? -/
def State.workOpen (s : State) : Bool :=
  !(s.groups.isEmpty && s.xfers.isEmpty && s.readouts.isEmpty && s.flight.isEmpty && s.agg.isEmpty && s.reqs.isEmpty
    && s.chunks.isEmpty)

/-- The acts that are due; what only time brings about comes when nothing else is due but some work is open. -/
def State.dueActs (s : State) : List Act :=
  let now := (s.groupActs ++ s.memoryActs ++ s.contextActs ++ s.fabricActs).filter s.isDue
  if !now.isEmpty then now else if s.workOpen then s.timeActs.filter s.isDue else []

/-- A step without an agenda: nothing is due and nothing happens; the one act that is due; one of several, an open choice. -/
def State.chooseAct (s : State) : Host.Outcome State Fault Refusal :=
  match s.dueActs with
  | [] => .next s
  | [a] => perform a s
  | a :: as => perform ((a :: as).getD (s.choice % (a :: as).length) a) s.spend

/-! ### Placing a word (R151) -/

/-- A launch of one cluster of one group of 16 lanes, E = 1, 128 registers and 16 tiles, with the whole scratchpad. -/
def placedLaunch (s : State) : Launch :=
  { id := s.nextId, vf := 0, spawn := false, recAddr := 0, entry := 0, shape := dw (at' 16 22 + at' 1 17 + at' 1 12 + at' 128 4),
    grid := dw (1 + at' 1 16 + at' 1 32), alloc := dw 1000, doneRec := 0, tag := 0, k := [], nextCluster := 1, progress := [],
    waitSince := [], blocksLeft := 1, replay := false, gids := [], cores := [0] }

/-- A state whose next step issues the word on partition 0: a group of that launch stands there at a clause of this word alone. -/
def State.placeWord (s : State) (w : Word) : State :=
  let l := placedLaunch s
  let slot := s.freeSlot 0
  let r := s.newGid 0 slot
  let gid := r.1
  let t := r.2
  let uid := blockUid l.id 0 0
  let b : Block := { uid := uid, vf := 0, launch := l.id, cluster := 0, blockNo := 0, core := 0, scr := 1000, dstk := 0, xext := 0,
                     ngroups := 1, started := true, left := 1, data := [] }
  let h : ClauseHeader := { n := 1, cls := 7, ms := false, epol := false, wtk := false, wcq := false, wpa := false, wst := false }
  let c : Clause := { base := 0, hdr := h, words := [w] }
  let g := l.group gid slot uid 0 0 0 0 0
  let g := g.onPath 0 (fun p => { p with fetched := some c, count := 2 })
  let run : Run := { gid := gid, path := 0, partner := none, turn := false, paid := false, passed := [] }
  let t := State.named { t with launches := t.launches ++ [{ l with gids := [gid] }], blocks := t.blocks ++ [b], groups := t.groups ++ [g],
                                agenda := [.issue 0] }
  t.setPart 0 { t.part 0 with run := some run }

end Sys2Proof.Machine
end

