-- ==== Sys2Proof/Machine/Step.lean ====
section
/-! DEFINITION. One step: the head of the agenda, or an act that is due; and the placing of a word that the next step runs. -/
namespace Sys2Proof.Machine

/-- One step: the agenda's first act is taken off and performed; without an agenda, an act that is due. -/
def step (s : State) : Host.Outcome State Fault Refusal :=
  match s.agenda with
  | a :: rest => perform a { s with agenda := rest }
  | [] => s.chooseAct

/-- `s` with the instruction of these bits as the word that the next step issues (log entry 29): it stands alone in the clause that
the running path of a group on partition 0 has reached. -/
def State.withFetchWord (s : State) (nbits w : Nat) : State := s.placeWord (BitVec.ofNat 32 (w % 2 ^ nbits))

end Sys2Proof.Machine
end

