-- ==== Sys2Proof/Safety.lean ====
section
/-! DEFINITION. The terms that claims use: safe outcomes, the word that issues, a word that completes, a step that happens. -/
namespace Sys2Proof

open Sys2Proof.Machine

/-- The outcome of a step goes on: the machine neither stops with a fault nor refuses. -/
def Safe (o : Host.Outcome Machine.State Machine.Fault Machine.Refusal) : Prop := ∃ t, o = .next t

/-- The word at `x` issues: the module is on, it stands at the issue point, and its path is not in capsule mode (R151, R291). -/
def Issues (s : State) (x : Ix) : Prop := s.manage.poweredDown = false ∧ s.issuer = some x ∧ x.inCapsule = false

/-- The word at `x` issues, in capsule mode or not. -/
def IssuesAny (s : State) (x : Ix) : Prop := s.manage.poweredDown = false ∧ s.issuer = some x

/-- The path has gone past the word: to its clause's next word, or after the last word to the next clause (R151). -/
def Past (x : Ix) (t : Path) : Prop :=
  if x.cl.words.length ≤ x.next then t.pc = x.cl.after ∧ t.fetched = none else t.widx = x.next ∧ t.fetched = some x.cl

/-- The word completes: a next state in which its path is past it, and `P` holds of that state and of the group. -/
def Completes (o : Host.Outcome State Fault Refusal) (x : Ix) (P : State → Group → Prop) : Prop :=
  ∃ t g path, o = .next t ∧ t.group x.g.gid = some g ∧ g.path? x.path.id = some path ∧ Past x path ∧ P t g

/-- A state with other groups, issue slots, cycle counts and open values alone, in which every group but one is as it was. -/
def Kept (s t : State) (gid : Gid) : Prop :=
  (∃ gs ps cs n, t = { s with groups := gs, parts := ps, cores := cs, free := n }) ∧ ∀ h, h ≠ gid → t.group h = s.group h

/-- A step without a word happens: a next state of which `P` holds. -/
def Happens (o : Host.Outcome State Fault Refusal) (P : State → Prop) : Prop := ∃ t, o = .next t ∧ P t

/-- The word faults with `f` (R346, R348): the group keeps the fault, addressed at the word unless `f` has an address of its own, and
stops; a live context begins to halt. -/
def FaultsWith (o : Host.Outcome State Fault Refusal) (x : Ix) (f : FaultInfo) : Prop :=
  ∃ t g, o = .next t ∧ t.group x.g.gid = some g ∧ g.fault = some { f with faddr := if f.faddr = 0 then x.addr else f.faddr }
    ∧ g.stopped = true ∧ (t.ctx x.g.vf).st ≠ .live

/-- Nothing stands in the way of a vector word: its fields, prefix and registers are as R169 asks, no bound stream is unset, no
source or destination is empty (R166), and every element it consumes has arrived (R238, R239). -/
def VecReady (s : State) (x : Ix) (o : VOp) : Prop :=
  x.vecFault o = none ∧ x.streamBad o = false ∧ x.emptyTrap o = none ∧ x.emptyWait o = none
  ∧ (s.elemNeeds x o).fault = none ∧ (s.elemNeeds x o).absent = [] ∧ (s.elemNeeds x o).misses = []

/-- The state in which the pages of the stream elements that a word consumes are marked as read (R104); the same state when it consumes none. -/
def Read (s : State) (x : Ix) (o : VOp) : State := s.touchElems x.g.vf (s.elemNeeds x o).read

/-- What the sources of a vector word read at each position (R178, R202, R238). -/
def opVals (s : State) (x : Ix) (o : VOp) : VVals :=
  o.vs.map (fun v => if o.shadowSrc then x.srcValSh o s.free v else x.srcVal o s.free v)

/-- Element `j` of a value of elements of `n` bits (R54). -/
def el (n j v : Nat) : Nat := v / 2 ^ (n * j) % 2 ^ n

/-- The flags that the results `r` raise for a member at the positions of a list (R64, R65). -/
def flagsOf (x : Ix) (r : Nat → Nat × Half) (e : Nat) : List Nat → Half
  | [] => 0
  | p :: ps => (if x.g.member p = e then (r p).2 else 0) ||| flagsOf x r e ps

/-- A group that is another but for v registers, shadows, empty bits, flags, streams and paths. -/
def RegsKept (g h : Group) : Prop :=
  ∃ v e sh se sl so fl q ps, h = { g with v := v, vEmpty := e, sh := sh, shEmpty := se, shLive := sl, shOwner := so, fstat := fl, q := q, paths := ps }

/-- What a word that writes register `d`, a pair when `pair`, with results `r` leaves of its group (R158, R178): its destination holds
the result at the active positions, zero where ZERO clears it, what it held elsewhere; every other v register and everything else of the
group but shadows, empty bits, streams and paths is as it was; its active positions have raised their flags. -/
def VecLeaves (x : Ix) (pair : Bool) (d : Nat) (r : Nat → Nat × Half) (g : Group) : Prop :=
  RegsKept x.g g
  ∧ (∀ p, p < x.g.n → g.vval pair d p = if has x.act p then (r p).1 else if has x.off p then 0 else x.g.vval pair d p)
  ∧ (∀ q p, p < x.g.n → q ≠ d → (pair = true → q ≠ d + 1) → g.v1 q p = x.g.v1 q p)
  ∧ (∀ e, g.flags e = x.g.flags e ||| flagsOf x r e (positions x.g.n x.act))

/-- The word `i`, which reads and writes what `o` says, when it issues and nothing stands in its way, completes with results that `R`
relates to what its sources read at each active position, and changes nothing else. -/
def VecRuns (i : Instr) (pair : Bool) (d : Nat) (o : Ix → VOp) (R : Ix → VVals → Nat → Nat × Half → Prop) : Prop :=
  ∀ s x, Issues s x → VecReady s x (o x) →
    ∃ r : Nat → Nat × Half, (∀ p, p < x.g.n → has x.act p = true → R x (opVals s x (o x)) p (r p))
      ∧ Completes (exec i s) x (fun t g => Kept (Read s x (o x)) t x.g.gid ∧ VecLeaves x pair d r g)

/-- The same for a word of shape `v`, whose operands are a, b and the third source. -/
def V3Runs (i : Instr) (v : V3) (legal : Bool) (acc : Accept) (cost : Cost) (R : Ix → Nat → Nat → Nat → Nat × Half → Prop) : Prop :=
  VecRuns i v.pd v.d (fun x => v.op x legal acc true cost)
    (fun x vals p r => R x (v.args x vals p).1 (v.args x vals p).2.1 (v.args x vals p).2.2 r)

/-- The elements of `r` are `F` of the elements of a, b and c, exactly computed and then wrapped, or clamped under SAT; SAT is raised when
one is clamped (R62, R177, R187). -/
def IntRel (t : IType) (sat : Bool) (F : Int → Int → Int → Int) (a b c : Nat) (r : Nat × Half) : Prop :=
  r.1 < 2 ^ (t.n * t.cnt)
  ∧ (∀ j, j < t.cnt → ((el t.n j r.1 : Nat) : Int)
      = (if sat then max (typeMin t.signed t.n) (min (F (t.val (el t.n j a)) (t.val (el t.n j b)) (t.val (el t.n j c))) (typeMax t.signed t.n))
         else F (t.val (el t.n j a)) (t.val (el t.n j b)) (t.val (el t.n j c))) % 2 ^ t.n)
  ∧ r.2 = if sat = true ∧ ∃ j, j < t.cnt ∧ (F (t.val (el t.n j a)) (t.val (el t.n j b)) (t.val (el t.n j c)) < typeMin t.signed t.n
      ∨ typeMax t.signed t.n < F (t.val (el t.n j a)) (t.val (el t.n j b)) (t.val (el t.n j c))) then fSAT else 0

/-- The `n` bits of `r` are `F` of the bits of a and b; no flag (R184). -/
def BitRel (n : Nat) (F : Bool → Bool → Bool) (a b : Nat) (r : Nat × Half) : Prop :=
  r.1 < 2 ^ n ∧ (∀ k, k < n → r.1.testBit k = F (a.testBit k) (b.testBit k)) ∧ r.2 = 0

/-- The elements of `r`, of format `t`, are those of `op` on the elements of a, b and c, with the flags of all (R54, R178, R191). -/
def FpRel (t : FType) (op : Nat → Nat → Nat → Nat × Half) (a b c : Nat) (r : Nat × Half) : Prop :=
  r.1 < 2 ^ (fmtWidth t.fmt * t.cnt)
  ∧ (∀ j, j < t.cnt → el (fmtWidth t.fmt) j r.1
      = (op (el (fmtWidth t.fmt) j a) (el (fmtWidth t.fmt) j b) (el (fmtWidth t.fmt) j c)).1 % 2 ^ fmtWidth t.fmt)
  ∧ r.2 = (List.range t.cnt).foldl (fun fl j => fl ||| (op (el (fmtWidth t.fmt) j a) (el (fmtWidth t.fmt) j b) (el (fmtWidth t.fmt) j c)).2) 0

/-- What a word on accumulators leaves of its group but accumulator `d` (R179, R199): everything but x registers, slots, flags, streams and
paths is as it was; so is every other x register, and register `d` where the word neither executes nor clears. -/
def XLeaves (x : Ix) (d : Nat) (g : Group) : Prop :=
  (∃ xs sl fl q ps, g = { x.g with x := xs, slots := sl, fstat := fl, q := q, paths := ps })
  ∧ ∀ i p, i < 4 → (i ≠ d ∨ (has x.act p = false ∧ has x.off p = false)) → g.xreg i p = x.g.xreg i p

/-- What a compare with results `r` leaves of its group (R189): its m register holds the result at the active positions, clear where ZERO
clears it, what it held elsewhere and never a bit outside the group; every other m register and everything else but flags, streams and
paths is as it was; its active positions have raised their flags. -/
def MaskLeaves (x : Ix) (m : Nat) (r : Nat → Bool × Half) (g : Group) : Prop :=
  (∃ ms fl q ps, g = { x.g with m := ms, fstat := fl, q := q, paths := ps })
  ∧ (∀ p, p < x.g.n → p < 256 → has (g.mreg m) p = if has x.act p then (r p).1 else if has x.off p then false else has (x.g.mreg m) p)
  ∧ (∀ k, k ≠ m → g.mreg k = x.g.mreg k)
  ∧ (∀ e, g.flags e = x.g.flags e ||| flagsOf x (fun p => (0, (r p).2)) e (positions x.g.n x.act))

/-- The word `i`, which writes m register `m` from the sources of shape `v`, completes with results that `R` relates to what they read. -/
def MaskRuns (i : Instr) (v : V3) (m : BitVec 4) (legal : Bool) (acc : Accept) (cost : Cost) (R : Nat → Nat → Bool × Half → Prop) : Prop :=
  ∀ s x, Issues s x → VecReady s x { v.op x (legal && m != 0) acc false cost with vd := [] } →
    ∃ r : Nat → Bool × Half,
      (∀ p, p < x.g.n → has x.act p = true →
        R (v.args x (opVals s x { v.op x (legal && m != 0) acc false cost with vd := [] }) p).1
          (v.args x (opVals s x { v.op x (legal && m != 0) acc false cost with vd := [] }) p).2.1 (r p))
      ∧ Completes (exec i s) x (fun t g =>
        Kept (Read s x { v.op x (legal && m != 0) acc false cost with vd := [] }) t x.g.gid ∧ MaskLeaves x m.toNat r g)

/-- Nothing stands in the way of a word that executes once for the group: no prefix field it does not accept, no empty s register
among those it reads and writes (R166, R169). -/
def ScalarReady (x : Ix) (acc : Accept) (regs : List Nat) : Prop :=
  acc.ok x.hasPre x.pre = true ∧ ∀ r ∈ regs, x.g.sEmptyAt r = false

/-- What a scalar word that writes s(d) with result and flags `r` leaves of its group (R28, R212): s(d) holds the result and is full, every
member has the flags too, and every other s register and everything else but paths is as it was. -/
def SLeaves (x : Ix) (d : Nat) (r : Dword × Half) (g : Group) : Prop :=
  (∃ ss se st fl ps, g = { x.g with s := ss, sEmpty := se, sTicket := st, fstat := fl, paths := ps })
  ∧ g.sreg d = r.1 ∧ g.sEmptyAt d = false ∧ (∀ k, k ≠ d → g.sreg k = x.g.sreg k ∧ (k < 64 → g.sEmptyAt k = x.g.sEmptyAt k))
  ∧ ∀ e, g.flags e = if e < x.g.e then x.g.flags e ||| r.2 else x.g.flags e

/-- The word `i`, which reads and writes the s registers `regs` and writes s(d), completes with a result that `R` accepts. -/
def ScalarRuns (i : Instr) (d : Nat) (acc : Accept) (regs : List Nat) (R : Ix → Dword × Half → Prop) : Prop :=
  ∀ s x, IssuesAny s x → ScalarReady x acc regs →
    ∃ r : Dword × Half, R x r ∧ Completes (exec i s) x (fun t g => Kept s t x.g.gid ∧ SLeaves x d r g)

/-- The s registers of a word with a B operand that may be a k register (R160). -/
def skRegs (k : BitVec 1) (b : BitVec 6) : List Nat := if k = 1 then [] else [b.toNat]

/-- The checks of a memory word but for its accesses: fields, prefix and registers, empty registers, a POLL in progress (R166, R169,
R227, R286). -/
def MemChecks (x : Ix) (o : VOp) : Prop :=
  x.vecFault o = none ∧ x.emptyTrap o = none ∧ x.emptyWait o = none ∧ x.g.polling = none

/-- Nothing stands in the way of a memory word with the accesses `us`: its checks pass, and no access of an active position faults or
misses (R116, R117). -/
def MemReady (x : Ix) (o : VOp) (us : List MemUnit) : Prop := MemChecks x o ∧ firstFault us = none ∧ missMask us = 0

/-- The page of an access is translated by an entry whose ACC bit, and for a write DIRTY bit, is set, and no other translation of it is
cached (R104, R105). -/
def Settled (s : State) (vf va : Nat) (write : Bool) : Prop :=
  ∃ e a span, s.walk vf va = .leaf e a span ∧ dbit e 8 = true ∧ (write = true → dbit e 9 = true)
    ∧ ∀ t ∈ s.tlb, t.vf = vf → t.covers va = true → pteKey t.pte = pteKey e ∧ t.pteAddr = a

/-- An access of the group is in flight. -/
def InFlight (t : State) (gid : Gid) (kind : AccKind) (l : Loc) (size : Nat) (P : Access → Prop) : Prop :=
  ∃ a ∈ t.flight, a.gid = gid ∧ a.kind = kind ∧ a.loc = l ∧ a.size = size ∧ P a

/-- Memory is as it was: no byte of host memory, weight stores and scratchpads has changed, and none of HBM when the pages of the
accesses are settled. -/
def MemKept (s t : State) (vf : Nat) (us : List MemUnit) (write : Bool) : Prop :=
  t.host = s.host ∧ t.weights = s.weights ∧ t.blocks = s.blocks ∧ ((∀ u ∈ us, Settled s vf u.va write) → t.hbm = s.hbm)

/-- A load word runs: the registers of its active positions are empty until its values come, every access is in flight, answered, or on
its way to a peer, and nothing else of the group or of memory has changed; a faulting access is the word's fault. -/
def LoadRuns (i : Instr) (m : MemOp) (addr : State → Ix → Nat → Nat × AccRes) : Prop :=
  ∀ s x, Issues s x →
    (MemReady x m.op (m.units s x addr) → Completes (exec i s) x (fun t g =>
      (∃ v e sh se sl so ps, g = { x.g with v := v, vEmpty := e, sh := sh, shEmpty := se, shLive := sl, shOwner := so, paths := ps })
      ∧ (∀ p, p < x.g.n → has x.act p = true → g.vEmptyAt m.data p = true ∧ (m.size = 8 → g.vEmptyAt (m.data + 1) p = true))
      ∧ (∀ p, p < x.g.n → has x.off p = true → g.vval (m.size == 8) m.data p = 0)
      ∧ (∀ q p, p < x.g.n → q ≠ m.data → (m.size = 8 → q ≠ m.data + 1) → g.v1 q p = x.g.v1 q p)
      ∧ (∀ u ∈ m.units s x addr, ∀ l, u.res = .at_ l →
          InFlight t x.g.gid .load l m.size (fun a => a.dest = .v m.data (m.size == 8) m.signed u.hlp ∧ a.ops = u.ops x.g.n)
          ∨ (∃ f ∈ t.fills, f.gid = x.g.gid ∧ ∃ v, f.items = (Dest.v m.data (m.size == 8) m.signed u.hlp).items (u.ops x.g.n) m.size v)
          ∨ ∃ d a, l = .peer d a)
      ∧ MemKept s t x.g.vf (m.units s x addr) false ∧ ∀ h, h ≠ x.g.gid → t.group h = s.group h))
    ∧ (MemChecks x m.op → ∀ u, firstFault (m.units s x addr) = some u → FaultsWith (exec i s) x (u.info m.shd))

/-- A store word runs: one store of each active position is in flight with the low bytes of its register, or on its way to a peer, and
nothing of the group but its paths, and no memory, has changed; a faulting access is the word's fault. -/
def StoreRuns (i : Instr) (m : MemOp) (addr : State → Ix → Nat → Nat × AccRes) : Prop :=
  ∀ s x, Issues s x →
    (MemReady x m.op (m.units s x addr) → Completes (exec i s) x (fun t g =>
      (∃ ps, g = { x.g with paths := ps })
      ∧ (∀ u ∈ m.units s x addr, ∀ l, u.res = .at_ l →
          InFlight t x.g.gid .store l m.size
            (fun a => a.ops = [⟨u.first, dw (x.g.vval (m.size == 8) m.data u.first % 2 ^ (8 * m.size)), 0⟩]) ∨ ∃ d a, l = .peer d a)
      ∧ MemKept s t x.g.vf (m.units s x addr) true ∧ ∀ h, h ≠ x.g.gid → t.group h = s.group h))
    ∧ (MemChecks x m.op → ∀ u, firstFault (m.units s x addr) = some u → FaultsWith (exec i s) x (u.info false))

/-- An atomic word runs: one atomic for each position, or for each combined address, is in flight with the operands of its positions, or on
its way to a peer; with a return the registers of its active positions are empty until the old values come; nothing else of the group but
paths, and no memory, has changed; a faulting access is the word's fault (R230, R231, R132). -/
def AtomRuns (i : Instr) (m : AtomOp) (addr : State → Ix → Nat → Nat × AccRes) : Prop :=
  ∀ s x, Issues s x →
    (MemReady x (m.vop x) (m.units s x addr) → Completes (exec i s) x (fun t g =>
      (∃ v e sh se sl so ps, g = { x.g with v := v, vEmpty := e, sh := sh, shEmpty := se, shLive := sl, shOwner := so, paths := ps })
      ∧ (m.ret = false → ∀ q p, g.v1 q p = x.g.v1 q p ∧ g.vEmptyAt q p = x.g.vEmptyAt q p)
      ∧ (m.ret = true → ∀ p, p < x.g.n →
          (has x.act p = true → g.vEmptyAt m.data p = true ∧ (typeSize m.type = 8 → g.vEmptyAt (m.data + 1) p = true))
          ∧ (has x.off p = true → g.vval (typeSize m.type == 8) m.data p = 0)
          ∧ ∀ q, q ≠ m.data → (typeSize m.type = 8 → q ≠ m.data + 1) → g.v1 q p = x.g.v1 q p)
      ∧ (∀ u ∈ m.units s x addr, ∀ l, u.res = .at_ l →
          InFlight t x.g.gid (.atomic m.op m.type m.ret) l (typeSize m.type) (fun a => a.ops = m.ops x u ∧ a.dest = m.dest)
          ∨ ∃ d a, l = .peer d a)
      ∧ MemKept s t x.g.vf (m.units s x addr) true ∧ ∀ h, h ≠ x.g.gid → t.group h = s.group h))
    ∧ (MemChecks x (m.vop x) → ∀ u, firstFault (m.units s x addr) = some u → FaultsWith (exec i s) x (u.info false))

/-- The issuing path has moved to the clause at `pc`, and nothing of the group but its paths has changed (R30, R216). -/
def MovesTo (o : Host.Outcome State Fault Refusal) (s : State) (x : Ix) (pc : Nat) : Prop :=
  ∃ t g path, o = .next t ∧ Kept s t x.g.gid ∧ t.group x.g.gid = some g ∧ (∃ ps, g = { x.g with paths := ps })
    ∧ g.path? x.path.id = some path ∧ path.pc = pc ∧ path.fetched = none ∧ path.mask = x.path.mask

/-- The word does not execute: its path stays at it and its leg ends with a wait (R166, R37). -/
def Waits (o : Host.Outcome State Fault Refusal) (x : Ix) (w : Wait) : Prop :=
  ∃ t g path, o = .next t ∧ t.group x.g.gid = some g ∧ g = { x.g with paths := g.paths } ∧ g.path? x.path.id = some path ∧ path.wait = w
    ∧ path.pc = x.path.pc ∧ path.widx = x.path.widx ∧ path.fetched = x.path.fetched

/-- Every byte of memory and every other group is as it was. -/
def Aside (s t : State) (gid : Gid) : Prop :=
  t.hbm = s.hbm ∧ t.host = s.host ∧ t.weights = s.weights ∧ t.blocks = s.blocks ∧ ∀ h, h ≠ gid → t.group h = s.group h

/-- The `n` bytes of HBM from `a` lie outside the group records that stops keep, which the part changes itself (R282, R294). -/
def ClearOfStops (s : State) (a n : Nat) : Prop :=
  ∀ e ∈ s.ctxs, e.2.saved.groups ≠ [] → ∀ o ∈ 0 :: e.2.saved.offsets,
    a + n ≤ e.2.saveBase.toNat + o ∨ e.2.saveBase.toNat + o + 2048 ≤ a

/-- A place of a task record whose bytes keep what is written there: HBM outside the records of stops, or the scratchpad of a resident
block. -/
def Kept64 (s : State) (l : Loc) : Prop := (∃ a, l = .hbm a ∧ ClearOfStops s a 64) ∨ ∃ b o, l = .scr b o ∧ s.block b ≠ none

/-- Does an update of a record from `t` by `d` fire slot `i` (R47)? -/
def FiresSlot (t : TaskRec) (d : Int) (i : Nat) : Prop :=
  let th := t.thr.getD i 0
  actArm (t.act.getD i 0) = true
    ∧ ((d < 0 ∧ th < t.counter ∧ t.counter + d ≤ th) ∨ (0 < d ∧ t.counter < th ∧ th ≤ t.counter + d))

/-- Nothing stands in the way of a word on a task record: its registers, no earlier access of the group outstanding, its pointer names
record `r` at place `l` of this device, free to be updated (R138, R279). -/
def RecReady (s : State) (x : Ix) (hasB : Bool) (a : BitVec 6) (regs : List Nat) (r : RecLoc) (l : Loc) : Prop :=
  ScalarReady x (Accept.scalar true hasB) (a.toNat :: regs) ∧ s.outstanding x.g x.path.id = false ∧ x.g.polling = none
  ∧ pointerAt (s.share x.g) x.g.vf 64 (x.g.sreg a.toNat) = .ok r ∧ s.recFree r = true ∧ s.recPlace r = .at_ l ∧ ∀ d p, l ≠ .peer d p

/-- An entry of these words has been put into a ring that the part produces, or dropped and counted where the ring is in service and full
(R360, R372, R374). -/
def Posted (s t : State) (fn r : Nat) (words : List Dword) : Prop :=
  let k := s.ring fn r
  (k.room = true → t.ring fn r = { k with pi := k.pi + 1 }
    ∧ readBytes t.host (k.entryAt r k.pi.toNat) (8 * words.length) = numOf (words.flatMap (fun w => bytesOf 8 w.toNat)))
  ∧ (k.en = true → k.room = false → t.ring fn r = k.drop)
  ∧ (k.en = false → t.ring fn r = k)

/-- An entry of the fault queue of KIND 4 to 6 (R358). -/
def reportWords (kind cause addr info : Nat) (tag : Dword) : List Dword :=
  [dw (kind * 2 ^ 60 + cause * 2 ^ 48), dw addr, dw info, tag]

/-- The management command being performed has been answered with a status and some value (R375). -/
def Answered (s t : State) (c : Cmd) (status : Nat) : Prop :=
  t.cmd = none ∧ ∃ v, Posted s t 0 6 [dw (status * 2 ^ 56 + c.w0.toNat % 2 ^ 32), v]

/-- The function that a command names (R375). -/
def cmdOf (c : Cmd) : Nat := c.w0.toNat / 2 ^ 50 % 2 ^ 6

/-- The canonical form of memory: addresses rise, and no listed byte is what an unlisted one reads as. -/
def MemoryForm (s : State) : Prop := Memory.wf s.hbm = true ∧ Memory.wf s.host = true ∧ Memory.wf s.weights = true

end Sys2Proof
end

