-- ==== Sys2Proof/Certificates/Slice0/Obligations.lean ====
section
/-! DEFINITION. The statements for the provers. -/
open Sys2Proof Sys2Proof.Machine

/-! ### Vector words -/

/-- R184, R187: integer add, subtract, multiply, multiply-high, multiply-add, minimum, maximum and absolute difference complete with the
exact result wrapped, or clamped under SAT with its flag. -/
def Obligations.IntegerArithmetic : Prop :=
  ∀ (d a b : BitVec 7) (f : BitVec 3) (bs : BitVec 1), f.toNat ≤ 5 →
    let t := itype f.toNat
    let runs (i : Instr) (third : Nat) (sat : Bool) (F : Int → Int → Int → Int) : Prop :=
      V3Runs i (intShape d a b f.toNat bs third) true (intAccept sat third) (Cost.vector true)
        (fun x va vb vc => IntRel t (sat && x.pre.sat) F va vb vc)
    runs (.vadd d a b f bs) 0 true (fun x y _ => x + y)
    ∧ runs (.vsub d a b f bs) 0 true (fun x y _ => x - y)
    ∧ runs (.vmul d a b f bs) 0 true (fun x y _ => x * y)
    ∧ runs (.vmad d a b f bs) 2 true (fun x y z => x * y + z)
    ∧ runs (.vmulh d a b f bs) 0 false (fun x y _ => x * y / 2 ^ t.n)
    ∧ runs (.vmin d a b f bs) 0 false (fun x y _ => min x y)
    ∧ runs (.vmax d a b f bs) 0 false (fun x y _ => max x y)
    ∧ runs (.vabsd d a b f bs) 0 false (fun x y _ => ((x - y).natAbs : Int))

/-- R184, R190: the bitwise words, selection and moves complete with their bits. -/
def Obligations.LogicAndMoves : Prop :=
  ∀ (d a b : BitVec 7) (f : BitVec 2) (bs : BitVec 1) (i : BitVec 8),
    let t := itype f.toNat
    let runs (w : Instr) (F : Bool → Bool → Bool) : Prop :=
      V3Runs w (intShape d a b f.toNat bs 0) true (intAccept false 0) (Cost.vector true) (fun _ va vb _ => BitRel t.n F va vb)
    runs (.vand d a b f bs) (fun p q => p && q)
    ∧ runs (.vor d a b f bs) (fun p q => p || q)
    ∧ runs (.vxor d a b f bs) (fun p q => p != q)
    ∧ runs (.vandn d a b f bs) (fun p q => p && !q)
    ∧ V3Runs (.vandi d a i f) (immShape d a f.toNat true) true (Accept.vec true false) (Cost.vector true)
        (fun _ va _ _ => BitRel t.n (fun p q => p && q) va i.toNat)
    ∧ V3Runs (.vmov d b f bs) (moveShape d b f.toNat bs) true (Accept.vec false true) (Cost.vector true)
        (fun _ _ vb _ r => r = (vb % 2 ^ t.n, 0))
    ∧ V3Runs (.vmovi d i f) (immShape d 0 f.toNat false) true (Accept.vec false false) (Cost.vector true)
        (fun _ _ _ _ r => ((r.1 : Nat) : Int) = i.toInt % 2 ^ t.n ∧ r.2 = 0)
    ∧ VecRuns (.vsel d a b f bs) t.pair d.toNat
        (fun x => (intShape d a b f.toNat bs 0).op x (decide (x.pre.creg.toNat < 16)) { Accept.vec true true with cp := true, need := true } true
          (Cost.vector true))
        (fun x vals p r => r = ((if has (x.g.mreg x.pre.creg.toNat) p then ((intShape d a b f.toNat bs 0).args x vals p).1
          else ((intShape d a b f.toNat bs 0).args x vals p).2.1) % 2 ^ t.n, 0))

/-- R185, R187: shifts, rotation and bit fields complete with the bits moved; counts are taken modulo the element width. -/
def Obligations.ShiftsAndFields : Prop :=
  ∀ (d a b : BitVec 7) (f : BitVec 3) (g bs : BitVec 1), f.toNat ≤ 5 →
    let t := itype f.toNat
    let runs (w : Instr) (sat : Bool) (R : Bool → Nat → Nat → Nat × Half → Prop) : Prop :=
      V3Runs w (shiftShape d a b f.toNat bs) true (intAccept sat 0) (Cost.vector true) (fun x va vb _ => R x.pre.sat va vb)
    let fieldRuns (w : Instr) (third : Nat) (R : Nat → Nat → Nat → Nat → Nat × Half → Prop) : Prop :=
      V3Runs w (intShape d a b g.toNat bs third) true (intAccept false third) (Cost.vector true)
        (fun _ va vb vc => R va vc (vb % 32) (min (vb / 256 % 64) (32 - vb % 32)))
    runs (.vshl d a b f bs) true (fun sat va vb => IntRel t sat (fun x y _ => x * 2 ^ (y % t.n).toNat) va vb 0)
    ∧ runs (.vshr d a b f bs) false (fun _ va vb => IntRel t false (fun x y _ => x % 2 ^ t.n / 2 ^ (y % t.n).toNat) va vb 0)
    ∧ runs (.vsar d a b f bs) false (fun _ va vb => IntRel t false (fun x y _ => x.bmod (2 ^ t.n) / 2 ^ (y % t.n).toNat) va vb 0)
    ∧ runs (.vrot d a b f bs) false (fun _ va vb r => r.1 < 2 ^ (t.n * t.cnt) ∧ r.2 = 0 ∧ ∀ j, j < t.cnt → ∀ k, k < t.n →
        (el t.n j r.1).testBit ((k + el t.n j vb) % t.n) = (el t.n j va).testBit k)
    ∧ fieldRuns (.vbfx d a b g bs) 0 (fun va _ o w r => r.1 < 2 ^ 32 ∧ r.2 = 0 ∧ ∀ k, k < 32 →
        r.1.testBit k = if w = 0 then false else if k < w then va.testBit (o + k) else g == 0 && va.testBit (o + w - 1))
    ∧ fieldRuns (.vbfi d a b g bs) 1 (fun va vc o w r => r.1 < 2 ^ 32 ∧ r.2 = 0 ∧ ∀ k, k < 32 →
        r.1.testBit k = if o ≤ k ∧ k < o + w then va.testBit (k - o) else vc.testBit k)

/-- R184, R186, R187: bit counts and the words with an immediate complete. -/
def Obligations.CountsAndImmediates : Prop :=
  ∀ (d a : BitVec 7) (i : BitVec 8) (f : BitVec 3) (h : BitVec 2), f.toNat ≤ 5 →
    let t := itype f.toNat
    let u := itype h.toNat
    V3Runs (.vpopc d a h) (countShape d a h.toNat) true (Accept.vec true false) (Cost.vector true)
      (fun _ va _ _ r => r = ((List.range u.n).countP (fun k => va.testBit k), 0))
    ∧ V3Runs (.vclz d a h) (countShape d a h.toNat) true (Accept.vec true false) (Cost.vector true)
      (fun _ va _ _ r => r.2 = 0 ∧ (va < 2 ^ u.n → r.1 ≤ u.n ∧ va < 2 ^ (u.n - r.1) ∧ (r.1 < u.n → va.testBit (u.n - 1 - r.1) = true)))
    ∧ V3Runs (.vaddi d a i h) (immShape d a h.toNat true) true { Accept.vec true false with sat := true } (Cost.vector true)
      (fun x va _ _ => IntRel u x.pre.sat (fun y _ _ => y + i.toInt) va 0 0)
    ∧ V3Runs (.vshli d a i f) (immShape d a f.toNat true) true { Accept.vec true false with sat := true } (Cost.vector true)
      (fun x va _ _ => IntRel t x.pre.sat (fun y _ _ => y * 2 ^ (i.toNat % t.n)) va 0 0)
    ∧ V3Runs (.vshri d a i f) (immShape d a f.toNat true) true (Accept.vec true false) (Cost.vector true)
      (fun _ va _ _ => IntRel t false (fun y _ _ => y / 2 ^ (i.toNat % t.n)) va 0 0)

/-- R188, R189, R195: the compares complete with the condition's truth in their m register; an FP compare raises NV for a NaN as its
condition says. -/
def Obligations.Compares : Prop :=
  ∀ (t h : BitVec 2) (g : BitVec 1) (m : BitVec 4) (a b : BitVec 7) (i : BitVec 8) (c k : BitVec 3) (bs : BitVec 1), c.toNat ≤ 5 →
    let u := itype t.toNat
    let v := itype h.toNat
    let z := ftype g.toNat
    let cond (x y : Int) : Prop := (c = 0 ∧ x = y) ∨ (c = 1 ∧ x ≠ y) ∨ (c = 2 ∧ x < y) ∨ (c = 3 ∧ x ≤ y) ∨ (c = 4 ∧ x > y) ∨ (c = 5 ∧ x ≥ y)
    MaskRuns (.vcmp t m a b c bs) (cmpShape a.toNat b.toNat (bs == 1) true u.pair) m true (Accept.vec true true) (Cost.vector false)
      (fun va vb r => r.2 = 0 ∧ (r.1 = true ↔ cond (u.val va) (u.val vb)))
    ∧ MaskRuns (.vcmpi h m a i c) (cmpShape a.toNat 0 false false v.pair) m true (Accept.vec true false) (Cost.vector false)
      (fun va _ r => r.2 = 0 ∧ (r.1 = true ↔ cond (v.val va) (v.val (i.signExtend v.n).toNat)))
    ∧ MaskRuns (.fcmp g m a b k bs) (cmpShape a.toNat b.toNat (bs == 1) true z.pair) m true (Accept.vec true true) (Cost.fp false z.pair)
      (fun va vb r =>
        let un := isNaN z.fmt va || isNaN z.fmt vb
        let o := fpCompare z.fmt va vb
        r.2 = (if isSNaN z.fmt va || isSNaN z.fmt vb || (un && decide (2 ≤ k.toNat) && decide (k.toNat ≤ 5)) then fNV else 0)
        ∧ (un = true → (r.1 = true ↔ k = 1 ∨ k = 6))
        ∧ (un = false → (r.1 = true ↔ (k = 0 ∧ o = .eq) ∨ (k = 1 ∧ o ≠ .eq) ∨ (k = 2 ∧ o = .lt) ∨ (k = 3 ∧ o ≠ .gt) ∨ (k = 4 ∧ o = .gt)
            ∨ (k = 5 ∧ o ≠ .lt) ∨ k = 7)))

/-- R191, R192: the rounded arithmetic words complete with the exact result of each element rounded once, in the mode of the prefix or
the group, and with its flags. -/
def Obligations.FloatingArithmetic : Prop :=
  ∀ (d a b : BitVec 7) (f : BitVec 2) (bs : BitVec 1),
    let t := ftype f.toNat
    let runs (w : Instr) (v : V3) (hasB : Bool) (third : Nat) (op : Nat → Nat → Nat → Nat → Nat × Half) : Prop :=
      V3Runs w v true (fpAccept true hasB third) (Cost.fp true t.pair) (fun x va vb vc => FpRel t (op x.mode) va vb vc)
    let two := fpShape d a b f.toNat bs true 0
    let one := fpShape d a 0 f.toNat 0 false 0
    runs (.fadd d a b f bs) two true 0 (fun m p q _ => fpAdd t.fmt m p q)
    ∧ runs (.fsub d a b f bs) two true 0 (fun m p q _ => fpSub t.fmt m p q)
    ∧ runs (.fmul d a b f bs) two true 0 (fun m p q _ => fpMul t.fmt m p q)
    ∧ runs (.ffma d a b f bs) (fpShape d a b f.toNat bs true 2) true 2 (fun m p q r => fpFma t.fmt m p q r)
    ∧ runs (.fdiv d a b f bs) two true 0 (fun m p q _ => fpDiv t.fmt m p q)
    ∧ runs (.fsqrt d a f) one false 0 (fun m p _ _ => fpSqrt t.fmt m p)
    ∧ runs (.frnd d a f) one false 0 (fun m p _ _ => fpRnd t.fmt m p)
    ∧ runs (.fmin d a b f bs) two true 0 (fun _ p q _ => fpMin t.fmt p q)
    ∧ runs (.fmax d a b f bs) two true 0 (fun _ p q _ => fpMax t.fmt p q)

/-- R192-R198: sign operations, class, conversion, scaling, dot product and special functions complete. -/
def Obligations.FloatingOther : Prop :=
  ∀ (d a b : BitVec 7) (f q : BitVec 3) (h : BitVec 2) (e g bs : BitVec 1),
    (f.toNat ≤ 5 → V3Runs (.fsgn d a b f bs) (sgnShape d a b f.toNat bs) true (Accept.vec true true) (Cost.fp true (decide (3 ≤ f.toNat)))
      (fun _ va vb _ r =>
        let n := if 3 ≤ f.toNat then 63 else 31
        r.2 = 0 ∧ r.1 < 2 ^ (n + 1) ∧ (∀ k, k < n → r.1.testBit k = va.testBit k)
        ∧ r.1.testBit n = if f = 0 ∨ f = 3 then vb.testBit n else if f = 1 ∨ f = 4 then !vb.testBit n else va.testBit n != vb.testBit n))
    ∧ V3Runs (.fclass d a g) (classShape d a g.toNat) true (Accept.vec true false) (Cost.fp true (ftype g.toNat).pair)
      (fun _ va _ _ r =>
        let z := (ftype g.toNat).fmt
        r.2 = 0 ∧ ∃ k, r.1 = 2 ^ k ∧ match fval z va with
          | .nan _ _ => k = if isSNaN z va then 8 else 9
          | .inf s => k = if s then 0 else 7
          | .fin s m _ => k = if m = 0 then (if s then 3 else 4) else if m < 2 ^ z.fb then (if s then 2 else 5) else (if s then 1 else 6))
    ∧ (cvtLegal e q.toNat f.toNat = true → V3Runs (.fcvt d a e q f) (cvtShape d a q.toNat f.toNat) true (fpAccept true false 0)
        (Cost.fp true (q.toNat == 1 || f.toNat == 1)) (fun x va _ vc r =>
          let w := if cvtPair f.toNat then 64 else 32
          if cvtPacked q.toNat && cvtPacked f.toNat then r.1 < 2 ^ 32 ∧ ∀ j, j < 2 →
            el 16 j r.1 = (cvtOne q.toNat f.toNat x.mode (el 16 j va)).1 % 2 ^ 16
          else if cvtPacked q.toNat then r.1 = (cvtOne q.toNat f.toNat x.mode (el 16 e.toNat va)).1 % 2 ^ w
          else if cvtKeeps q.toNat f.toNat then r.1 < 2 ^ 32 ∧ el 16 e.toNat r.1 = (cvtOne q.toNat f.toNat x.mode va).1 % 2 ^ 16
            ∧ el 16 (1 - e.toNat) r.1 = el 16 (1 - e.toNat) vc
          else r.1 = (cvtOne q.toNat f.toNat x.mode va).1 % 2 ^ w ∧ r.2 = (cvtOne q.toNat f.toNat x.mode va).2))
    ∧ V3Runs (.fldexp d a b h bs) (ldexpShape d a b h.toNat bs) true (fpAccept true true 0) (Cost.fp true (ftype h.toNat).pair)
      (fun x va vb _ r =>
        let z := ftype h.toNat
        if z.cnt = 2 then FpRel z (fun p k _ => fpLdexp z.fmt x.mode p (toSigned 16 k)) va vb 0 r
        else r = ((fpLdexp z.fmt x.mode va (toSigned 32 vb)).1 % 2 ^ fmtWidth z.fmt, (fpLdexp z.fmt x.mode va (toSigned 32 vb)).2))
    ∧ V3Runs (.fdot2 d a b g bs) (fpShape d a b 0 bs true 2) true (fpAccept true true 2) (Cost.fp true false)
      (fun x va vb vc r => va < 2 ^ 32 → vb < 2 ^ 32 →
        let s := fpDot2 (ftype (2 + g.toNat)).fmt x.mode (el 16 0 va) (el 16 0 vb) (el 16 1 va) (el 16 1 vb) vc
        r = (s.1 % 2 ^ 32, s.2))
    ∧ (f.toNat ≤ 6 → V3Runs (.fsfn d a f) (classShape d a 0) true (Accept.vec true false) (Cost.fp true false)
      (fun _ va _ _ r => match fsfnExact f.toNat va with
        | some s => r = (s.1 % 2 ^ 32, s.2)
        | none => r.1 < 2 ^ 32 ∧ r.2 &&& fNX = fNX ∧ r.2 ||| fNX ||| fOF ||| fUF = fNX ||| fOF ||| fUF))

/-- R82: a finite term that is added leaves an accumulator of exactly the old value plus the term, in units of 2^-2148; a slot is taken only
when a short one becomes long, and no other slot changes. -/
def Obligations.ExactSum : Prop :=
  ∀ (xext : Nat) (slots slots' : FMap LongRec) (x x' : Xa) (i e : Int) (w : Bool),
    -2148 ≤ e → (∀ a, x.anchor = some a → -2148 ≤ a) → (x.anchor = none → x.int = 0) →
    addTerm xext slots x (.fin i e) = .ok (x', slots', w) →
    let units (v : Int × Int) : Int := v.1 * 2 ^ (v.2 + 2148).toNat
    units (xaValue slots' x') = units (xaValue slots x) + units (i, e)
    ∧ (w = true ↔ x.long = none ∧ x'.long ≠ none)
    ∧ (∀ k, x'.long ≠ some k → fget ⟨0⟩ slots' k = fget ⟨0⟩ slots k)
    ∧ (x'.nan = x.nan ∧ x'.pinf = x.pinf ∧ x'.ninf = x.ninf)

/-- R83, R84, R199: the words that add to, merge or clear accumulators complete with the terms added position after position, or take the
fault XA-overflow and leave every accumulator; XCLR leaves the reset values. -/
def Obligations.Accumulators : Prop :=
  ∀ (d a : BitVec 2) (va vb : BitVec 7) (f : BitVec 3), f.toNat ≤ 5 →
    let wide := f.toNat == 1 || decide (4 ≤ f.toNat)
    let runs (w : Instr) (v : V3) (acc : Accept) (cost : Cost) (step : VVals → Group → Nat → Except XaErr Group) : Prop :=
      ∀ s x, Issues s x → VecReady s x { v.op x true acc false cost with vd := [] } →
        let vals := opVals s x { v.op x true acc false cost with vd := [] }
        let cleared := (positions x.g.n x.off).foldl (fun g p => g.clearX d.toNat p) x.g
        (∀ G, overPositions d.toNat (step vals) (positions x.g.n x.act) cleared = .ok G →
          Completes (exec w s) x (fun t g => Kept (Read s x { v.op x true acc false cost with vd := [] }) t x.g.gid ∧ XLeaves x d.toNat g
            ∧ g.x = G.x ∧ g.slots = G.slots ∧ g.fstat = G.fstat))
        ∧ (∀ e, overPositions d.toNat (step vals) (positions x.g.n x.act) cleared = .error e →
            FaultsWith (exec w s) x e ∧ e.code = 0x17 ∧ ∀ t g, exec w s = .next t → t.group x.g.gid = some g → g.x = x.g.x ∧ g.slots = x.g.slots)
    runs (.xadd d va f) (xSrc va.toNat 0 wide true false) (Accept.vec true false) (Cost.fp false (f == 1))
      (fun vals g p => g.addX d.toNat p [(xTerm f.toNat (vals.at' 0 p)).1] (xTerm f.toNat (vals.at' 0 p)).2)
    ∧ runs (.xsub d va f) (xSrc va.toNat 0 wide true false) (Accept.vec true false) (Cost.fp false (f == 1))
      (fun vals g p => g.addX d.toNat p [negTerm (xTerm f.toNat (vals.at' 0 p)).1] (xTerm f.toNat (vals.at' 0 p)).2)
    ∧ runs (.xfma d va vb f) (xSrc va.toNat vb.toNat (f.toNat == 1) true true) (Accept.vec true true) (Cost.fp false (f == 1))
      (fun vals g p => g.addX d.toNat p (xProds f.toNat (vals.at' 0 p) (vals.at' 1 p)).1 (xProds f.toNat (vals.at' 0 p) (vals.at' 1 p)).2)
    ∧ runs (.xmrg d a) (xSrc 0 0 false false false) (Accept.vec true false) (Cost.fp false false)
      (fun _ g p => (mergeXa g.xext g.slots (g.xreg d.toNat p) (g.xreg a.toNat p)).map (g.putX d.toNat p))
    ∧ (∀ s x, Issues s x → VecReady s x { (xSrc 0 0 false false false).op x true (Accept.vec false false) false (Cost.fp false false) with vd := [] } →
        Completes (exec (.xclr d) s) x (fun t g => Kept s t x.g.gid ∧ XLeaves x d.toNat g
          ∧ ∀ p, p < x.g.n → has x.act p = true → g.xreg d.toNat p = Xa.reset))

/-- R85, R199, R200: readouts and images complete. XRD writes the accumulator rounded once, XST its 192-bit image, XLD the accumulator
of an image; an image that stands for no short accumulator raises illegal-format. -/
def Obligations.AccumulatorTransfers : Prop :=
  ∀ (d : BitVec 7) (a : BitVec 2) (f : BitVec 3), f.toNat ≤ 5 →
    let outs (w : Instr) (n : Nat) (rnd : Bool) (r : Ix → Nat → Nat × Half) : Prop :=
      let o : VOp := { acc := { Accept.vec true false with rnd := rnd }, legal := n == 1 || d.toNat % 2 == 0, vs := [],
                       vd := (List.range n).map (d.toNat + ·), cost := Cost.fp false false }
      ∀ s x, Issues s x → VecReady s x o →
        Completes (exec w s) x (fun t g => Kept s t x.g.gid ∧ RegsKept x.g g
          ∧ (∀ i p, i < n → p < x.g.n → has x.act p = true → (g.v1 (d.toNat + i) p).toNat = (r x p).1 / 2 ^ (32 * i) % 2 ^ 32)
          ∧ (∀ q p, p < x.g.n → (q < d.toNat ∨ d.toNat + n ≤ q) → g.v1 q p = x.g.v1 q p)
          ∧ (∀ e, g.flags e = x.g.flags e ||| flagsOf x (r x) e (positions x.g.n x.act)))
    let src : VOp := { acc := Accept.vec true false, legal := d.toNat % 2 == 0,
                       vs := (List.range 6).map (fun i => (⟨d.toNat + i, if i = 0 then 0 else 4, false⟩ : VSrc)), cost := Cost.fp false false }
    outs (.xrd d a f) (if f.toNat = 1 || 4 ≤ f.toNat then 2 else 1) true (fun x p => xRead x.g.slots f.toNat x.mode (x.g.xreg a.toNat p))
    ∧ outs (.xst d a) 6 false (fun x p => (xaImage (x.g.xreg a.toNat p), 0))
    ∧ (∀ s x, Issues s x → VecReady s x src →
        let img (p : Nat) : Nat := (List.range 6).foldl (fun acc i => acc + (opVals s x src).at' i p * 2 ^ (32 * i)) 0
        ((∀ p, p < x.g.n → has x.act p = true → xaImageOk (img p) = true) →
          Completes (exec (.xld a d) s) x (fun t g => Kept (Read s x src) t x.g.gid ∧ XLeaves x a.toNat g
            ∧ ∀ p, p < x.g.n → has x.act p = true → g.xreg a.toNat p = xaOfImage (img p)))
        ∧ ((∃ p, p < x.g.n ∧ has x.act p = true ∧ xaImageOk (img p) = false) → ∃ e, e.code = 0x12 ∧ FaultsWith (exec (.xld a d) s) x e))

/-- R202-R204, R208-R210: the exchanges complete: each active position receives the value of the position that the word names. -/
def Obligations.CrossLane : Prop :=
  ∀ (d a b : BitVec 7) (m : BitVec 4) (c : BitVec 6) (f : BitVec 3) (g bs : BitVec 1),
    let quad (legal : Bool) : VOp := { acc := Accept.vec true false, legal := legal, vs := [⟨a.toNat, 0, false⟩], vd := [d.toNat], hlp := true,
                                       shadowSrc := true, cross := true, cost := Cost.vector true }
    let sh : V3 := { d := d.toNat, a := a.toNat, b := b.toNat, bs := bs == 1, pd := false, pa := false, pb := false }
    let ma : V3 := { d := d.toNat, a := a.toNat, b := 0, bs := false, pd := true, pa := f == 1, pb := false, hasB := false }
    let w := g == 1
    let mx : VOp := { acc := Accept.vec true (bs == 1),
                      legal := (if bs == 1 then decide (b.toNat < 64) else decide (b.toNat < 8)) && (!w || (d.toNat % 2 == 0 && a.toNat % 2 == 0)),
                      vs := [⟨a.toNat, 0, w⟩], ss := if bs == 1 then [(b.toNat % 64, 1)] else [],
                      vd := if w then [d.toNat, d.toNat + 1] else [d.toNat], cross := true, cost := Cost.vector false }
    let cnt : VOp := { acc := Accept.vec true false, legal := true, vs := [⟨a.toNat, 0, false⟩], sd := [c.toNat], cross := true,
                       cost := Cost.vector false }
    (f.toNat ≤ 6 → VecRuns (.qswz d a f) false d.toNat (fun _ => quad true) (fun _ vals p r =>
      r = (vals.at' 0 (if f.toNat ≤ 3 then p - p % 4 + f.toNat else p ^^^ (f.toNat - 3)) % 2 ^ 32, 0)))
    ∧ (f.toNat ≤ 3 → VecRuns (.qdiff d a f) false d.toNat (fun _ => quad true) (fun x vals p r =>
      let q := p - p % 4
      let hi := if f = 0 then q + 1 else if f = 1 then q + 2 else if f = 2 then p ||| 1 else p ||| 2
      let lo := if f = 0 ∨ f = 1 then q else if f = 2 then (p ||| 1) - 1 else (p ||| 2) - 2
      r = ((fpSub f32 x.g.mode (vals.at' 0 hi) (vals.at' 0 lo)).1 % 2 ^ 32, (fpSub f32 x.g.mode (vals.at' 0 hi) (vals.at' 0 lo)).2)))
    ∧ (f.toNat ≤ 3 → VecRuns (.shfl d a b f bs) false d.toNat
      (fun x => { sh.op x true (Accept.vec true true) false (Cost.vector false) with cross := true }) (fun x vals p r =>
        let l := x.g.lane p
        let v := toSigned 32 (sh.args x vals p).2.1
        let j := if f = 0 then (v % x.g.w).toNat else if f = 1 then ((l + v) % x.g.w).toNat
          else if f = 2 then l ^^^ (2 ^ (min (v % 8).toNat x.g.w.log2) - 1) else l ^^^ (v % x.g.w).toNat
        r = (vals.at' 0 (x.g.member p * x.g.w + j) % 2 ^ 32, 0)))
    ∧ MaskRuns (.vballot m a) { d := 0, a := a.toNat, b := 0, bs := false, pd := false, pa := false, pb := false, hasB := false } m true
      (Accept.vec true false) (Cost.vector false) (fun va _ r => r.2 = 0 ∧ (r.1 = true ↔ va ≠ 0))
    ∧ (∀ s x, Issues s x → VecReady s x cnt → Completes (exec (.vballotCnt c a) s) x (fun t k => Kept (Read s x cnt) t x.g.gid ∧
        k.sreg c.toNat = dw ((positions x.g.n x.act).countP (fun p => (opVals s x cnt).at' 0 p != 0))
        ∧ (∀ r, r ≠ c.toNat → k.sreg r = x.g.sreg r) ∧ k.v = x.g.v ∧ k.m = x.g.m ∧ k.x = x.g.x ∧ k.fstat = x.g.fstat))
    ∧ (f.toNat ≤ 1 → VecRuns (.vmatch d a f) true d.toNat
      (fun x => { ma.op x true (Accept.vec true false) false (Cost.vector false) with cross := true }) (fun x vals p r =>
        r.2 = 0 ∧ r.1 < 2 ^ 64 ∧ (x.g.w ≤ 64 → ∀ j, j < x.g.w →
          r.1.testBit j = (has x.act (x.g.member p * x.g.w + j) && decide (x.g.member p * x.g.w + j < x.g.n)
            && vals.at' 0 (x.g.member p * x.g.w + j) == vals.at' 0 p))))
    ∧ VecRuns (.mxchBc d a b g bs) w d.toNat (fun _ => mx) (fun x vals p r =>
        let src := (if bs == 1 then (x.g.sreg (b.toNat % 64)).toNat else b.toNat) % x.g.e
        r = (vals.at' 0 (src * x.g.w + x.g.lane p) % (if w then 2 ^ 64 else 2 ^ 32), 0))

/-- R205-R207, R210, R222: the reductions and scans complete: every active position receives the operator over the active positions of its
member, those up to its lane, or the members of its lane. -/
def Obligations.Reductions : Prop :=
  ∀ (d a : BitVec 7) (e u : BitVec 1) (o f : BitVec 3), f.toNat ≤ 6 →
    let member (x : Ix) (p : Nat) : List Nat := (positions x.g.n x.act).filter (fun q => q / x.g.w == p / x.g.w)
    let scan (x : Ix) (p : Nat) : List Nat := (member x p).filter (fun q => if e = 1 then decide (q < p) else decide (q ≤ p))
    let lane (x : Ix) (p : Nat) : List Nat := (positions x.g.n x.act).filter (fun q => q % x.g.w == p % x.g.w)
    let runs (w : Instr) (t : RType) (uns : Bool) (from_ : Ix → Nat → List Nat) : Prop :=
      match t with
      | .x =>
        ∀ s x, Issues s x → VecReady s x (redOpX d a o.toNat true) →
          (∀ G, x.reduceX d.toNat a.toNat from_ = .ok G → Completes (exec w s) x (fun t g => Kept s t x.g.gid ∧ XLeaves x d.toNat g
            ∧ g.x = G.x ∧ g.slots = G.slots ∧ g.fstat = G.fstat))
          ∧ (∀ k, x.reduceX d.toNat a.toNat from_ = .error k → FaultsWith (exec w s) x k ∧ k.code = 0x17)
      | t => VecRuns w t.pair d.toNat (redOp d a t o.toNat true) (fun x vals p r =>
        let q := reduce t o.toNat x.pre.sat uns x.g.mode ((from_ x p).map (vals.at' 0))
        r = (q.1 % (if t.pair then 2 ^ 64 else 2 ^ 32), q.2))
    runs (.vred d a o f) (rtype f.toNat) false member
    ∧ runs (.vscan d a e o f) (rtype f.toNat) false scan
    ∧ (2 ≤ f.toNat → (u = 0 ∨ ((f = 2 ∨ f = 3) ∧ (o = 1 ∨ o = 2))) → runs (.mxchRed d a u o f) (mxchType f.toNat) (u == 1) lane)

/-- R205: what a reduction forms from a list of values: an integer sum modulo 2^n, the least and greatest value, the FP sum whatever the
order of its terms, and the identity of nothing. -/
def Obligations.ReductionValues : Prop :=
  ∀ (f mode : Nat) (vs ws : List Nat), f < 4 →
    let t := itype f
    ((((reduce (.int t) 0 false false mode vs).1 : Nat) : Int) = (vs.map t.val).sum % 2 ^ t.n)
    ∧ (∀ v ∈ vs, t.val (reduce (.int t) 1 false false mode vs).1 ≤ t.val v ∧ t.val v ≤ t.val (reduce (.int t) 2 false false mode vs).1)
    ∧ (∀ k, k < t.n → (reduce (.int t) 3 false false mode vs).1.testBit k = vs.all (fun v => v.testBit k))
    ∧ (∀ k, (reduce (.int t) 4 false false mode vs).1.testBit k = vs.any (fun v => v.testBit k))
    ∧ (∀ z, vs.Perm ws → reduce (.fp z) 0 false false mode vs = reduce (.fp z) 0 false false mode ws)
    ∧ ((reduce (.fp (ftype 0)) 1 false false mode []).1 = 0x7F800000 ∧ (reduce (.fp (ftype 0)) 2 false false mode []).1 = 0xFF800000)

/-! ### Scalar words -/

/-- R212: the scalar words complete with their result in s(d), wrapped or clamped to 64 bits where they compute integers. -/
def Obligations.ScalarArithmetic : Prop :=
  ∀ (d a b : BitVec 6) (f t k : BitVec 1) (h : BitVec 2) (c : BitVec 3) (i : BitVec 8),
    let regs := [a.toNat] ++ skRegs k b ++ [d.toNat]
    let acc (sat : Bool) : Accept := { Accept.scalar true true with sat := sat }
    let ints (w : Instr) (sat : Bool) (ty : IType) (F : Int → Int → Int) : Prop :=
      ScalarRuns w d.toNat (acc sat) regs (fun x r =>
        IntRel ty (sat && x.pre.sat) (fun p q _ => F p q) (x.g.sreg a.toNat).toNat (x.g.sk k b).toNat 0 (r.1.toNat, r.2))
    let words (w : Instr) (F : Dword → Dword → Dword → Dword) : Prop :=
      ScalarRuns w d.toNat (acc false) regs (fun x r => r = (F (x.g.sreg a.toNat) (x.g.sk k b) (x.g.sreg d.toNat), 0))
    ints (.sadd d a b f k) true (stype f.toNat) (fun p q => p + q)
    ∧ ints (.ssub d a b f k) true (stype f.toNat) (fun p q => p - q)
    ∧ (h.toNat ≤ 1 → ints (.smul d a b h k) true (stype h.toNat) (fun p q => p * q))
    ∧ (2 ≤ h.toNat → ints (.smul d a b h k) false (stype h.toNat) (fun p q => p * q / 2 ^ 64))
    ∧ words (.smad d a b k) (fun p q r => p * q + r)
    ∧ words (.sand d a b k) (fun p q _ => p &&& q)
    ∧ words (.sor d a b k) (fun p q _ => p ||| q)
    ∧ words (.sxor d a b k) (fun p q _ => p ^^^ q)
    ∧ words (.sshl d a b k) (fun p q _ => p <<< (q.toNat % 64))
    ∧ words (.sshr d a b k) (fun p q _ => p >>> (q.toNat % 64))
    ∧ words (.ssar d a b k) (fun p q _ => p.sshiftRight (q.toNat % 64))
    ∧ words (.ssel d a b k) (fun p q r => if r = 0 then q else p)
    ∧ (c.toNat ≤ 5 → words (.scmp d a b c k) (fun p q _ =>
        if (if c = 0 then p == q else if c = 1 then p != q else if c = 2 then p.slt q else if c = 3 then p.sle q else if c = 4 then p.ult q
          else p.ule q) then 1 else 0))
    ∧ words (.smin d a b t k) (fun p q _ => if (if t = 0 then p.sle q else p.ule q) then p else q)
    ∧ words (.smax d a b t k) (fun p q _ => if (if t = 0 then p.sle q else p.ule q) then q else p)
    ∧ ScalarRuns (.smov d b k) d.toNat (Accept.scalar false true) (skRegs k b ++ [d.toNat]) (fun x r => r = (x.g.sk k b, 0))
    ∧ ScalarRuns (.saddi d a i f) d.toNat { Accept.scalar true false with sat := true } [a.toNat, d.toNat] (fun x r =>
        IntRel (stype f.toNat) x.pre.sat (fun p _ _ => p + i.toInt) (x.g.sreg a.toNat).toNat 0 0 (r.1.toNat, r.2))

/-- R214, R97, R384: reads of special registers complete with the value the spec gives the register; SRD.clr of FSTAT clears exactly what it
returns; the cycle counter is that of the issuing core. -/
def Obligations.SpecialRegisters : Prop :=
  ∀ (d a : BitVec 6) (c : BitVec 2) (i : BitVec 8),
    (∀ s x, IssuesAny s x → ScalarReady x (Accept.scalar false false) [d.toNat] → a = 0 →
      let reads (n : BitVec 8) (P : Dword → Prop) : Prop :=
        Completes (exec (.srd d a n) s) x (fun t g => Kept s t x.g.gid ∧ SLeaves x d.toNat (g.sreg d.toNat, 0) g ∧ P (g.sreg d.toNat))
      reads 0 (fun v => v.toNat = x.p % 2 ^ 64)
      ∧ reads 1 (fun v => v = x.g.gid.setWidth 64)
      ∧ reads 2 (fun v => v.toNat = x.g.cluster % 2 ^ 64)
      ∧ (x.g.groupNo < 16 → x.g.blockNo < 16 → x.g.groups - 1 < 16 → x.g.blocks - 1 < 16 → reads 3 (fun v =>
          dfield v 3 0 = x.g.groupNo ∧ dfield v 7 4 = x.g.blockNo ∧ dfield v 11 8 = x.g.groups - 1 ∧ dfield v 15 12 = x.g.blocks - 1))
      ∧ (x.g.w < 256 → x.g.e < 16 → x.g.vcur < 256 → x.g.vregs < 256 → x.g.atiles < 32 → reads 4 (fun v =>
          dfield v 7 0 = x.g.w ∧ dfield v 11 8 = x.g.e ∧ dfield v 19 12 = x.g.vcur ∧ dfield v 27 20 = x.g.vregs ∧ dfield v 32 28 = x.g.atiles))
      ∧ reads 5 (fun v => v.toNat = x.g.backoff % 2 ^ 64)
      ∧ (let k := s.die (dieOfCore (coreOf x.p))
         k.window < 64 → Completes (exec (.srd d a 6) s) x (fun t g =>
           (∃ u, (∃ ds n, u = { s with dies := ds, free := n }) ∧ Kept u t x.g.gid) ∧ SLeaves x d.toNat (g.sreg d.toNat, 0) g
           ∧ dfield (g.sreg d.toNat) 5 0 = k.window ∧ dbit (g.sreg d.toNat) 32 = k.hot
           ∧ dfield (g.sreg d.toNat) 24 16 ≤ (if k.hot then 511 else 255) - k.phase
           ∧ ∀ e, (t.die e).window = (s.die e).window ∧ (t.die e).hot = (s.die e).hot ∧ (s.die e).phase ≤ (t.die e).phase))
      ∧ reads 8 (fun v => v = x.g.tag))
    ∧ (∀ s x, IssuesAny s x → ScalarReady x (Accept.scalar true false) [a.toNat, d.toNat] →
      let m := (x.g.sreg a.toNat).toNat % 8
      let v : Half := if m < x.g.e then x.g.flags m else 0
      Completes (exec (.srd d a 7) s) x (fun t g => Kept s t x.g.gid ∧ SLeaves x d.toNat (v.setWidth 64, 0) g)
      ∧ Completes (exec (.srdClr d a) s) x (fun t g => Kept s t x.g.gid ∧ g.sreg d.toNat = v.setWidth 64
          ∧ ∀ e, g.flags e = if e = m then x.g.flags e &&& ~~~v else x.g.flags e))
    ∧ (∀ s x, IssuesAny s x → 8 < i.toNat → ScalarReady x (Accept.scalar false false) [d.toNat] →
        ∃ f, f.code = 0x11 ∧ FaultsWith (exec (.srd d a i) s) x f)
    ∧ (∀ s x, Issues s x → ScalarReady x {} [d.toNat] →
        Completes (exec (.sysCyc d) s) x (fun t g => Kept s t x.g.gid ∧ SLeaves x d.toNat (g.sreg d.toNat, 0) g
          ∧ ∃ n, g.sreg d.toNat = dw n ∧ (s.core (x.p / 4)).cycles ≤ n ∧ (s.part x.p).freeAt ≤ n)
        ∧ Completes (exec (.sysPmrd d c) s) x (fun t g => Kept s t x.g.gid ∧ SLeaves x d.toNat
            (if dbit s.manage.pmctl 63 = true ∧ dfield s.manage.pmctl 53 48 = x.g.vf then fget 0 (s.core (coreOf x.p)).pm c.toNat else 0, 0) g))

/-! ### Control -/

/-- R162, R216, R219: BRA, CALL, RET and JMPI complete: the path moves to the target, the next clause or the address read; CALL writes the
return address; an address that is no clause address faults. -/
def Obligations.BranchesAndCalls : Prop :=
  ∀ (c : BitVec 6) (o : BitVec 3) (d : BitVec 16) (s : State) (x : Ix), IssuesAny s x →
    let target := (((x.cl.base : Int) + 4 * d.toInt) % 2 ^ 64).toNat
    let next := x.cl.base + 4 * (x.cl.hdr.n + 1)
    let v := x.g.sreg c.toNat
    let m := x.g.mreg c.toNat &&& x.path.mask
    let cond := if o = 0 then true else if o = 1 then v == 0 else if o = 2 then v != 0 else if o = 3 then v.slt 0 else if o = 4 then !v.slt 0
      else if o = 5 then m != 0 else if o = 6 then m == 0 else m == x.path.mask
    (braOk c o = true → ScalarReady x {} (if 1 ≤ o.toNat ∧ o.toNat ≤ 4 then [c.toNat] else []) → (x.inCapsule = true → 0 < d.toInt) →
      MovesTo (exec (.bra c o d) s) s x (if cond then target else next))
    ∧ (x.inCapsule = false → ScalarReady x {} [c.toNat] →
      (∃ t g path, exec (.call c d) s = .next t ∧ Kept s t x.g.gid ∧ t.group x.g.gid = some g ∧ g.sreg c.toNat = dw next
        ∧ (∀ r, r ≠ c.toNat → g.sreg r = x.g.sreg r) ∧ g.path? x.path.id = some path ∧ path.pc = target ∧ path.fetched = none)
      ∧ (v.toNat % 4 = 0 → v.toNat < 2 ^ 52 → MovesTo (exec (.ret c) s) s x v.toNat ∧ MovesTo (exec (.jmpi c) s) s x v.toNat)
      ∧ (v.toNat % 4 ≠ 0 ∨ 2 ^ 52 ≤ v.toNat → ∃ f, f.code = (if v.toNat % 4 ≠ 0 then 0x02 else 0x01) ∧ f.daddr = v.toNat
          ∧ FaultsWith (exec (.ret c) s) x f ∧ FaultsWith (exec (.jmpi c) s) x f))

/-- R30, R31, R217: BDIV that finds one side empty moves the path; else it creates the taken and the fall-through path with the
reconvergence PC and its own path waits for both, or, with the divergence stack full, it faults. -/
def Obligations.Divergence : Prop :=
  ∀ (m : BitVec 4) (n : BitVec 1) (d : BitVec 16) (s : State) (x : Ix), Issues s x →
    ({ cp := true } : Accept).ok x.hasPre x.pre = true → x.pre.creg.toNat < 64 → (x.pre.cp = true → x.g.sEmptyAt x.pre.creg.toNat = false) →
    (∀ p ∈ x.g.paths, p.id < x.g.nextPath) →
    let target := (((x.cl.base : Int) + 4 * d.toInt) % 2 ^ 64).toNat
    let next := x.cl.base + 4 * (x.cl.hdr.n + 1)
    let j := if x.pre.cp then (x.g.sreg x.pre.creg.toNat).toNat else target
    let c := if n = 0 then x.g.mreg m.toNat else ~~~(x.g.mreg m.toNat)
    let taken := x.path.mask &&& c
    let fall := x.path.mask &&& ~~~c
    (j % 4 ≠ 0 ∨ 2 ^ 52 ≤ j → ∃ f, f.code = (if j % 4 ≠ 0 then 0x02 else 0x01) ∧ FaultsWith (exec (.bdiv m n d) s) x f)
    ∧ (j % 4 = 0 → j < 2 ^ 52 →
      (taken = 0 → MovesTo (exec (.bdiv m n d) s) s x next)
      ∧ (taken ≠ 0 → fall = 0 → MovesTo (exec (.bdiv m n d) s) s x target)
      ∧ (taken ≠ 0 → fall ≠ 0 →
        let g' := x.g.split x.path taken fall target next j
        (g'.dstack < g'.stackUsed → ∃ f, f.code = 0x16 ∧ FaultsWith (exec (.bdiv m n d) s) x f)
        ∧ (g'.stackUsed ≤ g'.dstack → ∃ t g p q r, exec (.bdiv m n d) s = .next t ∧ Kept s t x.g.gid ∧ t.group x.g.gid = some g
            ∧ g.path? (x.g.nextPath + 1) = some p ∧ p.pc = target ∧ p.mask = taken ∧ p.rpc = j ∧ p.pending = 0 ∧ p.parent = some x.path.id
            ∧ g.path? x.g.nextPath = some q ∧ q.pc = next ∧ q.mask = fall ∧ q.rpc = j ∧ q.pending = 0 ∧ q.parent = some x.path.id
            ∧ g.path? x.path.id = some r ∧ r.pc = j ∧ r.pending = 2 ∧ r.mask = x.path.mask)))

/-- R30, R218, R220, R221: JOIN, EXIT, NOP and YIELD complete: JOIN passes through or removes its path and counts the parent down, EXIT
removes the path and with the last one the group, NOP changes nothing, YIELD waits for the other ready slots of its class and changes of other
groups their paths alone (R50: it counts as no leg). -/
def Obligations.JoinExitNopYield : Prop :=
  ∀ (s : State) (x : Ix), Issues s x → ScalarReady x {} [] →
    let next := x.cl.base + 4 * (x.cl.hdr.n + 1)
    ((x.path.parent = none ∨ x.path.rpc ≠ x.cl.base) → MovesTo (exec .join s) s x next)
    ∧ (∀ q Q, x.path.parent = some q → x.path.rpc = x.cl.base → q ≠ x.path.id → x.g.path? q = some Q → Q.mask ≠ 0 →
        ∃ t g R, exec .join s = .next t ∧ Kept s t x.g.gid ∧ t.group x.g.gid = some g ∧ g.path? x.path.id = none
          ∧ g.path? q = some R ∧ R.pending = Q.pending - 1 ∧ R.mask = Q.mask ∧ (Q.pending = 1 → R.pc = next) ∧ (1 < Q.pending → R.pc = Q.pc))
    ∧ (∃ t, exec .exit s = .next t ∧ (x.g.paths = [x.path] → t.group x.g.gid = none)
        ∧ ∀ g, t.group x.g.gid = some g → g.path? x.path.id = none)
    ∧ Completes (exec .nop s) x (fun t g => Kept s t x.g.gid ∧ g = { x.g with paths := g.paths })
    ∧ Completes (exec .yield s) x (fun t g => (∃ gs ps cs n, t = { s with groups := gs, parts := ps, cores := cs, free := n })
        ∧ (∀ h k, h ≠ x.g.gid → s.group h = some k → ∃ ps, t.group h = some { k with paths := ps })
        ∧ g = { x.g with paths := g.paths } ∧ ∃ p since, g.path? x.path.id = some p
        ∧ p.wait = .yield (((s.readySlots x.p).filter (fun e => e.1.prio == x.g.prio)).map (fun e => (e.1.gid, e.2.id))) since)

/-! ### Memory words -/

/-- R223, R224, R226, R116, R166: the loads complete with their accesses on their way and their registers empty, the stores with one store
of each active position on its way; either takes the fault of the earliest position whose access faults. -/
def Obligations.LoadsAndStores : Prop :=
  ∀ (d : BitVec 7) (sb : BitVec 6) (o : BitVec 8) (v : BitVec 7) (z : BitVec 2) (x1 h c : BitVec 1),
    LoadRuns (.ld d sb o z x1 h) (loadOp d sb none z x1 h false) (uniformAt sb o (2 ^ z.toNat) (h == 1) false)
    ∧ LoadRuns (.ldx d sb v z x1 h c) (loadOp d sb (some v) z x1 h false) (globalAt v sb c (2 ^ z.toNat) false)
    ∧ LoadRuns (.lds d sb v z x1 h c) (loadOp d sb (some v) z x1 h false) (scratchAt v sb c (2 ^ z.toNat))
    ∧ LoadRuns (.ldw d sb v z x1 h c) (loadOp d sb (some v) z x1 h false) (weightAt v sb c (2 ^ z.toNat))
    ∧ LoadRuns (.ldc d sb v z x1 h c) (loadOp d sb (some v) z x1 h true) (constAt v sb c (2 ^ z.toNat))
    ∧ StoreRuns (.st d sb o z) (storeOp d sb none z) (uniformAt sb o (2 ^ z.toNat) false true)
    ∧ StoreRuns (.stx d sb v z c) (storeOp d sb (some v) z) (globalAt v sb c (2 ^ z.toNat) true)
    ∧ StoreRuns (.sts d sb v z c) (storeOp d sb (some v) z) (scratchAt v sb c (2 ^ z.toNat))

/-- R229, R230, R231, R116: the atomics complete with one atomic for each active position, or for each combined address, on its way. -/
def Obligations.Atomics : Prop :=
  ∀ (d a : BitVec 7) (r g : BitVec 1) (o f : BitVec 3),
    AtomRuns (.atom d a r g o f) (atomOp false false d a (r == 0) g o f) (atomAt a (typeSize f.toNat))
    ∧ AtomRuns (.red d a g o f) (atomOp false true d a false g o f) (atomAt a (typeSize f.toNat))
    ∧ AtomRuns (.atoms d a r g o f) (atomOp true false d a (r == 0) g o f) (atomsAt a (typeSize f.toNat))

/-- R128, R143, R144, R233, R234: a fence and FLUSHAGG.wait make the group's buffers depart, complete when nothing they wait for is pending
and the fault log is empty, fault on a log that is not, and wait otherwise; a fence covers every access of its path and its path's ancestors in
flight or without acknowledgement, the stores that the group has observed where its scope leaves the core, and the buffers it makes depart; FLUSHAGG never waits; FENCE_COMPLETE ends the wait. -/
def Obligations.FencesAndFlush : Prop :=
  (∀ (q : BitVec 1) (sc : BitVec 3) (s : State) (x : Ix), Issues s x → ScalarReady x {} [] →
    let runs (i : Instr) (t : State) (ids : List Nat) (scope : Nat) (check : Bool) : Prop :=
      ((∀ k ∈ ids, t.pendingAt scope k = false) → (check = true → x.g.aggLog = [] ∧ x.g.aggLost = 0) →
          Completes (exec i s) x (fun u g => Aside s u x.g.gid ∧ g = { x.g with paths := g.paths }))
      ∧ ((∀ k ∈ ids, t.pendingAt scope k = false) → check = true → ¬(x.g.aggLog = [] ∧ x.g.aggLost = 0) →
          ∃ f, f.code = 0x20 ∧ FaultsWith (exec i s) x f)
      ∧ ((∃ k ∈ ids, t.pendingAt scope k = true) → Waits (exec i s) x (.fence (ids.filter (t.pendingAt scope)) scope check))
    (sc.toNat ≤ 4 → x.g.polling = none →
      runs (.fence q sc) (s.fenceStart x sc.toNat).1 (s.fenceStart x sc.toNat).2 (x.g.fenceScope sc.toNat) (decide (3 ≤ sc.toNat)))
    ∧ runs .flushaggWait (s.flushAgg x) ((s.flushAgg x).aggIds x.g.gid) 4 true
    ∧ Completes (exec .flushagg s) x (fun u g => Aside s u x.g.gid ∧ g = { x.g with paths := g.paths }
        ∧ ∀ b ∈ u.agg, b.core = coreOf x.p → ∀ e ∈ b.entries, e.gid ≠ x.g.gid)
    ∧ (∀ a ∈ s.flight ++ s.unacked, a.gid = x.g.gid → a.helper = false → (∃ q ∈ x.g.lineage x.path.id, a.line.head? = some q) →
        a.id ∈ (s.fenceStart x sc.toNat).2)
    ∧ (∀ a ∈ s.flight, a.id ∈ x.g.seen → 2 ≤ x.g.fenceScope sc.toNat → a.id ∈ (s.fenceStart x sc.toNat).2)
    ∧ (∀ b ∈ s.agg, b.core = coreOf x.p → (∃ e ∈ b.entries, e.gid = x.g.gid) → (sc = 4 ∨ (sc = 3 ∧ b.dev = s.dev)) →
        b.id ∈ (s.fenceStart x sc.toNat).2))
  ∧ ∀ (s : State) (g : Group) (path : Path) (ids : List Nat) (scope : Nat) (check : Bool) (x : Ix), s.manage.poweredDown = false →
      s.group g.gid = some g → g.path? path.id = some path → path.wait = .fence ids scope check → ixOf g.part g path = some x →
      g.stopped = false → (∀ k ∈ ids, s.pendingAt scope k = false) →
      ((check = true → g.aggLog = [] ∧ g.aggLost = 0) → ∃ t h p, exec (.fenceComplete g.gid path.id) s = .next t ∧ t.group g.gid = some h
          ∧ h.path? path.id = some p ∧ p.wait = .none ∧ Past x p)
      ∧ (check = true → ¬(g.aggLog = [] ∧ g.aggLost = 0) → ∃ f, f.code = 0x20 ∧ FaultsWith (exec (.fenceComplete g.gid path.id) s) x f)

/-! ### Stream words -/

/-- R235, R236, R237, R240: the stream words complete: QSET sets the base or the shape and the position to 0, or faults on an illegal shape
and changes nothing; QBIND binds one stream to a slot and register and unbinds any other bound there; QPOS reads and sets the position. -/
def Obligations.StreamWords : Prop :=
  ∀ (q : BitVec 3) (a b d : BitVec 6) (k : BitVec 1) (v : BitVec 6) (f : BitVec 2) (s : State) (x : Ix), Issues s x →
    let old := x.g.stream q.toNat
    let sets (i : Instr) (new : Stream) (others : Nat → Stream) : Prop :=
      Completes (exec i s) x (fun t g => Aside s t x.g.gid ∧ g = { x.g with q := g.q, paths := g.paths }
        ∧ g.stream q.toNat = { new with fetched := [], since := s.nextId } ∧ ∀ j, j < 8 → j ≠ q.toNat → g.stream j = others j)
    (ScalarReady x (Accept.scalar true false) [a.toNat] →
      sets (.qsetBase q a) { old with q0 := x.g.sreg a.toNat, pos := 0 } x.g.stream
      ∧ sets (.qposWr q a) { old with pos := min (dfield (x.g.sreg a.toNat) 47 0) (old.ic * old.oc) } x.g.stream)
    ∧ (ScalarReady x (Accept.scalar true true) (a.toNat :: skRegs k b) →
      let q1 := x.g.sreg a.toNat
      let q2 := x.g.sk k b
      let size := 2 ^ dfield q1 60 59
      let bad : Prop := dfield q1 63 62 = 3 ∨ dfield q1 58 48 ≠ 0 ∨ dfield q1 23 0 = 0 ∨ dfield q1 47 24 = 0 ∨ dfield q2 31 0 % size ≠ 0
        ∨ dfield q2 63 32 % size ≠ 0
      (¬bad → sets (.qsetShape q a b k) { old with q1 := q1, q2 := q2, pos := 0 } x.g.stream)
      ∧ (bad → ∃ f, f.code = 0x15 ∧ FaultsWith (exec (.qsetShape q a b k) s) x f))
    ∧ (ScalarReady x (Accept.scalar false false) [] →
      (v.toNat < x.g.vcur → sets (.qbind q v f) { old with bind := some (f.toNat, v.toNat) }
        (fun j => if (x.g.stream j).bind = some (f.toNat, v.toNat) then { x.g.stream j with bind := none } else x.g.stream j))
      ∧ (x.g.vcur ≤ v.toNat → ∃ e, e.code = 0x13 ∧ FaultsWith (exec (.qbind q v f) s) x e)
      ∧ sets (.qbindOff q) { old with bind := none } x.g.stream)
    ∧ (ScalarReady x (Accept.scalar false false) [d.toNat] →
      Completes (exec (.qposRd d q) s) x (fun t g => Aside s t x.g.gid
        ∧ SLeaves x d.toNat (dw (old.pos + if old.ic * old.oc ≠ 0 ∧ old.pos = old.ic * old.oc then 2 ^ 63 else 0), 0) g))

/-! ### Engines -/

/-- R133, R241, R243, R244, R246, R249-R251, R323: a word that issues a request completes with its request in the copy request slot and its
ticket empty, or takes the request's fault; it waits for room in the slot and for the group's earlier accesses. -/
def Obligations.EngineRequests : Prop :=
  ∀ (t r k : BitVec 6), r.toNat ≤ 60 →
    let issues (i : Instr) (k : Option (BitVec 6)) (opcode fn reads : Nat) (check : State → Ix → EngReq → Option FaultInfo) : Prop :=
      ∀ s x, Issues s x → ScalarReady x {} (engReads r k reads ++ [t.toNat]) →
        let q := x.engReq t r k opcode fn reads
        (s.copyRoom x.g.gid = false → Waits (exec i s) x .copySlot)
        ∧ (s.copyRoom x.g.gid = true → (s.outstanding x.g x.path.id = true ∨ x.g.polling ≠ none) → Waits (exec i s) x (.order true))
        ∧ (s.copyRoom x.g.gid = true → s.outstanding x.g x.path.id = false → x.g.polling = none →
          (∀ f, check s x q = some f → FaultsWith (exec i s) x f)
          ∧ (check s x q = none → Completes (exec i s) x (fun u g => Aside s u x.g.gid
              ∧ (∃ e, u.xfers = s.xfers ++ [e] ∧ e.gid = x.g.gid ∧ e.vf = x.g.vf ∧ e.st = .queued ∧ e.bytes = 0 ∧ e.req.opcode = opcode
                  ∧ e.req.fn = fn ∧ e.req.tkt = t.toNat ∧ e.req.r0 = x.g.sreg r.toNat ∧ e.req.r1 = x.g.sreg (r.toNat + 1)
                  ∧ (reads = 4 → e.req.r2 = x.g.sreg (r.toNat + 2) ∧ e.req.r3 = x.g.sreg (r.toNat + 3))
                  ∧ ∀ j, k = some j → e.req.task = x.g.sreg j.toNat)
              ∧ g = { x.g with sEmpty := g.sEmpty, sTicket := g.sTicket, paths := g.paths } ∧ g.sEmptyAt t.toNat = true
              ∧ ∀ j, j < 64 → j ≠ t.toNat → g.sEmptyAt j = x.g.sEmptyAt j)))
    issues (.cpy t r k) (some k) 0x68 0 4 copyCheck ∧ issues (.cpym t r k) (some k) 0x69 0 4 multicastCheck
    ∧ issues (.halo t r k) (some k) 0x6A 0 4 haloCheck ∧ issues (.haloAllm t r k) (some k) 0x6A 1 4 haloCheck
    ∧ issues (.kick t r) none 0x6B 0 2 kickCheck ∧ issues (.mighHot t r) none 0x6C 0 4 hintCheck
    ∧ issues (.mighCold t r) none 0x6C 1 4 hintCheck ∧ issues (.mighClr t r) none 0x6C 2 4 hintCheck
    ∧ issues (.rtsend t r) none 0x6D 0 4 routeCheck

/-- R98, R117, R134, R137, R241-R243, R245, R250-R252: the steps of the engines. A request is taken in issue order; a hint is recorded, a
copy into weight space while other groups are on the die ends weight-busy. A line's bytes land as they were read; a fault stops the request,
a miss parks it. A whole request fills its ticket with its bytes and counts its record down by them; a KICK starts the next entry of its
list, and ends with the entries completed and their bytes. -/
def Obligations.EngineSteps : Prop :=
  ∀ (s : State) (id : Nat) (t : Xfer), s.manage.poweredDown = false → s.runs t.vf = true → t.id = id →
    let find (u : State) (i : Nat) : Option Xfer := u.xfers.find? (fun e => e.id == i)
    let ticket (u : State) (v : Dword) : Prop :=
      ∀ g, s.group t.gid = some g → ∃ h, u.group t.gid = some h ∧ h.sreg t.req.tkt = v ∧ (t.req.tkt < 64 → h.sEmptyAt t.req.tkt = false)
    let st (code entry bytes cause : Nat) : Dword := dw (code * 2 ^ 60 + cause * 2 ^ 54 + entry * 2 ^ 32 + bytes % 2 ^ 32)
    let clear (fn : Nat) : Nat := match fn with | 0 => 1 | 1 => 2 | _ => 0
    (s.nextQueued t.gid = some t → find s id = some t → s.myTurn t = true →
      (t.req.opcode = 0x6C → ∃ u n, exec (.engineRequestAccept t.gid) s = .next u ∧ find u id = none ∧ ticket u (st 0 0 n 0)
          ∧ ∀ p, fget 0 (u.ctx t.vf).hints p =
              if t.req.r0.toNat / 4096 ≤ p ∧ p < t.req.r0.toNat / 4096 + t.req.r1.toNat / 4096 ∧ s.hintable t.vf (p * 4096) = true
              then clear t.req.fn else fget 0 (s.ctx t.vf).hints p)
      ∧ ((t.req.opcode = 0x68 ∨ t.req.opcode = 0x69) → t.req.dsp = 2 → s.weightBusy t = true →
          ∃ u, exec (.engineRequestAccept t.gid) s = .next u ∧ find u id = none ∧ ticket u (st 1 0 0 0))
      ∧ (t.req.opcode ≠ 0x6C → (t.req.dsp ≠ 2 ∨ s.weightBusy t = false) →
          ∃ u, exec (.engineRequestAccept t.gid) s = .next u ∧ find u id = some { t with st := .running }))
    ∧ (find s id = some t → t.st = .running → t.req.opcode ≠ 0x6B → t.req.opcode ≠ 0x6E → t.bytes < t.req.total t.e → s.landOwed t = none →
      let p := t.req.piece t.bytes
      (∀ u k, s.landPiece t = .done u → find u id = some k → k.st = .running → ∃ w, exec (.engineLineLand id) s = .next w
          ∧ find w id = some { k with bytes := k.bytes + p.len } ∧ w.hbm = u.hbm ∧ w.host = u.host ∧ w.weights = u.weights
          ∧ w.blocks = u.blocks)
      ∧ (∀ u f b o, s.landPiece t = .done u → s.readRuns t p (t.runs p) ⟨[], t.inbuf, []⟩ = .ok f → t.req.opcode = 0x68 → t.req.op = 0 → t.req.dsp = 1 →
          scrTarget t.share p.dst = some (b, o) → t.share.access p.dst 1 = .at_ (.scr b o) → s.block b ≠ none →
          u.readLoc (.scr b o) f.bytes.length = numOf f.bytes)
      ∧ (∀ code cause a, t.kick = none → s.landPiece t = .fault code cause a → ∃ w k f, exec (.engineLineLand id) s = .next w
          ∧ find w id = some k ∧ k.st = .faulted f ∧ f.code = code ∧ f.cause = cause ∧ f.daddr = a ∧ f.faddr = t.req.addr
          ∧ (w.ctx t.vf).st ≠ .live ∧ ticket w (st 2 0 t.bytes code))
      ∧ ∀ d a w, s.landPiece t = .miss d a w → ∃ u k tok, exec (.engineLineLand id) s = .next u ∧ find u id = some k ∧ k.st = .parked tok
          ∧ ∃ e ∈ (u.ctx t.vf).parks, e.token = tok ∧ e.work = .xfer id)
    ∧ (find s id = some t → t.st = .running → t.req.opcode ≠ 0x6B → t.req.opcode ≠ 0x6E → t.kick = none → t.whole = true →
        ∃ u, exec (.engineRequestComplete id) s = .next u ∧ find u id = none ∧ ticket u (st 0 0 t.bytes 0)
          ∧ ∀ r, t.req.opcode ≠ 0x69 → t.bytes ≠ 0 → recordAt t.share t.vf t.req.task = .ok (some r) →
              ∃ n ∈ u.updates, n.target = r ∧ n.d = -(t.bytes : Int))
    ∧ (∀ k l, find s id = some t → t.st = .running → t.req.opcode = 0x68 → t.kick = some k → t.whole = true → k ≠ id → find s k = some l →
        ∃ u, exec (.engineRequestComplete id) s = .next u ∧ find u id = none
          ∧ find u k = some { l with completed := l.completed + 1, totalBytes := l.totalBytes + t.bytes })
    ∧ (find s id = some t → t.st = .running → t.req.opcode = 0x6B →
      (s.kickOver t = true → t.bad = none → ∃ u, exec (.engineRequestComplete id) s = .next u ∧ find u id = none
          ∧ ticket u (st 0 t.completed t.totalBytes 0))
      ∧ (∀ i f, s.kickOver t = true → t.bad = some (i, f) → ∃ u, exec (.engineRequestComplete id) s = .next u
          ∧ find u id = some { t with st := .faulted f } ∧ ticket u (st 2 i t.totalBytes f.code) ∧ (u.ctx t.vf).st ≠ .live)
      ∧ ∀ b o, t.bad = none → t.started < t.req.r1.toNat → (s.kickEntries id).length < 8 → s.nextId ≠ id → find s s.nextId = none →
          scrTarget t.share (dfield t.req.r0 31 0 + 32 * t.started) = some (b, o) → s.shareReady b = true → s.lineHeld (.scr b o) = false →
          let q := s.entryReq t (.scr b o)
          (∀ f, s.entryFault t q = some f → ∃ u k g, exec (.kickEntryStart id) s = .next u ∧ find u id = some k ∧ k.bad = some (t.started, g)
              ∧ g.code = f.code ∧ g.faddr = t.req.addr)
          ∧ (s.entryFault t q = none → (q.dsp ≠ 2 ∨ s.weightBusy { t with req := q } = false) → ∃ u k e, exec (.kickEntryStart id) s = .next u
              ∧ find u id = some k ∧ k.started = t.started + 1 ∧ find u s.nextId = some e ∧ e.kick = some id ∧ e.entry = t.started
              ∧ e.req = q ∧ e.st = .running ∧ e.bytes = 0))

/-- R239: the elements that a stream's next consumer needs are read at their homes and arrive. -/
def Obligations.StreamArrival : Prop :=
  ∀ (s : State) (g : Group) (q : Nat), s.manage.poweredDown = false → s.group g.gid = some g → q < 8 → g.e ≤ 8 →
    let k := g.stream q
    s.streamOpen g k = true →
    let here (n : Nat × Nat × Nat) (l : Loc) : Prop := (∃ va, s.elemAccess g k n.2.1 n.2.2 = (va, .at_ l)) ∧ (∀ d a, l ≠ .peer d a)
      ∧ s.lineHeld l = false ∧ s.seenAt g l k.esize = false ∧ (∀ b o, l = .scr b o → s.shareReady b = true)
      ∧ (∀ d a, l = .weight d a → a / 4096 % 64 ≠ (s.die d).window % 64)
    (∃ n ∈ s.nextElems g q, ∃ l, here n l) →
    ∃ t h, exec (.streamElementArrival g.gid q) s = .next t ∧ t.group g.gid = some h
      ∧ h = { g with q := h.q, paths := h.paths } ∧ (∀ j, j ≠ q → h.stream j = g.stream j)
      ∧ (∀ n ∈ s.nextElems g q, ∀ l, here n l → fget 0 (h.stream q).fetched n.1 = dw (s.readLoc l k.esize))
      ∧ ∀ p ∈ h.paths, p.wait.isStream q = false

/-! ### Tasks -/

/-- R47, R281, R282, R288: one update of a task record at its home. Out of the signed 64-bit range, or of a record that is not well formed,
it fails and changes nothing; otherwise the counter moves by d, exactly the armed actions whose threshold the counter crosses fire and are
disarmed, the others keep their meaning, and WAIT becomes 0 when a make-ready action fires. -/
def Obligations.TaskUpdates : Prop :=
  ∀ (s : State) (vf : Nat) (r : RecLoc) (l : Loc) (d : Int) (join : Option Gid) (tag : Dword), Kept64 s l →
    let t := s.taskRec l
    let inside : Prop := -(2 ^ 63 : Int) ≤ t.counter + d ∧ t.counter + d < 2 ^ 63
    (¬inside → ∃ c, s.updateAt vf r l d join tag = .fail c ∧ c = 1)
    ∧ (inside → t.ok r.isScr = false → ∃ c, s.updateAt vf r l d join tag = .fail c ∧ c = 6)
    ∧ (inside → t.ok r.isScr = true → ∃ u ready, s.updateAt vf r l d join tag = .ok u t.counter ready
        ∧ (ready = true ↔ ∃ i, i < 4 ∧ FiresSlot t d i ∧ actKind (t.act.getD i 0) = 0)
        ∧ (u.taskRec l).counter = t.counter + d ∧ (u.taskRec l).thr = t.thr
        ∧ (ready = true → (u.taskRec l).wait = 0) ∧ (ready = false → join = none → (u.taskRec l).wait = t.wait)
        ∧ ∀ i, i < 4 →
            let a := t.act.getD i 0
            let b := (u.taskRec l).act.getD i 0
            (FiresSlot t d i → actArm b = false)
            ∧ (¬FiresSlot t d i → actArm b = actArm a ∧ actKind b = actKind a ∧ actVal b = actVal a ∧ actSp b = actSp a
                ∧ actAddr b = actAddr a))

/-- R138, R279, R283: the TARM forms complete: TARM arms the lowest free slot, `.clr` disarms all, `.init` also sets the counter; a bad
action, no free slot, waiting groups, a malformed record (first of these, log entry 102), or a record in a peer page raise task-record and
change nothing. -/
def Obligations.Arming : Prop :=
  ∀ (a b : BitVec 6) (k : BitVec 1) (s : State) (x : Ix) (r : RecLoc) (l : Loc), Issues s x → Kept64 s l →
    let t := s.taskRec l
    let clear : List Nat := t.act.map (fun w => if actArm w then w - 2 ^ 61 else w)
    let leaves (i : Instr) (new : TaskRec) : Prop := Completes (exec i s) x (fun u g => u.taskRec l = new
      ∧ g = { x.g with paths := g.paths } ∧ ∀ h, h ≠ x.g.gid → u.group h = s.group h)
    let faults (i : Instr) (c : Nat) : Prop := ∃ f, f.code = 0x21 ∧ f.cause = c ∧ FaultsWith (exec i s) x f
    let w := (x.g.sreg b.toNat).toNat
    let thr := toSigned 64 (x.g.sreg (b.toNat + 1)).toNat
    (t.ok r.isScr = false → (b.toNat % 2 = 0 → RecReady s x true a [b.toNat, b.toNat + 1] r l → faults (.tarm a b) 6)
      ∧ (RecReady s x false a [] r l → faults (.tarmClr a) 6) ∧ (RecReady s x true a (skRegs k b) r l → faults (.tarmInit a b k) 6))
    ∧ (t.ok r.isScr = true → b.toNat % 2 = 0 → RecReady s x true a [b.toNat, b.toNat + 1] r l →
      let good : Prop := -(2 ^ 31 : Int) ≤ thr ∧ thr < 2 ^ 31 ∧ actArm w = false ∧ actOrd w = 0 ∧ actOk r.isScr w = true
      (¬good → faults (.tarm a b) 3)
      ∧ (good → (∀ i, i < 4 → actArm (t.act.getD i 0) = true) → faults (.tarm a b) 2)
      ∧ (∀ i, good → i < 4 → actArm (t.act.getD i 0) = false → (∀ j, j < i → actArm (t.act.getD j 0) = true) →
          leaves (.tarm a b) { t with thr := t.thr.set i thr, act := t.act.set i (w + 2 ^ 61 + t.act.countP actArm * 2 ^ 59) }))
    ∧ (t.ok r.isScr = true → RecReady s x false a [] r l → leaves (.tarmClr a) { t with act := clear })
    ∧ (t.ok r.isScr = true → RecReady s x true a (skRegs k b) r l →
      (t.wait / 2 ^ 40 % 2 ^ 19 ≠ 0 → faults (.tarmInit a b k) 5)
      ∧ (t.wait / 2 ^ 40 % 2 ^ 19 = 0 → leaves (.tarmInit a b k) { t with counter := (x.g.sk k b).toInt, act := clear }))

/-- R48, R138, R279, R284, R285, R288: TADD and ARRIVE complete with their update performed at its home: TADD.r writes the counter before it;
a TADD after outstanding accesses waits for them (the model's reading, log entry 31); ARRIVE parks its group unless its own update makes it ready.
An update that cannot apply is a task-record fault. ARRIVE before the end of its clause is an illegal instruction. -/
def Obligations.Arrivals : Prop :=
  ∀ (a b d : BitVec 6) (k : BitVec 1) (s : State) (x : Ix) (r : RecLoc) (l : Loc), Issues s x →
    let v := (x.g.sk k b).toInt
    let memory (u t : State) : Prop := t.hbm = u.hbm ∧ t.host = u.host ∧ t.blocks = u.blocks ∧ t.weights = u.weights ∧ t.updates = u.updates
      ∧ ∀ vf, (t.ctx vf).spawnq = (u.ctx vf).spawnq
    let faults (i : Instr) (e : UpdRes) : Prop := ∀ c, e = .fail c → ∃ f, f.code = 0x21 ∧ f.cause = c ∧ FaultsWith (exec i s) x f
    (RecReady s x true a (skRegs k b) r l →
      let e := s.update x.g.vf r v none x.g.tag
      (∀ u old ready, e = .ok u old ready → Completes (exec (.tadd a b k) s) x (fun t g => memory u t ∧ g.s = x.g.s ∧ g.v = x.g.v ∧ g.m = x.g.m))
      ∧ faults (.tadd a b k) e)
    ∧ (ScalarReady x (Accept.scalar true true) (a.toNat :: skRegs k b) → s.outstanding x.g x.path.id = true →
        Waits (exec (.tadd a b k) s) x (.order false))
    ∧ (RecReady s x true a (skRegs k b ++ [d.toNat]) r l →
      let e := s.update x.g.vf r v none x.g.tag
      (∀ u old ready, e = .ok u old ready → Completes (exec (.taddR d a b k) s) x (fun t g => memory u t
        ∧ g.sreg d.toNat = BitVec.ofInt 64 old ∧ (∀ j, j ≠ d.toNat → g.sreg j = x.g.sreg j) ∧ g.v = x.g.v ∧ g.m = x.g.m))
      ∧ faults (.taddR d a b k) e)
    ∧ ∀ (i : Instr) (n : Int) (regs : List Nat) (hasB : Bool),
        (i = .arrive a ∧ n = -1 ∧ regs = [] ∧ hasB = false) ∨ (i = .arriveWait a ∧ n = 0 ∧ regs = [] ∧ hasB = false)
          ∨ (i = .arriveAdd a b k ∧ n = v ∧ regs = skRegs k b ∧ hasB = true) →
        RecReady s x hasB a regs r l →
        let e := s.update x.g.vf r n (some x.g.gid) x.g.tag
        (x.next < x.cl.words.length → ∃ f, f.code = 0x11 ∧ FaultsWith (exec i s) x f)
        ∧ (x.cl.words.length ≤ x.next → faults i e
            ∧ ∀ u old ready, e = .ok u old ready → Completes (exec i s) x (fun t g => memory u t ∧ g.s = x.g.s ∧ g.v = x.g.v ∧ g.m = x.g.m
                ∧ (ready = true → g.park = .none) ∧ (ready = false → g.park = .arrive)))

/-- R138, R286, R287: POLL completes with its load on its way, its register empty and the group's later accesses held until it returns;
TSPAWN puts the record at the end of the function's spawn queue, waits while the queue is full, and faults on a bad address; a held spawn
action enters when there is room. -/
def Obligations.PollAndSpawn : Prop :=
  (∀ (d a b : BitVec 6) (k : BitVec 1) (s : State) (x : Ix), Issues s x → ScalarReady x (Accept.scalar true true) (a.toNat :: skRegs k b ++ [d.toNat]) →
    x.g.polling = none →
    (∀ (r : RecLoc) (l : Loc), pointerAt (s.share x.g) x.g.vf 8 (x.g.sreg a.toNat) = .ok r →
      (match r with | .scr c o => l = .scr c o | .glob vf va => s.access vf va false 8 = .at_ l | .phys _ => False) → (∀ e p, l ≠ .peer e p) →
      Completes (exec (.poll d a b k) s) x (fun t g =>
        g = { x.g with sEmpty := g.sEmpty, sTicket := g.sTicket, polling := some d.toNat, paths := g.paths } ∧ g.sEmptyAt d.toNat = true
        ∧ (∀ h, h ≠ x.g.gid → t.group h = s.group h)
        ∧ (InFlight t x.g.gid .load l 8 (fun e => e.dest = .poll d.toNat (x.g.sk k b))
          ∨ ∃ f ∈ t.fills, f.gid = x.g.gid ∧ ∃ v, f.items = [.poll d.toNat (dw v) (x.g.sk k b)])))
    ∧ (∀ f, pointerAt (s.share x.g) x.g.vf 8 (x.g.sreg a.toNat) = .error f → FaultsWith (exec (.poll d a b k) s) x f))
  ∧ (∀ (a : BitVec 6) (s : State) (x : Ix), Issues s x → ScalarReady x (Accept.scalar true false) [a.toNat] →
    let v := (x.g.sreg a.toNat).toNat
    (v = 0 ∨ 2 ^ 52 ≤ v → ∃ f, f.code = 0x01 ∧ f.daddr = v ∧ FaultsWith (exec (.tspawn a) s) x f)
    ∧ (v % 64 ≠ 0 → v < 2 ^ 52 → ∃ f, f.code = 0x02 ∧ f.daddr = v ∧ FaultsWith (exec (.tspawn a) s) x f)
    ∧ (v ≠ 0 → v % 64 = 0 → v < 2 ^ 52 →
      (64 ≤ (s.ctx x.g.vf).spawnq.length → Waits (exec (.tspawn a) s) x .spawn)
      ∧ ((s.ctx x.g.vf).spawnq.length < 64 → Completes (exec (.tspawn a) s) x (fun t g => Aside s t x.g.gid ∧ g = { x.g with paths := g.paths }
          ∧ (t.ctx x.g.vf).spawnq = (s.ctx x.g.vf).spawnq ++ [v] ∧ ∀ w, w ≠ x.g.vf → t.ctx w = s.ctx w))))
  ∧ ∀ (vf n : Nat) (ns : List Nat) (s : State), s.manage.poweredDown = false → (s.ctx vf).heldSpawns = n :: ns → (s.ctx vf).spawnq.length < 64 →
    ∃ t, exec (.spawnQueueEntry vf) s = .next t ∧ (t.ctx vf).spawnq = (s.ctx vf).spawnq ++ [n] ∧ (t.ctx vf).heldSpawns = ns

/-! ### Capsules, the register pool, SYS -/

/-- R146, R290, R292-R295, R298: the CAP words complete at the record's home. capenter acquires a free record, adopts a stalled one, or
answers busy; capstep and capexit commit the step while the lock still shows it, or leave the capsule displaced; capexit writes the result
and frees the lock; capres gives a displaced holder its result. Their faults change nothing. A byte of the committed step may stand in a page-table entry whose ACC and
DIRTY the part sets (R104). -/
def Obligations.Capsules : Prop :=
  ∀ (d a : BitVec 6) (s : State) (x : Ix) (p : Nat), IssuesAny s x → ScalarReady x (Accept.scalar true false) [a.toNat, d.toNat] →
    x.g.capEmpty = 0 → s.outstanding x.g x.path.id = false → x.g.polling = none →
    let va := (x.g.sreg a.toNat).toNat
    let l : Loc := .hbm p
    va ≠ 0 → va < 2 ^ 52 → va % 256 = 0 → s.access x.g.vf va true 8 = .at_ l →
    let was := s.touch x.g.vf va true l
    let at64 (t : State) (o : Nat) : Nat := t.readLoc (.hbm (p + o)) 8
    let lock := at64 was 0
    let mk (owner st step seq : Nat) : Nat := owner * 2 ^ 24 + st * 2 ^ 20 + step * 2 ^ 12 + seq
    let faults (i : Instr) (code cause : Nat) : Prop := ∃ f, f.code = code ∧ f.cause = cause ∧ f.daddr = va ∧ FaultsWith (exec i s) x f
    let others (g : Group) : Prop := g.v = x.g.v ∧ g.m = x.g.m ∧ g.x = x.g.x ∧ ∀ r, r < 48 → r ≠ d.toNat → g.sreg r = x.g.sreg r
    let writes (g : Group) (v : Dword) : Prop := g.sreg d.toNat = v
    let home : Prop := ∃ e q, s.leafOf x.g.vf va = some (e, q) ∧ dbit e 7 = true
    let sound : Prop := s.capBad l = false ∧ s.lineHeld l = false ∧ s.storeHeld x.g.vf va 256 = false
      ∧ (∀ e ∈ x.g.cap.buffer, s.lineHeld (.hbm e.1) = false) ∧ (∀ e ∈ x.g.cap.vas, s.storeHeld x.g.vf e.2 1 = false)
      ∧ ClearOfStops s p 256
    let inside : Prop := x.inCapsule = true ∧ x.g.cap.record = va
    let stands : Prop := lock % 4096 = x.g.cap.seq ∧ lock / 2 ^ 12 % 256 = x.g.cap.stage ∧ lock / 2 ^ 20 % 16 ≠ 0
      ∧ lock / 2 ^ 24 % 2 ^ 40 = x.g.cap.holder.toNat
    let buffered (t : State) : Prop := s.replay = none → (x.g.cap.buffer.map (fun e => e.1)).Nodup → ∀ e ∈ x.g.cap.buffer,
      (e.1 < p ∨ p + 256 ≤ e.1) → ClearOfStops s e.1 1 → fget emptyByte t.hbm e.1 = e.2 ∨ fget emptyByte t.hbm e.1 = e.2 ||| 3
    let ckpt (t : State) (resume : Nat) : Prop := (∀ i, i < 15 → at64 t (16 + 8 * i) = (x.g.sreg (48 + i)).toNat) ∧ at64 t 136 = resume
    let displaced (i : Instr) : Prop := Completes (exec i s) x (fun t g => others g ∧ writes g 1 ∧ g.cap.inMode = false ∧ g.cap.buffer = []
      ∧ (x.g.cap.role = 1 → g.cap.role = 3 ∧ g.cap.record = va ∧ g.cap.seq = x.g.cap.seq) ∧ (x.g.cap.role ≠ 1 → g.cap = CapState.none)
      ∧ t.host = s.host ∧ t.blocks = s.blocks)
    (¬home → faults (.capenter d a) 0x23 0)
    ∧ (home → (x.inCapsule = true ∨ x.g.cap.role = 3) → faults (.capenter d a) 0x22 3)
    ∧ (home → x.inCapsule = false → faults (.capstep d a) 0x22 4 ∧ faults (.capexit d a) 0x22 4)
    ∧ (home → x.inCapsule = true → x.g.cap.record ≠ va → faults (.capstep d a) 0x22 3 ∧ faults (.capexit d a) 0x22 3)
    ∧ (home → inside → 15 ≤ x.g.cap.stage → faults (.capstep d a) 0x22 4)
    ∧ (home → x.inCapsule = false → x.g.cap.role ≠ 3 → s.capBad l = true → faults (.capenter d a) 0x22 1)
    ∧ (home → sound → x.inCapsule = false → x.g.cap.role ≠ 3 →
      (lock / 2 ^ 20 % 16 = 0 → Completes (exec (.capenter d a) s) x (fun t g => others g ∧ (d.toNat ≠ 63 → g.sreg 63 = dw (at64 was 8)) ∧ writes g 0
          ∧ at64 t 0 = mk x.g.gid.toNat 1 0 (lock % 4096) ∧ ckpt t (at64 was 8)
          ∧ g.cap.inMode = true ∧ g.cap.record = va ∧ g.cap.role = 1 ∧ g.cap.stage = 0 ∧ g.cap.seq = lock % 4096 ∧ g.cap.path = x.path.id))
      ∧ (lock / 2 ^ 20 % 16 = 2 → Completes (exec (.capenter d a) s) x (fun t g => others g ∧ writes g 2
          ∧ (∀ i, i < 16 → 48 + i ≠ d.toNat → (g.sreg (48 + i)).toNat = at64 was (16 + 8 * i))
          ∧ at64 t 0 = lock + 2 ^ 20 ∧ at64 t 208 = min (at64 was 208 / 2 ^ 40 + 1) (2 ^ 24 - 1) * 2 ^ 40 + x.g.gid.toNat
          ∧ g.cap.inMode = true ∧ g.cap.record = va ∧ g.cap.role = 2 ∧ g.cap.stage = lock / 2 ^ 12 % 256 ∧ g.cap.seq = lock % 4096))
      ∧ ((lock / 2 ^ 20 % 16 = 1 ∨ lock / 2 ^ 20 % 16 = 3) → Completes (exec (.capenter d a) s) x (fun t g =>
          others g ∧ writes g 1 ∧ g.cap = x.g.cap ∧ at64 t 0 = lock)))
    ∧ (home → sound → inside → x.g.cap.stage < 15 → x.g.cap.seq < 4096 →
      (stands → Completes (exec (.capstep d a) s) x (fun t g => others g ∧ writes g 0 ∧ buffered t ∧ ckpt t (x.cl.after % 2 ^ 64)
          ∧ at64 t 0 = mk (lock / 2 ^ 24 % 2 ^ 40) (if x.g.cap.role = 1 then 1 else 3) (x.g.cap.stage + 1) (lock % 4096)
          ∧ g.cap.stage = x.g.cap.stage + 1 ∧ g.cap.inMode = true ∧ g.cap.buffer = [] ∧ g.cap.resume = x.cl.after))
      ∧ (¬stands → displaced (.capstep d a)))
    ∧ (home → sound → inside → x.g.cap.seq < 4096 →
      (stands → Completes (exec (.capexit d a) s) x (fun t g => others g ∧ writes g 0 ∧ buffered t
          ∧ at64 t 0 = (lock % 4096 + 1) % 4096 ∧ (∀ i, i < 8 → at64 t (144 + 8 * i) = (x.g.sreg (48 + i)).toNat) ∧ g.cap = CapState.none
          ∧ (x.g.cap.role = 2 → ∀ h H, h = BitVec.ofNat 40 (lock / 2 ^ 24 % 2 ^ 40) → h ≠ x.g.gid → s.group h = some H → H.cap.record = va →
              H.cap.seq = x.g.cap.seq → (H.cap.role = 1 ∨ H.cap.role = 3) → ∃ K, t.group h = some K ∧ K.cap.delivered = true
                ∧ K.cap.result = (List.range 8).map (fun i => x.g.sreg (48 + i)))))
      ∧ (¬stands → displaced (.capexit d a)))
    ∧ (home → sound → x.inCapsule = false →
      (x.g.cap.role ≠ 3 → Completes (exec (.capres d a) s) x (fun _ g => others g ∧ writes g 1 ∧ g.cap = x.g.cap))
      ∧ (x.g.cap.role = 3 → x.g.cap.record = va → x.g.cap.delivered = true → x.g.cap.result.length = 8 →
          Completes (exec (.capres d a) s) x (fun _ g => others g ∧ writes g 0 ∧ g.cap = CapState.none
            ∧ ∀ i, i < 8 → 48 + i ≠ d.toNat → g.sreg (48 + i) = x.g.cap.result.getD i 0))
      ∧ (x.g.cap.role = 3 → x.g.cap.record = va → x.g.cap.delivered = false → ∃ t g q, exec (.capres d a) s = .next t
          ∧ t.group x.g.gid = some g ∧ g.path? x.path.id = some q ∧ q.wait = .capres))

/-- R35, R299, R304: REGREL completes and returns its rows, its other registers kept; REGCLM completes when no claim is parked and the pool
meets it, with new registers zero and full; else its group parks as the youngest claim, and the partition faults when all wait and none can
be met. -/
def Obligations.RegisterPool : Prop :=
  ∀ (n : BitVec 8) (s : State) (x : Ix), Issues s x → ScalarReady x {} [] → n ≠ 0 →
    let range (i : Instr) : Prop := ∃ f, f.code = 0x13 ∧ FaultsWith (exec i s) x f
    (x.g.vcur < n.toNat + 8 → range (.regrel n))
    ∧ (128 < x.g.vcur + n.toNat → range (.regclm n))
    ∧ (n.toNat + 8 ≤ x.g.vcur → (∀ c ∈ (s.part x.p).claims, c.1 ≠ x.g.gid) →
      (∀ r, x.g.vcur - n.toNat ≤ r → r < x.g.vcur → fget 0 x.g.vEmpty r = 0 ∧ fget 0 x.g.shEmpty r &&& fget 0 x.g.shLive r = 0) →
      Completes (exec (.regrel n) s) x (fun _ g => g.vcur = x.g.vcur - n.toNat ∧ (∀ r p, r < g.vcur → g.v1 r p = x.g.v1 r p)
        ∧ (∀ r p, r < g.vcur → g.sh1 r p = x.g.sh1 r p) ∧ g.s = x.g.s ∧ g.m = x.g.m ∧ g.x = x.g.x))
    ∧ (x.g.vcur + n.toNat ≤ 128 → (s.part x.p).claims = [] → s.poolMeets x.g n.toNat = true →
      Completes (exec (.regclm n) s) x (fun t g => Kept s t x.g.gid ∧ g.vcur = x.g.vcur + n.toNat
        ∧ (∀ r p, (x.g.vcur ≤ r → r < g.vcur → g.v1 r p = 0 ∧ g.vEmptyAt r p = false ∧ g.sh1 r p = 0)
            ∧ (r < x.g.vcur → g.v1 r p = x.g.v1 r p ∧ g.vEmptyAt r p = x.g.vEmptyAt r p))
        ∧ g.s = x.g.s ∧ g.m = x.g.m ∧ g.x = x.g.x))
    ∧ (x.g.vcur + n.toNat ≤ 128 → ((s.part x.p).claims ≠ [] ∨ s.poolMeets x.g n.toNat = false) →
      let meets (c : Gid × Nat × Nat) : Prop := ∃ g, s.group c.1 = some g ∧ s.poolMeets g c.2.2 = true
      let claims := (s.part x.p).claims ++ [(x.g.gid, x.path.id, n.toNat)]
      (∀ c, claims.head? = some c → ¬meets c) →
      ((∃ g ∈ s.groups, g.part = x.p ∧ g.gid ≠ x.g.gid ∧ ∀ n q a w f, g.park ≠ .regclm n q a w f) → ∃ t g, exec (.regclm n) s = .next t
          ∧ t.group x.g.gid = some g ∧ (∃ a w f, g.park = .regclm n.toNat x.path.id a w f) ∧ (t.part x.p).claims = claims ∧ g.vcur = x.g.vcur ∧ g.v = x.g.v)
      ∧ ((∀ g ∈ s.groups, g.part = x.p → g.gid = x.g.gid ∨ ∃ n q a w f, g.park = .regclm n q a w f) → (∀ c ∈ claims, ¬meets c) →
          ∃ f, f.code = 0x18 ∧ FaultsWith (exec (.regclm n) s) x f))

/-- R169, R289, R301, R346, R348: SYS trap, brk and halt, and a word that is no instruction, take their fault: the group keeps the code and
cause and stops, its context begins to halt, and after trap, brk and halt it goes on at the clause after. SYS evsig completes: its entry is
written to the event ring, or waits for the group's earlier accesses. -/
def Obligations.SystemWords : Prop :=
  ∀ (a : BitVec 6) (i : BitVec 8) (w : Word) (s : State) (x : Ix), Issues s x →
    let traps (e : Instr) (code cause : Nat) : Prop :=
      ∃ t g q f, exec e s = .next t ∧ t.group x.g.gid = some g ∧ g.fault = some f ∧ f.code = code ∧ f.cause = cause ∧ f.faddr = x.addr
        ∧ g.stopped = true ∧ (t.ctx x.g.vf).st ≠ .live ∧ g.path? x.path.id = some q ∧ q.pc = x.cl.base + 4 * (x.cl.hdr.n + 1) ∧ q.fetched = none
    (ScalarReady x {} [] → traps (.sysTrap i) 0x30 i.toNat ∧ traps (.sysBrk i) 0x31 i.toNat ∧ traps .sysHalt 0x32 0)
    ∧ (∃ f, f.code = 0x11 ∧ FaultsWith (exec (.illegalInstruction w) s) x f)
    ∧ (ScalarReady x (Accept.scalar true false) [a.toNat] →
      let v := x.g.sreg a.toNat
      (s.outstanding x.g x.path.id = false →
        let k := s.ring x.g.vf 3
        Completes (exec (.sysEvsig a i) s) x (fun t g => g = { x.g with paths := g.paths } ∧ t.hbm = s.hbm ∧ t.blocks = s.blocks
          ∧ (k.room = true → (t.ring x.g.vf 3).pi = k.pi + 1 ∧ readBytes t.host (k.entryAt 3 k.pi.toNat) 8 = i.toNat * 2 ^ 52
              ∧ readBytes t.host (k.entryAt 3 k.pi.toNat + 8) 8 = v.toNat)
          ∧ (k.room = false → k.en = true → t.host = s.host ∧ (t.ring x.g.vf 3).pi = k.pi
              ∧ (t.ring x.g.vf 3).ovf = if k.ovf = BitVec.allOnes 32 then k.ovf else k.ovf + 1)))
      ∧ (s.outstanding x.g x.path.id = true → Completes (exec (.sysEvsig a i) s) x (fun t g => Aside s t x.g.gid
          ∧ g = { x.g with paths := g.paths } ∧ ∃ u, t.updates = s.updates ++ [u] ∧ u.src = .evsig x.g.gid i.toNat ∧ u.d = v.toInt
            ∧ u.after = s.earlierIds x.g x.path.id)))

/-! ### Matrix words -/

/-- R169, R255, R257, R259, R262, R264, R265, R268, R269: MMA, MMAG and ACLR complete with their operation, operands read, last in the
slice's queue; they take the fault of their first failed check, and wait for registers, for room in the queue, and for their operands. -/
def Obligations.MatrixIssue : Prop :=
  ∀ (t n : BitVec 4) (k : BitVec 6) (a b : BitVec 7) (u : BitVec 1) (s : State) (x : Ix), Issues s x →
    let room : Prop := (s.part x.p).queue.length < 4
    let queued (y : State) (g : Group) (latch : Option Latch) (q : List MatOp) : Prop := Aside s y x.g.gid
      ∧ g = { x.g with latch := latch, paths := g.paths } ∧ (y.part x.p).queue = (s.part x.p).queue ++ q ∧ (y.part x.p).busy = (s.part x.p).busy
    let issues (i : Instr) (m : MmaOp) : Prop :=
      (∀ f, m.early x = some (.inl f) → FaultsWith (exec i s) x f)
      ∧ (∀ w, m.early x = some (.inr w) → Waits (exec i s) x w)
      ∧ (m.early x = none → x.act ≠ 0 → ∀ f, m.rows s x = .error f → FaultsWith (exec i s) x f)
      ∧ (∀ r, m.early x = none → (if x.act = 0 then r = ⟨[], [], []⟩ else m.rows s x = .ok r) →
        (¬room → Waits (exec i s) x .slice)
        ∧ (room → (r.locs = [] ∨ x.g.polling = none) → ∀ w, s.operandWait x.g x.path.id r.locs = some w → Waits (exec i s) x w)
        ∧ (room → (r.locs = [] ∨ x.g.polling = none) → s.operandWait x.g x.path.id r.locs = none → Completes (exec i s) x (fun y g =>
            queued y g (m.latchAfter s x r) (if x.act = 0 ∧ x.off = 0 then [] else [m.op s x r]))))
      ∧ ∀ r, (m.op s x r).gid = x.g.gid ∧ (m.op s x r).atb = m.t ∧ (m.op s x r).act = x.act ∧ (m.op s x r).zeroed = x.off
          ∧ (m.op s x r).fbo = x.g.kreg m.k
          ∧ (fboAk (m.fbo x.g) = 0 → ∀ p w, p < x.g.n → has x.act p = true → w < m.an x.g →
              fget 0 (m.op s x r).a p / 2 ^ (32 * w) % 2 ^ 32 = (x.g.v1 (m.a + w) p).toNat)
    issues (.mma t k a b u) (mmaOp false t k a b u)
    ∧ issues (.mmag t k a b u) (mmaOp true t k a b u)
    ∧ (({ mask := true } : Accept).ok x.hasPre x.pre = true →
      (x.g.atiles < t.toNat + (n.toNat + 1) → ∃ f, f.code = 0x13 ∧ FaultsWith (exec (.aclr t n) s) x f)
      ∧ (t.toNat + (n.toNat + 1) ≤ x.g.atiles → ¬room → Waits (exec (.aclr t n) s) x .slice)
      ∧ (t.toNat + (n.toNat + 1) ≤ x.g.atiles → room → Completes (exec (.aclr t n) s) x (fun y g =>
          queued y g none (if x.act = 0 then [] else [aclrOp x t n]))))

/-- R85, R166, R255, R270-R273, R275, R276: the readouts complete. ARD empties its destinations and sends them each column's value, rounded
once, or its short image; ARDS puts its rows into a readout entry; RQCVT writes a row's codes and scale. Tiles stay as they are. -/
def Obligations.MatrixReadout : Prop :=
  ∀ (t : BitVec 4) (k : BitVec 6) (d a : BitVec 7) (tg f : BitVec 3) (j : BitVec 2) (s : State) (x : Ix), Issues s x →
    let hi := t.toNat + setTiles x.g.w
    let early (i : Instr) (e : Option (FaultInfo ⊕ Wait)) : Prop :=
      (∀ f, e = some (.inl f) → FaultsWith (exec i s) x f) ∧ (∀ w, e = some (.inr w) → Waits (exec i s) x w)
      ∧ (e = none → s.sliceRoom x.p = false → Waits (exec i s) x .slice)
      ∧ (e = none → s.sliceRoom x.p = true → s.tilesFree x.g t.toNat hi = false → Waits (exec i s) x (.tiles t.toNat hi))
    let n := ardRegs tg.toNat
    let e1 := ardEarly x t.toNat k.toNat d.toNat tg.toNat
    let e2 := s.ardsEarly x t.toNat k.toNat d.toNat a.toNat
    let rq := rqOp d a j f
    early (.ard t k d tg) e1
    ∧ (∀ sc, e1 = none → s.sliceRoom x.p = true → s.tilesFree x.g t.toNat hi = true → s.readScales x (x.g.kreg k.toNat) = .ok sc →
        Completes (exec (.ard t k d tg) s) x (fun y g =>
          (∃ v e sh se sl so fl ps, g = { x.g with v := v, vEmpty := e, sh := sh, shEmpty := se, shLive := sl, shOwner := so, fstat := fl, latch := none, paths := ps })
          ∧ (∀ i p, i < n → p < x.g.n → (has x.act p = true → g.vEmptyAt (d.toNat + i) p = true) ∧ (has x.off p = true → g.v1 (d.toNat + i) p = 0))
          ∧ (∀ q p, p < x.g.n → (q < d.toNat ∨ d.toNat + n ≤ q) → g.v1 q p = x.g.v1 q p ∧ g.vEmptyAt q p = x.g.vEmptyAt q p)
          ∧ (x.act &&& lowMask x.g.n ≠ 0 → ∃ w ∈ y.fills, w.gid = x.g.gid
              ∧ ∀ p, p < x.g.n → has x.act p = true → ∀ it ∈ x.ardItems t.toNat tg.toNat d.toNat sc p, it ∈ w.items)
          ∧ (∀ p c, p < x.g.n → has x.act p = true → c < 8 →
              g.flags (x.g.member p) &&& (x.ardOne t.toNat tg.toNat sc p c).2 = (x.ardOne t.toNat tg.toNat sc p c).2)
          ∧ Aside s y x.g.gid))
    ∧ (tg = 0 → ∀ sc p c, c < 8 → FillItem.v false (d.toNat + c) p (BitVec.ofNat 32 (x.ardOne t.toNat 0 sc p c).1) ∈ x.ardItems t.toNat 0 d.toNat sc p)
    ∧ early (.ards t k d a) e2
    ∧ (e2 = none → s.sliceRoom x.p = true → s.tilesFree x.g t.toNat hi = true → s.readoutRoom x.p = false →
        Waits (exec (.ards t k d a) s) x .readout)
    ∧ (e2 = none → s.sliceRoom x.p = true → s.tilesFree x.g t.toNat hi = true → s.readoutRoom x.p = true →
        (s.outstanding x.g x.path.id = true ∨ x.g.polling ≠ none) → Waits (exec (.ards t k d a) s) x (.order true))
    ∧ (∀ sc, e2 = none → s.sliceRoom x.p = true → s.tilesFree x.g t.toNat hi = true → s.readoutRoom x.p = true →
        s.outstanding x.g x.path.id = false → x.g.polling = none → s.readScales x (x.g.kreg k.toNat) = .ok sc →
        Completes (exec (.ards t k d a) s) x (fun y g =>
          g = { x.g with fstat := g.fstat, latch := none, paths := g.paths }
          ∧ (x.ardsRows t.toNat d.toNat a.toNat sc = [] → y.readouts = s.readouts)
          ∧ (x.ardsRows t.toNat d.toNat a.toNat sc ≠ [] → ∃ r, y.readouts = s.readouts ++ [r] ∧ r.gid = x.g.gid ∧ r.part = x.p
              ∧ r.scratch = dbit (x.g.sreg d.toNat) 63 ∧ r.rows = x.ardsRows t.toNat d.toNat a.toNat sc ∧ r.parked = none ∧ r.pinned = none ∧ r.line = x.g.lineage x.path.id)
          ∧ Aside s y x.g.gid))
    ∧ (VecReady s x rq → s.sliceRoom x.p = false → Waits (exec (.rqcvt d a j f) s) x .slice)
    ∧ (VecReady s x rq → s.sliceRoom x.p = true →
        let row (p : Nat) : List Nat := (List.range (16 * 2 ^ j.toNat)).map (fun i => (opVals s x rq).at' i p)
        let nc := 16 * 2 ^ j.toNat * rqBits f.toNat / 32
        Completes (exec (.rqcvt d a j f) s) x (fun y g => Kept (Read s x rq) y x.g.gid
          ∧ (∃ v e sh se sl so fl q ps, g = { x.g with v := v, vEmpty := e, sh := sh, shEmpty := se, shLive := sl, shOwner := so, fstat := fl, q := q, latch := none, paths := ps })
          ∧ (∀ i p, i ≤ nc → p < x.g.n → (has x.act p = true →
                (g.v1 (d.toNat + i) p).toNat = (rqRow f.toNat x.mode (row p)).1 / 2 ^ (32 * i) % 2 ^ 32)
              ∧ (has x.act p = false → has x.off p = true → g.v1 (d.toNat + i) p = 0))
          ∧ (∀ q p, p < x.g.n → (q < d.toNat ∨ d.toNat + nc < q) → g.v1 q p = x.g.v1 q p)
          ∧ (∀ e, g.flags e = x.g.flags e ||| flagsOf x (fun p => rqRow f.toNat x.mode (row p)) e (positions x.g.n x.act))))

/-- R68, R69: within a K-block of at most 64 codes, the three channel sums are reconstructed by the rule's formula, and the value is the exact
dot product. -/
def Obligations.ResidueDot : Prop :=
  ∀ ab : List (Int × Int), ab.length ≤ 64 → (∀ e ∈ ab, -127 ≤ e.1 ∧ e.1 ≤ 127 ∧ -127 ≤ e.2 ∧ e.2 ≤ 127) →
    let dot := (ab.map (fun e => e.1 * e.2)).sum
    let p := (dot % 127 * 1056768 + dot % 128 * 2080641 + dot % 129 * 1056640) % 2097024
    rqDot ab = (if 1048512 ≤ p then p - 2097024 else p) ∧ rqDot ab = dot

/-- R255, R263, R265-R267, R269, R273, R274, R363: the slice takes its oldest operation and, when it completes, each accumulator of an
active position has received exactly its terms, those of cleared positions and cleared tiles are reset, every other is as it was, and
nothing else of the group changes but flags; on XA-overflow nothing changes. A hung slice loses its tiles. A readout entry's next row is
written, parks, or is pinned. -/
def Obligations.MatrixSteps : Prop :=
  ∀ (s : State) (p : Nat), s.manage.poweredDown = false →
    let k := s.part p
    (∀ o os, k.queue = o :: os → k.busy = none → s.runs o.vf = true →
      ∃ t, exec (.matrixOperation p) s = .next t ∧ (t.part p).queue = os ∧ (t.part p).busy = some o ∧ t.hbm = s.hbm ∧ t.blocks = s.blocks)
    ∧ (∀ o g, k.busy = some o → s.runs o.vf = true → o.fault = none → s.group o.gid = some g →
      (∀ f, o.perform g = .error f → f.code = 0x17 ∧ ∃ t h, exec (.matrixOperationComplete p) s = .next t ∧ t.group o.gid = some h
          ∧ h.tiles = g.tiles ∧ h.fstat = g.fstat ∧ h.slots = g.slots ∧ (t.ctx o.vf).st ≠ .live)
      ∧ (∀ H, o.perform g = .ok H → ∃ t h, exec (.matrixOperationComplete p) s = .next t ∧ t.group o.gid = some h
          ∧ (t.part p).busy = none ∧ h.tiles = H.tiles ∧ h.slots = H.slots ∧ h.fstat = H.fstat))
    ∧ (∀ (o : MatOp) (g H : Group), (g.w = 16 ∨ g.w = 32 ∨ g.w = 64) → g.e ≤ 8 → o.perform g = .ok H →
      H = { g with tiles := H.tiles, slots := H.slots, fstat := H.fstat }
      ∧ (o.kind = .mma ∨ o.kind = .mmag → ∀ q c, q < g.n → c < 8 →
        (has o.zeroed q = true → H.tile (g.accKey o.atb q c) = Xa.reset)
        ∧ (has o.zeroed q = false → has o.act q = true → ∃ sl sl' w,
            addTerms g.xext sl (if dbit o.fbo 16 then Xa.reset else g.tile (g.accKey o.atb q c)) (o.terms g q c).1
              = .ok (H.tile (g.accKey o.atb q c), sl', w))
        ∧ (has o.zeroed q = false → has o.act q = false → H.tile (g.accKey o.atb q c) = g.tile (g.accKey o.atb q c)))
      ∧ (∀ m tile e r c, o.kind = .aclr m → e < 8 → r < 8 → c < 8 → H.tile (tileKey tile e r c)
          = if o.atb ≤ tile ∧ tile < o.atb + m ∧ e ∈ g.members o.act then Xa.reset else g.tile (tileKey tile e r c)))
    ∧ (p < 4096 → ∃ t, exec (.sliceHang p) s = .next t ∧ (t.part p).queue = [] ∧ (t.part p).busy = none
        ∧ ∀ g ∈ s.resident p, s.liveTiles g = true → ∃ h f, t.group g.gid = some h ∧ h.tiles = [] ∧ h.fault = some f
            ∧ (g.fault = none → s.group g.gid = some g → (s.resident p).filter (fun k => k.gid == g.gid) = [g] → f.code = 0x40) ∧ (t.ctx g.vf).st ≠ .live)
    ∧ ∀ (r : Readout) (w : RoRow) (ws : List RoRow), s.readouts.find? (fun q => q.id == r.id) = some r → r.rows = w :: ws →
      s.drives r.vf = true → r.parked = none → r.pinned = none → r.reqs = [] →
      let left (t : State) : Prop := (ws = [] → ∀ q ∈ t.readouts, q.id ≠ r.id)
        ∧ (ws ≠ [] → ∃ q ∈ t.readouts, q.id = r.id ∧ q.rows = ws)
      (∀ b o, r.scratch = true → scrTarget r.share w.addr = some (b, o) → s.shareReady b = true →
          (∀ l ∈ s.rowDests r w, s.lineHeldBefore r.id l = false) → s.block b ≠ none → ∃ t, exec (.readoutEntryWrite r.id) s = .next t ∧ t.readLoc (.scr b o) w.bytes.length = numOf w.bytes ∧ left t)
      ∧ (∀ va a, r.scratch = false → s.rowRuns r w = .ok [(va, .hbm a, w.bytes)] → s.lineHeldBefore r.id (.hbm a) = false →
          s.storeHeld r.vf va w.bytes.length = false → ∃ t, exec (.readoutEntryWrite r.id) s = .next t
            ∧ readBytes t.hbm a w.bytes.length = numOf w.bytes ∧ left t)
      ∧ (∀ va m, r.scratch = false → s.rowRuns r w = .error (va, .miss m) → ∃ t q tok, exec (.readoutEntryWrite r.id) s = .next t
          ∧ q ∈ t.readouts ∧ q.id = r.id ∧ q.rows = r.rows ∧ q.parked = some tok ∧ t.hbm = s.hbm)
      ∧ (∀ va c u, r.scratch = false → s.rowRuns r w = .error (va, .fault c u) → ∃ t q f, exec (.readoutEntryWrite r.id) s = .next t
          ∧ q ∈ t.readouts ∧ q.id = r.id ∧ q.rows = r.rows ∧ q.pinned = some f ∧ f.code = c ∧ f.cause = u ∧ f.daddr = va
          ∧ f.pos = some (w.lane, w.member) ∧ (t.ctx r.vf).st ≠ .live)

/-! ### Route words and steps -/

/-- R243, R321, R328: the RTRECV forms complete at the entry of their expert with their result on its way to the ticket: `.fill` CAP and
FILL, `.next` the next allocated slot's address, `.land` LAND; `.reset` clears the counts once LAND equals FILL, and waits for that
otherwise. On a miss the request is left to go on alone, its ticket empty (the model's reading, log entries 33
and 34). No receive table, or no such expert, raises copy-request. -/
def Obligations.RouteReceive : Prop :=
  ∀ (t r : BitVec 6) (s : State) (x : Ix), Issues s x → r.toNat ≤ 60 → ScalarReady x {} [r.toNat, t.toNat] →
    s.outstanding x.g x.path.id = false → x.g.polling = none →
    let e := (x.g.sreg r.toNat).toNat
    let va := s.rtEntry x.g.vf e
    let forms : List Instr := [.rtrecvFill t r, .rtrecvNext t r, .rtrecvLand t r, .rtrecvReset t r]
    ((1023 < e ∨ dfield (s.ctx x.g.vf).rxtab 51 0 = 0) → ∀ i ∈ forms, ∃ f, f.code = 0x08 ∧ FaultsWith (exec i s) x f)
    ∧ (e ≤ 1023 → dfield (s.ctx x.g.vf).rxtab 51 0 ≠ 0 →
      let empties (g : Group) : Prop := g = { x.g with sEmpty := g.sEmpty, sTicket := g.sTicket, paths := g.paths } ∧ g.sEmptyAt t.toNat = true
      let sends (y : State) (v : Nat) : Prop := ∃ f ∈ y.fills, f.gid = x.g.gid ∧ f.items = [.s t.toNat (dw v)]
      (∀ d, s.access x.g.vf va false 32 = .miss d → ∀ i ∈ forms, Completes (exec i s) x (fun y g => empties g
        ∧ ∃ q ∈ y.xfers, q.gid = x.g.gid ∧ q.req.opcode = 0x6E ∧ q.req.tkt = t.toNat ∧ q.st = .running))
      ∧ (∀ l, s.access x.g.vf va false 32 = .at_ l → (∀ d p, l ≠ .peer d p) → s.lineHeld l = false →
        let was := s.touch x.g.vf va false l
        let x1 := dw (was.readLoc (l.add 8) 8)
        Completes (exec (.rtrecvFill t r) s) x (fun y g => empties g ∧ sends y (dfield x1 63 48 * 2 ^ 48 + dfield x1 31 0))
        ∧ Completes (exec (.rtrecvLand t r) s) x (fun y g => empties g ∧ sends y (was.readLoc (l.add 24) 4)))
      ∧ (∀ p, s.accessBoth x.g.vf va 32 = .at_ (.hbm p) → s.lineHeld (.hbm p) = false → s.storeHeld x.g.vf va 32 = false →
        let was := s.touch x.g.vf va true (.hbm p)
        let word (y : State) (o n : Nat) : Nat := readBytes y.hbm (p + o) n
        let fill := word was 8 4
        let take := word was 28 4
        let slot := word was 12 4 % 2 ^ 12
        (take < fill → Completes (exec (.rtrecvNext t r) s) x (fun y g => empties g ∧ word y 28 4 = (take + 1) % 2 ^ 32
            ∧ sends y (word was 0 8 % 2 ^ 52 + 16 * slot * take)))
        ∧ (fill ≤ take → Completes (exec (.rtrecvNext t r) s) x (fun y g => empties g ∧ word y 28 4 = take ∧ sends y 0))
        ∧ (word was 24 4 = fill → Completes (exec (.rtrecvReset t r) s) x (fun y g => empties g ∧ word y 8 4 = 0 ∧ word y 24 4 = 0
            ∧ word y 28 4 = 0 ∧ sends y fill))
        ∧ (word was 24 4 ≠ fill → Completes (exec (.rtrecvReset t r) s) x (fun y g => empties g ∧ y.hbm = s.hbm
            ∧ ∃ q ∈ y.xfers, q.gid = x.g.gid ∧ q.req.opcode = 0x6E ∧ q.req.tkt = t.toNat ∧ q.req.r0 = x.g.sreg r.toNat))))

/-- R243, R323, R325, R326, R331, R332: the steps of route tokens. The engine takes a request while it holds fewer than 256 tokens; a first
packet is refused with the first cause that holds, or accepted into the slot FILL; a token's bytes land from offset 32, then its header with
the slot as ARRIVAL; then LAND counts it and its reply goes, or, with the entry's page gone, a refusal. A reply settles the token, starts its second choice or drops it. -/
def Obligations.RouteSteps : Prop :=
  ∀ (s : State), s.manage.poweredDown = false →
    let ticket (u : State) (gid : Gid) (r : Nat) (v : Dword) : Prop := ∀ g, s.group gid = some g → ∃ h, u.group gid = some h ∧ h.sreg r = v
    (∀ die q, s.xfers.find? (fun t => t.req.opcode == 0x6D && t.st == .queued && dieOfCore t.core == die && s.runs t.vf && s.myTurn t
        && decide ((s.tokens.filter (fun u => u.die == die)).length < 256)) = some q → ∃ t, exec (.routeTokenAccept die) s = .next t
        ∧ (∀ u ∈ t.xfers, u.id ≠ q.id)
        ∧ ((∃ k, t.token q.id = some k ∧ k.req = q.req ∧ k.choice = 1 ∧ k.gid = q.gid) ∨ (t.ctx q.vf).st ≠ .live))
    ∧ (∀ p vf a, s.domainVf (field (numOf ((p.payload.drop 8).take 8)) 63 56) = some vf → dfield (s.ctx vf).rxtab 51 0 ≠ 0 →
        let h0 := dw (numOf (p.payload.take 8))
        let va := s.rtEntry vf (dfield h0 43 34)
        s.accessBoth vf va 32 = .at_ (.hbm a) →
        let word (y : State) (o n : Nat) : Nat := readBytes y.hbm (a + o) n
        let len := 16 * dfield h0 11 0
        let en := (word s 0 8).testBit 63
        let slot := 16 * (word s 12 4 % 2 ^ 12)
        let fill := word s 8 4
        let cap := word s 14 2
        (en = false → s.decideToken p = s.refuseFirst p 2)
        ∧ (en = true → slot < 32 + len → s.decideToken p = s.refuseFirst p 3)
        ∧ (en = true → 32 + len ≤ slot → cap ≤ fill → s.decideToken p = s.refuseFirst p 1)
        ∧ (en = true → 32 + len ≤ slot → fill < cap → word (s.decideToken p) 8 4 = fill + 1 ∧ ∃ k, (s.decideToken p).landings = s.landings ++ [k]
            ∧ k.vf = vf ∧ k.slot = fill ∧ k.addr = word s 0 8 % 2 ^ 52 + slot * fill ∧ k.expert = dfield h0 43 34 ∧ k.need = len
            ∧ k.bytes = (p.payload.drop 32).take len ∧ k.headerDone = false ∧ k.landed = false))
    ∧ (∀ p t, s.takeArrived p = some t → pktKind p = 8 → pktVc p = vcOf 8 →
        (t.isNew p = false → exec (.routeToken p) s = .next t.wake)
        ∧ (t.isNew p = true → 32 ≤ p.payload.length → s.tokenFree p = true → (t.acceptSeq p).laterOf p = none →
            exec (.routeToken p) s = .next ((t.acceptSeq p).spend.decideToken p).wake)
        ∧ (∀ k, t.isNew p = true → (t.acceptSeq p).laterOf p = some k → ∃ u l, exec (.routeToken p) s = .next u
            ∧ u.landings.find? (fun j => j.id == k.id) = some l ∧ l.bytes = (k.bytes ++ p.payload).take k.need))
    ∧ (∀ k, s.landings.find? (fun j => j.id == k.id) = some k → k.lost = none → k.parked = none → k.need ≤ k.bytes.length →
        (k.headerDone = false → ∀ a b va vb, s.spanRuns k.vf (k.addr + 32) k.bytes = .ok [(va, .hbm a, k.bytes)] →
          let head := (k.header.take 3 ++ [dw k.slot]).flatMap (fun w => bytesOf 8 w.toNat)
          s.spanRuns k.vf k.addr head = .ok [(vb, .hbm b, head)] →
          s.lineHeld (.hbm a) = false → s.lineHeld (.hbm b) = false → s.storeHeld k.vf va k.bytes.length = false →
          s.storeHeld k.vf vb head.length = false →
          let one := s.writeSpan k.vf [(va, .hbm a, k.bytes)]
          readBytes one.hbm a k.bytes.length = numOf k.bytes
          ∧ ∃ t j, exec (.routeTokenHeaderWrite k.id) s = .next t ∧ t.hbm = (one.writeSpan k.vf [(vb, .hbm b, head)]).hbm
            ∧ readBytes t.hbm b head.length = numOf head ∧ t.landings.find? (fun j => j.id == k.id) = some j ∧ j.headerDone = true)
        ∧ (k.headerDone = true → k.landed = false → ∀ a, s.accessBoth k.vf (s.rtEntry k.vf k.expert) 32 = .at_ (.hbm a) →
            s.entryFree k.vf (s.rtEntry k.vf k.expert) = true → readBytes s.hbm (a + 16) 8 = 0 → (∀ q ∈ s.xfers, q.req.opcode ≠ 0x6E) → ∃ t, exec (.routeTokenLand k.id) s = .next t
              ∧ readBytes t.hbm (a + 24) 4 = (readBytes s.hbm (a + 24) 4 + 1) % 2 ^ 32 ∧ ∀ j ∈ t.landings, j.id ≠ k.id)
        ∧ (k.headerDone = true → k.landed = false → ∀ d, s.accessBoth k.vf (s.rtEntry k.vf k.expert) 32 = .miss d →
            exec (.routeTokenLand k.id) s = .next (s.refuseLanding k).wake))
    ∧ ∀ p t r k, s.takeArrived p = some t → pktKind p = 9 → pktVc p = vcOf 9 → t.requestOf p = some r → r.body = .token k.id true →
        (t.answered r.id).token k.id = some k → k.bytes ≠ none →
        let word := numOf (p.payload.take 8)
        (word % 2 = 1 → (k.bytes.getD []).length ≤ 224 → ∃ u, exec (.routeReply p) s = .next u ∧ u.token k.id = none
            ∧ ticket u k.gid k.req.tkt (dw (k.req.rLen % 2 ^ 32)))
        ∧ (word % 2 = 0 → k.choice = 1 → k.req.rAltv = true → ∃ u l, exec (.routeReply p) s = .next u ∧ u.token k.id = some l
            ∧ l.choice = 2 ∧ l.causes = k.causes ++ [word / 2 ^ 8 % 2 ^ 8] ∧ l.req = k.req)
        ∧ (∀ base a, word % 2 = 0 → (k.choice ≠ 1 ∨ k.req.rAltv = false) → base = dfield (s.ctx k.vf).dlbase 51 0 →
            (t.answered r.id).access k.vf base true 8 = .at_ (.hbm a) → dfield (s.ctx k.vf).dlcap 15 0 ≤ readBytes s.hbm a 8 →
            k.dropCount = none → s.lineHeld (.hbm a) = false → s.storeHeld k.vf base 8 = false →
            (∀ u ∈ s.tokens, u.id ≠ k.id → u.gid ≠ k.gid ∨ u.req.tkt ≠ k.req.tkt) →
            ∃ u, exec (.routeReply p) s = .next u ∧ u.token k.id = none ∧ ticket u k.gid k.req.tkt 0)

/-! ### Memory at its homes -/

/-- R132, R230: the value an atomic leaves in memory, for the integer types: sums wrap, the lesser and greater are taken as the type, the
bitwise operations and the exchange act on the bits, a compare-and-swap stores on equal bits; the positions act one after another, and each
receives the value before its own. -/
def Obligations.AtomicResults : Prop :=
  ∀ (type old x c : Nat), type < 4 →
    let n := atomBits type
    let val (v : Nat) : Int := if type = 0 ∨ type = 2 then toSigned n v else ((v % 2 ^ n : Nat) : Int)
    atomApply 0 type old x c = (old + x) % 2 ^ n
    ∧ val (atomApply 1 type old x c) = min (val old) (val x)
    ∧ val (atomApply 2 type old x c) = max (val old) (val x)
    ∧ (∀ k, k < n → (atomApply 3 type old x c).testBit k = (old.testBit k && x.testBit k)
        ∧ (atomApply 4 type old x c).testBit k = (old.testBit k || x.testBit k)
        ∧ (atomApply 5 type old x c).testBit k = (old.testBit k ^^ x.testBit k))
    ∧ atomApply 6 type old x c = x % 2 ^ n
    ∧ atomApply 7 type old x c = (if old % 2 ^ n = c % 2 ^ n then x % 2 ^ n else old % 2 ^ n)
    ∧ ∀ op (a b : PosOp), atomRun op type [a, b] old
        = (atomApply op type (atomApply op type old a.x.toNat a.c.toNat) b.x.toNat b.c.toNat,
           [old % 2 ^ n, atomApply op type old a.x.toNat a.c.toNat % 2 ^ n])

/-- R92, R94, R97, R112-R115, R118, R120, R124, R125, R131, R135: accesses at their performing points and the refreshes. A store is written into
its core's L1 and, the next time, into memory, where it awaits the acknowledgement (two steps: log entry 98); an atomic's value replaces the old
one; a load returns the valid bytes of the L1, or the bytes of memory where no word of the L1 is valid; each waits for what R124 keeps before it
and for lines that an engine holds. A weight window ends and the next bank begins; an HBM refresh changes nothing; a layer wakes, or is gated
after its dirty lines are written back. -/
def Obligations.HomeSteps : Prop :=
  ∀ (s : State), s.manage.poweredDown = false →
    (∀ a p, s.flight.find? (fun f => f.id == a.id) = some a → a.loc = .hbm p →
      let step := exec (.globalAccessAtHome a.id) s
      (s.homeReady a = false → step = .fault .notDue)
      ∧ (s.homeReady a = true → ∃ t, step = .next t ∧ ((a.kind = .store → a.l1 ≠ none) → ∀ f ∈ t.flight, f.id ≠ a.id)
        ∧ (a.kind = .store → a.l1 = none → t.flight.find? (fun f => f.id == a.id) = some { a with l1 := some s.nextId }
            ∧ t.hbm = s.hbm ∧ t.unacked = s.unacked
            ∧ ((a.size = 4 ∨ a.size = 8) → p % a.size = 0 → ∃ k, (t.core a.core).line false (p / 128) = some k
                ∧ k.hits p a.size = true ∧ k.read p a.size = a.value))
        ∧ (a.kind = .store → a.l1 ≠ none → readBytes t.hbm p a.size = a.value ∧ a ∈ t.unacked
            ∧ (s.replay = none → ∀ q, q < p ∨ p + a.size ≤ q → fget emptyByte t.hbm q = fget emptyByte s.hbm q))
        ∧ (∀ op ty ret, a.kind = .atomic op ty ret → a.size = typeSize ty →
            readBytes t.hbm p a.size = (atomRun op ty a.ops (readBytes s.hbm p a.size)).1 % 256 ^ a.size
            ∧ (ret = false → a ∈ t.unacked)
            ∧ (ret = true → ∃ f ∈ t.fills, f.gid = a.gid
                ∧ f.items = atomItems a.dest a.ops a.size (atomRun op ty a.ops (readBytes s.hbm p a.size)).2))
        ∧ (a.kind = .load → t.hbm = s.hbm
            ∧ (a.const = false → (a.size = 1 ∨ a.size = 2 ∨ a.size = 4 ∨ a.size = 8) → p % a.size = 0 →
              (∀ k, (s.core a.core).line false (p / 128) = some k → wordMask p a.size &&& k.valid = 0) →
              ∃ f ∈ t.fills, f.gid = a.gid ∧ f.items = a.dest.items a.ops a.size (readBytes s.hbm p a.size))
            ∧ (∀ k, a.const = false → (s.core a.core).line false (p / 128) = some k → k.hits p a.size = true →
              ∃ f ∈ t.fills, f.gid = a.gid ∧ f.items = a.dest.items a.ops a.size (k.read p a.size))
            ∧ (a.const = true → (s.core a.core).cc.find? (fun e => e.1 == constKey a.vf a.va) = none →
              ∃ f ∈ t.fills, f.gid = a.gid ∧ f.items = a.dest.items a.ops a.size (readBytes s.hbm p a.size)))))
    ∧ (∀ a b o, s.flight.find? (fun f => f.id == a.id) = some a → a.loc = .scr b o → s.block b ≠ none →
      let step := exec (.scratchpadRemoteAccess a.id) s
      ((s.shareReady b = false ∨ s.lineHeld a.loc = true ∨ s.blocked a = true) → step = .fault .notDue)
      ∧ (s.shareReady b = true → s.lineHeld a.loc = false → s.blocked a = false → ∃ t, step = .next t ∧ (∀ f ∈ t.flight, f.id ≠ a.id)
        ∧ t.hbm = s.hbm ∧ (∀ c, c ≠ b → t.block c = s.block c)
        ∧ (a.kind = .store → t.readLoc a.loc a.size = a.value)
        ∧ (a.kind = .load → t.blocks = s.blocks ∧ ∃ f ∈ t.fills, f.gid = a.gid ∧ f.items = a.dest.items a.ops a.size (s.readLoc a.loc a.size))
        ∧ (∀ op ty, a.kind = .atomic op ty true → a.size = typeSize ty →
            t.readLoc a.loc a.size = (atomRun op ty a.ops (s.readLoc a.loc a.size)).1 % 256 ^ a.size
            ∧ ∃ f ∈ t.fills, f.gid = a.gid ∧ f.items = atomItems a.dest a.ops a.size (atomRun op ty a.ops (s.readLoc a.loc a.size)).2)))
    ∧ (∀ die, s.dieOn die = true → ∃ t, exec (.weightRefreshWindow die) s = .next t ∧ (t.die die).window = ((s.die die).window + 1) % 64
        ∧ (t.die die).hot = (if ((s.die die).window + 1) % 64 = 0 then (s.die die).hotNext else (s.die die).hot)
        ∧ (t.die die).phase = 0 ∧ (t.die die).cycles = (s.die die).cycles + (s.die die).windowCycles ∧ t.weights = s.weights
        ∧ ∀ a w, a ∈ s.flight → a.loc = .weight die w → w / 4096 % 64 ≠ ((s.die die).window + 1) % 64 → (∀ f ∈ t.flight, f.id ≠ a.id)
            ∧ ∃ f ∈ t.fills, f.gid = a.gid ∧ f.items = a.dest.items a.ops a.size (readBytes s.weights (weightKey die w) a.size))
    ∧ (∀ st la, st < 24 → la < 16 → s.dieOn (st / 6) = true → exec (.hbmRefresh st la) s = .next s.wake)
    ∧ ∀ k, ((s.layer k = 1 ∨ s.layer k = 2) → ∃ t, exec (.layerWake k) s = .next t ∧ t.layer k = 0 ∧ t.hbm = s.hbm ∧ t.dirty = s.dirty)
        ∧ ∀ m : BitVec 2, k < 16 → s.dieOn (k / 4) = true → s.layer k ≤ 2 → (m = 1 ∨ m = 2) → ∃ t, exec (.layerGate k m) s = .next t
            ∧ t.layer k = m.toNat ∧ (∀ d ∈ t.dirty, d.layer ≠ k) ∧ (∀ d ∈ s.dirty, d.layer ≠ k → d ∈ t.dirty) ∧ t.hbm = s.hbm

/-! ### Legs -/

/-- R36, R37, R39, R153, R221, R279: the steps of arbitration. A ready slot that no other ready slot outranks wins, its partner stands at the
same header with disjoint positions, and the partner of a dissolved pair comes first; ageing raises a slot; the waits of headers, of YIELD and
of home replies end when their conditions hold. -/
def Obligations.LegSteps : Prop :=
  ∀ (s : State) (p : Nat), s.manage.poweredDown = false →
    let now := (s.core (p / 4)).cycles
    ((s.part p).run = none → (s.part p).next = none →
      (s.readySlots p = [] → exec (.legIssue p) s = .fault .notDue)
      ∧ (s.readySlots p ≠ [] → ∃ t a r, exec (.legIssue p) s = .next t ∧ a ∈ s.readySlots p
          ∧ (∀ e ∈ s.readySlots p, lexLt (slotRank now e) (slotRank now a) = false)
          ∧ (t.part p).run = some r ∧ r.gid = a.1.gid ∧ r.path = a.2.id ∧ r.turn = false
          ∧ ∀ q, r.partner = some q → ∃ b ∈ s.readySlots p, q = (b.1.gid, b.2.id) ∧ b.1.gid ≠ a.1.gid ∧ b.1.launch = a.1.launch
              ∧ b.2.pc = a.2.pc ∧ ∀ l ∈ a.1.slotPhys a.2, l ∉ b.1.slotPhys b.2))
    ∧ (∀ q, (s.part p).run = none → s.nextRunner p = some q → ∃ t r, exec (.legIssue p) s = .next t ∧ (t.part p).run = some r
        ∧ r.gid = q.1 ∧ r.path = q.2 ∧ r.partner = none ∧ (t.part p).next = none)
    ∧ ∀ g (path : Path), s.group g.gid = some g → g.path? path.id = some path →
      let after (o : Host.Outcome State Fault Refusal) (P : Path → Prop) : Prop := ∃ t h q, o = .next t ∧ t.group g.gid = some h
        ∧ h = { g with paths := h.paths } ∧ h.path? path.id = some q ∧ q.pc = path.pc ∧ q.widx = path.widx ∧ P q
      (s.slotReady g path = true → path.aged = false → g.backoff ≠ 0 → 4 * g.backoff ≤ path.passed →
        after (exec (.backOffAgeing g.gid path.id) s) (fun q => q.level g = 0 ∧ q.aged = true))
      ∧ (s.slotReady g path = true → path.classAged = false → path.readyAt + 65536 ≤ (s.core (coreOf g.part)).cycles →
        after (exec (.classAgeing g.gid path.id) s) (fun q => ∀ n, q.cls g n = 0))
      ∧ (∀ c, path.wait = .clause → path.fetched = some c → s.headerReady g path.id c.hdr = true →
        after (exec (.clauseWaitRelease g.gid path.id) s) (fun q => q.wait = .none))
      ∧ (∀ os since, path.wait = .yield os since → (os = [] ∨ since + 64 ≤ (s.core (coreOf g.part)).cycles) →
        after (exec (.yieldRelease g.gid path.id) s) (fun q => q.wait = .none ∧ q.lastLeg = since ∧ q.readyAt = since))
      ∧ (path.wait = .reply → (∀ r ∈ s.reqs ++ s.waitReqs, ∀ p d a v, r.body = .task g.gid p d a v → p ≠ path.id) →
        after (exec (.homeReply g.gid path.id) s) (fun q => q.wait = .none))

/-- R38, R112, R116, R149, R151-R154, R156, R166, R169, R291: a clause is fetched whole from memory: a legal one is opened at its first word, or waits for
what its header selects; a clause that breaks the clause rules, one that cannot be fetched, and one outside a capsule's code fault; a
missing page parks the group. Each word of code lies in an aligned 8-byte word as it is in memory, or as it was before a write performed since
the launch was accepted; none from before the launch is left. Values arrive in the registers they were read for, and no others change. A home
acknowledges a store. -/
def Obligations.FetchAndFill : Prop :=
  (∀ (s : State) (p : Nat) (g : Group) (t : Path), s.manage.poweredDown = false → s.fetcher p = some (g, t) →
    let faulted (code cause : Nat) : Prop := ∃ u h f, exec (.clauseFetch p) s = .next u ∧ u.group g.gid = some h ∧ h.fault = some f
      ∧ f.code = code ∧ f.cause = cause ∧ h.stopped = true ∧ (u.ctx g.vf).st ≠ .live
    (g.outsideCapsule t 1 = true → faulted 0x22 4)
    ∧ (∀ c k va, g.outsideCapsule t 1 = false → s.clauseAt g t = .fault c k va → faulted c k)
    ∧ (∀ d va, g.outsideCapsule t 1 = false → s.clauseAt g t = .miss d va → ∃ u h, exec (.clauseFetch p) s = .next u ∧ u.group g.gid = some h
        ∧ h.park ≠ .none)
    ∧ (∀ ws f, g.outsideCapsule t 1 = false → s.clauseAt g t = .words ws → g.outsideCapsule t ws.length = false →
        clauseFault t.pc t.count (t.count != 0) ws = some f → faulted f.code f.cause ∧ (f.code = 0x10 ∨ f.code = 0x11))
    ∧ ∀ w ws, g.outsideCapsule t 1 = false → s.clauseAt g t = .words (w :: ws) → g.outsideCapsule t (ws.length + 1) = false →
        clauseFault t.pc t.count (t.count != 0) (w :: ws) = none → (t.resumeAt ≠ 0 → t.resumeAt < ws.length) →
        ∃ u h q, exec (.clauseFetch p) s = .next u ∧ u.group g.gid = some h ∧ h.path? t.id = some q
          ∧ q.fetched = some { base := t.pc, hdr := decodeHeader w, words := ws } ∧ q.widx = t.resumeAt ∧ q.pc = t.pc
          ∧ (t.resumeAt = 0 → s.headerReady g t.id (decodeHeader w) = false → q.wait = .clause)
          ∧ ((t.resumeAt ≠ 0 ∨ s.headerReady g t.id (decodeHeader w) = true) → q.wait = t.wait ∨ q.wait = .none))
  ∧ (∀ (s : State) (g : Group) (t : Path) (n a : Nat) (pa : Nat → Nat), t.code = [] →
      (∀ i, i < n → s.access g.vf (a + 4 * i) false 4 = .at_ (.hbm (pa i))) →
      ∃ ws, s.codeAt g t n a = .words ws ∧ ws.length = n ∧ ∀ i w, ws[i]? = some w →
        ∃ v ∈ dw (readBytes s.hbm (pa i / 8 * 8) 8) :: s.olderCode g.launch (.hbm (pa i / 8 * 8)), w = BitVec.ofNat 32 (v.toNat / 256 ^ (pa i % 8)))
  ∧ (∀ (s : State) (a : Nat) (bs : List Byte) (core : Option Nat) (vf : Nat) (l : Launch), s.replay = none → l ∈ s.launches →
      l.id < s.nextId → ∀ pa, a ≤ pa → pa < a + bs.length →
        dw (readBytes s.hbm (pa / 8 * 8) 8) ∈ (s.writeLoc (.hbm a) bs core vf).olderCode l.id (.hbm (pa / 8 * 8)))
  ∧ (∀ (s : State) (vf addr : Nat) (spawn replay : Bool) (r : LaunchRec) (k : List Dword), (∀ e ∈ s.codeOld, e.stamp ≤ s.nextId) →
      let t := s.acceptLaunch vf spawn replay addr r k
      (∃ l ∈ t.launches, l.id = s.nextId ∧ l.id < t.nextId) ∧ ∀ p, t.olderCode s.nextId p = [])
  ∧ (∀ (s : State) (f : Fill), s.manage.poweredDown = false → s.fills.find? (fun k => k.id == f.id) = some f →
      ∃ t, exec (.registerFill f.id) s = .next t ∧ (∀ k ∈ t.fills, k.id ≠ f.id) ∧ t.hbm = s.hbm ∧ t.blocks = s.blocks
        ∧ ∀ g, s.group f.gid = some g → ∃ h, t.group f.gid = some h
          ∧ (∀ pre post r p w, f.items = pre ++ [.v false r p w] ++ post → r < g.vcur → p < g.n → (∀ v, FillItem.v false r p v ∉ post) →
              h.v1 r p = w ∧ h.vEmptyAt r p = false)
          ∧ (∀ r p, p < g.n → (∀ w, FillItem.v false r p w ∉ f.items) → h.v1 r p = g.v1 r p ∧ h.vEmptyAt r p = g.vEmptyAt r p)
          ∧ (∀ pre post r w, f.items = pre ++ [.s r w] ++ post → r < 64 → (∀ v, FillItem.s r v ∉ post) → (∀ v c, FillItem.poll r v c ∉ post) →
              h.sreg r = w ∧ h.sEmptyAt r = false)
          ∧ (∀ r, (∀ w, FillItem.s r w ∉ f.items) → (∀ v c, FillItem.poll r v c ∉ f.items) → h.sreg r = g.sreg r)
          ∧ (∀ r v c, f.items = [.poll r v c] → r < 64 → h.sreg r = v ∧ h.polling = none
              ∧ h.backoff = (if v = c then min (g.backoff + 1) 7 else 0))
          ∧ h.m = g.m ∧ h.x = g.x ∧ h.tiles = g.tiles)
  ∧ ∀ (s : State) (id : Nat), s.manage.poweredDown = false → (∃ a ∈ s.unacked, a.id = id) →
      ∃ t, exec (.storeAcknowledge id) s = .next t ∧ t.unacked = s.unacked.filter (fun a => a.id != id) ∧ t.hbm = s.hbm ∧ t.flight = s.flight

/-! ### Launches -/

/-- R40-R45, R358, R393, R394: a dispatcher reads the next record of an open queue with its table, and accepts it, rejects it with a
launch-invalid entry, or holds its queue with a parking entry, or waits for a line that an engine owns; a record is accepted exactly when none of
R41's conditions holds. A placed block starts on a core with room, its groups on the partitions in turn; the blocks of a cluster take distinct
cores; no cluster begins on a die between the blocks of another (of another queue too: log entry 95), out of its queue's turn, or while another
queue has aged there. A grid that is done counts DONE down by 1. -/
def Obligations.LaunchSteps : Prop :=
  ∀ (s : State) (vf : Nat) (sp : Bool), s.manage.poweredDown = false →
    let step := exec (.launchRecordAccept vf sp) s
    let popped (t : State) : Prop := (sp = true → (t.ctx vf).spawnq = (s.ctx vf).spawnq.drop 1)
      ∧ (sp = false → t.ring vf 0 = { s.ring vf 0 with ci := (s.ring vf 0).ci + 1 } ∧ (t.ctx vf).spawnq = (s.ctx vf).spawnq)
    (s.queueOpen vf sp = true → ∀ a ws, s.nextRecord vf sp = some (a, .ok ws) →
      let r := launchOf ws
      let table := s.launchWords vf sp (shKcount r.shape) r.ktab.toNat
      let read : State := if sp then s.launchTouch vf a 32 else s
      (s.launchCause r ≠ 0 → ∃ t, step = .next t ∧ Posted read t vf 1 (reportWords 4 (s.launchCause r) a 0 r.tag) ∧ popped t
          ∧ t.launches = s.launches)
      ∧ (s.launchCause r = 0 → ∀ k, table = .ok k → ∃ t l, step = .next t ∧ popped t ∧ t.launches = s.launches ++ [l] ∧ l.vf = vf
          ∧ l.spawn = sp ∧ l.entry = r.entry.toNat ∧ l.shape = r.shape ∧ l.grid = r.grid ∧ l.alloc = r.alloc ∧ l.doneRec = r.doneRec
          ∧ l.tag = r.tag ∧ l.k = k ∧ l.nextCluster = 0 ∧ l.progress = [] ∧ l.blocksLeft = gridClusters r.grid * shBlocks r.shape
          ∧ t.hbm = (read.launchTouch vf r.ktab.toNat (shKcount r.shape)).hbm ∧ t.blocks = s.blocks)
      ∧ (s.launchCause r = 0 → ∀ c va, table = .error (.fault c va) → ∃ t, step = .next t
          ∧ Posted read t vf 1 (reportWords 4 10 a c r.tag) ∧ popped t ∧ t.launches = s.launches)
      ∧ (s.launchCause r = 0 → table = .error .held → step = .fault .notDue)
      ∧ (s.launchCause r = 0 → ∀ d va, table = .error (.miss d va) → ∃ t e, step = .next t ∧ t.launches = s.launches
          ∧ (t.ctx vf).heldLaunch = (s.ctx vf).heldLaunch ++ [(sp, e.token)] ∧ (t.ctx vf).spawnq = (s.ctx vf).spawnq
          ∧ e ∈ (t.ctx vf).parks ∧ e.work = .launch sp ∧ t.queueOpen vf sp = false
          ∧ e.words = [dw ((if d then 1 else 2) * 2 ^ 60 + 9 * 2 ^ 32 + e.token), dw va, 0, r.tag]))
    ∧ ((s.ctx vf).st ≠ .live → step = .fault .notDue)
    ∧ (∀ r : LaunchRec, s.launchCause r = 0 ↔
        (r.restZero = true ∧ r.shape.toNat < 2 ^ 44 ∧ r.grid.toNat < 2 ^ 48 ∧ r.alloc.toNat < 2 ^ 25)
        ∧ (shKcount r.shape ≤ 64 ∧ shRound r.shape ≤ 5 ∧ shAtiles r.shape ≤ 16 ∧ 1 ≤ shBlocks r.shape ∧ shBlocks r.shape ≤ 16
          ∧ 1 ≤ shGroups r.shape ∧ shGroups r.shape ≤ 16 ∧ 8 ≤ shVregs r.shape ∧ shVregs r.shape ≤ 128 ∧ r.shape.toNat % 4 ≠ 3
          ∧ (1 ≤ r.grid.toNat % 2 ^ 16 ∧ 1 ≤ r.grid.toNat / 2 ^ 16 % 2 ^ 16 ∧ 1 ≤ r.grid.toNat / 2 ^ 32 % 2 ^ 16) ∧ alScr r.alloc ≤ 1024)
        ∧ shE r.shape * shW r.shape ≤ 256 ∧ (r.entry.toNat % 4 = 0 ∧ r.entry.toNat < 2 ^ 52)
        ∧ alScr r.alloc * 256 + shGroups r.shape * (alDstk r.alloc * 64 + alXext r.alloc * 576) ≤ 262144
        ∧ (∃ l, occBlock 0 0 (shapeOcc r.shape) (shGroups r.shape) 0 [] = some l)
        ∧ (s.launchDies r.shape = [] ∨ shBlocks r.shape ≤ s.dieCores)
        ∧ (∀ d, d < 4 → (shDies r.shape).testBit d = true → s.dieOn d = true)
        ∧ (shKcount r.shape = 0 ∨ r.ktab.toNat % 8 = 0) ∧ (r.doneRec = 0 ∨ r.doneRec.toNat % 64 = 0))
    ∧ (∀ die core l occ, s.frontLaunch vf sp = some l → s.roomOn l core = some occ → s.placeable die l core = true →
        let uid := blockUid l.id (clusterWord l.grid (l.nextOn die).1) (l.nextOn die).2
        ∃ t, exec (.blockPlacement die vf sp core) s = .next t ∧ t.hbm = s.hbm
          ∧ (∃ b ∈ t.blocks, b.uid = uid ∧ b.core = core ∧ b.vf = l.vf ∧ b.launch = l.id ∧ b.started = true ∧ b.left = shGroups l.shape
              ∧ b.scr = alScr l.alloc ∧ b.blockNo = (l.nextOn die).2 ∧ b.arrivals = s.arrivalsOf uid)
          ∧ (t.core core).accepted = (s.core core).accepted + 1
          ∧ (∀ i, i < shGroups l.shape → ∃ g ∈ t.groups,
              g.block = uid ∧ g.groupNo = i ∧ g.part = 4 * core + (i + (s.core core).accepted) % 4 ∧ g.w = shW l.shape ∧ g.e = shE l.shape
              ∧ g.vcur = shVregs l.shape ∧ g.k = l.k ∧ g.tag = l.tag ∧ g.v = [] ∧ g.s = [] ∧ g.tiles = []
              ∧ ∃ p, g.paths = [p] ∧ p.pc = l.entry ∧ p.mask = lowMask (shW l.shape * shE l.shape)))
    ∧ (∀ die core (l : Launch), (l.vf, l.spawn) = (vf, sp) →
        (∀ q, l.progress.find? (fun q => q.die == die) = some q → core ∈ q.cores → s.placeable die l core = false)
        ∧ (l.progress.find? (fun q => q.die == die) = none →
          ((∃ k ∈ s.launches, (s.ctx k.vf).st = .live ∧ ∃ q ∈ k.progress, q.die = die) ∨ (∃ q, s.agedQueue die = some q ∧ q ≠ (vf, sp))
            ∨ s.turnOf die l = false ∨ gridClusters l.grid ≤ l.nextCluster) → s.placeable die l core = false))
    ∧ (∀ die l, s.frontLaunch vf sp = some l → s.dieOn die = true → die ∈ s.launchDies l.shape → l.nextCluster < gridClusters l.grid →
        s.agedQueue die = some (vf, sp) → (s.die die).agedFor = none → fget 0 l.waitSince die + 65536 ≤ (s.die die).cycles →
        ∃ t, exec (.dispatchAgeing die vf sp) s = .next t ∧ (t.die die).agedFor = some (vf, sp) ∧ t.launches = s.launches ∧ t.hbm = s.hbm)
    ∧ ∀ l : Launch, s.launches.find? (fun k => k.id == l.id) = some l → (s.ctx l.vf).st = .live → s.gridDone l = true →
        ∃ t, exec (.gridCompletion l.id) s = .next t ∧ (∀ k ∈ t.launches, k.id ≠ l.id) ∧ t.hbm = s.hbm
          ∧ (l.doneRec = 0 → t.updates = s.updates)
          ∧ (l.doneRec ≠ 0 → ∃ u, t.updates = s.updates ++ [u] ∧ u.vf = l.vf ∧ u.target = .glob l.vf l.doneRec.toNat ∧ u.d = -1
              ∧ u.tag = l.tag)

/-- R47, R107, R117, R141, R287-R289, R317, R358-R360, R376: an update that waits is applied at its record's home, reported when it cannot
apply, parked on a miss, or sent to its peer; an event entry is written. A waiting parking entry is written when there is room. A resume
entry of an outstanding TOKEN releases its work to retry or to take the named fault; another is counted in OVF. An aged buffer departs. A
migration period begins only moves of that die, none without EN and hints; a move leaves the page's bytes at the new frame, the entry
changed, and its stalled accesses there. -/
def Obligations.QueueSteps : Prop :=
  ∀ (s : State), s.manage.poweredDown = false →
    (∀ u : Update, s.updates.find? (fun k => k.id == u.id) = some u → u.parked = none → (∀ i ∈ u.after, s.isPending i = false) →
      let rest : State := { s with updates := s.updates.filter (fun k => k.id != u.id) }
      let step := exec (.taskUpdate u.id) s
      (∀ g c, u.src = .evsig g c → ∃ t, step = .next t ∧ Posted s t u.vf 3 [dw (c * 2 ^ 52), dw (ofSigned 64 u.d)]
          ∧ t.updates = rest.updates ∧ t.hbm = s.hbm)
      ∧ ((∀ g c, u.src ≠ .evsig g c) → s.recFree u.target = true → (u.src = .ring → s.runs u.vf = true) →
        let e := rest.update u.vf u.target u.d none u.tag
        (∀ y o r, e = .ok y o r → ∃ t, step = .next t ∧ t.hbm = y.hbm ∧ t.host = y.host ∧ t.blocks = y.blocks ∧ t.updates = y.updates
            ∧ t.ctxs = y.ctxs)
        ∧ (∀ c, e = .fail c → ∃ t, step = .next t ∧ t.updates = rest.updates ∧ t.hbm = s.hbm
            ∧ t.blocks = s.blocks ∧ (t.ctx u.vf).st = (s.ctx u.vf).st
            ∧ Posted s t u.vf 1 (reportWords 5 c u.target.va (ofSigned 64 u.d) u.tag))
        ∧ (∀ d, e = .miss d → ∃ t k tok, step = .next t ∧ k ∈ t.updates ∧ k.id = u.id ∧ k.parked = some tok ∧ k.d = u.d
            ∧ t.hbm = s.hbm ∧ t.blocks = s.blocks ∧ ∃ p ∈ (t.ctx u.vf).parks, p.token = tok ∧ p.work = .update u.id)))
    ∧ (∀ vf (e : ParkEntry), e ∈ (s.ctx vf).parks → e.written = false → (∀ f ∈ (s.ctx vf).parks, f.written = false → f = e) →
        (s.ring vf 1).room = true → ∃ t, exec (.faultQueueEntryWrite vf) s = .next t ∧ Posted s t vf 1 e.words
          ∧ (t.ctx vf).parks.map (·.token) = (s.ctx vf).parks.map (·.token) ∧ ∀ f ∈ (t.ctx vf).parks, f.written = true)
    ∧ (∀ vf, (s.ring vf 2).en = true → (s.ring vf 2).used ≠ 0 →
        let k := s.ring vf 2
        let a := k.entryAt 2 k.ci.toNat
        let w0 := readBytes s.host a 8
        let tok := w0 % 2 ^ 32
        let action := w0 / 2 ^ 60 % 2 ^ 4
        let code := w0 / 2 ^ 48 % 2 ^ 8
        let legal : Prop := action = 0 ∨ action = 1 ∧ (code = 1 ∨ code = 6 ∨ code = 7)
        let step := exec (.resumeEntry vf) s
        let known (e : ParkEntry) : Prop := (s.ctx vf).parks.find? (fun p => p.token == tok) = some e
        let served (t : State) : Prop := step = .next t ∧ (∀ p ∈ (t.ctx vf).parks, p.token ≠ tok) ∧ t.ring vf 2 = { k with ci := k.ci + 1 }
        ((s.ctx vf).st = .halted ∨ (s.ctx vf).st = .switched → ∃ t, step = .next t ∧ t.ring vf 2 = { k with ci := k.ci + 1 }
            ∧ (t.ctx vf).keptResume = (s.ctx vf).keptResume ++ [(dw w0, dw (readBytes s.host (a + 8) 8))]
            ∧ (t.ctx vf).parks = (s.ctx vf).parks)
        ∧ ((s.ctx vf).st ≠ .halted → (s.ctx vf).st ≠ .switched →
          ((¬legal ∨ ∀ e, ¬known e) → ∃ t, step = .next t ∧ t.ring vf 2 = { k with ci := k.ci + 1 }.drop ∧ t.hbm = s.hbm
              ∧ (t.ctx vf).parks = (s.ctx vf).parks)
          ∧ (∀ e gid g, legal → known e → e.work = .group gid → s.group gid = some g → ∃ t h, served t ∧ t.group gid = some h
              ∧ h.tokens = g.tokens.filter (· != tok) ∧ (action = 0 → h.fault = g.fault)
              ∧ (g.park = .miss → h.tokens = [] → h.park = .none)
              ∧ (action = 1 → ∃ f, h.fault = some f ∧ f.code = code ∧ f.daddr = (e.words.getD 1 0).toNat ∧ f.faddr = e.word ∧ (t.ctx g.vf).st ≠ .live))
          ∧ (∀ e sp, legal → known e → e.work = .launch sp → action = 0 → ∃ t, served t
              ∧ (t.ctx vf).heldLaunch = (s.ctx vf).heldLaunch.filter (fun h => h.2 != tok) ∧ t.launches = s.launches)
          ∧ (∀ e id, legal → known e → e.work = .update id → action = 0 → ∃ t, served t ∧ t.hbm = s.hbm
              ∧ ∀ u ∈ t.updates, u.id = id → u.parked = none)))
    ∧ (∀ b : AggBuf, s.agg.find? (fun k => k.id == b.id) = some b → b.cw ∉ s.heldCw → (∀ r ∈ s.waitReqs, r.id ≠ b.id) →
        ∃ t, exec (.aggBufferAgeExpiry b.id) s = .next t ∧ (∀ k ∈ t.agg, k.id ≠ b.id)
          ∧ ∃ r ∈ t.reqs ++ t.waitReqs, r.id = b.id ∧ r.kind = 3 ∧ r.dev = b.dev ∧ r.cw = b.cw ∧ r.body = .agg b.entries
              ∧ r.payload = entryBytes b.entries)
    ∧ (∀ die vf, s.dieOn die = true →
        let w := (s.ctx vf).migPolicy.toNat
        let per := if w % 2 ^ 16 = 0 then 1 else w % 2 ^ 16
        fget 0 (s.ctx vf).periods die + 65536 * per ≤ (s.die die).cycles →
        ∃ t, exec (.migrationPeriod die vf) s = .next t ∧ fget 0 (t.ctx vf).periods die = (s.die die).cycles
          ∧ (∀ m ∈ t.moves, m ∈ s.moves ∨ m.vf = vf ∧ m.die = die ∧ m.tier < 2 ∧ (m.size = 4096 ∨ m.size = 65536 ∨ m.size = 2097152))
          ∧ (w < 2 ^ 63 → (s.ctx vf).hints = [] → t.moves = s.moves ∧ t.hbm = s.hbm))
    ∧ ∀ m : Move, s.moves.find? (fun k => k.id == m.id) = some m →
        ∃ t, exec (.pageMoveComplete m.id) s = .next t ∧ (∀ k ∈ t.moves, k.id ≠ m.id)
          ∧ (∀ k ∈ t.tlb, k.vf = m.vf → ∀ va, m.va ≤ va → va < m.va + m.size → k.covers va = false)
          ∧ (m.tier = 1 →
              let e := readBytes s.hbm m.pteAddr 8
              let old := e / 2 ^ 12 % 2 ^ 40 * 4096
              e / 2 ^ 5 % 4 = 0 →
              readBytes t.host (m.frame * 4096) m.size = readBytes s.hbm old m.size
              ∧ (∀ a ∈ s.flight, ∀ b, a.loc = .hbm b → old ≤ b → b < old + m.size → ∃ c ∈ t.flight, c.id = a.id
                  ∧ c.loc = .host (m.frame * 4096 + (b - old)))
              ∧ (m.size ≠ 65536 → m.frame < 2 ^ 40 → (s.ctx m.vf).poolCount = 0 →
                  readBytes t.hbm m.pteAddr 8 = e - e / 2 ^ 12 % 2 ^ 40 * 2 ^ 12 + m.frame * 2 ^ 12 + 2 ^ 5))

/-! ### Stops -/

/-- R141, R148, R346-R349, R351, R352, R355, R359, R375, R393: a unit at its stop point stops and acknowledges, and the context's buffers of
aggregated entries depart; with all acknowledged and driven the
collector writes every record at its directory offset, takes the context's work away and leaves it halted or switched out. PREEMPT begins a
stop, RESUME of a live context answers busy and one of a save area edited elsewhere than allowed is refused, ENDCTX discards a halted context
but its rings. -/
def Obligations.StopSteps : Prop :=
  ∀ (s : State), s.manage.poweredDown = false →
    (∀ vf u, let step := exec (.unitStop vf u) s
      ((s.stopping vf = false ∨ u ∉ s.unitsOf vf ∨ u ∈ (s.ctx vf).acked ∨ s.atStop vf u = false) → step = .fault .notDue)
      ∧ (s.stopping vf = true → u ∈ s.unitsOf vf → u ∉ (s.ctx vf).acked → s.atStop vf u = true →
          ∃ t, step = .next t ∧ (t.ctx vf).acked = u :: (s.ctx vf).acked ∧ s.stopping vf = t.stopping vf
            ∧ (∀ b ∈ t.agg, ∀ e ∈ b.entries, e.vf ≠ vf)
            ∧ ∀ gid g, u = .group gid → s.group gid = some g → ∃ h, t.group gid = some h ∧ h.stopped = true ∧ h.v = g.v ∧ h.s = g.s
                ∧ h.tiles = g.tiles ∧ h.fault = g.fault))
    ∧ (∀ vf pre, (s.ctx vf).st = .stopping pre →
        let step := exec (.collectorComplete vf) s
        let im := s.stopImage vf pre
        let base := (s.ctx vf).saveBase.toNat
        (((∃ u ∈ s.unitsOf vf, u ∉ (s.ctx vf).acked) ∨ s.driven vf = false) → step = .fault .notDue)
        ∧ ((∀ u ∈ s.unitsOf vf, u ∈ (s.ctx vf).acked) → s.driven vf = true → ∃ t, step = .next t
            ∧ (t.ctx vf).st = (if pre then .switched else .halted)
            ∧ (∀ g ∈ t.groups, g.vf ≠ vf) ∧ (∀ b ∈ t.blocks, b.vf ≠ vf) ∧ (∀ x ∈ t.xfers, x.vf ≠ vf) ∧ (∀ r ∈ t.readouts, r.vf ≠ vf)
            ∧ (∀ k ∈ t.tokens, k.vf ≠ vf) ∧ (t.ctx vf).saved.image = im.1
            ∧ (t.ctx vf).saved.groups.map (·.gid) = (s.groups.filter (fun g => g.vf == vf)).map (·.gid)
            ∧ (t.ctx vf).saved.blocks = s.blocks.filter (fun b => b.vf == vf)
            ∧ (∀ c ∈ t.pending, ¬(cmdOf c = vf ∧ c.w0.toNat / 2 ^ 56 = 3))
            ∧ ((∀ p, (s.part p).claims = []) → readBytes t.hbm base 8 = (s.stopRecords vf).length % 2 ^ 64
              ∧ (∀ i r, (s.stopRecords vf)[i]? = some r → ∃ o, im.2[i]? = some o
                ∧ readBytes t.hbm (base + 64 + 8 * i) 8 = o % 2 ^ 64
                ∧ readBytes t.hbm (base + o) (r.bytes pre).length = numOf (r.bytes pre)))))
    ∧ (∀ (g : Group) (pre : Bool) (f : FaultInfo), g.fault = some f → f.code < 2 ^ 8 → f.cause < 2 ^ 8 →
        (∀ l e, f.pos = some (l, e) → l < 64 ∧ e < 8) →
        let b := (s.groupRecord g).bytes pre
        numOf (b.take 8) / 2 ^ 56 = f.code ∧ numOf (b.take 8) / 2 ^ 48 % 2 ^ 8 = f.cause
        ∧ numOf ((b.drop 8).take 8) = f.faddr % 2 ^ 64 ∧ numOf ((b.drop 16).take 8) = f.daddr % 2 ^ 64
        ∧ numOf ((b.drop 24).take 8) = g.gid.toNat ∧ numOf ((b.drop 40).take 8) = g.tag.toNat)
    ∧ ∀ c, s.cmd = some c →
        let vf := cmdOf c
        let k := s.ctx vf
        (s.cmdBad c = true → ∀ i : Instr, i = .preempt ∨ i = .resume ∨ i = .endctx → ∃ t, exec i s = .next t ∧ Answered s t c 2)
        ∧ (s.cmdBad c = false →
          (k.st = .live → ∃ t, exec .preempt s = .next t ∧ (t.ctx vf).st = .stopping true ∧ t.pending = s.pending ++ [c] ∧ t.cmd = none)
          ∧ (∀ p, k.st = .stopping p → ∃ t, exec .preempt s = .next t ∧ t.ctxs = s.ctxs ∧ t.pending = s.pending ++ [c] ∧ t.cmd = none)
          ∧ (k.st = .halted ∨ k.st = .switched → ∃ t, exec .preempt s = .next t ∧ Answered s t c 0 ∧ (t.ctx vf).st = k.st)
          ∧ ((k.st = .live ∨ s.stopping vf = true) → ∃ t, exec .resume s = .next t ∧ Answered s t c 1 ∧ (t.ctx vf).st = k.st)
          ∧ (k.st = .halted ∨ k.st = .switched →
            (∀ e, State.resumeCtx { s with cmd := none } vf = .error e → ∃ t, exec .resume s = .next t ∧ Answered s t c e
                ∧ (t.ctx vf).st = k.st ∧ t.blocks = s.blocks)
            ∧ (∀ u, State.resumeCtx { s with cmd := none } vf = .ok u → k.keptResume = [] → ∃ t, exec .resume s = .next t
                ∧ t.blocks = u.blocks ∧ t.hbm = u.hbm ∧ (t.ctx vf).st = (u.ctx vf).st ∧ (t.ctx vf).saved = (u.ctx vf).saved)
            ∧ ∃ t, exec .endctx s = .next t ∧ Answered s t c 0 ∧ (t.ctx vf).st = .live ∧ (t.ctx vf).saved = Saved.none
                ∧ (t.ctx vf).spawnq = [] ∧ (t.ctx vf).heldSpawns = [] ∧ (t.ctx vf).root = 0 ∧ (t.ctx vf).regions = []
                ∧ (∀ r, (vf ≠ 0 ∨ r ≠ 6) → t.ring vf r = s.ring vf r) ∧ (∀ l ∈ t.launches, l.vf ≠ vf))
          ∧ ((k.st = .live ∨ s.stopping vf = true) → s.resides vf = true → ∃ t, exec .endctx s = .next t ∧ Answered s t c 1
              ∧ (t.ctx vf).st = k.st ∧ (t.ctx vf).root = k.root ∧ t.launches = s.launches))

/-! ### Errors, cooling and starts -/

/-- R13, R106, R361, R362, R364: errors are reported with their record. The access that met an error in a clean line parks; a dirty line is
poisoned and the function that met it halts; an error in registers, tiles or scratchpad halts its owner with data-lost CAUSE 3. A retiring
core moves to a spare slot of its die once no block is on it (the model's reading of a context boundary: log entry 87), or reports spare
exhausted (its SOURCE 11 and ACTION 0 are the model's: log entry 88). The dirty lines of a layer cut early are lost; no
access reaches a poisoned or lost line. -/
def Obligations.ErrorSteps : Prop :=
  ∀ (s : State), s.manage.poweredDown = false →
    let err (t : State) (src cause die unit pa vf owner action : Nat) : Prop :=
      Posted s t 0 4 [dw (src * 2 ^ 56 + cause * 2 ^ 48 + die * 2 ^ 46 + unit * 2 ^ 36
        + (fget 0 s.manage.nerr (src * 4096 + (die * 1024 + unit)) + 1) % 2 ^ 32), dw pa, dw (vf * 2 ^ 58 + owner), dw action]
    (∀ (a : Access) (pa : Nat), s.flight.find? (fun f => f.id == a.id) = some a → a.loc = .hbm pa → (∀ d ∈ s.dirty, d.is false (pa / 128) = false) →
        (∀ e ∈ (s.ctx a.vf).parks, e.work ≠ .access a.id) → ∃ t, exec (.uncorrectableError (.cleanLine a.id)) s = .next t
          ∧ t.flight = s.flight ∧ t.hbm = s.hbm ∧ (t.ctx a.vf).st = (s.ctx a.vf).st
          ∧ ((s.ring 0 4).room = true → (t.ring 0 4).pi = (s.ring 0 4).pi + 1)
          ∧ ∃ e ∈ (t.ctx a.vf).parks, e.work = .access a.id ∧ (e.words.headD 0).toNat / 2 ^ 60 = 2 ∧ e.words.getD 1 0 = dw a.va)
    ∧ (∀ host pa vf d, s.dirty.find? (fun d => d.is host (pa / 128)) = some d → vf < 64 →
        ∃ t, exec (.uncorrectableError (.dirtyLine host pa vf)) s = .next t
        ∧ (d.layer < 16 → err t 2 1 (homeDie host pa) (d.layer % 4) pa vf 0 2) ∧ (16 ≤ d.layer → err t 1 1 (homeDie host pa) 0 pa vf 0 2)
        ∧ (host, pa / 128) ∈ t.poisoned ∧ (∀ l ∈ s.poisoned, l ∈ t.poisoned) ∧ t.hbm = s.hbm
        ∧ (∀ e ∈ t.dirty, e.is host (pa / 128) = false) ∧ (∀ e ∈ s.dirty, e.is host (pa / 128) = false → e ∈ t.dirty)
        ∧ (t.ctx vf).st ≠ .live
        ∧ ((s.ctx vf).st = .live → ∃ f, (t.ctx vf).firstFault = some f ∧ f.code = 6 ∧ f.cause = 1 ∧ f.daddr = pa))
    ∧ (∀ g, s.group g.gid = some g → ∀ i src, (i = .registers g.gid ∧ src = 5) ∨ (i = .tiles g.gid ∧ src = 6) →
        ∃ t h, exec (.uncorrectableError i) s = .next t ∧ err t src 1 (g.part / 4 / 256) (g.part % 1024) 0 g.vf g.gid.toNat 2
          ∧ t.group g.gid = some h ∧ (t.ctx g.vf).st ≠ .live
          ∧ (g.fault = none → ∃ f, h.fault = some f ∧ f.code = 6 ∧ f.cause = 3))
    ∧ (∀ b : Block, s.block b.uid = some b → ∃ t, exec (.uncorrectableError (.scratchpad b.uid)) s = .next t
        ∧ err t 4 1 (b.core / 256) (b.core % 256) 0 b.vf 0 2 ∧ (t.ctx b.vf).st ≠ .live)
    ∧ (∀ (src : BitVec 8) (die : BitVec 2) (unit : BitVec 10), errorUnitOk src.toNat die.toNat unit.toNat = true → s.dieOn die.toNat = true →
        ∃ t, exec (.correctableRateThreshold src die unit) s = .next t ∧ err t src.toNat 2 die.toNat unit.toNat 0 0 0 3
          ∧ ((src = 4 ∨ src = 11) → (t.core (256 * die.toNat + unit.toNat % 256)).retiring = true)
          ∧ ((src = 5 ∨ src = 6 ∨ src = 7) → (t.core (256 * die.toNat + unit.toNat / 4 % 256)).retiring = true))
    ∧ (∀ c, c < 1024 → (s.core c).retiring = true →
        let bad (q : Nat) : Prop := (c / 256, q) ∈ s.manage.badSlots ∨ ∃ r ∈ s.manage.repair, r.1 = c / 256 ∧ r.2.2 = q
        let step := exec (.coreRetirement c) s
        ((∃ b ∈ s.blocks, b.core = c) → step = .fault .notDue)
        ∧ ((∀ b ∈ s.blocks, b.core ≠ c) →
          (∀ q, 256 ≤ q → q < 272 → ¬bad q → (∀ p, 256 ≤ p → p < q → bad p) →
            ∃ t, step = .next t ∧ (t.core c).retiring = false ∧ (t.core c).l1 = [] ∧ (c / 256, c % 256, q) ∈ t.manage.repair
              ∧ (c / 256, s.manage.slotOf (c / 256) (c % 256)) ∈ t.manage.badSlots ∧ (∀ b ∈ s.manage.badSlots, b ∈ t.manage.badSlots)
              ∧ (∀ r ∈ t.manage.repair, r.1 = c / 256 → r.2.1 = c % 256 → r.2.2 = q)
              ∧ ∀ r ∈ s.manage.repair, (r.1 ≠ c / 256 ∨ r.2.1 ≠ c % 256) → r ∈ t.manage.repair)
          ∧ ((∀ q, 256 ≤ q → q < 272 → bad q) → ∃ t, step = .next t ∧ (t.core c).retiring = false ∧ t.manage.repair = s.manage.repair
              ∧ err t 11 3 (c / 256) (c % 256) 0 0 0 0)))
    ∧ (∀ k, k < 16 → s.dieOn (k / 4) = true → s.layer k ≤ 2 → ∃ t, exec (.layerThermalLoss k) s = .next t ∧ t.layer k = 4
        ∧ t.hbm = s.hbm ∧ (∀ d ∈ s.dirty, d.layer = k → (d.host, d.line) ∈ t.lost) ∧ (∀ d ∈ t.dirty, d.layer ≠ k)
        ∧ (∀ d ∈ s.dirty, d.layer ≠ k → d ∈ t.dirty) ∧ (∀ l ∈ t.lost, l ∈ s.lost ∨ ∃ d ∈ s.dirty, d.layer = k ∧ (d.host, d.line) = l)
        ∧ (∀ d, s.dirty.filter (fun e => e.layer == k) = [d] → err t 2 4 (k / 4) (k % 4) (d.line / 32 * 4096) 0 0 4))
    ∧ ∀ vf va w n a, (s.access vf va w n = .at_ (.hbm a) → (false, a / 128) ∉ s.poisoned ∧ (false, a / 128) ∉ s.lost)
      ∧ (s.access vf va w n = .at_ (.host a) → (true, a / 128) ∉ s.poisoned ∧ (true, a / 128) ∉ s.lost)

/-- R21, R22, R377-R379, R382, R383: a lost loop selects its table, which takes effect at leg boundaries; with both lost every function halts
and the module then powers down; flow that has come back returns the nominal table. A start counts its attempt and, passed whole, clears
the counter and the causes; after three it is minimal; a failed step is recorded, self-test's own too (R13, R16): a slot found bad is replaced
by a spare, and too few slots or banks of a die fail it. Losing power keeps only what R378 keeps. -/
def Obligations.LoopsAndStarts : Prop :=
  ∀ (s : State),
    let m := s.manage
    let causes (t : State) : Prop := t.manage.cause0 = m.cause0 ∧ t.manage.cause1 = m.cause1 ∧ t.manage.cause2 = m.cause2
    let fresh (t : State) : Prop := t.hbm = [] ∧ t.weights = [] ∧ t.groups = [] ∧ t.blocks = [] ∧ t.ctxs = [] ∧ t.launches = []
      ∧ t.flight = [] ∧ t.xfers = [] ∧ t.host = s.host
    let started (t : State) (env : StartEnv) (cold : Bool) : Prop :=
      let map : Manage := if cold then { m with repair := [], badSlots := [], badBanks := [] } else m
      let tested := ({ map with badBanks := (map.badBanks ++ env.badBanks).eraseDups } : Manage).selfTest env.badSlots
      let own := tested.1.testFailure (decide (3 ≤ m.attempt)) tested.2
      fresh t ∧ t.manage.poweredDown = false
      ∧ ((∀ k c, env.failure = some (k, c) → 3 ≤ k) → t.manage.repair = tested.1.repair ∧ t.manage.badSlots = tested.1.badSlots
          ∧ t.manage.badBanks = tested.1.badBanks)
      ∧ (∀ k c, env.failure = some (k, c) → k < 3 → t.manage.repair = m.repair ∧ t.manage.badSlots = m.badSlots ∧ t.manage.badBanks = m.badBanks)
      ∧ (cold = true → env.badSlots = [] → env.badBanks = [] → own = none ∧ tested.1.repair = [])
      ∧ (cold = true → env.badBanks = [] → ∀ d i, d < 4 → i < 256 → env.badSlots = [(d, i)] → own = none ∧ tested.1.repair = [(d, i, 256)])
      ∧ (env.failure = none → ∀ k c, own = some (k, c) → m.thermal = false → k = 3 ∧ (c = 3 ∨ c = 4) ∧ t.manage.mode = 0 ∧ t.manage.failStep = 3
          ∧ t.manage.cause2 = c ∧ t.manage.cause1 = m.cause2 ∧ t.manage.cause0 = m.cause1 ∧ t.manage.attempt = min (m.attempt + 1) 15)
      ∧ (env.failure = none → own = none → m.attempt < 3 → t.manage.mode = 1 ∧ t.manage.stage = 6 ∧ t.manage.attempt = 0 ∧ t.manage.cause0 = 0
          ∧ t.manage.cause1 = 0 ∧ t.manage.cause2 = 0 ∧ ∀ d, d < 4 → t.dieOn d = true)
      ∧ (env.failure = none → own = none → 3 ≤ m.attempt → t.manage.mode = 2 ∧ t.manage.attempt = min (m.attempt + 1) 15
          ∧ (∀ d, t.dieOn d = true ↔ d = 0) ∧ (∀ p, p < 18 → (t.port p).dead = true))
      ∧ (∀ k (c : BitVec 8), env.failure = some (k, c) → (k ≤ 3 ∨ own = none) → c ≠ 0 → m.thermal = false → t.manage.mode = 0 ∧ t.manage.failStep = k
          ∧ t.manage.cause2 = c ∧ t.manage.cause1 = m.cause2 ∧ t.manage.cause0 = m.cause1 ∧ t.manage.attempt = min (m.attempt + 1) 15)
    (∀ env, (m.poweredDown = true → ∃ t, exec (.coldStart env) s = .next t ∧ started t env true)
      ∧ (m.poweredDown = false → exec (.coldStart env) s = .fault .notDue ∧ ∃ t, exec (.warmRestart env) s = .next t ∧ started t env false))
    ∧ (m.poweredDown = false →
      (∀ top, (if top then m.topOk || m.topHeld else m.botOk || m.botHeld) = true →
        let w := if top then (if m.botOk then 1 else 3) else (if m.topOk then 2 else 3)
        ∃ t, exec (.loopLoss top) s = .next t ∧ (if top then t.manage.topOk = false ∧ t.manage.topHeld = false
              else t.manage.botOk = false ∧ t.manage.botHeld = false)
          ∧ t.manage.tableNext = (if w = m.table then none else some w) ∧ t.hbm = s.hbm ∧ t.manage.table = m.table
          ∧ (w = 3 → ∀ vf ∈ s.functions, (t.ctx vf).st ≠ .live) ∧ (w ≠ 3 → t.ctxs = s.ctxs))
      ∧ (∀ top, (if top then m.topOk = false ∧ m.topHeld = false else m.botOk = false ∧ m.botHeld = false) → m.tableNext ≠ some 3 →
        ∃ t, exec (.normalFlowReturn top) s = .next t ∧ (if top then t.manage.topHeld = true ∧ t.manage.topOk = false
          else t.manage.botHeld = true ∧ t.manage.botOk = false) ∧ t.manage.tableNext = m.tableNext)
      ∧ (∀ top, (if top then m.topHeld else m.botHeld) = true → m.tableNext ≠ some 3 →
        let w := if top then (if m.botOk then 0 else 2) else (if m.topOk then 0 else 1)
        ∃ t, exec (.loopRestored top) s = .next t ∧ (if top then t.manage.topOk = true else t.manage.botOk = true)
          ∧ t.manage.tableNext = (if w = m.table then none else some w))
      ∧ (m.tableNext = none → exec .tableChange s = .fault .notDue)
      ∧ (m.tableNext = some 3 → ∃ t, exec .tableChange s = .next t ∧ t.manage.poweredDown = true ∧ t.manage.thermal = true ∧ fresh t ∧ causes t)
      ∧ (∀ n, m.tableNext = some n → n ≠ 3 →
        ((∃ e ∈ s.parts, e.2.run ≠ none ∨ e.2.next ≠ none) → exec .tableChange s = .fault .notDue)
        ∧ ((∀ e ∈ s.parts, e.2.run = none ∧ e.2.next = none) → ∃ t, exec .tableChange s = .next t ∧ t.manage.table = n
          ∧ t.manage.tableNext = none ∧ (m.changes < 256 → t.manage.changes = min (m.changes + 1) 255) ∧ t.hbm = s.hbm ∧ t.blocks = s.blocks
          ∧ (∀ d, d < 4 → (t.die d).hotNext = (n == 2))
          ∧ (n = 1 → ∀ k, k < 16 → t.layer k = (if s.layer k = 4 then 4 else 3) ∧ ∀ d ∈ t.dirty, d.layer ≠ k)
          ∧ (n = 0 → t.dirty = s.dirty ∧ ∀ k, k < 16 → t.layer k = if 3 ≤ s.layer k then 0 else s.layer k)
          ∧ (n = 2 → t.dirty = s.dirty ∧ ∀ k, k < 16 → t.layer k = if s.layer k = 3 then 0 else s.layer k)))
      ∧ (∀ k, m.mode = 0 → m.stage = k → 1 ≤ k → k ≤ 5 → ∃ t, exec (.startStepTimeout k) s = .next t ∧ t.manage.cause2 = 0x0A
          ∧ t.manage.cause1 = m.cause2 ∧ t.manage.cause0 = m.cause1 ∧ t.manage.failStep = k ∧ t.manage.attempt = m.attempt)
      ∧ (∃ t, exec .powerLoss s = .next t ∧ t.manage.poweredDown = true ∧ fresh t ∧ causes t ∧ t.manage.attempt = m.attempt)
      ∧ (∀ i v, m.table = 2 → v.toNat / 64 % 4 = 0 → exec (.hbmtRefresh i v) s = .fault .notDue)
      ∧ (∀ i v, i < 384 → s.dieOn (i / 96) = true → v.toNat / 64 % 4 < 3 → (m.table = 2 → 0 < v.toNat / 64 % 4) → ∃ t, exec (.hbmtRefresh i v) s = .next t
          ∧ (∀ j, fget 0 t.manage.hbmt j = if j = i then v &&& 0xFFC0 else fget 0 m.hbmt j) ∧ t.hbm = s.hbm)
      ∧ ∀ c, s.cmd = some c → s.cmdBad c = false → (∀ d, d < 4 → (m.badBanks.filter (fun b => b.1 == d)).length ≤ 1) →
        ∃ t, exec .fullstart s = .next t ∧ t.manage.mode = 1 ∧ t.manage.attempt = 0
          ∧ t.manage.cause2 = 0 ∧ t.manage.repair = m.repair ∧ t.hbm = [] ∧ t.groups = [] ∧ t.ctxs = [])

/-! ### Links and packets -/

/-- R307, R308, R311, R312, R315, R330: the steps of a port. A lost lane recomputes the split and cuts the packets under way; a width taken at
the packet boundary idles its direction; the flit expected joins its packet, any other asks for replay; flits are resent in order and
released by an acknowledgement; a channel at its threshold pauses; 8 failed replays retrain the link. A dead link, of this device or of another
of its domain (numbers from 18 on, which are the model's: log entry 108), holds its carriageways, until each has drained and another live link
serves it. -/
def Obligations.LinkSteps : Prop :=
  ∀ (s : State) (p : Nat), s.manage.poweredDown = false →
    let P := s.port p
    let split (g : Nat) : Nat := max 1 (min (g * P.lsplit / 16) (g - 1))
    let goes (i : Instr) (Q : State → Port → Prop) : Prop := ∃ t, exec i s = .next t ∧ (∀ q, q ≠ p → t.port q = s.port q) ∧ t.hbm = s.hbm ∧ Q t (t.port p)
    (∀ outbound, p < 18 → P.dead = false → 2 < P.good → (if outbound then 0 < P.out else 0 < P.inn) →
      goes (.laneFailure p outbound) (fun _ K => K.good = P.good - 1 ∧ K.dead = false
        ∧ (outbound = true → K.out = P.out - 1 ∧ K.inn = P.inn ∧ (P.prog ≠ [] → K.cut = true))
        ∧ (outbound = false → K.inn = P.inn - 1 ∧ K.out = P.out ∧ K.held = [])
        ∧ ((outbound = true ∨ P.lostOut = true) → K.newOut = some (split (P.good - 1)))
        ∧ ((outbound = false ∨ P.lostIn = true) → K.newIn = some (P.good - 1 - split (P.good - 1)))))
    ∧ (∀ n, P.dead = false → P.turns = false → P.newOut = some n → (P.prog = [] ∨ P.cut = true) →
        goes (.laneWidthChange p true) (fun _ K => K = { P with out := n, newOut := none, lostOut := false, idleOut := true, cut := false }))
    ∧ (∀ n, P.dead = false → P.turns = false → P.newIn = some n → P.held = [] →
        goes (.laneWidthChange p false) (fun _ K => K.inn = n ∧ K.newIn = none ∧ K.idleIn = true ∧ K.out = P.out
          ∧ K.thresh = 256 - (P.rtt * n + 3) / 4 - 8))
    ∧ (∀ outbound, P.dead = false → P.turns = true →
        ((P.held ≠ [] ∨ (P.prog ≠ [] ∧ P.cut = false)) → exec (.laneWidthChange p outbound) s = .fault .notDue))
    ∧ (P.dead = false → P.idleOut = true → goes (.widthChangeIdleEnd p true) (fun _ K => K.idleOut = false ∧ K.out = P.out))
    ∧ (P.dead = false → P.idleIn = true → goes (.widthChangeIdleEnd p false) (fun _ K => K = { P with idleIn := false }))
    ∧ (∀ f : Flit, p < 18 → P.dead = false → P.training = false → P.idleIn = false → f.data.length = 64 → fget 0 P.occ f.vc.toNat < 256 →
        P.newIn = none →
        (f.crcOk = true → P.missing = [] → f.seq = P.recvSeq → P.held = [] → pktVc (packetOf f.data) = f.vc.toNat →
          goes (.flitReceive p f) (fun t K => K.recvSeq = P.recvSeq + 1
            ∧ (pktLen (packetOf f.data) ≤ 48 → pktKind (packetOf f.data) ≠ 10 → t.arrived = s.arrived ++ [(p, packetOf f.data)]
                ∧ fget 0 K.occ f.vc.toNat = fget 0 P.occ f.vc.toNat + 1
                ∧ (P.thresh ≤ fget 0 P.occ f.vc.toNat + 1 → K.pausedRx.getLsbD f.vc.toNat = true))
            ∧ (48 < pktLen (packetOf f.data) → t.arrived = s.arrived ∧ fget [] K.held f.vc.toNat = [f])))
        ∧ ((f.crcOk = false ∨ (P.missing = [] ∧ P.recvSeq < f.seq)) →
          goes (.flitReceive p f) (fun t K => K.askedReplay = some P.expects ∧ K.recvSeq = P.recvSeq ∧ K.held = P.held ∧ t.arrived = s.arrived))
        ∧ (f.crcOk = true → P.missing = [] → f.seq < P.recvSeq → goes (.flitReceive p f) (fun t K => K = P ∧ t.arrived = s.arrived)))
    ∧ (∀ q, p < 18 → P.dead = false → P.training = false → (∃ f ∈ P.replay, f.seq = q) →
        (P.resendAt = none → P.idleOut = false → P.cut = false → goes (.replayRequest p q) (fun _ K =>
            ∃ new, K.wire = P.wire ++ P.replay.filter (fun f => q ≤ f.seq) ++ new))
        ∧ goes (.flitAcknowledge p q) (fun _ K => (∀ f ∈ K.replay, q < f.seq ∨ P.sendSeq ≤ f.seq) ∧ K.lastAsk = none))
    ∧ (P.dead = false → P.training = false →
        ((8 ≤ P.fails ∨ 8 ≤ P.sentFails) → goes (.linkRetrain p) (fun _ K => K.training = true ∧ K.replay = P.replay))
        ∧ (P.fails < 8 → P.sentFails < 8 → exec (.linkRetrain p) s = .fault .notDue))
    ∧ (∀ lo li, P.training = true → P.dead = false → lo ≤ P.out → li ≤ P.inn → goes (.linkTrainingEnd p lo li) (fun _ K =>
        K.training = false ∧ K.good = P.good - lo - li
        ∧ (K.dead = false → K.rtt ≤ 44 ∧ 2 ≤ K.good ∧ K.thresh = 256 - (K.rtt * K.inn + 3) / 4 - 8)))
    ∧ (∀ vc : BitVec 2, p < 18 → P.dead = false → P.training = false →
        goes (.linkPause p vc) (fun _ K => K = { P with pausedTx := K.pausedTx } ∧ ∀ i, i < 4 →
          K.pausedTx.getLsbD i = (P.pausedTx.getLsbD i || i == vc.toNat))
        ∧ goes (.linkResume p vc) (fun _ K => ∀ i, i < 4 → K.pausedTx.getLsbD i = (P.pausedTx.getLsbD i && i != vc.toNat)))
    ∧ (∀ K : Port, ∀ pkt, K.pausedTx.getLsbD (pktVc pkt) = true → K.mayCarry pkt = false)
    ∧ (p < 18 → P.dead = false → goes (.linkDeath p) (fun t K => K.dead = true ∧ K.replay = [] ∧ K.txq = []
        ∧ (∀ c, c < 16 → s.linkOf c = p → c ∈ t.heldCw) ∧ ∀ c ∈ s.heldCw, c ∈ t.heldCw))
    ∧ (p < 18 → P.farDead = false → goes (.linkDeath (18 + p)) (fun t K => K = { P with farDead := true }
        ∧ (∀ c, c < 16 → s.linkOf c = p → c ∈ t.heldCw) ∧ ∀ c ∈ s.heldCw, c ∈ t.heldCw))
    ∧ (let live (l : Nat) : Prop := (s.port l).dead = false ∧ (s.port l).farDead = false
      ∀ cw : BitVec 4, cw.toNat ∈ s.heldCw → ¬live (s.linkOf cw.toNat) → (∀ e ∈ s.arrived, pktCw e.2 ≠ cw.toNat) →
        ((∀ l, l < 18 → ¬live l) → exec (.carriagewayDrainComplete cw) s = .fault .notDue)
        ∧ ((∃ l, l < 18 ∧ live l) → ∃ t, exec (.carriagewayDrainComplete cw) s = .next t ∧ cw.toNat ∉ t.heldCw
          ∧ t.linkOf cw.toNat < 18 ∧ live (t.linkOf cw.toNat)
          ∧ ((∃ l, 16 ≤ l ∧ l < 18 ∧ live l ∧ ∀ c, c < 16 → s.linkOf c ≠ l) → 16 ≤ t.linkOf cw.toNat)
          ∧ (∀ c, c ≠ cw.toNat → t.linkOf c = s.linkOf c) ∧ (∀ r ∈ s.reqs, r ∈ t.reqs) ∧ ∀ m ∈ t.chunks, m.cw = cw.toNat → m.waits = false))

/-- R309, R310, R314-R316, R318, R319: requests of peers. A new read, write, aggregated or atomic packet that its import window admits is
performed at this device and answered with kind 1, 6 or 5; one that is not is answered with status, or with its faulted elements; no duplicate
is performed again but a read, each is answered again. An answer echoes the request's source, carriageway and PSEQ. A packet of a
reserved kind, or on another channel than its kind's, is discarded and counted. -/
def Obligations.PacketRequests : Prop :=
  ∀ (s : State) (p : Packet), s.manage.poweredDown = false →
    (∀ u, s.takeArrived p = some u →
      let v := u.acceptSeq p
      let pa := pktAddr p / 128 * 128
      let os := opsOf p.payload
      let ours (k : Nat) : Prop := pktKind p = k ∧ pktVc p = vcOf k
      (ours 0 → s.linesFree (pktAddr p) (4 * (pktRw p + 1)) = true →
        let w := if u.isNew p then v else u
        (∀ c, s.importFault (pktAddr p) (4 * (pktRw p + 1)) false = some c →
          exec (.read p) s = .next (w.answer p 11 (statusBytes c 0 (pktAddr p))).wake)
        ∧ (s.importFault (pktAddr p) (4 * (pktRw p + 1)) false = none →
          exec (.read p) s = .next (w.answer p 1 (bytesOf (4 * (pktRw p + 1)) (readBytes s.hbm (pktAddr p) (4 * (pktRw p + 1))))).wake))
      ∧ (ours 2 → s.linesFree pa 128 = true → s.frameMoving pa 128 = false →
        (u.isNew p = false → exec (.write p) s = .next (u.answer p 6 []).wake)
        ∧ (u.isNew p = true → (∀ c, s.importFault pa 128 true = some c → exec (.write p) s = .next (v.answer p 11 (statusBytes c 0 pa)).wake)
          ∧ (s.importFault pa 128 true = none → s.replay = none → ∃ t : State, exec (.write p) s = .next (t.answer p 6 []).wake
              ∧ (∀ i, i < 128 → fget emptyByte t.hbm (pa + i)
                  = if (numOf (p.payload.take 16)).testBit i then (p.payload.drop 16).getD i 0 else fget emptyByte s.hbm (pa + i))
              ∧ ∀ q, q < pa ∨ pa + 128 ≤ q → fget emptyByte t.hbm q = fget emptyByte s.hbm q)))
      ∧ (ours 3 → s.opsReady os false = true →
        (u.isNew p = false → exec (.aggregated p) s = .next (u.answer p 6 []).wake)
        ∧ (u.isNew p = true → (∀ o ∈ os, s.importFault o.pa o.size true = none) →
            exec (.aggregated p) s = .next ((os.foldl (fun y o => (y.serveOp o).2) v).answer p 6 []).wake)
        ∧ (u.isNew p = true → os ≠ [] → (∀ o ∈ os, s.importFault o.pa o.size true = some 7) →
            exec (.aggregated p) s = .next (v.answer p 7 (os.flatMap (fun o => faultElement o 7))).wake))
      ∧ (ours 4 → s.opsReady os true = true →
        let logged (t : State) (kind : Nat) (b : List Byte) : Prop := ∃ e : LogEntry,
          exec (.atomic p) s = .next (t.logResponse e).wake ∧ e.src = pktSrc p ∧ e.cw = pktCw p ∧ e.pseq = pktPseq p
            ∧ e.pkt = mkPacket (pktSrc p) s.dev kind (pktCw p) (pktPseq p) 0 0 0 b
        (u.isNew p = false → ∀ e, u.rlog.find? (fun e => e.src == pktSrc p && e.cw == pktCw p && e.pseq == pktPseq p) = some e →
            exec (.atomic p) s = .next (u.sendPacket e.pkt).wake)
        ∧ (u.isNew p = true → ∀ o, os = [o] →
          (∀ c, s.importFault o.pa o.size true = some c → logged v 11 (statusBytes c 0 o.pa))
          ∧ (s.importFault o.pa o.size true = none → e0Op o.e0 ≠ 9 → logged (v.serveOp o).2 5 (bytesOf 8 (v.serveOp o).1))
          ∧ (s.importFault o.pa o.size true = none → e0Op o.e0 = 9 →
            let r := v.update (v.importVf o.pa) (.phys o.pa) o.x.toInt none 0
            (∀ t old rd, r = .ok t old rd → logged t 5 (bytesOf 8 (BitVec.ofInt 64 old).toNat))
            ∧ (∀ c, r = .fail c → logged v 11 (statusBytes 0x21 c o.pa))))))
    ∧ (∀ (o : PktOp), s.replay = none →
        let n := typeSize (e0Type o.e0)
        (s.serveOp o).1 = readBytes s.hbm o.pa n
        ∧ readBytes (s.serveOp o).2.hbm o.pa n
          = (if e0Op o.e0 = 0 then o.x.toNat else atomApply (e0Op o.e0 - 1) (e0Type o.e0) (s.serveOp o).1 o.x.toNat o.c.toNat) % 256 ^ n
        ∧ ∀ q, q < o.pa ∨ o.pa + n ≤ q → fget emptyByte (s.serveOp o).2.hbm q = fget emptyByte s.hbm q)
    ∧ (∀ a n w, (∀ i, i < 16 → dbit (s.iwLo i) 63 = true → a < dfield (s.iwLo i) 47 12 * 4096 ∨ dfield (s.iwHi i) 47 12 * 4096 ≤ a) →
        s.importFault a n w = some 11)
    ∧ (∀ k b, pktSrc p ≠ s.dev → s.dev < 256 → (s.port (s.linkOf (pktCw p))).open = false → k < 16 → b.length < 512 →
        ∃ q, ((s.answer p k b).port (s.linkOf (pktCw p))).txq = (s.port (s.linkOf (pktCw p))).txq ++ [q] ∧ pktDest q = pktSrc p
          ∧ pktSrc q = s.dev ∧ pktKind q = k ∧ pktVc q = vcOf k ∧ pktCw q = pktCw p ∧ pktPseq q = pktPseq p ∧ q.payload = b)
    ∧ ∀ port u, s.takeArrived p = some u → (port, p) ∈ s.arrived → (12 ≤ pktKind p ∨ pktVc p ≠ vcOf (pktKind p)) →
        ∃ t, exec (.discardedPacket port p) s = .next t ∧ (t.port port).errors = (s.port port).errors + 1 ∧ t.hbm = s.hbm
          ∧ t.arrived = u.arrived ∧ ∀ i : Instr, i ∈ [Instr.read p, .readData p, .write p, .aggregated p, .atomic p, .atomicData p,
              .acknowledge p, .elementFaults p, .status p] → exec i s = .fault .notDue

/-- R117, R137, R144, R310, R315, R317, R319, R358: answers to this device's requests. Data and old values fill what asked for them; an
acknowledgement advances its engine; faulted elements enter their groups' logs; a status parks the issuing group on a miss and is its fault
otherwise, but a load of helper positions alone gets zeros (R33); a request without answer in time takes fabric-timeout, and the entries of an aggregated packet enter the logs with cause 9. -/
def Obligations.PacketAnswers : Prop :=
  ∀ (s : State) (p : Packet) (u : State) (r : FabReq), s.manage.poweredDown = false →
    let byte (i : Nat) : Nat := numOf ((p.payload.drop i).take 1)
    let parks (t : State) (g : Group) (kind tok : Nat) (a : Access) : Prop := ∃ e ∈ (t.ctx r.vf).parks, e.token = tok ∧ e.work = .request r.id
      ∧ e.words.getD 1 0 = dw a.va ∧ e.words.getD 2 0 = dw (a.gid.toNat + r.dev * 2 ^ 40 + 2 ^ 48)
      ∧ ((∀ o ∈ a.ops, o.pos < g.n) → (g.w = 16 ∨ g.w = 32 ∨ g.w = 64) → g.e ≤ 8 → (e.words.headD 0).toNat / 2 ^ 60 = kind)
    (s.takeArrived p = some u → u.requestOf p = some r →
      let v := u.answered r.id
      let ours (k : Nat) : Prop := pktKind p = k ∧ pktVc p = vcOf k
      (ours 1 → r.kind = 0 →
        (∀ a, r.body = .access [a] → ∃ t f, exec (.readData p) s = .next t ∧ t.fills = s.fills ++ [f] ∧ f.gid = a.gid
            ∧ f.items = a.dest.items a.ops a.size (numOf ((p.payload.drop (a.peerAt.2 - r.addr)).take a.size)) ∧ t.hbm = s.hbm)
        ∧ (∀ x va, r.body = .lineRead x va → ∃ t, exec (.readData p) s = .next t ∧ t.hbm = s.hbm
            ∧ ∀ q ∈ t.xfers, q.id = x → q.st = .running))
      ∧ (ours 5 → r.kind = 4 →
        (∀ a, r.body = .access [a] → ∃ t f, exec (.atomicData p) s = .next t ∧ t.fills = s.fills ++ [f] ∧ f.gid = a.gid
            ∧ f.items = atomItems a.dest a.ops a.size (oldValues a p.payload))
        ∧ (∀ g n d a va, r.body = .task g n (some d) a va → ∃ t f, exec (.atomicData p) s = .next t ∧ t.fills = s.fills ++ [f]
            ∧ f.gid = g ∧ f.items = [.s d (dw (numOf (p.payload.take 8)))]))
      ∧ (ours 6 → (r.kind = 2 ∨ r.kind = 3 ∨ r.kind = 8) →
        (∀ es, r.body = .agg es → ∃ t, exec (.acknowledge p) s = .next t ∧ t.hbm = s.hbm ∧ t.reqs = v.reqs ∧ t.waitReqs = v.waitReqs)
        ∧ (∀ x q n, r.body = .line x n → s.xfers.find? (fun k => k.id == x) = some q → ∃ t k, exec (.acknowledge p) s = .next t
            ∧ t.xfers.find? (fun j => j.id == x) = some k ∧ k.bytes = q.bytes + n ∧ k.st = .running ∧ k.req = q.req))
      ∧ (ours 7 → r.kind = 3 → ∀ es e g, r.body = .agg es → p.payload.length = 16 → es[byte 8]? = some e → s.group e.gid = some g →
          g.aggLog.length < 8 → ∃ t h, exec (.elementFaults p) s = .next t ∧ t.group e.gid = some h
            ∧ h.aggLog = g.aggLog ++ [{ e0 := dw (numOf (p.payload.take 8)), index := byte 8, cause := byte 9 }] ∧ h.aggLost = g.aggLost)
      ∧ (ours 11 → (r.kind = 0 ∨ r.kind = 2 ∨ r.kind = 4) → ∀ a g, r.body = .access [a] → s.group a.gid = some g →
        (a.ops ≠ [] → a.helperOps = a.ops → ∃ t f, exec (.status p) s = .next t ∧ t.fills = s.fills ++ [f] ∧ f.gid = a.gid
            ∧ f.items = a.dest.items a.ops a.size 0 ∧ (t.ctx g.vf).st = (s.ctx g.vf).st)
        ∧ (a.helperOps = [] → ∀ k, (byte 0 = 10 ∧ k = 3) ∨ (byte 0 = 11 ∧ k = 2) → ∃ t h tok, exec (.status p) s = .next t ∧ t.group a.gid = some h
            ∧ h.park = .miss ∧ h.tokens = g.tokens ++ [tok] ∧ h.fault = g.fault ∧ parks t g k tok a
            ∧ (∃ q ∈ t.waitReqs, q.id = r.id ∧ q.parked = some tok))
        ∧ (a.helperOps = [] → byte 0 ≠ 10 → byte 0 ≠ 11 → ∃ t h f, exec (.status p) s = .next t ∧ t.group a.gid = some h ∧ h.fault = some f
            ∧ f.code = byte 0 ∧ f.daddr = a.va ∧ f.faddr = a.addr ∧ h.stopped = true ∧ (t.ctx g.vf).st ≠ .live)))
    ∧ (s.reqs.find? (fun q => q.id == r.id) = some r → r.id < 2 ^ 60 →
      (r.cw ∈ s.heldCw → exec (.fabricTimeout r.id) s = .fault .notDue)
      ∧ (r.cw ∉ s.heldCw →
        (∀ a g, r.body = .access [a] → a.helperOps = [] → s.group a.gid = some g → ∃ t h f, exec (.fabricTimeout r.id) s = .next t ∧ t.group a.gid = some h
            ∧ h.fault = some f ∧ f.code = 9 ∧ f.daddr = a.va ∧ f.faddr = a.addr ∧ (t.ctx g.vf).st ≠ .live)
        ∧ (∀ e g, r.body = .agg [e] → s.group e.gid = some g → g.aggLog.length < 8 → ∃ t h, exec (.fabricTimeout r.id) s = .next t
            ∧ t.group e.gid = some h ∧ h.aggLog = g.aggLog ++ [{ e0 := e.e0, index := 0, cause := 9 }] ∧ h.fault = g.fault)))

/-! ### Rings -/

/-- R333, R337-R343, R358: the sequencer's steps. A member's ready chunk is read once, combined with the partial that travels, and its count
restarts; the partial passes on by the region's carriageway, where it waits while that is held, or after the last member becomes a result or
makes its second round; a differing message abandons the chunk with a region fault and EN 0. A result's bytes are written, then counted down; a miss parks it, another fault abandons it. -/
def Obligations.RingSteps : Prop :=
  ∀ (s : State) (m : RingMsg), s.manage.poweredDown = false →
    let c := s.ctx m.vf
    let n := m.region
    let key := (c.ringSpot m).1
    let step := exec (.ringChunk m) s
    let open_ : Prop := s.runs m.vf = true ∧ c.rrEn n = true ∧ s.ringHeld m.vf n m.chunk = false
    let away : Prop := s.ringComes m = true
    let taken (l : List RingItem) : List RingItem := l.map (fun it => (takenItem it).1)
    let out (k : RingMsg) : RingMsg := { k with cw := c.rrCw n, waits := !c.rrLoop n && !c.ringHere k && s.heldCw.contains (c.rrCw n) }
    let abandoned (t : State) (vf r k cause : Nat) : Prop := dbit ((t.ctx vf).rr r 0) 63 = false
      ∧ Posted s t vf 1 (reportWords 6 cause k (r % 2 ^ 64) 0)
      ∧ (∀ q ∈ t.results, ¬(q.vf = vf ∧ q.region = r ∧ q.chunk = k)) ∧ (∀ q ∈ t.chunks, ¬(q.vf = vf ∧ q.region = r ∧ q.chunk = k))
      ∧ t.hbm = s.hbm ∧ t.updates = s.updates
    (open_ → away → c.ringAgrees m = false → m.pos = c.rrPos n → ∃ t, step = .next t ∧ abandoned t m.vf n m.chunk 0x0A)
    ∧ ((s.runs m.vf = false ∨ c.rrEn n = false) → step = .fault .notDue)
    ∧ (open_ → c.ringAgrees m = true → m.writing = false → c.ringHere m = true → (m ∈ s.chunks ∨ away) → s.ringBlocked m = false →
      (key ∉ c.ready → step = .fault .notDue)
      ∧ (key ∈ c.ready → ∀ bs, s.ringRead m.vf (c.ringSpot m).2 (c.rrBytes n m.chunk) = .ok bs →
        let own := chunkItems (c.rrOp n) (c.rrType n) (c.rrPv n) bs (c.rrPoints n m.chunk)
        let items := if m.visited = 0 then own else List.zipWith (combineItem (c.rrOp n) (c.rrType n) (c.rrRnd n) s.free) (taken m.items) own
        let read (t : State) : Prop := fget 0 (t.ctx m.vf).counts key = 0 ∧ (t.ctx m.vf).ready = c.ready.erase key
          ∧ fget 0 (t.ctx m.vf).rounds key = fget 0 c.rounds key + 1
        (m.visited + 1 < c.rrLen n → ∃ t q, step = .next t ∧ read t ∧ q ∈ t.chunks
            ∧ q = out { m with items := items, visited := m.visited + 1, pos := (m.pos + 1) % c.rrLen n } ∧ t.results = s.results)
        ∧ (c.rrLen n ≤ m.visited + 1 → c.rrLoop n = false → c.rrLen n ≠ 1 → (c.rrAll n = true ∨ m.pos ≠ 0) → ∃ t q, step = .next t ∧ read t
            ∧ q ∈ t.chunks ∧ q.writing = true ∧ q.visited = 0 ∧ q.items = items ∧ q.pos = (m.pos + 1) % c.rrLen n ∧ t.results = s.results)
        ∧ (c.rrLen n ≤ m.visited + 1 → (c.rrLoop n = true ∨ c.rrLen n = 1 ∨ (c.rrAll n = false ∧ m.pos = 0)) → c.rrOp n ≠ 7 →
            ∃ t r, step = .next t ∧ read t ∧ t.results = s.results ++ [r] ∧ r.vf = m.vf ∧ r.region = n ∧ r.chunk = m.chunk
              ∧ r.addr = c.rrResult n + m.chunk * c.rrCpts n * c.rrResultPoint n ∧ r.size = r.bytes.length
              ∧ r.bytes = resultBytes (c.rrOp n) (c.rrType n) (c.rrRout n) (c.rrRnd n) (c.rrLen n * c.rrPv n) (taken items)
              ∧ ∀ q ∈ t.chunks, ¬(q.vf = m.vf ∧ q.region = n ∧ q.chunk = m.chunk))))
    ∧ (open_ → c.ringAgrees m = true → m.writing = true → c.ringHere m = true → away → c.rrAll n = true → c.rrOp n ≠ 7 →
        ∃ t r, step = .next t ∧ t.results = s.results ++ [r] ∧ r.vf = m.vf ∧ r.region = n ∧ r.chunk = m.chunk
          ∧ r.bytes = resultBytes (c.rrOp n) (c.rrType n) (c.rrRout n) (c.rrRnd n) (c.rrLen n * c.rrPv n) (taken m.items)
          ∧ (m.visited + 1 < c.rrLen n → out { m with pos := (m.pos + 1) % c.rrLen n, visited := m.visited + 1 } ∈ t.chunks))
    ∧ (∀ type rnd free (i j e : Int) (a b p a' b' p' : Bool), inLong (i + j) = true →
        combineItem 1 type rnd free (.exact i e a b p) (.exact j e a' b' p') = combineItem 1 type rnd free (.exact j e a' b' p') (.exact i e a b p))
    ∧ ∀ r : RingResult, s.results.find? (fun k => k.vf == r.vf && k.region == r.region && k.chunk == r.chunk) = some r →
      let step := exec (.ringResultWrite r.vf r.region r.chunk) s
      let counts (t : State) : Prop := ∀ w, recordAt { launch := 0, cluster := 0, blockNo := 0, blocks := 0, scr := 0 } r.vf
          ((s.ctx r.vf).rr r.region 5) = .ok (some w) → ∃ u, t.updates = s.updates ++ [u] ∧ u.target = w ∧ u.d = -(r.size : Int) ∧ u.vf = r.vf
      (r.bytes = [] → (∀ i ∈ r.reqs, s.isPending i = false) → ∃ t, step = .next t ∧ t.hbm = s.hbm ∧ counts t
          ∧ ∀ q ∈ t.results, ¬(q.vf = r.vf ∧ q.region = r.region ∧ q.chunk = r.chunk))
      ∧ (r.bytes ≠ [] → s.drives r.vf = true → r.parked = none →
        (∀ va a, s.spanRuns r.vf r.addr r.bytes = .ok [(va, .hbm a, r.bytes)] → s.lineHeld (.hbm a) = false → s.moving r.vf va = false →
          ∃ t, step = .next t ∧ readBytes t.hbm a r.bytes.length = numOf r.bytes ∧ counts t
            ∧ ∀ q ∈ t.results, ¬(q.vf = r.vf ∧ q.region = r.region ∧ q.chunk = r.chunk))
        ∧ (∀ code cause, s.spanRuns r.vf r.addr r.bytes = .error (.fault code cause) → ∃ t, step = .next t
            ∧ abandoned t r.vf r.region r.chunk code)
        ∧ (∀ d, s.spanRuns r.vf r.addr r.bytes = .error (.miss d) → ∃ t q tok, step = .next t ∧ q ∈ t.results ∧ q.bytes = r.bytes
            ∧ q.parked = some tok ∧ t.hbm = s.hbm ∧ t.updates = s.updates
            ∧ ∃ e ∈ (t.ctx r.vf).parks, e.token = tok ∧ e.work = .result r.region r.chunk))

/-- R139, R370, R372-R374: what the host does. A write of a tier T2 line is performed at once over CXL, and is seen once a launch doorbell has
followed it; ring registers take PI, CI, LOG2 and EN as
their ring's producer and state allow, a PI too far ahead is counted in OVF, and every other register write is ignored but for RBASE of a
ring out of service. -/
def Obligations.HostWrites : Prop :=
  ∀ (s : State) (fn r : Nat), s.manage.poweredDown = false →
    let k := s.ring fn r
    let leaves (i : Instr) (new : Ring) : Prop := ∃ t, exec i s = .next t ∧ t.ring fn r = new ∧ t.hbm = s.hbm ∧ t.host = s.host
      ∧ ∀ q, q ≠ r → t.ring fn q = s.ring fn q
    let there : Prop := (fn = 0 ∧ (r = 0 ∨ r = 4 ∨ r = 5 ∨ r = 6)) ∨ (0 < fn ∧ fn < 64 ∧ r < 4 ∧ s.manage.mode ≠ 2)
    let fed : Prop := r = 0 ∨ r = 2 ∨ r = 5
    (∀ a bs, a % 128 + bs.length ≤ 128 → s.lineHeld (.host a) = false → ∃ t, exec (.hostSnoop a bs) s = .next t ∧ t.hbm = s.hbm
        ∧ (∀ i, i < bs.length → fget emptyByte t.host (a + i) = bs.getD i 0)
        ∧ (∀ q, q < a ∨ a + bs.length ≤ q → fget emptyByte t.host q = fget emptyByte s.host q)
        ∧ (s.manage.cxl = true → s.hostOld = [] → t.hostOld = [] ∧ t.readLoc (.host a) bs.length = numOf bs))
    ∧ (there → ∀ v : Word,
      (fed → (v - k.ci).toNat ≤ 2 ^ k.log2 → leaves (.ringPiWrite fn r v) { k with pi := v })
      ∧ (r = 0 → (v - k.ci).toNat ≤ 2 ^ k.log2 → ∃ t, exec (.ringPiWrite fn r v) s = .next t ∧ t.hostOld = [])
      ∧ (fed → 2 ^ k.log2 < (v - k.ci).toNat → leaves (.ringPiWrite fn r v) { k with ovf := if k.ovf = 0xFFFFFFFF then k.ovf else k.ovf + 1 })
      ∧ (¬fed → leaves (.ringPiWrite fn r v) k)
      ∧ (fed → leaves (.ringCiWrite fn r v) k)
      ∧ (¬fed → leaves (.ringCiWrite fn r v) { k with ci := v }))
    ∧ (there → ∀ v : Dword,
      let n := v.toNat / 16 % 16
      (k.en = false → leaves (.ringControlWrite fn r v) (if v.toNat % 2 = 1
          then { k with log2 := max 4 n, en := true, pi := 0, ci := 0, ovf := 0 } else { k with log2 := max 4 n }))
      ∧ (k.en = true → leaves (.ringControlWrite fn r v) { k with en := v.toNat % 2 == 1 })
      ∧ (k.en = false → leaves (.registerWriteOther fn (0x100 + 32 * r) 8 v) { k with base := dw (v.toNat / 4096 * 4096) })
      ∧ (k.en = true → leaves (.registerWriteOther fn (0x100 + 32 * r) 8 v) k)
      ∧ (∀ w, w ≠ 8 → leaves (.registerWriteOther fn (0x100 + 32 * r) w v) k)
      ∧ (∀ w, leaves (.registerWriteOther fn (0x100 + 32 * r + 24) w v) k))
    ∧ ∀ off w (v : Dword), fn < 64 → (off < 0x100 ∨ 0x1E0 ≤ off) → exec (.registerWriteOther fn off w v) s = .next s.wake

/-! ### Management commands -/

/-- R95, R101, R106, R108, R141, R315, R316, R320, R333, R334, R351, R375, R376, R396: SETCTX and FABCFG. A SETCTX with a bit set where zero
is required or a value out of range answers invalid, one that needs the function away answers busy while it is resident, a region entry
that R334 refuses answers refused; each of these changes nothing; otherwise the field holds the values given, reserved bits zero, and
nothing else of the context changes. -/
def Obligations.ContextCommands : Prop :=
  ∀ (s : State) (c : Cmd), s.manage.poweredDown = false → s.cmd = some c → s.cmdBad c = false →
    let vf := cmdOf c
    let C := s.ctx vf
    let f := c.w1.toNat % 256
    let a := c.w2.toNat
    let b := c.w3.toNat
    let d := c.w4.toNat
    let kept (t : State) : Prop := t.hbm = s.hbm ∧ t.groups.length = s.groups.length ∧ t.launches = s.launches
      ∧ ∀ v, v ≠ vf → v ≠ 0 → t.ctx v = s.ctx v
    let turned (i : Instr) (st : Nat) : Prop := ∃ t, exec i s = .next t ∧ Answered s t c st ∧ kept t
      ∧ t.ctx vf = { C with rings := (t.ctx vf).rings }
    let sets (i : Instr) (away : Bool) (ok : Prop) (P : Ctx → Prop) : Prop :=
      (¬ok → turned i 2) ∧ (ok → away = true → s.resides vf = true → turned i 1)
      ∧ (ok → (away = true → s.resides vf = false) → ∃ t, exec i s = .next t ∧ Answered s t c 0 ∧ kept t ∧ P (t.ctx vf))
    let zero (n : Nat) : Prop := c.w1.toNat < 256 ∧ ∀ j, n + 2 ≤ j → j ≤ 7 → cmdWord c j = 0
    sets .setctxRoot true (zero 1 ∧ s.inHbm (a * 4096) 4096 = true) (fun k => k = { C with root := a, rings := k.rings })
    ∧ sets .setctxWindow true (zero 3) (fun k => k = { C with windows := k.windows, rings := k.rings }
        ∧ fget 0 k.windows (3 * (f - 2)) = dw (a / 2 ^ 12 % 2 ^ 40 * 2 ^ 12 + a % 2)
        ∧ fget 0 k.windows (3 * (f - 2) + 1) = dw (b / 2 ^ 12 % 2 ^ 40 * 2 ^ 12)
        ∧ fget 0 k.windows (3 * (f - 2) + 2) = dw (d / 2 ^ 12 % 2 ^ 40 * 2 ^ 12)
        ∧ ∀ j, j / 3 ≠ f - 2 → fget 0 k.windows j = fget 0 C.windows j)
    ∧ sets .setctxAgel false (zero 1 ∧ a < 2 ^ 16) (fun k => k = { C with agel := max 64 a, rings := k.rings })
    ∧ sets .setctxRoute true (zero 3 ∧ a % 32 = 0 ∧ b % 64 = 0
          ∧ (a / 2 ^ 56 = 0 ∨ ∀ e ∈ s.ctxs, e.1 ≠ vf → e.2.rxtab.toNat / 2 ^ 56 ≠ a / 2 ^ 56))
        (fun k => k = { C with rxtab := dw (a / 2 ^ 56 * 2 ^ 56 + a % 2 ^ 52), dlbase := dw (b % 2 ^ 52), dlcap := dw (d % 2 ^ 16), rings := k.rings })
    ∧ sets .setctxSavebase true (zero 1 ∧ a % 4096 = 0 ∧ s.inHbm a 4096 = true) (fun k => k = { C with saveBase := c.w2, rings := k.rings })
    ∧ sets .setctxWeightRegion true (zero 2 ∧ a + b ≤ 2048 ∧ s.weightClash vf (f - 24) a b = false)
        (fun k => k = { C with weight := k.weight, rings := k.rings } ∧ fget 0 k.weight (2 * (f - 24)) = a * 2 ^ 18
          ∧ fget 0 k.weight (2 * (f - 24) + 1) = b * 2 ^ 18 ∧ ∀ j, j / 2 ≠ f - 24 → fget 0 k.weight j = fget 0 C.weight j)
    ∧ sets .setctxMigrationPolicy false (zero 1) (fun k => k = { C with migPolicy := dw (a / 2 ^ 63 * 2 ^ 63 + a % 2 ^ 48), rings := k.rings })
    ∧ sets .setctxFramePool false (zero 2 ∧ a % 8 = 0 ∧ b ≤ 2 ^ 24 ∧ (b = 0 ∨ s.inHbm a (8 * b) = true))
        (fun k => k = { C with poolAddr := c.w2, poolCount := c.w3, rings := k.rings })
    ∧ sets .setctxT2Limit true (zero 1 ∧ a < 2 ^ 40) (fun k => k = { C with t2limit := a, rings := k.rings })
    ∧ (let n := f - 7
       let k := C.withRegion n (regionWords c)
       let legal : Prop := a < 2 ^ 63 ∨ (k.rrLegal n && s.listOk vf k n) = true
       (2 ^ 60 ≤ c.w1.toNat → turned .setctxRegion 2)
       ∧ (c.w1.toNat < 2 ^ 60 → s.resides vf = true → turned .setctxRegion 1)
       ∧ (c.w1.toNat < 2 ^ 60 → s.resides vf = false → ¬legal → turned .setctxRegion 3)
       ∧ (c.w1.toNat < 2 ^ 60 → s.resides vf = false → legal → ∃ t, exec .setctxRegion s = .next t ∧ Answered s t c 0 ∧ kept t
          ∧ (let m := t.ctx vf
             m = { C with regions := m.regions, counts := m.counts, ready := m.ready, rounds := m.rounds, rings := m.rings }
             ∧ m.rr n 0 = dw (a / 2 ^ 23 * 2 ^ 23) ∧ m.rr n 1 = dw (b % 2 ^ 52) ∧ m.rr n 2 = dw (d / 2 ^ 16 * 2 ^ 16)
             ∧ m.rr n 3 = dw (c.w5.toNat % 2 ^ 52) ∧ m.rr n 4 = dw (c.w6.toNat % 2 ^ 52) ∧ m.rr n 5 = c.w7
             ∧ m.rr n 6 = dw (c.w1.toNat / 2 ^ 8 % 2 ^ 52) ∧ m.rr n 7 = 0 ∧ ∀ q i, q ≠ n → i < 8 → m.rr q i = C.rr q i)))
    ∧ turned .unknownOp 2
    ∧ (∃ t, exec .fabcfgImportWindow s = .next t ∧ Answered s t c 0 ∧ kept t ∧ (∀ v, v ≠ 0 → t.ctx v = s.ctx v)
        ∧ t.iwLo c.w1.toNat = dw (a / 2 ^ 54 * 2 ^ 54 + a / 2 ^ 12 % 2 ^ 36 * 2 ^ 12) ∧ t.iwHi c.w1.toNat = dw (b / 2 ^ 12 % 2 ^ 36 * 2 ^ 12)
        ∧ ∀ i, i ≠ c.w1.toNat → t.iwLo i = s.iwLo i ∧ t.iwHi i = s.iwHi i)
    ∧ ((a % 4096 ≠ 0 ∨ b < 65536 ∨ s.inHbm a b = false) → turned .fabcfgResponseLog 2)
    ∧ (a % 4096 = 0 → 65536 ≤ b → s.inHbm a b = true → ∃ t, exec .fabcfgResponseLog s = .next t ∧ Answered s t c 0 ∧ kept t
        ∧ t.rlogBase = c.w2 ∧ t.rlogSize = c.w3 ∧ ∀ e ∈ s.rlog, e ∈ t.rlog)

/-- R105, R307, R365, R370, R375, R379, R381, R385, R386, R388: the other commands. INVAL completes once no access uses the range's old
translations, and forgets them; LSPLIT sets a port's split; DBGRD reads a halted context that the named core ran; PMCTL restarts the counters;
REPLAY begins its first pass, and a pass that has ended writes its record, restores what it changed and begins the next, or completes; ATTEST
writes its report; FWLOAD keeps an image that verifies. -/
def Obligations.OtherCommands : Prop :=
  ∀ (s : State), s.manage.poweredDown = false →
    (∀ c, s.cmd = some c → s.cmdBad c = false →
      let vf := cmdOf c
      let a := c.w1.toNat
      let b := c.w2.toNat
      let n := c.w3.toNat
      let host := c.w4.toNat
      let entry := (s.ring 0 6).entryAt 6 (s.ring 0 6).pi.toNat
      let answers (i : Instr) (st : Nat) (P : State → Prop) : Prop := ∃ t, exec i s = .next t ∧ Answered s t c st ∧ P t
      let same (t : State) : Prop := t.hbm = s.hbm ∧ t.tlb = s.tlb ∧ t.ports = s.ports ∧ t.launches = s.launches
      (2 ^ 52 < a + b → answers .inval 2 same)
      ∧ (a + b ≤ 2 ^ 52 → (∃ f ∈ s.flight ++ s.unacked, f.inRange vf a b = true) → exec .inval s = .fault .notDue)
      ∧ (a + b ≤ 2 ^ 52 → (∀ f ∈ s.flight ++ s.unacked, f.inRange vf a b = false) → (∀ r ∈ s.reqs ++ s.waitReqs, r.inRange vf a b = false) →
          let lo (e : Tlb) : Nat := e.page * 4096 / e.span * e.span
          let hit (e : Tlb) : Prop := e.vf = vf ∧ lo e < a + b ∧ a < lo e + e.span
          answers .inval 0 (fun t => (∀ e ∈ t.tlb, ¬hit e) ∧ (∀ e ∈ s.tlb, ¬hit e → e ∈ t.tlb) ∧ t.hbm = s.hbm))
      ∧ ((18 ≤ a ∨ b = 0 ∨ 15 < b) → answers .lsplit 2 same)
      ∧ (a < 18 → 1 ≤ b → b ≤ 15 → 2 ≤ (s.port a).good →
          let o := max 1 (min ((s.port a).good * b / 16) ((s.port a).good - 1))
          answers .lsplit 0 (fun t => (t.port a).lsplit = b ∧ (∀ q, q ≠ a → t.port q = s.port q) ∧ (t.port a).out = (s.port a).out
            ∧ (o ≠ (s.port a).out → (t.port a).newOut = some o)
            ∧ ((s.port a).good - o ≠ (s.port a).inn → (t.port a).newIn = some ((s.port a).good - o))))
      ∧ ((4096 ≤ a ∨ n = 0 ∨ 4096 < n) → answers .dbgrd 2 same)
      ∧ (a < 4096 → 1 ≤ n → n ≤ 4096 → ((s.ctx vf).st ≠ .halted ∨ ∀ k ∈ (s.ctx vf).saved.blocks, k.core ≠ a / 4) → answers .dbgrd 3 same)
      ∧ (a < 4096 → 1 ≤ n → n ≤ 4096 → (s.ctx vf).st = .halted → (∃ k ∈ (s.ctx vf).saved.blocks, k.core = a / 4) →
        (∀ bs, State.dbgRead { s with cmd := none } vf b n = .data bs → answers .dbgrd 0 (fun t => same t
            ∧ (entry + 16 ≤ host ∨ host + bs.length ≤ entry → readBytes t.host host bs.length = numOf bs)))
        ∧ (State.dbgRead { s with cmd := none } vf b n = .withheld → answers .dbgrd 3 same)
        ∧ (State.dbgRead { s with cmd := none } vf b n = .bad → answers .dbgrd 2 same))
      ∧ answers .pmctl 0 (fun t => t.manage.pmctl = c.w1 ∧ (∀ k, (t.core k).pm = []) ∧ same t)
      ∧ (let nonce := [c.w1, c.w2, c.w3, c.w4].flatMap (fun w => bytesOf 8 w.toNat)
         let dst := c.w5.toNat
         answers .attest 0 (fun t => same t ∧ (entry + 16 ≤ dst ∨ dst + 704 ≤ entry →
           readBytes t.host dst 32 = numOf nonce ∧ readBytes t.host (dst + 176) 8 = s.manage.bootst.toNat)))
      ∧ (let image := bytesOf b (s.hostRead a b)
         (Config.verifies image = true → answers .fwload 0 (fun t => t.manage.fwNext = image ∧ t.manage.firmware = s.manage.firmware ∧ same t))
         ∧ (Config.verifies image = false → answers .fwload 5 (fun t => t.manage = s.manage ∧ same t)))
      ∧ (s.replayOk c = false → answers .replay 2 same)
      ∧ (s.replayOk c = true → (s.working vf = true ∨ s.replay ≠ none ∨ (s.ctx vf).st ≠ .live) → answers .replay 1 same)
      ∧ (s.replayOk c = true → s.working vf = false → s.replay = none → (s.ctx vf).st = .live →
          ∀ ws k, s.launchWords vf false 32 a = .ok ws → s.launchCause (launchOf ws) = 0 →
            s.launchWords vf false (shKcount (launchOf ws).shape) (launchOf ws).ktab.toNat = .ok k →
            ∃ t r l, exec .replay s = .next t ∧ t.cmd = none ∧ t.replay = some r ∧ r.cmd = c ∧ r.pass = 1 ∧ r.captured = []
              ∧ t.launches = s.launches ++ [l] ∧ l.vf = vf ∧ l.shape = (launchOf ws).shape ∧ l.k = k ∧ l.replay = true
              ∧ t.hbm = ((s.launchTouch vf a 32).launchTouch vf (launchOf ws).ktab.toNat (shKcount (launchOf ws).shape)).hbm
              ∧ t.manage.pmctl.toNat / 2 ^ 63 = 1 ∧ t.manage.pmctl.toNat / 2 ^ 48 % 2 ^ 6 = vf))
    ∧ ∀ r, s.replay = some r →
      let vf := cmdOf r.cmd
      let at_ := r.cmd.w4.toNat + (r.pass - 1) * 32832
      let tag := r.cmd.w0.toNat % 2 ^ 32
      (r.full = true → (s.ctx vf).st = .halted → ∃ t v, exec .replayPassEnd s = .next t ∧ t.replay = none
          ∧ Posted s t 0 6 [dw (4 * 2 ^ 56 + tag), v])
      ∧ (r.full = false → s.working vf = true → exec .replayPassEnd s = .fault .notDue)
      ∧ (r.full = false → s.working vf = false → r.cmd.w5.toNat % 16 ≤ r.pass → ∃ t v, exec .replayPassEnd s = .next t ∧ t.replay = none
          ∧ Posted s t 0 6 [dw tag, v] ∧ readBytes t.hbm at_ 8 = r.pass % 2 ^ 64 ∧ readBytes t.hbm (at_ + 8) 8 = r.psig.toNat
          ∧ readBytes t.hbm (at_ + 16) 8 = (if 1 < r.pass ∧ r.psig ≠ r.psig1 then 1 else 0))
      ∧ (r.full = false → s.working vf = false → r.pass < r.cmd.w5.toNat % 16 → ∃ t, exec .replayPassEnd s = .next t
          ∧ (let u := (s.spend.writeLoc (.hbm at_) (s.passRecord r) none noVf).restorePages r
            (∀ l bs, r.captured = [(.hbm l, bs)] → readBytes u.hbm l bs.length = numOf bs)
            ∧ (t.replay = none → t.hbm = u.hbm)
            ∧ ∀ q, t.replay = some q → q.pass = r.pass + 1 ∧ q.captured = r.captured ∧ q.cmd = r.cmd
              ∧ ∃ (y : State) (k n : Nat), y.hbm = u.hbm ∧ t.hbm = ((y.launchTouch vf r.cmd.w1.toNat 32).launchTouch vf k n).hbm))

/-! ### Faults, encodings, the whole machine -/

/-- R346, R348, R305, R144, R357: a fault of a group: the group keeps it and stops at its word, the context of its function, live or
stopping for a pre-emption (the latter by log entry 109), halts with it as the first fault, other contexts and groups are as they were, and memory too where no capsule tenure is stalled; no slot of
a function that is not live is ready. Leaving: the context is live, its groups go on with no fault. -/
def Obligations.FaultEntryAndReturn : Prop :=
  (∀ (s : State) (gid : Gid) (g : Group) (f : FaultInfo), s.group gid = some g →
    let t : State := s.takeFault gid f
    (∃ h : Group, t.group gid = some h ∧ h.fault = some f ∧ h.stopped = true
      ∧ (g.cap.inMode = false → h = { g with fault := some f, stopped := true }))
    ∧ (∀ k, k ≠ gid → t.group k = s.group k)
    ∧ (t.ctx g.vf).st ≠ .live
    ∧ (g.cap.inMode = false →
        t = { s with groups := t.groups, ctxs := t.ctxs }
        ∧ (∀ v, v ≠ g.vf → t.ctx v = s.ctx v)
        ∧ ((s.ctx g.vf).st = .live ∨ (s.ctx g.vf).st = .stopping true → t.ctx g.vf = { s.ctx g.vf with st := .stopping false, first := some (.group gid), firstFault := some f })
        ∧ ((s.ctx g.vf).st ≠ .live → (s.ctx g.vf).st ≠ .stopping true → t.ctx g.vf = s.ctx g.vf)))
  ∧ (∀ (s : State) (g : Group) (p : Path), (s.ctx g.vf).st ≠ .live → s.slotReady g p = false)
  ∧ ∀ (s : State) (vf : Nat),
    let t : State := s.leaveFault vf
    t = { s with groups := t.groups, ctxs := t.ctxs }
    ∧ (t.ctx vf).st = .live ∧ (t.ctx vf).first = none ∧ (t.ctx vf).firstFault = none ∧ (t.ctx vf).acked = []
    ∧ (∀ v, v ≠ vf → t.ctx v = s.ctx v)
    ∧ ∀ gid g, s.group gid = some g → ∃ h : Group, t.group gid = some h
      ∧ (g.vf ≠ vf → h = g)
      ∧ (g.vf = vf → h.fault = none ∧ h.stopped = false ∧ h.v = g.v ∧ h.s = g.s ∧ h.m = g.m ∧ h.x = g.x ∧ h.paths = g.paths
        ∧ (∀ k, g.fault = some k → (k.code = 0x20 → h.aggLog = [] ∧ h.aggLost = 0) ∧ (k.code = 0x18 → h.park = .none)))

/-- R152, R157, R160, R162, R167, R168: words written out from the encoding tables decode to the instructions they stand for; reserved
opcodes, prefixes and words with a set bit that must be zero are no instruction. -/
def Obligations.DecodeWords : Prop :=
  decode 0x00041020 = .ok (.vadd 1 2 2 0 0)
  ∧ decode 0x36080802 = .ok (.vcmpi 0 2 1 0 2)
  ∧ decode 0x38040000 = .ok (.vmovi 1 0 0)
  ∧ decode 0x46143821 = .ok (.ffma 5 7 2 0 1)
  ∧ decode 0x9B4D1FE0 = .ok (.saddi 41 40 0xFF 0)
  ∧ decode 0xA149001B = .ok (.bra 41 1 27)
  ∧ decode 0xA2110004 = .ok (.bdiv 2 1 4)
  ∧ decode 0xA4000000 = .ok .join
  ∧ decode 0xB0C3100C = .ok (.ld 48 49 0 3 0 0)
  ∧ decode 0xCA08C198 = .ok (.qsetShape 1 6 3 1)
  ∧ decode 0xCC0D0000 = .ok (.qbind 1 40 0)
  ∧ decode 0xEA500000 = .ok (.rqcvt 20 0 0 0)
  ∧ decode 0xEC008600 = .ok (.tarm 4 12)
  ∧ decode 0xEE488118 = .ok (.taddR 9 4 2 1)
  ∧ decode 0xF0008000 = .ok (.arrive 4)
  ∧ decode 0xF2508580 = .ok (.poll 10 4 11 0)
  ∧ decode 0xF5440010 = .ok (.capstep 40 32)
  ∧ decode 0xF6000384 = .ok (.regclm 28)
  ∧ decode 0xFA380010 = .ok (.sysCyc 7)
  ∧ decode 0xFA0000A0 = .ok (.sysTrap 5)
  ∧ decode 0x3A000000 = .error .reservedOpcode
  ∧ decode 0xFC000000 = .error .prefixWord
  ∧ decode 0xA4000001 = .error .badField
  ∧ isPrefix 0xFC000000 = true
  ∧ decodeHeader 0x1E000000 = { n := 1, cls := 7, ms := false, epol := false, wtk := false, wcq := false, wpa := false, wst := false }

/-- R160, R167, R168: decoding and encoding agree, both ways: the word of a well-formed instruction decodes to it, every operand at every
value; and a word that decodes is the word of its instruction, so no bit is dropped. -/
def Obligations.EncodeDecode : Prop :=
  (∀ (i : Instr) (w : Word), wellFormed i = true → encode i = some w → decode w = .ok i)
  ∧ ∀ (w : Word) (i : Instr), decode w = .ok i → encode i = some w

/-- Every step keeps the canonical form of HBM, host memory and the weight stores. The form is the model's own. -/
def Obligations.MemoryFormKept : Prop :=
  ∀ (s t : State), MemoryForm s → step s = .next t → MemoryForm t

/-- R307, R315, R372, R377, R382 and the model's choices of log entries 1 to 7: after reset the module is ready with its
nominal table and both loops, no context is set up and nothing is resident, every port is split 8 and 8, every carriageway is its own, memory lists
nothing and is in canonical form; nothing is due, so a step changes nothing. -/
def Obligations.ResetState : Prop :=
  let s := State.reset
  MemoryForm s ∧ s.manage.mode = 1 ∧ s.manage.attempt = 0 ∧ s.manage.table = 0 ∧ s.manage.topOk = true ∧ s.manage.botOk = true
  ∧ s.manage.poweredDown = false
  ∧ (∀ vf, (s.ctx vf).root = 0 ∧ (s.ctx vf).spawnq = [] ∧ (s.ctx vf).st = .live)
  ∧ (∀ gid, s.group gid = none) ∧ (∀ b, s.block b = none) ∧ (∀ a n, s.readLoc (.hbm a) n = 0)
  ∧ (∀ p, (s.port p).out = 8 ∧ (s.port p).inn = 8 ∧ (s.port p).lsplit = 8 ∧ (s.port p).dead = false)
  ∧ (∀ c, s.linkOf c = c) ∧ (∀ fn r, (s.ring fn r).en = false)
  ∧ step s = .next s

/-- R36, R151, R169, R375: a step takes the first act of the agenda: at an issue point it runs the decoded word, or illegal-instruction for
a word that is none; for a command, the instruction its OP and field name, taken from the ring; any other act, as it stands. Without an
agenda it runs an act that is due, and does nothing when none is. -/
def Obligations.StepRuns : Prop :=
  (∀ (s : State) (a : Act) (rest : List Act), s.agenda = a :: rest →
    let u : State := { s with agenda := rest }
    (∀ p x, a = .issue p → State.issuer { u with cur := some p } = some x →
      (∀ i, decode x.word = .ok i → step s = exec i { u with cur := some p })
      ∧ (∀ e, decode x.word = .error e → step s = exec (.illegalInstruction x.word) { u with cur := some p }))
    ∧ (a = .command → (∀ c v, u.takeCommand = some (c, v) → step s = exec (decodeCommand c) { v with cmd := some c })
        ∧ (u.takeCommand = none → step s = .fault .notDue))
    ∧ (∀ i, a = .run i → step s = exec i u))
  ∧ ∀ (s : State), s.agenda = [] →
    (s.dueActs = [] → step s = .next s)
    ∧ (s.dueActs ≠ [] → ∃ a ∈ s.dueActs, ∃ n, step s = perform a { s with free := n })
end

