-- ==== Sys2Proof/Laws/State.lean ====
section
/-! SUPPORT. Every update of the state and of a group, field by field: what it sets, and that it leaves the rest. -/
namespace Sys2Proof.Machine

/-! ### State.setGroup -/

@[simp] theorem State.setGroup_dev (s : State) (h : Group) : (s.setGroup h).dev = s.dev := rfl
@[simp] theorem State.setGroup_manage (s : State) (h : Group) : (s.setGroup h).manage = s.manage := rfl
@[simp] theorem State.setGroup_dies (s : State) (h : Group) : (s.setGroup h).dies = s.dies := rfl
@[simp] theorem State.setGroup_cores (s : State) (h : Group) : (s.setGroup h).cores = s.cores := rfl
@[simp] theorem State.setGroup_parts (s : State) (h : Group) : (s.setGroup h).parts = s.parts := rfl
@[simp] theorem State.setGroup_ctxs (s : State) (h : Group) : (s.setGroup h).ctxs = s.ctxs := rfl
@[simp] theorem State.setGroup_launches (s : State) (h : Group) : (s.setGroup h).launches = s.launches := rfl
@[simp] theorem State.setGroup_blocks (s : State) (h : Group) : (s.setGroup h).blocks = s.blocks := rfl
@[simp] theorem State.setGroup_groups (s : State) (h : Group) : (s.setGroup h).groups = updWhere (fun g => g.gid == h.gid) (fun _ => h) s.groups := rfl
@[simp] theorem State.setGroup_hbm (s : State) (h : Group) : (s.setGroup h).hbm = s.hbm := rfl
@[simp] theorem State.setGroup_host (s : State) (h : Group) : (s.setGroup h).host = s.host := rfl
@[simp] theorem State.setGroup_hostOld (s : State) (h : Group) : (s.setGroup h).hostOld = s.hostOld := rfl
@[simp] theorem State.setGroup_codeOld (s : State) (h : Group) : (s.setGroup h).codeOld = s.codeOld := rfl
@[simp] theorem State.setGroup_weights (s : State) (h : Group) : (s.setGroup h).weights = s.weights := rfl
@[simp] theorem State.setGroup_poisoned (s : State) (h : Group) : (s.setGroup h).poisoned = s.poisoned := rfl
@[simp] theorem State.setGroup_lost (s : State) (h : Group) : (s.setGroup h).lost = s.lost := rfl
@[simp] theorem State.setGroup_dirty (s : State) (h : Group) : (s.setGroup h).dirty = s.dirty := rfl
@[simp] theorem State.setGroup_tlb (s : State) (h : Group) : (s.setGroup h).tlb = s.tlb := rfl
@[simp] theorem State.setGroup_flight (s : State) (h : Group) : (s.setGroup h).flight = s.flight := rfl
@[simp] theorem State.setGroup_unacked (s : State) (h : Group) : (s.setGroup h).unacked = s.unacked := rfl
@[simp] theorem State.setGroup_fills (s : State) (h : Group) : (s.setGroup h).fills = s.fills := rfl
@[simp] theorem State.setGroup_updates (s : State) (h : Group) : (s.setGroup h).updates = s.updates := rfl
@[simp] theorem State.setGroup_xfers (s : State) (h : Group) : (s.setGroup h).xfers = s.xfers := rfl
@[simp] theorem State.setGroup_readouts (s : State) (h : Group) : (s.setGroup h).readouts = s.readouts := rfl
@[simp] theorem State.setGroup_moves (s : State) (h : Group) : (s.setGroup h).moves = s.moves := rfl
@[simp] theorem State.setGroup_tokens (s : State) (h : Group) : (s.setGroup h).tokens = s.tokens := rfl
@[simp] theorem State.setGroup_landings (s : State) (h : Group) : (s.setGroup h).landings = s.landings := rfl
@[simp] theorem State.setGroup_agg (s : State) (h : Group) : (s.setGroup h).agg = s.agg := rfl
@[simp] theorem State.setGroup_reqs (s : State) (h : Group) : (s.setGroup h).reqs = s.reqs := rfl
@[simp] theorem State.setGroup_waitReqs (s : State) (h : Group) : (s.setGroup h).waitReqs = s.waitReqs := rfl
@[simp] theorem State.setGroup_arrived (s : State) (h : Group) : (s.setGroup h).arrived = s.arrived := rfl
@[simp] theorem State.setGroup_ports (s : State) (h : Group) : (s.setGroup h).ports = s.ports := rfl
@[simp] theorem State.setGroup_remap (s : State) (h : Group) : (s.setGroup h).remap = s.remap := rfl
@[simp] theorem State.setGroup_heldCw (s : State) (h : Group) : (s.setGroup h).heldCw = s.heldCw := rfl
@[simp] theorem State.setGroup_pseq (s : State) (h : Group) : (s.setGroup h).pseq = s.pseq := rfl
@[simp] theorem State.setGroup_accepted (s : State) (h : Group) : (s.setGroup h).accepted = s.accepted := rfl
@[simp] theorem State.setGroup_rlogBase (s : State) (h : Group) : (s.setGroup h).rlogBase = s.rlogBase := rfl
@[simp] theorem State.setGroup_rlogSize (s : State) (h : Group) : (s.setGroup h).rlogSize = s.rlogSize := rfl
@[simp] theorem State.setGroup_rlog (s : State) (h : Group) : (s.setGroup h).rlog = s.rlog := rfl
@[simp] theorem State.setGroup_withheld (s : State) (h : Group) : (s.setGroup h).withheld = s.withheld := rfl
@[simp] theorem State.setGroup_iwin (s : State) (h : Group) : (s.setGroup h).iwin = s.iwin := rfl
@[simp] theorem State.setGroup_chunks (s : State) (h : Group) : (s.setGroup h).chunks = s.chunks := rfl
@[simp] theorem State.setGroup_results (s : State) (h : Group) : (s.setGroup h).results = s.results := rfl
@[simp] theorem State.setGroup_hists (s : State) (h : Group) : (s.setGroup h).hists = s.hists := rfl
@[simp] theorem State.setGroup_replay (s : State) (h : Group) : (s.setGroup h).replay = s.replay := rfl
@[simp] theorem State.setGroup_pending (s : State) (h : Group) : (s.setGroup h).pending = s.pending := rfl
@[simp] theorem State.setGroup_cmd (s : State) (h : Group) : (s.setGroup h).cmd = s.cmd := rfl
@[simp] theorem State.setGroup_agenda (s : State) (h : Group) : (s.setGroup h).agenda = s.agenda := rfl
@[simp] theorem State.setGroup_cur (s : State) (h : Group) : (s.setGroup h).cur = s.cur := rfl
@[simp] theorem State.setGroup_nextId (s : State) (h : Group) : (s.setGroup h).nextId = s.nextId := rfl
@[simp] theorem State.setGroup_free (s : State) (h : Group) : (s.setGroup h).free = s.free := rfl

/-! ### State.onGroup -/

@[simp] theorem State.onGroup_dev (s : State) (gid : Gid) (f : Group → Group) : (s.onGroup gid f).dev = s.dev := rfl
@[simp] theorem State.onGroup_manage (s : State) (gid : Gid) (f : Group → Group) : (s.onGroup gid f).manage = s.manage := rfl
@[simp] theorem State.onGroup_dies (s : State) (gid : Gid) (f : Group → Group) : (s.onGroup gid f).dies = s.dies := rfl
@[simp] theorem State.onGroup_cores (s : State) (gid : Gid) (f : Group → Group) : (s.onGroup gid f).cores = s.cores := rfl
@[simp] theorem State.onGroup_parts (s : State) (gid : Gid) (f : Group → Group) : (s.onGroup gid f).parts = s.parts := rfl
@[simp] theorem State.onGroup_ctxs (s : State) (gid : Gid) (f : Group → Group) : (s.onGroup gid f).ctxs = s.ctxs := rfl
@[simp] theorem State.onGroup_launches (s : State) (gid : Gid) (f : Group → Group) : (s.onGroup gid f).launches = s.launches := rfl
@[simp] theorem State.onGroup_blocks (s : State) (gid : Gid) (f : Group → Group) : (s.onGroup gid f).blocks = s.blocks := rfl
@[simp] theorem State.onGroup_groups (s : State) (gid : Gid) (f : Group → Group) : (s.onGroup gid f).groups = updWhere (fun g => g.gid == gid) f s.groups := rfl
@[simp] theorem State.onGroup_hbm (s : State) (gid : Gid) (f : Group → Group) : (s.onGroup gid f).hbm = s.hbm := rfl
@[simp] theorem State.onGroup_host (s : State) (gid : Gid) (f : Group → Group) : (s.onGroup gid f).host = s.host := rfl
@[simp] theorem State.onGroup_hostOld (s : State) (gid : Gid) (f : Group → Group) : (s.onGroup gid f).hostOld = s.hostOld := rfl
@[simp] theorem State.onGroup_codeOld (s : State) (gid : Gid) (f : Group → Group) : (s.onGroup gid f).codeOld = s.codeOld := rfl
@[simp] theorem State.onGroup_weights (s : State) (gid : Gid) (f : Group → Group) : (s.onGroup gid f).weights = s.weights := rfl
@[simp] theorem State.onGroup_poisoned (s : State) (gid : Gid) (f : Group → Group) : (s.onGroup gid f).poisoned = s.poisoned := rfl
@[simp] theorem State.onGroup_lost (s : State) (gid : Gid) (f : Group → Group) : (s.onGroup gid f).lost = s.lost := rfl
@[simp] theorem State.onGroup_dirty (s : State) (gid : Gid) (f : Group → Group) : (s.onGroup gid f).dirty = s.dirty := rfl
@[simp] theorem State.onGroup_tlb (s : State) (gid : Gid) (f : Group → Group) : (s.onGroup gid f).tlb = s.tlb := rfl
@[simp] theorem State.onGroup_flight (s : State) (gid : Gid) (f : Group → Group) : (s.onGroup gid f).flight = s.flight := rfl
@[simp] theorem State.onGroup_unacked (s : State) (gid : Gid) (f : Group → Group) : (s.onGroup gid f).unacked = s.unacked := rfl
@[simp] theorem State.onGroup_fills (s : State) (gid : Gid) (f : Group → Group) : (s.onGroup gid f).fills = s.fills := rfl
@[simp] theorem State.onGroup_updates (s : State) (gid : Gid) (f : Group → Group) : (s.onGroup gid f).updates = s.updates := rfl
@[simp] theorem State.onGroup_xfers (s : State) (gid : Gid) (f : Group → Group) : (s.onGroup gid f).xfers = s.xfers := rfl
@[simp] theorem State.onGroup_readouts (s : State) (gid : Gid) (f : Group → Group) : (s.onGroup gid f).readouts = s.readouts := rfl
@[simp] theorem State.onGroup_moves (s : State) (gid : Gid) (f : Group → Group) : (s.onGroup gid f).moves = s.moves := rfl
@[simp] theorem State.onGroup_tokens (s : State) (gid : Gid) (f : Group → Group) : (s.onGroup gid f).tokens = s.tokens := rfl
@[simp] theorem State.onGroup_landings (s : State) (gid : Gid) (f : Group → Group) : (s.onGroup gid f).landings = s.landings := rfl
@[simp] theorem State.onGroup_agg (s : State) (gid : Gid) (f : Group → Group) : (s.onGroup gid f).agg = s.agg := rfl
@[simp] theorem State.onGroup_reqs (s : State) (gid : Gid) (f : Group → Group) : (s.onGroup gid f).reqs = s.reqs := rfl
@[simp] theorem State.onGroup_waitReqs (s : State) (gid : Gid) (f : Group → Group) : (s.onGroup gid f).waitReqs = s.waitReqs := rfl
@[simp] theorem State.onGroup_arrived (s : State) (gid : Gid) (f : Group → Group) : (s.onGroup gid f).arrived = s.arrived := rfl
@[simp] theorem State.onGroup_ports (s : State) (gid : Gid) (f : Group → Group) : (s.onGroup gid f).ports = s.ports := rfl
@[simp] theorem State.onGroup_remap (s : State) (gid : Gid) (f : Group → Group) : (s.onGroup gid f).remap = s.remap := rfl
@[simp] theorem State.onGroup_heldCw (s : State) (gid : Gid) (f : Group → Group) : (s.onGroup gid f).heldCw = s.heldCw := rfl
@[simp] theorem State.onGroup_pseq (s : State) (gid : Gid) (f : Group → Group) : (s.onGroup gid f).pseq = s.pseq := rfl
@[simp] theorem State.onGroup_accepted (s : State) (gid : Gid) (f : Group → Group) : (s.onGroup gid f).accepted = s.accepted := rfl
@[simp] theorem State.onGroup_rlogBase (s : State) (gid : Gid) (f : Group → Group) : (s.onGroup gid f).rlogBase = s.rlogBase := rfl
@[simp] theorem State.onGroup_rlogSize (s : State) (gid : Gid) (f : Group → Group) : (s.onGroup gid f).rlogSize = s.rlogSize := rfl
@[simp] theorem State.onGroup_rlog (s : State) (gid : Gid) (f : Group → Group) : (s.onGroup gid f).rlog = s.rlog := rfl
@[simp] theorem State.onGroup_withheld (s : State) (gid : Gid) (f : Group → Group) : (s.onGroup gid f).withheld = s.withheld := rfl
@[simp] theorem State.onGroup_iwin (s : State) (gid : Gid) (f : Group → Group) : (s.onGroup gid f).iwin = s.iwin := rfl
@[simp] theorem State.onGroup_chunks (s : State) (gid : Gid) (f : Group → Group) : (s.onGroup gid f).chunks = s.chunks := rfl
@[simp] theorem State.onGroup_results (s : State) (gid : Gid) (f : Group → Group) : (s.onGroup gid f).results = s.results := rfl
@[simp] theorem State.onGroup_hists (s : State) (gid : Gid) (f : Group → Group) : (s.onGroup gid f).hists = s.hists := rfl
@[simp] theorem State.onGroup_replay (s : State) (gid : Gid) (f : Group → Group) : (s.onGroup gid f).replay = s.replay := rfl
@[simp] theorem State.onGroup_pending (s : State) (gid : Gid) (f : Group → Group) : (s.onGroup gid f).pending = s.pending := rfl
@[simp] theorem State.onGroup_cmd (s : State) (gid : Gid) (f : Group → Group) : (s.onGroup gid f).cmd = s.cmd := rfl
@[simp] theorem State.onGroup_agenda (s : State) (gid : Gid) (f : Group → Group) : (s.onGroup gid f).agenda = s.agenda := rfl
@[simp] theorem State.onGroup_cur (s : State) (gid : Gid) (f : Group → Group) : (s.onGroup gid f).cur = s.cur := rfl
@[simp] theorem State.onGroup_nextId (s : State) (gid : Gid) (f : Group → Group) : (s.onGroup gid f).nextId = s.nextId := rfl
@[simp] theorem State.onGroup_free (s : State) (gid : Gid) (f : Group → Group) : (s.onGroup gid f).free = s.free := rfl

/-! ### State.setPart -/

@[simp] theorem State.setPart_dev (s : State) (p : Nat) (k : Part) : (s.setPart p k).dev = s.dev := rfl
@[simp] theorem State.setPart_manage (s : State) (p : Nat) (k : Part) : (s.setPart p k).manage = s.manage := rfl
@[simp] theorem State.setPart_dies (s : State) (p : Nat) (k : Part) : (s.setPart p k).dies = s.dies := rfl
@[simp] theorem State.setPart_cores (s : State) (p : Nat) (k : Part) : (s.setPart p k).cores = s.cores := rfl
@[simp] theorem State.setPart_parts (s : State) (p : Nat) (k : Part) : (s.setPart p k).parts = fset Part.reset s.parts p k := rfl
@[simp] theorem State.setPart_ctxs (s : State) (p : Nat) (k : Part) : (s.setPart p k).ctxs = s.ctxs := rfl
@[simp] theorem State.setPart_launches (s : State) (p : Nat) (k : Part) : (s.setPart p k).launches = s.launches := rfl
@[simp] theorem State.setPart_blocks (s : State) (p : Nat) (k : Part) : (s.setPart p k).blocks = s.blocks := rfl
@[simp] theorem State.setPart_groups (s : State) (p : Nat) (k : Part) : (s.setPart p k).groups = s.groups := rfl
@[simp] theorem State.setPart_hbm (s : State) (p : Nat) (k : Part) : (s.setPart p k).hbm = s.hbm := rfl
@[simp] theorem State.setPart_host (s : State) (p : Nat) (k : Part) : (s.setPart p k).host = s.host := rfl
@[simp] theorem State.setPart_hostOld (s : State) (p : Nat) (k : Part) : (s.setPart p k).hostOld = s.hostOld := rfl
@[simp] theorem State.setPart_codeOld (s : State) (p : Nat) (k : Part) : (s.setPart p k).codeOld = s.codeOld := rfl
@[simp] theorem State.setPart_weights (s : State) (p : Nat) (k : Part) : (s.setPart p k).weights = s.weights := rfl
@[simp] theorem State.setPart_poisoned (s : State) (p : Nat) (k : Part) : (s.setPart p k).poisoned = s.poisoned := rfl
@[simp] theorem State.setPart_lost (s : State) (p : Nat) (k : Part) : (s.setPart p k).lost = s.lost := rfl
@[simp] theorem State.setPart_dirty (s : State) (p : Nat) (k : Part) : (s.setPart p k).dirty = s.dirty := rfl
@[simp] theorem State.setPart_tlb (s : State) (p : Nat) (k : Part) : (s.setPart p k).tlb = s.tlb := rfl
@[simp] theorem State.setPart_flight (s : State) (p : Nat) (k : Part) : (s.setPart p k).flight = s.flight := rfl
@[simp] theorem State.setPart_unacked (s : State) (p : Nat) (k : Part) : (s.setPart p k).unacked = s.unacked := rfl
@[simp] theorem State.setPart_fills (s : State) (p : Nat) (k : Part) : (s.setPart p k).fills = s.fills := rfl
@[simp] theorem State.setPart_updates (s : State) (p : Nat) (k : Part) : (s.setPart p k).updates = s.updates := rfl
@[simp] theorem State.setPart_xfers (s : State) (p : Nat) (k : Part) : (s.setPart p k).xfers = s.xfers := rfl
@[simp] theorem State.setPart_readouts (s : State) (p : Nat) (k : Part) : (s.setPart p k).readouts = s.readouts := rfl
@[simp] theorem State.setPart_moves (s : State) (p : Nat) (k : Part) : (s.setPart p k).moves = s.moves := rfl
@[simp] theorem State.setPart_tokens (s : State) (p : Nat) (k : Part) : (s.setPart p k).tokens = s.tokens := rfl
@[simp] theorem State.setPart_landings (s : State) (p : Nat) (k : Part) : (s.setPart p k).landings = s.landings := rfl
@[simp] theorem State.setPart_agg (s : State) (p : Nat) (k : Part) : (s.setPart p k).agg = s.agg := rfl
@[simp] theorem State.setPart_reqs (s : State) (p : Nat) (k : Part) : (s.setPart p k).reqs = s.reqs := rfl
@[simp] theorem State.setPart_waitReqs (s : State) (p : Nat) (k : Part) : (s.setPart p k).waitReqs = s.waitReqs := rfl
@[simp] theorem State.setPart_arrived (s : State) (p : Nat) (k : Part) : (s.setPart p k).arrived = s.arrived := rfl
@[simp] theorem State.setPart_ports (s : State) (p : Nat) (k : Part) : (s.setPart p k).ports = s.ports := rfl
@[simp] theorem State.setPart_remap (s : State) (p : Nat) (k : Part) : (s.setPart p k).remap = s.remap := rfl
@[simp] theorem State.setPart_heldCw (s : State) (p : Nat) (k : Part) : (s.setPart p k).heldCw = s.heldCw := rfl
@[simp] theorem State.setPart_pseq (s : State) (p : Nat) (k : Part) : (s.setPart p k).pseq = s.pseq := rfl
@[simp] theorem State.setPart_accepted (s : State) (p : Nat) (k : Part) : (s.setPart p k).accepted = s.accepted := rfl
@[simp] theorem State.setPart_rlogBase (s : State) (p : Nat) (k : Part) : (s.setPart p k).rlogBase = s.rlogBase := rfl
@[simp] theorem State.setPart_rlogSize (s : State) (p : Nat) (k : Part) : (s.setPart p k).rlogSize = s.rlogSize := rfl
@[simp] theorem State.setPart_rlog (s : State) (p : Nat) (k : Part) : (s.setPart p k).rlog = s.rlog := rfl
@[simp] theorem State.setPart_withheld (s : State) (p : Nat) (k : Part) : (s.setPart p k).withheld = s.withheld := rfl
@[simp] theorem State.setPart_iwin (s : State) (p : Nat) (k : Part) : (s.setPart p k).iwin = s.iwin := rfl
@[simp] theorem State.setPart_chunks (s : State) (p : Nat) (k : Part) : (s.setPart p k).chunks = s.chunks := rfl
@[simp] theorem State.setPart_results (s : State) (p : Nat) (k : Part) : (s.setPart p k).results = s.results := rfl
@[simp] theorem State.setPart_hists (s : State) (p : Nat) (k : Part) : (s.setPart p k).hists = s.hists := rfl
@[simp] theorem State.setPart_replay (s : State) (p : Nat) (k : Part) : (s.setPart p k).replay = s.replay := rfl
@[simp] theorem State.setPart_pending (s : State) (p : Nat) (k : Part) : (s.setPart p k).pending = s.pending := rfl
@[simp] theorem State.setPart_cmd (s : State) (p : Nat) (k : Part) : (s.setPart p k).cmd = s.cmd := rfl
@[simp] theorem State.setPart_agenda (s : State) (p : Nat) (k : Part) : (s.setPart p k).agenda = s.agenda := rfl
@[simp] theorem State.setPart_cur (s : State) (p : Nat) (k : Part) : (s.setPart p k).cur = s.cur := rfl
@[simp] theorem State.setPart_nextId (s : State) (p : Nat) (k : Part) : (s.setPart p k).nextId = s.nextId := rfl
@[simp] theorem State.setPart_free (s : State) (p : Nat) (k : Part) : (s.setPart p k).free = s.free := rfl

/-! ### State.setDie -/

@[simp] theorem State.setDie_dev (s : State) (d : Nat) (k : Die) : (s.setDie d k).dev = s.dev := rfl
@[simp] theorem State.setDie_manage (s : State) (d : Nat) (k : Die) : (s.setDie d k).manage = s.manage := rfl
@[simp] theorem State.setDie_dies (s : State) (d : Nat) (k : Die) : (s.setDie d k).dies = fset Die.reset s.dies d k := rfl
@[simp] theorem State.setDie_cores (s : State) (d : Nat) (k : Die) : (s.setDie d k).cores = s.cores := rfl
@[simp] theorem State.setDie_parts (s : State) (d : Nat) (k : Die) : (s.setDie d k).parts = s.parts := rfl
@[simp] theorem State.setDie_ctxs (s : State) (d : Nat) (k : Die) : (s.setDie d k).ctxs = s.ctxs := rfl
@[simp] theorem State.setDie_launches (s : State) (d : Nat) (k : Die) : (s.setDie d k).launches = s.launches := rfl
@[simp] theorem State.setDie_blocks (s : State) (d : Nat) (k : Die) : (s.setDie d k).blocks = s.blocks := rfl
@[simp] theorem State.setDie_groups (s : State) (d : Nat) (k : Die) : (s.setDie d k).groups = s.groups := rfl
@[simp] theorem State.setDie_hbm (s : State) (d : Nat) (k : Die) : (s.setDie d k).hbm = s.hbm := rfl
@[simp] theorem State.setDie_host (s : State) (d : Nat) (k : Die) : (s.setDie d k).host = s.host := rfl
@[simp] theorem State.setDie_hostOld (s : State) (d : Nat) (k : Die) : (s.setDie d k).hostOld = s.hostOld := rfl
@[simp] theorem State.setDie_codeOld (s : State) (d : Nat) (k : Die) : (s.setDie d k).codeOld = s.codeOld := rfl
@[simp] theorem State.setDie_weights (s : State) (d : Nat) (k : Die) : (s.setDie d k).weights = s.weights := rfl
@[simp] theorem State.setDie_poisoned (s : State) (d : Nat) (k : Die) : (s.setDie d k).poisoned = s.poisoned := rfl
@[simp] theorem State.setDie_lost (s : State) (d : Nat) (k : Die) : (s.setDie d k).lost = s.lost := rfl
@[simp] theorem State.setDie_dirty (s : State) (d : Nat) (k : Die) : (s.setDie d k).dirty = s.dirty := rfl
@[simp] theorem State.setDie_tlb (s : State) (d : Nat) (k : Die) : (s.setDie d k).tlb = s.tlb := rfl
@[simp] theorem State.setDie_flight (s : State) (d : Nat) (k : Die) : (s.setDie d k).flight = s.flight := rfl
@[simp] theorem State.setDie_unacked (s : State) (d : Nat) (k : Die) : (s.setDie d k).unacked = s.unacked := rfl
@[simp] theorem State.setDie_fills (s : State) (d : Nat) (k : Die) : (s.setDie d k).fills = s.fills := rfl
@[simp] theorem State.setDie_updates (s : State) (d : Nat) (k : Die) : (s.setDie d k).updates = s.updates := rfl
@[simp] theorem State.setDie_xfers (s : State) (d : Nat) (k : Die) : (s.setDie d k).xfers = s.xfers := rfl
@[simp] theorem State.setDie_readouts (s : State) (d : Nat) (k : Die) : (s.setDie d k).readouts = s.readouts := rfl
@[simp] theorem State.setDie_moves (s : State) (d : Nat) (k : Die) : (s.setDie d k).moves = s.moves := rfl
@[simp] theorem State.setDie_tokens (s : State) (d : Nat) (k : Die) : (s.setDie d k).tokens = s.tokens := rfl
@[simp] theorem State.setDie_landings (s : State) (d : Nat) (k : Die) : (s.setDie d k).landings = s.landings := rfl
@[simp] theorem State.setDie_agg (s : State) (d : Nat) (k : Die) : (s.setDie d k).agg = s.agg := rfl
@[simp] theorem State.setDie_reqs (s : State) (d : Nat) (k : Die) : (s.setDie d k).reqs = s.reqs := rfl
@[simp] theorem State.setDie_waitReqs (s : State) (d : Nat) (k : Die) : (s.setDie d k).waitReqs = s.waitReqs := rfl
@[simp] theorem State.setDie_arrived (s : State) (d : Nat) (k : Die) : (s.setDie d k).arrived = s.arrived := rfl
@[simp] theorem State.setDie_ports (s : State) (d : Nat) (k : Die) : (s.setDie d k).ports = s.ports := rfl
@[simp] theorem State.setDie_remap (s : State) (d : Nat) (k : Die) : (s.setDie d k).remap = s.remap := rfl
@[simp] theorem State.setDie_heldCw (s : State) (d : Nat) (k : Die) : (s.setDie d k).heldCw = s.heldCw := rfl
@[simp] theorem State.setDie_pseq (s : State) (d : Nat) (k : Die) : (s.setDie d k).pseq = s.pseq := rfl
@[simp] theorem State.setDie_accepted (s : State) (d : Nat) (k : Die) : (s.setDie d k).accepted = s.accepted := rfl
@[simp] theorem State.setDie_rlogBase (s : State) (d : Nat) (k : Die) : (s.setDie d k).rlogBase = s.rlogBase := rfl
@[simp] theorem State.setDie_rlogSize (s : State) (d : Nat) (k : Die) : (s.setDie d k).rlogSize = s.rlogSize := rfl
@[simp] theorem State.setDie_rlog (s : State) (d : Nat) (k : Die) : (s.setDie d k).rlog = s.rlog := rfl
@[simp] theorem State.setDie_withheld (s : State) (d : Nat) (k : Die) : (s.setDie d k).withheld = s.withheld := rfl
@[simp] theorem State.setDie_iwin (s : State) (d : Nat) (k : Die) : (s.setDie d k).iwin = s.iwin := rfl
@[simp] theorem State.setDie_chunks (s : State) (d : Nat) (k : Die) : (s.setDie d k).chunks = s.chunks := rfl
@[simp] theorem State.setDie_results (s : State) (d : Nat) (k : Die) : (s.setDie d k).results = s.results := rfl
@[simp] theorem State.setDie_hists (s : State) (d : Nat) (k : Die) : (s.setDie d k).hists = s.hists := rfl
@[simp] theorem State.setDie_replay (s : State) (d : Nat) (k : Die) : (s.setDie d k).replay = s.replay := rfl
@[simp] theorem State.setDie_pending (s : State) (d : Nat) (k : Die) : (s.setDie d k).pending = s.pending := rfl
@[simp] theorem State.setDie_cmd (s : State) (d : Nat) (k : Die) : (s.setDie d k).cmd = s.cmd := rfl
@[simp] theorem State.setDie_agenda (s : State) (d : Nat) (k : Die) : (s.setDie d k).agenda = s.agenda := rfl
@[simp] theorem State.setDie_cur (s : State) (d : Nat) (k : Die) : (s.setDie d k).cur = s.cur := rfl
@[simp] theorem State.setDie_nextId (s : State) (d : Nat) (k : Die) : (s.setDie d k).nextId = s.nextId := rfl
@[simp] theorem State.setDie_free (s : State) (d : Nat) (k : Die) : (s.setDie d k).free = s.free := rfl

/-! ### State.setCore -/

@[simp] theorem State.setCore_dev (s : State) (c : Nat) (k : Core) : (s.setCore c k).dev = s.dev := rfl
@[simp] theorem State.setCore_manage (s : State) (c : Nat) (k : Core) : (s.setCore c k).manage = s.manage := rfl
@[simp] theorem State.setCore_dies (s : State) (c : Nat) (k : Core) : (s.setCore c k).dies = s.dies := rfl
@[simp] theorem State.setCore_cores (s : State) (c : Nat) (k : Core) : (s.setCore c k).cores = fset Core.reset s.cores c k := rfl
@[simp] theorem State.setCore_parts (s : State) (c : Nat) (k : Core) : (s.setCore c k).parts = s.parts := rfl
@[simp] theorem State.setCore_ctxs (s : State) (c : Nat) (k : Core) : (s.setCore c k).ctxs = s.ctxs := rfl
@[simp] theorem State.setCore_launches (s : State) (c : Nat) (k : Core) : (s.setCore c k).launches = s.launches := rfl
@[simp] theorem State.setCore_blocks (s : State) (c : Nat) (k : Core) : (s.setCore c k).blocks = s.blocks := rfl
@[simp] theorem State.setCore_groups (s : State) (c : Nat) (k : Core) : (s.setCore c k).groups = s.groups := rfl
@[simp] theorem State.setCore_hbm (s : State) (c : Nat) (k : Core) : (s.setCore c k).hbm = s.hbm := rfl
@[simp] theorem State.setCore_host (s : State) (c : Nat) (k : Core) : (s.setCore c k).host = s.host := rfl
@[simp] theorem State.setCore_hostOld (s : State) (c : Nat) (k : Core) : (s.setCore c k).hostOld = s.hostOld := rfl
@[simp] theorem State.setCore_codeOld (s : State) (c : Nat) (k : Core) : (s.setCore c k).codeOld = s.codeOld := rfl
@[simp] theorem State.setCore_weights (s : State) (c : Nat) (k : Core) : (s.setCore c k).weights = s.weights := rfl
@[simp] theorem State.setCore_poisoned (s : State) (c : Nat) (k : Core) : (s.setCore c k).poisoned = s.poisoned := rfl
@[simp] theorem State.setCore_lost (s : State) (c : Nat) (k : Core) : (s.setCore c k).lost = s.lost := rfl
@[simp] theorem State.setCore_dirty (s : State) (c : Nat) (k : Core) : (s.setCore c k).dirty = s.dirty := rfl
@[simp] theorem State.setCore_tlb (s : State) (c : Nat) (k : Core) : (s.setCore c k).tlb = s.tlb := rfl
@[simp] theorem State.setCore_flight (s : State) (c : Nat) (k : Core) : (s.setCore c k).flight = s.flight := rfl
@[simp] theorem State.setCore_unacked (s : State) (c : Nat) (k : Core) : (s.setCore c k).unacked = s.unacked := rfl
@[simp] theorem State.setCore_fills (s : State) (c : Nat) (k : Core) : (s.setCore c k).fills = s.fills := rfl
@[simp] theorem State.setCore_updates (s : State) (c : Nat) (k : Core) : (s.setCore c k).updates = s.updates := rfl
@[simp] theorem State.setCore_xfers (s : State) (c : Nat) (k : Core) : (s.setCore c k).xfers = s.xfers := rfl
@[simp] theorem State.setCore_readouts (s : State) (c : Nat) (k : Core) : (s.setCore c k).readouts = s.readouts := rfl
@[simp] theorem State.setCore_moves (s : State) (c : Nat) (k : Core) : (s.setCore c k).moves = s.moves := rfl
@[simp] theorem State.setCore_tokens (s : State) (c : Nat) (k : Core) : (s.setCore c k).tokens = s.tokens := rfl
@[simp] theorem State.setCore_landings (s : State) (c : Nat) (k : Core) : (s.setCore c k).landings = s.landings := rfl
@[simp] theorem State.setCore_agg (s : State) (c : Nat) (k : Core) : (s.setCore c k).agg = s.agg := rfl
@[simp] theorem State.setCore_reqs (s : State) (c : Nat) (k : Core) : (s.setCore c k).reqs = s.reqs := rfl
@[simp] theorem State.setCore_waitReqs (s : State) (c : Nat) (k : Core) : (s.setCore c k).waitReqs = s.waitReqs := rfl
@[simp] theorem State.setCore_arrived (s : State) (c : Nat) (k : Core) : (s.setCore c k).arrived = s.arrived := rfl
@[simp] theorem State.setCore_ports (s : State) (c : Nat) (k : Core) : (s.setCore c k).ports = s.ports := rfl
@[simp] theorem State.setCore_remap (s : State) (c : Nat) (k : Core) : (s.setCore c k).remap = s.remap := rfl
@[simp] theorem State.setCore_heldCw (s : State) (c : Nat) (k : Core) : (s.setCore c k).heldCw = s.heldCw := rfl
@[simp] theorem State.setCore_pseq (s : State) (c : Nat) (k : Core) : (s.setCore c k).pseq = s.pseq := rfl
@[simp] theorem State.setCore_accepted (s : State) (c : Nat) (k : Core) : (s.setCore c k).accepted = s.accepted := rfl
@[simp] theorem State.setCore_rlogBase (s : State) (c : Nat) (k : Core) : (s.setCore c k).rlogBase = s.rlogBase := rfl
@[simp] theorem State.setCore_rlogSize (s : State) (c : Nat) (k : Core) : (s.setCore c k).rlogSize = s.rlogSize := rfl
@[simp] theorem State.setCore_rlog (s : State) (c : Nat) (k : Core) : (s.setCore c k).rlog = s.rlog := rfl
@[simp] theorem State.setCore_withheld (s : State) (c : Nat) (k : Core) : (s.setCore c k).withheld = s.withheld := rfl
@[simp] theorem State.setCore_iwin (s : State) (c : Nat) (k : Core) : (s.setCore c k).iwin = s.iwin := rfl
@[simp] theorem State.setCore_chunks (s : State) (c : Nat) (k : Core) : (s.setCore c k).chunks = s.chunks := rfl
@[simp] theorem State.setCore_results (s : State) (c : Nat) (k : Core) : (s.setCore c k).results = s.results := rfl
@[simp] theorem State.setCore_hists (s : State) (c : Nat) (k : Core) : (s.setCore c k).hists = s.hists := rfl
@[simp] theorem State.setCore_replay (s : State) (c : Nat) (k : Core) : (s.setCore c k).replay = s.replay := rfl
@[simp] theorem State.setCore_pending (s : State) (c : Nat) (k : Core) : (s.setCore c k).pending = s.pending := rfl
@[simp] theorem State.setCore_cmd (s : State) (c : Nat) (k : Core) : (s.setCore c k).cmd = s.cmd := rfl
@[simp] theorem State.setCore_agenda (s : State) (c : Nat) (k : Core) : (s.setCore c k).agenda = s.agenda := rfl
@[simp] theorem State.setCore_cur (s : State) (c : Nat) (k : Core) : (s.setCore c k).cur = s.cur := rfl
@[simp] theorem State.setCore_nextId (s : State) (c : Nat) (k : Core) : (s.setCore c k).nextId = s.nextId := rfl
@[simp] theorem State.setCore_free (s : State) (c : Nat) (k : Core) : (s.setCore c k).free = s.free := rfl

/-! ### State.setCtx -/

@[simp] theorem State.setCtx_dev (s : State) (vf : Nat) (c : Ctx) : (s.setCtx vf c).dev = s.dev := rfl
@[simp] theorem State.setCtx_manage (s : State) (vf : Nat) (c : Ctx) : (s.setCtx vf c).manage = s.manage := rfl
@[simp] theorem State.setCtx_dies (s : State) (vf : Nat) (c : Ctx) : (s.setCtx vf c).dies = s.dies := rfl
@[simp] theorem State.setCtx_cores (s : State) (vf : Nat) (c : Ctx) : (s.setCtx vf c).cores = s.cores := rfl
@[simp] theorem State.setCtx_parts (s : State) (vf : Nat) (c : Ctx) : (s.setCtx vf c).parts = s.parts := rfl
@[simp] theorem State.setCtx_ctxs (s : State) (vf : Nat) (c : Ctx) : (s.setCtx vf c).ctxs = fset Ctx.reset s.ctxs vf c := rfl
@[simp] theorem State.setCtx_launches (s : State) (vf : Nat) (c : Ctx) : (s.setCtx vf c).launches = s.launches := rfl
@[simp] theorem State.setCtx_blocks (s : State) (vf : Nat) (c : Ctx) : (s.setCtx vf c).blocks = s.blocks := rfl
@[simp] theorem State.setCtx_groups (s : State) (vf : Nat) (c : Ctx) : (s.setCtx vf c).groups = s.groups := rfl
@[simp] theorem State.setCtx_hbm (s : State) (vf : Nat) (c : Ctx) : (s.setCtx vf c).hbm = s.hbm := rfl
@[simp] theorem State.setCtx_host (s : State) (vf : Nat) (c : Ctx) : (s.setCtx vf c).host = s.host := rfl
@[simp] theorem State.setCtx_hostOld (s : State) (vf : Nat) (c : Ctx) : (s.setCtx vf c).hostOld = s.hostOld := rfl
@[simp] theorem State.setCtx_codeOld (s : State) (vf : Nat) (c : Ctx) : (s.setCtx vf c).codeOld = s.codeOld := rfl
@[simp] theorem State.setCtx_weights (s : State) (vf : Nat) (c : Ctx) : (s.setCtx vf c).weights = s.weights := rfl
@[simp] theorem State.setCtx_poisoned (s : State) (vf : Nat) (c : Ctx) : (s.setCtx vf c).poisoned = s.poisoned := rfl
@[simp] theorem State.setCtx_lost (s : State) (vf : Nat) (c : Ctx) : (s.setCtx vf c).lost = s.lost := rfl
@[simp] theorem State.setCtx_dirty (s : State) (vf : Nat) (c : Ctx) : (s.setCtx vf c).dirty = s.dirty := rfl
@[simp] theorem State.setCtx_tlb (s : State) (vf : Nat) (c : Ctx) : (s.setCtx vf c).tlb = s.tlb := rfl
@[simp] theorem State.setCtx_flight (s : State) (vf : Nat) (c : Ctx) : (s.setCtx vf c).flight = s.flight := rfl
@[simp] theorem State.setCtx_unacked (s : State) (vf : Nat) (c : Ctx) : (s.setCtx vf c).unacked = s.unacked := rfl
@[simp] theorem State.setCtx_fills (s : State) (vf : Nat) (c : Ctx) : (s.setCtx vf c).fills = s.fills := rfl
@[simp] theorem State.setCtx_updates (s : State) (vf : Nat) (c : Ctx) : (s.setCtx vf c).updates = s.updates := rfl
@[simp] theorem State.setCtx_xfers (s : State) (vf : Nat) (c : Ctx) : (s.setCtx vf c).xfers = s.xfers := rfl
@[simp] theorem State.setCtx_readouts (s : State) (vf : Nat) (c : Ctx) : (s.setCtx vf c).readouts = s.readouts := rfl
@[simp] theorem State.setCtx_moves (s : State) (vf : Nat) (c : Ctx) : (s.setCtx vf c).moves = s.moves := rfl
@[simp] theorem State.setCtx_tokens (s : State) (vf : Nat) (c : Ctx) : (s.setCtx vf c).tokens = s.tokens := rfl
@[simp] theorem State.setCtx_landings (s : State) (vf : Nat) (c : Ctx) : (s.setCtx vf c).landings = s.landings := rfl
@[simp] theorem State.setCtx_agg (s : State) (vf : Nat) (c : Ctx) : (s.setCtx vf c).agg = s.agg := rfl
@[simp] theorem State.setCtx_reqs (s : State) (vf : Nat) (c : Ctx) : (s.setCtx vf c).reqs = s.reqs := rfl
@[simp] theorem State.setCtx_waitReqs (s : State) (vf : Nat) (c : Ctx) : (s.setCtx vf c).waitReqs = s.waitReqs := rfl
@[simp] theorem State.setCtx_arrived (s : State) (vf : Nat) (c : Ctx) : (s.setCtx vf c).arrived = s.arrived := rfl
@[simp] theorem State.setCtx_ports (s : State) (vf : Nat) (c : Ctx) : (s.setCtx vf c).ports = s.ports := rfl
@[simp] theorem State.setCtx_remap (s : State) (vf : Nat) (c : Ctx) : (s.setCtx vf c).remap = s.remap := rfl
@[simp] theorem State.setCtx_heldCw (s : State) (vf : Nat) (c : Ctx) : (s.setCtx vf c).heldCw = s.heldCw := rfl
@[simp] theorem State.setCtx_pseq (s : State) (vf : Nat) (c : Ctx) : (s.setCtx vf c).pseq = s.pseq := rfl
@[simp] theorem State.setCtx_accepted (s : State) (vf : Nat) (c : Ctx) : (s.setCtx vf c).accepted = s.accepted := rfl
@[simp] theorem State.setCtx_rlogBase (s : State) (vf : Nat) (c : Ctx) : (s.setCtx vf c).rlogBase = s.rlogBase := rfl
@[simp] theorem State.setCtx_rlogSize (s : State) (vf : Nat) (c : Ctx) : (s.setCtx vf c).rlogSize = s.rlogSize := rfl
@[simp] theorem State.setCtx_rlog (s : State) (vf : Nat) (c : Ctx) : (s.setCtx vf c).rlog = s.rlog := rfl
@[simp] theorem State.setCtx_withheld (s : State) (vf : Nat) (c : Ctx) : (s.setCtx vf c).withheld = s.withheld := rfl
@[simp] theorem State.setCtx_iwin (s : State) (vf : Nat) (c : Ctx) : (s.setCtx vf c).iwin = s.iwin := rfl
@[simp] theorem State.setCtx_chunks (s : State) (vf : Nat) (c : Ctx) : (s.setCtx vf c).chunks = s.chunks := rfl
@[simp] theorem State.setCtx_results (s : State) (vf : Nat) (c : Ctx) : (s.setCtx vf c).results = s.results := rfl
@[simp] theorem State.setCtx_hists (s : State) (vf : Nat) (c : Ctx) : (s.setCtx vf c).hists = s.hists := rfl
@[simp] theorem State.setCtx_replay (s : State) (vf : Nat) (c : Ctx) : (s.setCtx vf c).replay = s.replay := rfl
@[simp] theorem State.setCtx_pending (s : State) (vf : Nat) (c : Ctx) : (s.setCtx vf c).pending = s.pending := rfl
@[simp] theorem State.setCtx_cmd (s : State) (vf : Nat) (c : Ctx) : (s.setCtx vf c).cmd = s.cmd := rfl
@[simp] theorem State.setCtx_agenda (s : State) (vf : Nat) (c : Ctx) : (s.setCtx vf c).agenda = s.agenda := rfl
@[simp] theorem State.setCtx_cur (s : State) (vf : Nat) (c : Ctx) : (s.setCtx vf c).cur = s.cur := rfl
@[simp] theorem State.setCtx_nextId (s : State) (vf : Nat) (c : Ctx) : (s.setCtx vf c).nextId = s.nextId := rfl
@[simp] theorem State.setCtx_free (s : State) (vf : Nat) (c : Ctx) : (s.setCtx vf c).free = s.free := rfl

/-! ### State.setPort -/

@[simp] theorem State.setPort_dev (s : State) (p : Nat) (k : Port) : (s.setPort p k).dev = s.dev := rfl
@[simp] theorem State.setPort_manage (s : State) (p : Nat) (k : Port) : (s.setPort p k).manage = s.manage := rfl
@[simp] theorem State.setPort_dies (s : State) (p : Nat) (k : Port) : (s.setPort p k).dies = s.dies := rfl
@[simp] theorem State.setPort_cores (s : State) (p : Nat) (k : Port) : (s.setPort p k).cores = s.cores := rfl
@[simp] theorem State.setPort_parts (s : State) (p : Nat) (k : Port) : (s.setPort p k).parts = s.parts := rfl
@[simp] theorem State.setPort_ctxs (s : State) (p : Nat) (k : Port) : (s.setPort p k).ctxs = s.ctxs := rfl
@[simp] theorem State.setPort_launches (s : State) (p : Nat) (k : Port) : (s.setPort p k).launches = s.launches := rfl
@[simp] theorem State.setPort_blocks (s : State) (p : Nat) (k : Port) : (s.setPort p k).blocks = s.blocks := rfl
@[simp] theorem State.setPort_groups (s : State) (p : Nat) (k : Port) : (s.setPort p k).groups = s.groups := rfl
@[simp] theorem State.setPort_hbm (s : State) (p : Nat) (k : Port) : (s.setPort p k).hbm = s.hbm := rfl
@[simp] theorem State.setPort_host (s : State) (p : Nat) (k : Port) : (s.setPort p k).host = s.host := rfl
@[simp] theorem State.setPort_hostOld (s : State) (p : Nat) (k : Port) : (s.setPort p k).hostOld = s.hostOld := rfl
@[simp] theorem State.setPort_codeOld (s : State) (p : Nat) (k : Port) : (s.setPort p k).codeOld = s.codeOld := rfl
@[simp] theorem State.setPort_weights (s : State) (p : Nat) (k : Port) : (s.setPort p k).weights = s.weights := rfl
@[simp] theorem State.setPort_poisoned (s : State) (p : Nat) (k : Port) : (s.setPort p k).poisoned = s.poisoned := rfl
@[simp] theorem State.setPort_lost (s : State) (p : Nat) (k : Port) : (s.setPort p k).lost = s.lost := rfl
@[simp] theorem State.setPort_dirty (s : State) (p : Nat) (k : Port) : (s.setPort p k).dirty = s.dirty := rfl
@[simp] theorem State.setPort_tlb (s : State) (p : Nat) (k : Port) : (s.setPort p k).tlb = s.tlb := rfl
@[simp] theorem State.setPort_flight (s : State) (p : Nat) (k : Port) : (s.setPort p k).flight = s.flight := rfl
@[simp] theorem State.setPort_unacked (s : State) (p : Nat) (k : Port) : (s.setPort p k).unacked = s.unacked := rfl
@[simp] theorem State.setPort_fills (s : State) (p : Nat) (k : Port) : (s.setPort p k).fills = s.fills := rfl
@[simp] theorem State.setPort_updates (s : State) (p : Nat) (k : Port) : (s.setPort p k).updates = s.updates := rfl
@[simp] theorem State.setPort_xfers (s : State) (p : Nat) (k : Port) : (s.setPort p k).xfers = s.xfers := rfl
@[simp] theorem State.setPort_readouts (s : State) (p : Nat) (k : Port) : (s.setPort p k).readouts = s.readouts := rfl
@[simp] theorem State.setPort_moves (s : State) (p : Nat) (k : Port) : (s.setPort p k).moves = s.moves := rfl
@[simp] theorem State.setPort_tokens (s : State) (p : Nat) (k : Port) : (s.setPort p k).tokens = s.tokens := rfl
@[simp] theorem State.setPort_landings (s : State) (p : Nat) (k : Port) : (s.setPort p k).landings = s.landings := rfl
@[simp] theorem State.setPort_agg (s : State) (p : Nat) (k : Port) : (s.setPort p k).agg = s.agg := rfl
@[simp] theorem State.setPort_reqs (s : State) (p : Nat) (k : Port) : (s.setPort p k).reqs = s.reqs := rfl
@[simp] theorem State.setPort_waitReqs (s : State) (p : Nat) (k : Port) : (s.setPort p k).waitReqs = s.waitReqs := rfl
@[simp] theorem State.setPort_arrived (s : State) (p : Nat) (k : Port) : (s.setPort p k).arrived = s.arrived := rfl
@[simp] theorem State.setPort_ports (s : State) (p : Nat) (k : Port) : (s.setPort p k).ports = fset Port.reset s.ports p k := rfl
@[simp] theorem State.setPort_remap (s : State) (p : Nat) (k : Port) : (s.setPort p k).remap = s.remap := rfl
@[simp] theorem State.setPort_heldCw (s : State) (p : Nat) (k : Port) : (s.setPort p k).heldCw = s.heldCw := rfl
@[simp] theorem State.setPort_pseq (s : State) (p : Nat) (k : Port) : (s.setPort p k).pseq = s.pseq := rfl
@[simp] theorem State.setPort_accepted (s : State) (p : Nat) (k : Port) : (s.setPort p k).accepted = s.accepted := rfl
@[simp] theorem State.setPort_rlogBase (s : State) (p : Nat) (k : Port) : (s.setPort p k).rlogBase = s.rlogBase := rfl
@[simp] theorem State.setPort_rlogSize (s : State) (p : Nat) (k : Port) : (s.setPort p k).rlogSize = s.rlogSize := rfl
@[simp] theorem State.setPort_rlog (s : State) (p : Nat) (k : Port) : (s.setPort p k).rlog = s.rlog := rfl
@[simp] theorem State.setPort_withheld (s : State) (p : Nat) (k : Port) : (s.setPort p k).withheld = s.withheld := rfl
@[simp] theorem State.setPort_iwin (s : State) (p : Nat) (k : Port) : (s.setPort p k).iwin = s.iwin := rfl
@[simp] theorem State.setPort_chunks (s : State) (p : Nat) (k : Port) : (s.setPort p k).chunks = s.chunks := rfl
@[simp] theorem State.setPort_results (s : State) (p : Nat) (k : Port) : (s.setPort p k).results = s.results := rfl
@[simp] theorem State.setPort_hists (s : State) (p : Nat) (k : Port) : (s.setPort p k).hists = s.hists := rfl
@[simp] theorem State.setPort_replay (s : State) (p : Nat) (k : Port) : (s.setPort p k).replay = s.replay := rfl
@[simp] theorem State.setPort_pending (s : State) (p : Nat) (k : Port) : (s.setPort p k).pending = s.pending := rfl
@[simp] theorem State.setPort_cmd (s : State) (p : Nat) (k : Port) : (s.setPort p k).cmd = s.cmd := rfl
@[simp] theorem State.setPort_agenda (s : State) (p : Nat) (k : Port) : (s.setPort p k).agenda = s.agenda := rfl
@[simp] theorem State.setPort_cur (s : State) (p : Nat) (k : Port) : (s.setPort p k).cur = s.cur := rfl
@[simp] theorem State.setPort_nextId (s : State) (p : Nat) (k : Port) : (s.setPort p k).nextId = s.nextId := rfl
@[simp] theorem State.setPort_free (s : State) (p : Nat) (k : Port) : (s.setPort p k).free = s.free := rfl

/-! ### State.spend -/

@[simp] theorem State.spend_dev (s : State) : (s.spend).dev = s.dev := rfl
@[simp] theorem State.spend_manage (s : State) : (s.spend).manage = s.manage := rfl
@[simp] theorem State.spend_dies (s : State) : (s.spend).dies = s.dies := rfl
@[simp] theorem State.spend_cores (s : State) : (s.spend).cores = s.cores := rfl
@[simp] theorem State.spend_parts (s : State) : (s.spend).parts = s.parts := rfl
@[simp] theorem State.spend_ctxs (s : State) : (s.spend).ctxs = s.ctxs := rfl
@[simp] theorem State.spend_launches (s : State) : (s.spend).launches = s.launches := rfl
@[simp] theorem State.spend_blocks (s : State) : (s.spend).blocks = s.blocks := rfl
@[simp] theorem State.spend_groups (s : State) : (s.spend).groups = s.groups := rfl
@[simp] theorem State.spend_hbm (s : State) : (s.spend).hbm = s.hbm := rfl
@[simp] theorem State.spend_host (s : State) : (s.spend).host = s.host := rfl
@[simp] theorem State.spend_hostOld (s : State) : (s.spend).hostOld = s.hostOld := rfl
@[simp] theorem State.spend_codeOld (s : State) : (s.spend).codeOld = s.codeOld := rfl
@[simp] theorem State.spend_weights (s : State) : (s.spend).weights = s.weights := rfl
@[simp] theorem State.spend_poisoned (s : State) : (s.spend).poisoned = s.poisoned := rfl
@[simp] theorem State.spend_lost (s : State) : (s.spend).lost = s.lost := rfl
@[simp] theorem State.spend_dirty (s : State) : (s.spend).dirty = s.dirty := rfl
@[simp] theorem State.spend_tlb (s : State) : (s.spend).tlb = s.tlb := rfl
@[simp] theorem State.spend_flight (s : State) : (s.spend).flight = s.flight := rfl
@[simp] theorem State.spend_unacked (s : State) : (s.spend).unacked = s.unacked := rfl
@[simp] theorem State.spend_fills (s : State) : (s.spend).fills = s.fills := rfl
@[simp] theorem State.spend_updates (s : State) : (s.spend).updates = s.updates := rfl
@[simp] theorem State.spend_xfers (s : State) : (s.spend).xfers = s.xfers := rfl
@[simp] theorem State.spend_readouts (s : State) : (s.spend).readouts = s.readouts := rfl
@[simp] theorem State.spend_moves (s : State) : (s.spend).moves = s.moves := rfl
@[simp] theorem State.spend_tokens (s : State) : (s.spend).tokens = s.tokens := rfl
@[simp] theorem State.spend_landings (s : State) : (s.spend).landings = s.landings := rfl
@[simp] theorem State.spend_agg (s : State) : (s.spend).agg = s.agg := rfl
@[simp] theorem State.spend_reqs (s : State) : (s.spend).reqs = s.reqs := rfl
@[simp] theorem State.spend_waitReqs (s : State) : (s.spend).waitReqs = s.waitReqs := rfl
@[simp] theorem State.spend_arrived (s : State) : (s.spend).arrived = s.arrived := rfl
@[simp] theorem State.spend_ports (s : State) : (s.spend).ports = s.ports := rfl
@[simp] theorem State.spend_remap (s : State) : (s.spend).remap = s.remap := rfl
@[simp] theorem State.spend_heldCw (s : State) : (s.spend).heldCw = s.heldCw := rfl
@[simp] theorem State.spend_pseq (s : State) : (s.spend).pseq = s.pseq := rfl
@[simp] theorem State.spend_accepted (s : State) : (s.spend).accepted = s.accepted := rfl
@[simp] theorem State.spend_rlogBase (s : State) : (s.spend).rlogBase = s.rlogBase := rfl
@[simp] theorem State.spend_rlogSize (s : State) : (s.spend).rlogSize = s.rlogSize := rfl
@[simp] theorem State.spend_rlog (s : State) : (s.spend).rlog = s.rlog := rfl
@[simp] theorem State.spend_withheld (s : State) : (s.spend).withheld = s.withheld := rfl
@[simp] theorem State.spend_iwin (s : State) : (s.spend).iwin = s.iwin := rfl
@[simp] theorem State.spend_chunks (s : State) : (s.spend).chunks = s.chunks := rfl
@[simp] theorem State.spend_results (s : State) : (s.spend).results = s.results := rfl
@[simp] theorem State.spend_hists (s : State) : (s.spend).hists = s.hists := rfl
@[simp] theorem State.spend_replay (s : State) : (s.spend).replay = s.replay := rfl
@[simp] theorem State.spend_pending (s : State) : (s.spend).pending = s.pending := rfl
@[simp] theorem State.spend_cmd (s : State) : (s.spend).cmd = s.cmd := rfl
@[simp] theorem State.spend_agenda (s : State) : (s.spend).agenda = s.agenda := rfl
@[simp] theorem State.spend_cur (s : State) : (s.spend).cur = s.cur := rfl
@[simp] theorem State.spend_nextId (s : State) : (s.spend).nextId = s.nextId := rfl
@[simp] theorem State.spend_free (s : State) : (s.spend).free = s.free + 1 := rfl

/-! ### State.named -/

@[simp] theorem State.named_dev (s : State) : (s.named).dev = s.dev := rfl
@[simp] theorem State.named_manage (s : State) : (s.named).manage = s.manage := rfl
@[simp] theorem State.named_dies (s : State) : (s.named).dies = s.dies := rfl
@[simp] theorem State.named_cores (s : State) : (s.named).cores = s.cores := rfl
@[simp] theorem State.named_parts (s : State) : (s.named).parts = s.parts := rfl
@[simp] theorem State.named_ctxs (s : State) : (s.named).ctxs = s.ctxs := rfl
@[simp] theorem State.named_launches (s : State) : (s.named).launches = s.launches := rfl
@[simp] theorem State.named_blocks (s : State) : (s.named).blocks = s.blocks := rfl
@[simp] theorem State.named_groups (s : State) : (s.named).groups = s.groups := rfl
@[simp] theorem State.named_hbm (s : State) : (s.named).hbm = s.hbm := rfl
@[simp] theorem State.named_host (s : State) : (s.named).host = s.host := rfl
@[simp] theorem State.named_hostOld (s : State) : (s.named).hostOld = s.hostOld := rfl
@[simp] theorem State.named_codeOld (s : State) : (s.named).codeOld = s.codeOld := rfl
@[simp] theorem State.named_weights (s : State) : (s.named).weights = s.weights := rfl
@[simp] theorem State.named_poisoned (s : State) : (s.named).poisoned = s.poisoned := rfl
@[simp] theorem State.named_lost (s : State) : (s.named).lost = s.lost := rfl
@[simp] theorem State.named_dirty (s : State) : (s.named).dirty = s.dirty := rfl
@[simp] theorem State.named_tlb (s : State) : (s.named).tlb = s.tlb := rfl
@[simp] theorem State.named_flight (s : State) : (s.named).flight = s.flight := rfl
@[simp] theorem State.named_unacked (s : State) : (s.named).unacked = s.unacked := rfl
@[simp] theorem State.named_fills (s : State) : (s.named).fills = s.fills := rfl
@[simp] theorem State.named_updates (s : State) : (s.named).updates = s.updates := rfl
@[simp] theorem State.named_xfers (s : State) : (s.named).xfers = s.xfers := rfl
@[simp] theorem State.named_readouts (s : State) : (s.named).readouts = s.readouts := rfl
@[simp] theorem State.named_moves (s : State) : (s.named).moves = s.moves := rfl
@[simp] theorem State.named_tokens (s : State) : (s.named).tokens = s.tokens := rfl
@[simp] theorem State.named_landings (s : State) : (s.named).landings = s.landings := rfl
@[simp] theorem State.named_agg (s : State) : (s.named).agg = s.agg := rfl
@[simp] theorem State.named_reqs (s : State) : (s.named).reqs = s.reqs := rfl
@[simp] theorem State.named_waitReqs (s : State) : (s.named).waitReqs = s.waitReqs := rfl
@[simp] theorem State.named_arrived (s : State) : (s.named).arrived = s.arrived := rfl
@[simp] theorem State.named_ports (s : State) : (s.named).ports = s.ports := rfl
@[simp] theorem State.named_remap (s : State) : (s.named).remap = s.remap := rfl
@[simp] theorem State.named_heldCw (s : State) : (s.named).heldCw = s.heldCw := rfl
@[simp] theorem State.named_pseq (s : State) : (s.named).pseq = s.pseq := rfl
@[simp] theorem State.named_accepted (s : State) : (s.named).accepted = s.accepted := rfl
@[simp] theorem State.named_rlogBase (s : State) : (s.named).rlogBase = s.rlogBase := rfl
@[simp] theorem State.named_rlogSize (s : State) : (s.named).rlogSize = s.rlogSize := rfl
@[simp] theorem State.named_rlog (s : State) : (s.named).rlog = s.rlog := rfl
@[simp] theorem State.named_withheld (s : State) : (s.named).withheld = s.withheld := rfl
@[simp] theorem State.named_iwin (s : State) : (s.named).iwin = s.iwin := rfl
@[simp] theorem State.named_chunks (s : State) : (s.named).chunks = s.chunks := rfl
@[simp] theorem State.named_results (s : State) : (s.named).results = s.results := rfl
@[simp] theorem State.named_hists (s : State) : (s.named).hists = s.hists := rfl
@[simp] theorem State.named_replay (s : State) : (s.named).replay = s.replay := rfl
@[simp] theorem State.named_pending (s : State) : (s.named).pending = s.pending := rfl
@[simp] theorem State.named_cmd (s : State) : (s.named).cmd = s.cmd := rfl
@[simp] theorem State.named_agenda (s : State) : (s.named).agenda = s.agenda := rfl
@[simp] theorem State.named_cur (s : State) : (s.named).cur = s.cur := rfl
@[simp] theorem State.named_nextId (s : State) : (s.named).nextId = s.nextId + 1 := rfl
@[simp] theorem State.named_free (s : State) : (s.named).free = s.free := rfl

/-! ### State.fly -/

@[simp] theorem State.fly_dev (s : State) (x : Ix) (k : AccKind) (l : Loc) (va n : Nat) (ops : List PosOp) (d : Dest) (c : Bool) (b : List Access) (h : Bool) : (s.fly x k l va n ops d c b h).dev = s.dev := rfl
@[simp] theorem State.fly_manage (s : State) (x : Ix) (k : AccKind) (l : Loc) (va n : Nat) (ops : List PosOp) (d : Dest) (c : Bool) (b : List Access) (h : Bool) : (s.fly x k l va n ops d c b h).manage = s.manage := rfl
@[simp] theorem State.fly_dies (s : State) (x : Ix) (k : AccKind) (l : Loc) (va n : Nat) (ops : List PosOp) (d : Dest) (c : Bool) (b : List Access) (h : Bool) : (s.fly x k l va n ops d c b h).dies = s.dies := rfl
@[simp] theorem State.fly_cores (s : State) (x : Ix) (k : AccKind) (l : Loc) (va n : Nat) (ops : List PosOp) (d : Dest) (c : Bool) (b : List Access) (h : Bool) : (s.fly x k l va n ops d c b h).cores = s.cores := rfl
@[simp] theorem State.fly_parts (s : State) (x : Ix) (k : AccKind) (l : Loc) (va n : Nat) (ops : List PosOp) (d : Dest) (c : Bool) (b : List Access) (h : Bool) : (s.fly x k l va n ops d c b h).parts = s.parts := rfl
@[simp] theorem State.fly_ctxs (s : State) (x : Ix) (k : AccKind) (l : Loc) (va n : Nat) (ops : List PosOp) (d : Dest) (c : Bool) (b : List Access) (h : Bool) : (s.fly x k l va n ops d c b h).ctxs = s.ctxs := rfl
@[simp] theorem State.fly_launches (s : State) (x : Ix) (k : AccKind) (l : Loc) (va n : Nat) (ops : List PosOp) (d : Dest) (c : Bool) (b : List Access) (h : Bool) : (s.fly x k l va n ops d c b h).launches = s.launches := rfl
@[simp] theorem State.fly_blocks (s : State) (x : Ix) (k : AccKind) (l : Loc) (va n : Nat) (ops : List PosOp) (d : Dest) (c : Bool) (b : List Access) (h : Bool) : (s.fly x k l va n ops d c b h).blocks = s.blocks := rfl
@[simp] theorem State.fly_groups (s : State) (x : Ix) (k : AccKind) (l : Loc) (va n : Nat) (ops : List PosOp) (d : Dest) (c : Bool) (b : List Access) (h : Bool) : (s.fly x k l va n ops d c b h).groups = s.groups := rfl
@[simp] theorem State.fly_hbm (s : State) (x : Ix) (k : AccKind) (l : Loc) (va n : Nat) (ops : List PosOp) (d : Dest) (c : Bool) (b : List Access) (h : Bool) : (s.fly x k l va n ops d c b h).hbm = s.hbm := rfl
@[simp] theorem State.fly_host (s : State) (x : Ix) (k : AccKind) (l : Loc) (va n : Nat) (ops : List PosOp) (d : Dest) (c : Bool) (b : List Access) (h : Bool) : (s.fly x k l va n ops d c b h).host = s.host := rfl
@[simp] theorem State.fly_hostOld (s : State) (x : Ix) (k : AccKind) (l : Loc) (va n : Nat) (ops : List PosOp) (d : Dest) (c : Bool) (b : List Access) (h : Bool) : (s.fly x k l va n ops d c b h).hostOld = s.hostOld := rfl
@[simp] theorem State.fly_codeOld (s : State) (x : Ix) (k : AccKind) (l : Loc) (va n : Nat) (ops : List PosOp) (d : Dest) (c : Bool) (b : List Access) (h : Bool) : (s.fly x k l va n ops d c b h).codeOld = s.codeOld := rfl
@[simp] theorem State.fly_weights (s : State) (x : Ix) (k : AccKind) (l : Loc) (va n : Nat) (ops : List PosOp) (d : Dest) (c : Bool) (b : List Access) (h : Bool) : (s.fly x k l va n ops d c b h).weights = s.weights := rfl
@[simp] theorem State.fly_poisoned (s : State) (x : Ix) (k : AccKind) (l : Loc) (va n : Nat) (ops : List PosOp) (d : Dest) (c : Bool) (b : List Access) (h : Bool) : (s.fly x k l va n ops d c b h).poisoned = s.poisoned := rfl
@[simp] theorem State.fly_lost (s : State) (x : Ix) (k : AccKind) (l : Loc) (va n : Nat) (ops : List PosOp) (d : Dest) (c : Bool) (b : List Access) (h : Bool) : (s.fly x k l va n ops d c b h).lost = s.lost := rfl
@[simp] theorem State.fly_dirty (s : State) (x : Ix) (k : AccKind) (l : Loc) (va n : Nat) (ops : List PosOp) (d : Dest) (c : Bool) (b : List Access) (h : Bool) : (s.fly x k l va n ops d c b h).dirty = s.dirty := rfl
@[simp] theorem State.fly_tlb (s : State) (x : Ix) (k : AccKind) (l : Loc) (va n : Nat) (ops : List PosOp) (d : Dest) (c : Bool) (b : List Access) (h : Bool) : (s.fly x k l va n ops d c b h).tlb = s.tlb := rfl
@[simp] theorem State.fly_flight (s : State) (x : Ix) (k : AccKind) (l : Loc) (va n : Nat) (ops : List PosOp) (d : Dest) (c : Bool) (b : List Access) (h : Bool) : (s.fly x k l va n ops d c b h).flight = s.flight ++ [{ id := s.nextId, gid := x.g.gid, vf := x.g.vf, core := coreOf x.p, kind := k, loc := l, va := va, size := n, ops := ops, dest := d, addr := x.addr, const := c, line := x.g.lineage x.path.id, after := if h then [] else s.keptBefore x l n b, helper := h }] := rfl
@[simp] theorem State.fly_unacked (s : State) (x : Ix) (k : AccKind) (l : Loc) (va n : Nat) (ops : List PosOp) (d : Dest) (c : Bool) (b : List Access) (h : Bool) : (s.fly x k l va n ops d c b h).unacked = s.unacked := rfl
@[simp] theorem State.fly_fills (s : State) (x : Ix) (k : AccKind) (l : Loc) (va n : Nat) (ops : List PosOp) (d : Dest) (c : Bool) (b : List Access) (h : Bool) : (s.fly x k l va n ops d c b h).fills = s.fills := rfl
@[simp] theorem State.fly_updates (s : State) (x : Ix) (k : AccKind) (l : Loc) (va n : Nat) (ops : List PosOp) (d : Dest) (c : Bool) (b : List Access) (h : Bool) : (s.fly x k l va n ops d c b h).updates = s.updates := rfl
@[simp] theorem State.fly_xfers (s : State) (x : Ix) (k : AccKind) (l : Loc) (va n : Nat) (ops : List PosOp) (d : Dest) (c : Bool) (b : List Access) (h : Bool) : (s.fly x k l va n ops d c b h).xfers = s.xfers := rfl
@[simp] theorem State.fly_readouts (s : State) (x : Ix) (k : AccKind) (l : Loc) (va n : Nat) (ops : List PosOp) (d : Dest) (c : Bool) (b : List Access) (h : Bool) : (s.fly x k l va n ops d c b h).readouts = s.readouts := rfl
@[simp] theorem State.fly_moves (s : State) (x : Ix) (k : AccKind) (l : Loc) (va n : Nat) (ops : List PosOp) (d : Dest) (c : Bool) (b : List Access) (h : Bool) : (s.fly x k l va n ops d c b h).moves = s.moves := rfl
@[simp] theorem State.fly_tokens (s : State) (x : Ix) (k : AccKind) (l : Loc) (va n : Nat) (ops : List PosOp) (d : Dest) (c : Bool) (b : List Access) (h : Bool) : (s.fly x k l va n ops d c b h).tokens = s.tokens := rfl
@[simp] theorem State.fly_landings (s : State) (x : Ix) (k : AccKind) (l : Loc) (va n : Nat) (ops : List PosOp) (d : Dest) (c : Bool) (b : List Access) (h : Bool) : (s.fly x k l va n ops d c b h).landings = s.landings := rfl
@[simp] theorem State.fly_agg (s : State) (x : Ix) (k : AccKind) (l : Loc) (va n : Nat) (ops : List PosOp) (d : Dest) (c : Bool) (b : List Access) (h : Bool) : (s.fly x k l va n ops d c b h).agg = s.agg := rfl
@[simp] theorem State.fly_reqs (s : State) (x : Ix) (k : AccKind) (l : Loc) (va n : Nat) (ops : List PosOp) (d : Dest) (c : Bool) (b : List Access) (h : Bool) : (s.fly x k l va n ops d c b h).reqs = s.reqs := rfl
@[simp] theorem State.fly_waitReqs (s : State) (x : Ix) (k : AccKind) (l : Loc) (va n : Nat) (ops : List PosOp) (d : Dest) (c : Bool) (b : List Access) (h : Bool) : (s.fly x k l va n ops d c b h).waitReqs = s.waitReqs := rfl
@[simp] theorem State.fly_arrived (s : State) (x : Ix) (k : AccKind) (l : Loc) (va n : Nat) (ops : List PosOp) (d : Dest) (c : Bool) (b : List Access) (h : Bool) : (s.fly x k l va n ops d c b h).arrived = s.arrived := rfl
@[simp] theorem State.fly_ports (s : State) (x : Ix) (k : AccKind) (l : Loc) (va n : Nat) (ops : List PosOp) (d : Dest) (c : Bool) (b : List Access) (h : Bool) : (s.fly x k l va n ops d c b h).ports = s.ports := rfl
@[simp] theorem State.fly_remap (s : State) (x : Ix) (k : AccKind) (l : Loc) (va n : Nat) (ops : List PosOp) (d : Dest) (c : Bool) (b : List Access) (h : Bool) : (s.fly x k l va n ops d c b h).remap = s.remap := rfl
@[simp] theorem State.fly_heldCw (s : State) (x : Ix) (k : AccKind) (l : Loc) (va n : Nat) (ops : List PosOp) (d : Dest) (c : Bool) (b : List Access) (h : Bool) : (s.fly x k l va n ops d c b h).heldCw = s.heldCw := rfl
@[simp] theorem State.fly_pseq (s : State) (x : Ix) (k : AccKind) (l : Loc) (va n : Nat) (ops : List PosOp) (d : Dest) (c : Bool) (b : List Access) (h : Bool) : (s.fly x k l va n ops d c b h).pseq = s.pseq := rfl
@[simp] theorem State.fly_accepted (s : State) (x : Ix) (k : AccKind) (l : Loc) (va n : Nat) (ops : List PosOp) (d : Dest) (c : Bool) (b : List Access) (h : Bool) : (s.fly x k l va n ops d c b h).accepted = s.accepted := rfl
@[simp] theorem State.fly_rlogBase (s : State) (x : Ix) (k : AccKind) (l : Loc) (va n : Nat) (ops : List PosOp) (d : Dest) (c : Bool) (b : List Access) (h : Bool) : (s.fly x k l va n ops d c b h).rlogBase = s.rlogBase := rfl
@[simp] theorem State.fly_rlogSize (s : State) (x : Ix) (k : AccKind) (l : Loc) (va n : Nat) (ops : List PosOp) (d : Dest) (c : Bool) (b : List Access) (h : Bool) : (s.fly x k l va n ops d c b h).rlogSize = s.rlogSize := rfl
@[simp] theorem State.fly_rlog (s : State) (x : Ix) (k : AccKind) (l : Loc) (va n : Nat) (ops : List PosOp) (d : Dest) (c : Bool) (b : List Access) (h : Bool) : (s.fly x k l va n ops d c b h).rlog = s.rlog := rfl
@[simp] theorem State.fly_withheld (s : State) (x : Ix) (k : AccKind) (l : Loc) (va n : Nat) (ops : List PosOp) (d : Dest) (c : Bool) (b : List Access) (h : Bool) : (s.fly x k l va n ops d c b h).withheld = s.withheld := rfl
@[simp] theorem State.fly_iwin (s : State) (x : Ix) (k : AccKind) (l : Loc) (va n : Nat) (ops : List PosOp) (d : Dest) (c : Bool) (b : List Access) (h : Bool) : (s.fly x k l va n ops d c b h).iwin = s.iwin := rfl
@[simp] theorem State.fly_chunks (s : State) (x : Ix) (k : AccKind) (l : Loc) (va n : Nat) (ops : List PosOp) (d : Dest) (c : Bool) (b : List Access) (h : Bool) : (s.fly x k l va n ops d c b h).chunks = s.chunks := rfl
@[simp] theorem State.fly_results (s : State) (x : Ix) (k : AccKind) (l : Loc) (va n : Nat) (ops : List PosOp) (d : Dest) (c : Bool) (b : List Access) (h : Bool) : (s.fly x k l va n ops d c b h).results = s.results := rfl
@[simp] theorem State.fly_hists (s : State) (x : Ix) (k : AccKind) (l : Loc) (va n : Nat) (ops : List PosOp) (d : Dest) (c : Bool) (b : List Access) (h : Bool) : (s.fly x k l va n ops d c b h).hists = s.hists := rfl
@[simp] theorem State.fly_replay (s : State) (x : Ix) (k : AccKind) (l : Loc) (va n : Nat) (ops : List PosOp) (d : Dest) (c : Bool) (b : List Access) (h : Bool) : (s.fly x k l va n ops d c b h).replay = s.replay := rfl
@[simp] theorem State.fly_pending (s : State) (x : Ix) (k : AccKind) (l : Loc) (va n : Nat) (ops : List PosOp) (d : Dest) (c : Bool) (b : List Access) (h : Bool) : (s.fly x k l va n ops d c b h).pending = s.pending := rfl
@[simp] theorem State.fly_cmd (s : State) (x : Ix) (k : AccKind) (l : Loc) (va n : Nat) (ops : List PosOp) (d : Dest) (c : Bool) (b : List Access) (h : Bool) : (s.fly x k l va n ops d c b h).cmd = s.cmd := rfl
@[simp] theorem State.fly_agenda (s : State) (x : Ix) (k : AccKind) (l : Loc) (va n : Nat) (ops : List PosOp) (d : Dest) (c : Bool) (b : List Access) (h : Bool) : (s.fly x k l va n ops d c b h).agenda = s.agenda := rfl
@[simp] theorem State.fly_cur (s : State) (x : Ix) (k : AccKind) (l : Loc) (va n : Nat) (ops : List PosOp) (d : Dest) (c : Bool) (b : List Access) (h : Bool) : (s.fly x k l va n ops d c b h).cur = s.cur := rfl
@[simp] theorem State.fly_nextId (s : State) (x : Ix) (k : AccKind) (l : Loc) (va n : Nat) (ops : List PosOp) (d : Dest) (c : Bool) (b : List Access) (h : Bool) : (s.fly x k l va n ops d c b h).nextId = s.nextId + 1 := rfl
@[simp] theorem State.fly_free (s : State) (x : Ix) (k : AccKind) (l : Loc) (va n : Nat) (ops : List PosOp) (d : Dest) (c : Bool) (b : List Access) (h : Bool) : (s.fly x k l va n ops d c b h).free = s.free := rfl

/-! ### State.fill -/

@[simp] theorem State.fill_dev (s : State) (gid : Gid) (is : List FillItem) : (s.fill gid is).dev = s.dev := rfl
@[simp] theorem State.fill_manage (s : State) (gid : Gid) (is : List FillItem) : (s.fill gid is).manage = s.manage := rfl
@[simp] theorem State.fill_dies (s : State) (gid : Gid) (is : List FillItem) : (s.fill gid is).dies = s.dies := rfl
@[simp] theorem State.fill_cores (s : State) (gid : Gid) (is : List FillItem) : (s.fill gid is).cores = s.cores := rfl
@[simp] theorem State.fill_parts (s : State) (gid : Gid) (is : List FillItem) : (s.fill gid is).parts = s.parts := rfl
@[simp] theorem State.fill_ctxs (s : State) (gid : Gid) (is : List FillItem) : (s.fill gid is).ctxs = s.ctxs := rfl
@[simp] theorem State.fill_launches (s : State) (gid : Gid) (is : List FillItem) : (s.fill gid is).launches = s.launches := rfl
@[simp] theorem State.fill_blocks (s : State) (gid : Gid) (is : List FillItem) : (s.fill gid is).blocks = s.blocks := rfl
@[simp] theorem State.fill_groups (s : State) (gid : Gid) (is : List FillItem) : (s.fill gid is).groups = s.groups := rfl
@[simp] theorem State.fill_hbm (s : State) (gid : Gid) (is : List FillItem) : (s.fill gid is).hbm = s.hbm := rfl
@[simp] theorem State.fill_host (s : State) (gid : Gid) (is : List FillItem) : (s.fill gid is).host = s.host := rfl
@[simp] theorem State.fill_hostOld (s : State) (gid : Gid) (is : List FillItem) : (s.fill gid is).hostOld = s.hostOld := rfl
@[simp] theorem State.fill_codeOld (s : State) (gid : Gid) (is : List FillItem) : (s.fill gid is).codeOld = s.codeOld := rfl
@[simp] theorem State.fill_weights (s : State) (gid : Gid) (is : List FillItem) : (s.fill gid is).weights = s.weights := rfl
@[simp] theorem State.fill_poisoned (s : State) (gid : Gid) (is : List FillItem) : (s.fill gid is).poisoned = s.poisoned := rfl
@[simp] theorem State.fill_lost (s : State) (gid : Gid) (is : List FillItem) : (s.fill gid is).lost = s.lost := rfl
@[simp] theorem State.fill_dirty (s : State) (gid : Gid) (is : List FillItem) : (s.fill gid is).dirty = s.dirty := rfl
@[simp] theorem State.fill_tlb (s : State) (gid : Gid) (is : List FillItem) : (s.fill gid is).tlb = s.tlb := rfl
@[simp] theorem State.fill_flight (s : State) (gid : Gid) (is : List FillItem) : (s.fill gid is).flight = s.flight := rfl
@[simp] theorem State.fill_unacked (s : State) (gid : Gid) (is : List FillItem) : (s.fill gid is).unacked = s.unacked := rfl
@[simp] theorem State.fill_fills (s : State) (gid : Gid) (is : List FillItem) : (s.fill gid is).fills = s.fills ++ [{ id := s.nextId, gid := gid, items := is }] := rfl
@[simp] theorem State.fill_updates (s : State) (gid : Gid) (is : List FillItem) : (s.fill gid is).updates = s.updates := rfl
@[simp] theorem State.fill_xfers (s : State) (gid : Gid) (is : List FillItem) : (s.fill gid is).xfers = s.xfers := rfl
@[simp] theorem State.fill_readouts (s : State) (gid : Gid) (is : List FillItem) : (s.fill gid is).readouts = s.readouts := rfl
@[simp] theorem State.fill_moves (s : State) (gid : Gid) (is : List FillItem) : (s.fill gid is).moves = s.moves := rfl
@[simp] theorem State.fill_tokens (s : State) (gid : Gid) (is : List FillItem) : (s.fill gid is).tokens = s.tokens := rfl
@[simp] theorem State.fill_landings (s : State) (gid : Gid) (is : List FillItem) : (s.fill gid is).landings = s.landings := rfl
@[simp] theorem State.fill_agg (s : State) (gid : Gid) (is : List FillItem) : (s.fill gid is).agg = s.agg := rfl
@[simp] theorem State.fill_reqs (s : State) (gid : Gid) (is : List FillItem) : (s.fill gid is).reqs = s.reqs := rfl
@[simp] theorem State.fill_waitReqs (s : State) (gid : Gid) (is : List FillItem) : (s.fill gid is).waitReqs = s.waitReqs := rfl
@[simp] theorem State.fill_arrived (s : State) (gid : Gid) (is : List FillItem) : (s.fill gid is).arrived = s.arrived := rfl
@[simp] theorem State.fill_ports (s : State) (gid : Gid) (is : List FillItem) : (s.fill gid is).ports = s.ports := rfl
@[simp] theorem State.fill_remap (s : State) (gid : Gid) (is : List FillItem) : (s.fill gid is).remap = s.remap := rfl
@[simp] theorem State.fill_heldCw (s : State) (gid : Gid) (is : List FillItem) : (s.fill gid is).heldCw = s.heldCw := rfl
@[simp] theorem State.fill_pseq (s : State) (gid : Gid) (is : List FillItem) : (s.fill gid is).pseq = s.pseq := rfl
@[simp] theorem State.fill_accepted (s : State) (gid : Gid) (is : List FillItem) : (s.fill gid is).accepted = s.accepted := rfl
@[simp] theorem State.fill_rlogBase (s : State) (gid : Gid) (is : List FillItem) : (s.fill gid is).rlogBase = s.rlogBase := rfl
@[simp] theorem State.fill_rlogSize (s : State) (gid : Gid) (is : List FillItem) : (s.fill gid is).rlogSize = s.rlogSize := rfl
@[simp] theorem State.fill_rlog (s : State) (gid : Gid) (is : List FillItem) : (s.fill gid is).rlog = s.rlog := rfl
@[simp] theorem State.fill_withheld (s : State) (gid : Gid) (is : List FillItem) : (s.fill gid is).withheld = s.withheld := rfl
@[simp] theorem State.fill_iwin (s : State) (gid : Gid) (is : List FillItem) : (s.fill gid is).iwin = s.iwin := rfl
@[simp] theorem State.fill_chunks (s : State) (gid : Gid) (is : List FillItem) : (s.fill gid is).chunks = s.chunks := rfl
@[simp] theorem State.fill_results (s : State) (gid : Gid) (is : List FillItem) : (s.fill gid is).results = s.results := rfl
@[simp] theorem State.fill_hists (s : State) (gid : Gid) (is : List FillItem) : (s.fill gid is).hists = s.hists := rfl
@[simp] theorem State.fill_replay (s : State) (gid : Gid) (is : List FillItem) : (s.fill gid is).replay = s.replay := rfl
@[simp] theorem State.fill_pending (s : State) (gid : Gid) (is : List FillItem) : (s.fill gid is).pending = s.pending := rfl
@[simp] theorem State.fill_cmd (s : State) (gid : Gid) (is : List FillItem) : (s.fill gid is).cmd = s.cmd := rfl
@[simp] theorem State.fill_agenda (s : State) (gid : Gid) (is : List FillItem) : (s.fill gid is).agenda = s.agenda := rfl
@[simp] theorem State.fill_cur (s : State) (gid : Gid) (is : List FillItem) : (s.fill gid is).cur = s.cur := rfl
@[simp] theorem State.fill_nextId (s : State) (gid : Gid) (is : List FillItem) : (s.fill gid is).nextId = s.nextId + 1 := rfl
@[simp] theorem State.fill_free (s : State) (gid : Gid) (is : List FillItem) : (s.fill gid is).free = s.free := rfl

/-! ### Group.setS -/

@[simp] theorem Group.setS_gid (g : Group) (r : Nat) (v : Dword) : (g.setS r v).gid = g.gid := rfl
@[simp] theorem Group.setS_vf (g : Group) (r : Nat) (v : Dword) : (g.setS r v).vf = g.vf := rfl
@[simp] theorem Group.setS_launch (g : Group) (r : Nat) (v : Dword) : (g.setS r v).launch = g.launch := rfl
@[simp] theorem Group.setS_block (g : Group) (r : Nat) (v : Dword) : (g.setS r v).block = g.block := rfl
@[simp] theorem Group.setS_part (g : Group) (r : Nat) (v : Dword) : (g.setS r v).part = g.part := rfl
@[simp] theorem Group.setS_slot (g : Group) (r : Nat) (v : Dword) : (g.setS r v).slot = g.slot := rfl
@[simp] theorem Group.setS_cluster (g : Group) (r : Nat) (v : Dword) : (g.setS r v).cluster = g.cluster := rfl
@[simp] theorem Group.setS_blockNo (g : Group) (r : Nat) (v : Dword) : (g.setS r v).blockNo = g.blockNo := rfl
@[simp] theorem Group.setS_groupNo (g : Group) (r : Nat) (v : Dword) : (g.setS r v).groupNo = g.groupNo := rfl
@[simp] theorem Group.setS_w (g : Group) (r : Nat) (v : Dword) : (g.setS r v).w = g.w := rfl
@[simp] theorem Group.setS_e (g : Group) (r : Nat) (v : Dword) : (g.setS r v).e = g.e := rfl
@[simp] theorem Group.setS_laneOff (g : Group) (r : Nat) (v : Dword) : (g.setS r v).laneOff = g.laneOff := rfl
@[simp] theorem Group.setS_vregs (g : Group) (r : Nat) (v : Dword) : (g.setS r v).vregs = g.vregs := rfl
@[simp] theorem Group.setS_vcur (g : Group) (r : Nat) (v : Dword) : (g.setS r v).vcur = g.vcur := rfl
@[simp] theorem Group.setS_helpers (g : Group) (r : Nat) (v : Dword) : (g.setS r v).helpers = g.helpers := rfl
@[simp] theorem Group.setS_atiles (g : Group) (r : Nat) (v : Dword) : (g.setS r v).atiles = g.atiles := rfl
@[simp] theorem Group.setS_xext (g : Group) (r : Nat) (v : Dword) : (g.setS r v).xext = g.xext := rfl
@[simp] theorem Group.setS_dstack (g : Group) (r : Nat) (v : Dword) : (g.setS r v).dstack = g.dstack := rfl
@[simp] theorem Group.setS_blocks (g : Group) (r : Nat) (v : Dword) : (g.setS r v).blocks = g.blocks := rfl
@[simp] theorem Group.setS_groups (g : Group) (r : Nat) (v : Dword) : (g.setS r v).groups = g.groups := rfl
@[simp] theorem Group.setS_round (g : Group) (r : Nat) (v : Dword) : (g.setS r v).round = g.round := rfl
@[simp] theorem Group.setS_prio (g : Group) (r : Nat) (v : Dword) : (g.setS r v).prio = g.prio := rfl
@[simp] theorem Group.setS_tag (g : Group) (r : Nat) (v : Dword) : (g.setS r v).tag = g.tag := rfl
@[simp] theorem Group.setS_k (g : Group) (r : Nat) (v : Dword) : (g.setS r v).k = g.k := rfl
@[simp] theorem Group.setS_v (g : Group) (r : Nat) (v : Dword) : (g.setS r v).v = g.v := rfl
@[simp] theorem Group.setS_vEmpty (g : Group) (r : Nat) (v : Dword) : (g.setS r v).vEmpty = g.vEmpty := rfl
@[simp] theorem Group.setS_sh (g : Group) (r : Nat) (v : Dword) : (g.setS r v).sh = g.sh := rfl
@[simp] theorem Group.setS_shEmpty (g : Group) (r : Nat) (v : Dword) : (g.setS r v).shEmpty = g.shEmpty := rfl
@[simp] theorem Group.setS_shLive (g : Group) (r : Nat) (v : Dword) : (g.setS r v).shLive = g.shLive := rfl
@[simp] theorem Group.setS_shOwner (g : Group) (r : Nat) (v : Dword) : (g.setS r v).shOwner = g.shOwner := rfl
@[simp] theorem Group.setS_s (g : Group) (r : Nat) (v : Dword) : (g.setS r v).s = fset 0 g.s r v := rfl
@[simp] theorem Group.setS_sEmpty (g : Group) (r : Nat) (v : Dword) : (g.setS r v).sEmpty = g.sEmpty &&& ~~~(dw (2 ^ r)) := rfl
@[simp] theorem Group.setS_sTicket (g : Group) (r : Nat) (v : Dword) : (g.setS r v).sTicket = g.sTicket &&& ~~~(dw (2 ^ r)) := rfl
@[simp] theorem Group.setS_m (g : Group) (r : Nat) (v : Dword) : (g.setS r v).m = g.m := rfl
@[simp] theorem Group.setS_q (g : Group) (r : Nat) (v : Dword) : (g.setS r v).q = g.q := rfl
@[simp] theorem Group.setS_x (g : Group) (r : Nat) (v : Dword) : (g.setS r v).x = g.x := rfl
@[simp] theorem Group.setS_tiles (g : Group) (r : Nat) (v : Dword) : (g.setS r v).tiles = g.tiles := rfl
@[simp] theorem Group.setS_slots (g : Group) (r : Nat) (v : Dword) : (g.setS r v).slots = g.slots := rfl
@[simp] theorem Group.setS_fstat (g : Group) (r : Nat) (v : Dword) : (g.setS r v).fstat = g.fstat := rfl
@[simp] theorem Group.setS_paths (g : Group) (r : Nat) (v : Dword) : (g.setS r v).paths = g.paths := rfl
@[simp] theorem Group.setS_nextPath (g : Group) (r : Nat) (v : Dword) : (g.setS r v).nextPath = g.nextPath := rfl
@[simp] theorem Group.setS_backoff (g : Group) (r : Nat) (v : Dword) : (g.setS r v).backoff = g.backoff := rfl
@[simp] theorem Group.setS_polling (g : Group) (r : Nat) (v : Dword) : (g.setS r v).polling = g.polling := rfl
@[simp] theorem Group.setS_park (g : Group) (r : Nat) (v : Dword) : (g.setS r v).park = g.park := rfl
@[simp] theorem Group.setS_tokens (g : Group) (r : Nat) (v : Dword) : (g.setS r v).tokens = g.tokens := rfl
@[simp] theorem Group.setS_chain (g : Group) (r : Nat) (v : Dword) : (g.setS r v).chain = g.chain := rfl
@[simp] theorem Group.setS_cap (g : Group) (r : Nat) (v : Dword) : (g.setS r v).cap = g.cap := rfl
@[simp] theorem Group.setS_aggLost (g : Group) (r : Nat) (v : Dword) : (g.setS r v).aggLost = g.aggLost := rfl
@[simp] theorem Group.setS_aggLog (g : Group) (r : Nat) (v : Dword) : (g.setS r v).aggLog = g.aggLog := rfl
@[simp] theorem Group.setS_latch (g : Group) (r : Nat) (v : Dword) : (g.setS r v).latch = g.latch := rfl
@[simp] theorem Group.setS_fault (g : Group) (r : Nat) (v : Dword) : (g.setS r v).fault = g.fault := rfl
@[simp] theorem Group.setS_stopped (g : Group) (r : Nat) (v : Dword) : (g.setS r v).stopped = g.stopped := rfl
@[simp] theorem Group.setS_sig (g : Group) (r : Nat) (v : Dword) : (g.setS r v).sig = g.sig := rfl

/-! ### Group.markS -/

@[simp] theorem Group.markS_gid (g : Group) (r : Nat) (t : Bool) : (g.markS r t).gid = g.gid := rfl
@[simp] theorem Group.markS_vf (g : Group) (r : Nat) (t : Bool) : (g.markS r t).vf = g.vf := rfl
@[simp] theorem Group.markS_launch (g : Group) (r : Nat) (t : Bool) : (g.markS r t).launch = g.launch := rfl
@[simp] theorem Group.markS_block (g : Group) (r : Nat) (t : Bool) : (g.markS r t).block = g.block := rfl
@[simp] theorem Group.markS_part (g : Group) (r : Nat) (t : Bool) : (g.markS r t).part = g.part := rfl
@[simp] theorem Group.markS_slot (g : Group) (r : Nat) (t : Bool) : (g.markS r t).slot = g.slot := rfl
@[simp] theorem Group.markS_cluster (g : Group) (r : Nat) (t : Bool) : (g.markS r t).cluster = g.cluster := rfl
@[simp] theorem Group.markS_blockNo (g : Group) (r : Nat) (t : Bool) : (g.markS r t).blockNo = g.blockNo := rfl
@[simp] theorem Group.markS_groupNo (g : Group) (r : Nat) (t : Bool) : (g.markS r t).groupNo = g.groupNo := rfl
@[simp] theorem Group.markS_w (g : Group) (r : Nat) (t : Bool) : (g.markS r t).w = g.w := rfl
@[simp] theorem Group.markS_e (g : Group) (r : Nat) (t : Bool) : (g.markS r t).e = g.e := rfl
@[simp] theorem Group.markS_laneOff (g : Group) (r : Nat) (t : Bool) : (g.markS r t).laneOff = g.laneOff := rfl
@[simp] theorem Group.markS_vregs (g : Group) (r : Nat) (t : Bool) : (g.markS r t).vregs = g.vregs := rfl
@[simp] theorem Group.markS_vcur (g : Group) (r : Nat) (t : Bool) : (g.markS r t).vcur = g.vcur := rfl
@[simp] theorem Group.markS_helpers (g : Group) (r : Nat) (t : Bool) : (g.markS r t).helpers = g.helpers := rfl
@[simp] theorem Group.markS_atiles (g : Group) (r : Nat) (t : Bool) : (g.markS r t).atiles = g.atiles := rfl
@[simp] theorem Group.markS_xext (g : Group) (r : Nat) (t : Bool) : (g.markS r t).xext = g.xext := rfl
@[simp] theorem Group.markS_dstack (g : Group) (r : Nat) (t : Bool) : (g.markS r t).dstack = g.dstack := rfl
@[simp] theorem Group.markS_blocks (g : Group) (r : Nat) (t : Bool) : (g.markS r t).blocks = g.blocks := rfl
@[simp] theorem Group.markS_groups (g : Group) (r : Nat) (t : Bool) : (g.markS r t).groups = g.groups := rfl
@[simp] theorem Group.markS_round (g : Group) (r : Nat) (t : Bool) : (g.markS r t).round = g.round := rfl
@[simp] theorem Group.markS_prio (g : Group) (r : Nat) (t : Bool) : (g.markS r t).prio = g.prio := rfl
@[simp] theorem Group.markS_tag (g : Group) (r : Nat) (t : Bool) : (g.markS r t).tag = g.tag := rfl
@[simp] theorem Group.markS_k (g : Group) (r : Nat) (t : Bool) : (g.markS r t).k = g.k := rfl
@[simp] theorem Group.markS_v (g : Group) (r : Nat) (t : Bool) : (g.markS r t).v = g.v := rfl
@[simp] theorem Group.markS_vEmpty (g : Group) (r : Nat) (t : Bool) : (g.markS r t).vEmpty = g.vEmpty := rfl
@[simp] theorem Group.markS_sh (g : Group) (r : Nat) (t : Bool) : (g.markS r t).sh = g.sh := rfl
@[simp] theorem Group.markS_shEmpty (g : Group) (r : Nat) (t : Bool) : (g.markS r t).shEmpty = g.shEmpty := rfl
@[simp] theorem Group.markS_shLive (g : Group) (r : Nat) (t : Bool) : (g.markS r t).shLive = g.shLive := rfl
@[simp] theorem Group.markS_shOwner (g : Group) (r : Nat) (t : Bool) : (g.markS r t).shOwner = g.shOwner := rfl
@[simp] theorem Group.markS_s (g : Group) (r : Nat) (t : Bool) : (g.markS r t).s = g.s := rfl
@[simp] theorem Group.markS_sEmpty (g : Group) (r : Nat) (t : Bool) : (g.markS r t).sEmpty = g.sEmpty ||| dw (2 ^ r) := rfl
@[simp] theorem Group.markS_sTicket (g : Group) (r : Nat) (t : Bool) : (g.markS r t).sTicket = if t then g.sTicket ||| dw (2 ^ r) else g.sTicket := rfl
@[simp] theorem Group.markS_m (g : Group) (r : Nat) (t : Bool) : (g.markS r t).m = g.m := rfl
@[simp] theorem Group.markS_q (g : Group) (r : Nat) (t : Bool) : (g.markS r t).q = g.q := rfl
@[simp] theorem Group.markS_x (g : Group) (r : Nat) (t : Bool) : (g.markS r t).x = g.x := rfl
@[simp] theorem Group.markS_tiles (g : Group) (r : Nat) (t : Bool) : (g.markS r t).tiles = g.tiles := rfl
@[simp] theorem Group.markS_slots (g : Group) (r : Nat) (t : Bool) : (g.markS r t).slots = g.slots := rfl
@[simp] theorem Group.markS_fstat (g : Group) (r : Nat) (t : Bool) : (g.markS r t).fstat = g.fstat := rfl
@[simp] theorem Group.markS_paths (g : Group) (r : Nat) (t : Bool) : (g.markS r t).paths = g.paths := rfl
@[simp] theorem Group.markS_nextPath (g : Group) (r : Nat) (t : Bool) : (g.markS r t).nextPath = g.nextPath := rfl
@[simp] theorem Group.markS_backoff (g : Group) (r : Nat) (t : Bool) : (g.markS r t).backoff = g.backoff := rfl
@[simp] theorem Group.markS_polling (g : Group) (r : Nat) (t : Bool) : (g.markS r t).polling = g.polling := rfl
@[simp] theorem Group.markS_park (g : Group) (r : Nat) (t : Bool) : (g.markS r t).park = g.park := rfl
@[simp] theorem Group.markS_tokens (g : Group) (r : Nat) (t : Bool) : (g.markS r t).tokens = g.tokens := rfl
@[simp] theorem Group.markS_chain (g : Group) (r : Nat) (t : Bool) : (g.markS r t).chain = g.chain := rfl
@[simp] theorem Group.markS_cap (g : Group) (r : Nat) (t : Bool) : (g.markS r t).cap = g.cap := rfl
@[simp] theorem Group.markS_aggLost (g : Group) (r : Nat) (t : Bool) : (g.markS r t).aggLost = g.aggLost := rfl
@[simp] theorem Group.markS_aggLog (g : Group) (r : Nat) (t : Bool) : (g.markS r t).aggLog = g.aggLog := rfl
@[simp] theorem Group.markS_latch (g : Group) (r : Nat) (t : Bool) : (g.markS r t).latch = g.latch := rfl
@[simp] theorem Group.markS_fault (g : Group) (r : Nat) (t : Bool) : (g.markS r t).fault = g.fault := rfl
@[simp] theorem Group.markS_stopped (g : Group) (r : Nat) (t : Bool) : (g.markS r t).stopped = g.stopped := rfl
@[simp] theorem Group.markS_sig (g : Group) (r : Nat) (t : Bool) : (g.markS r t).sig = g.sig := rfl

/-! ### Group.setM -/

@[simp] theorem Group.setM_gid (g : Group) (r : Nat) (v : Mask) : (g.setM r v).gid = g.gid := rfl
@[simp] theorem Group.setM_vf (g : Group) (r : Nat) (v : Mask) : (g.setM r v).vf = g.vf := rfl
@[simp] theorem Group.setM_launch (g : Group) (r : Nat) (v : Mask) : (g.setM r v).launch = g.launch := rfl
@[simp] theorem Group.setM_block (g : Group) (r : Nat) (v : Mask) : (g.setM r v).block = g.block := rfl
@[simp] theorem Group.setM_part (g : Group) (r : Nat) (v : Mask) : (g.setM r v).part = g.part := rfl
@[simp] theorem Group.setM_slot (g : Group) (r : Nat) (v : Mask) : (g.setM r v).slot = g.slot := rfl
@[simp] theorem Group.setM_cluster (g : Group) (r : Nat) (v : Mask) : (g.setM r v).cluster = g.cluster := rfl
@[simp] theorem Group.setM_blockNo (g : Group) (r : Nat) (v : Mask) : (g.setM r v).blockNo = g.blockNo := rfl
@[simp] theorem Group.setM_groupNo (g : Group) (r : Nat) (v : Mask) : (g.setM r v).groupNo = g.groupNo := rfl
@[simp] theorem Group.setM_w (g : Group) (r : Nat) (v : Mask) : (g.setM r v).w = g.w := rfl
@[simp] theorem Group.setM_e (g : Group) (r : Nat) (v : Mask) : (g.setM r v).e = g.e := rfl
@[simp] theorem Group.setM_laneOff (g : Group) (r : Nat) (v : Mask) : (g.setM r v).laneOff = g.laneOff := rfl
@[simp] theorem Group.setM_vregs (g : Group) (r : Nat) (v : Mask) : (g.setM r v).vregs = g.vregs := rfl
@[simp] theorem Group.setM_vcur (g : Group) (r : Nat) (v : Mask) : (g.setM r v).vcur = g.vcur := rfl
@[simp] theorem Group.setM_helpers (g : Group) (r : Nat) (v : Mask) : (g.setM r v).helpers = g.helpers := rfl
@[simp] theorem Group.setM_atiles (g : Group) (r : Nat) (v : Mask) : (g.setM r v).atiles = g.atiles := rfl
@[simp] theorem Group.setM_xext (g : Group) (r : Nat) (v : Mask) : (g.setM r v).xext = g.xext := rfl
@[simp] theorem Group.setM_dstack (g : Group) (r : Nat) (v : Mask) : (g.setM r v).dstack = g.dstack := rfl
@[simp] theorem Group.setM_blocks (g : Group) (r : Nat) (v : Mask) : (g.setM r v).blocks = g.blocks := rfl
@[simp] theorem Group.setM_groups (g : Group) (r : Nat) (v : Mask) : (g.setM r v).groups = g.groups := rfl
@[simp] theorem Group.setM_round (g : Group) (r : Nat) (v : Mask) : (g.setM r v).round = g.round := rfl
@[simp] theorem Group.setM_prio (g : Group) (r : Nat) (v : Mask) : (g.setM r v).prio = g.prio := rfl
@[simp] theorem Group.setM_tag (g : Group) (r : Nat) (v : Mask) : (g.setM r v).tag = g.tag := rfl
@[simp] theorem Group.setM_k (g : Group) (r : Nat) (v : Mask) : (g.setM r v).k = g.k := rfl
@[simp] theorem Group.setM_v (g : Group) (r : Nat) (v : Mask) : (g.setM r v).v = g.v := rfl
@[simp] theorem Group.setM_vEmpty (g : Group) (r : Nat) (v : Mask) : (g.setM r v).vEmpty = g.vEmpty := rfl
@[simp] theorem Group.setM_sh (g : Group) (r : Nat) (v : Mask) : (g.setM r v).sh = g.sh := rfl
@[simp] theorem Group.setM_shEmpty (g : Group) (r : Nat) (v : Mask) : (g.setM r v).shEmpty = g.shEmpty := rfl
@[simp] theorem Group.setM_shLive (g : Group) (r : Nat) (v : Mask) : (g.setM r v).shLive = g.shLive := rfl
@[simp] theorem Group.setM_shOwner (g : Group) (r : Nat) (v : Mask) : (g.setM r v).shOwner = g.shOwner := rfl
@[simp] theorem Group.setM_s (g : Group) (r : Nat) (v : Mask) : (g.setM r v).s = g.s := rfl
@[simp] theorem Group.setM_sEmpty (g : Group) (r : Nat) (v : Mask) : (g.setM r v).sEmpty = g.sEmpty := rfl
@[simp] theorem Group.setM_sTicket (g : Group) (r : Nat) (v : Mask) : (g.setM r v).sTicket = g.sTicket := rfl
@[simp] theorem Group.setM_m (g : Group) (r : Nat) (v : Mask) : (g.setM r v).m = fset 0 g.m r (v &&& lowMask g.n) := rfl
@[simp] theorem Group.setM_q (g : Group) (r : Nat) (v : Mask) : (g.setM r v).q = g.q := rfl
@[simp] theorem Group.setM_x (g : Group) (r : Nat) (v : Mask) : (g.setM r v).x = g.x := rfl
@[simp] theorem Group.setM_tiles (g : Group) (r : Nat) (v : Mask) : (g.setM r v).tiles = g.tiles := rfl
@[simp] theorem Group.setM_slots (g : Group) (r : Nat) (v : Mask) : (g.setM r v).slots = g.slots := rfl
@[simp] theorem Group.setM_fstat (g : Group) (r : Nat) (v : Mask) : (g.setM r v).fstat = g.fstat := rfl
@[simp] theorem Group.setM_paths (g : Group) (r : Nat) (v : Mask) : (g.setM r v).paths = g.paths := rfl
@[simp] theorem Group.setM_nextPath (g : Group) (r : Nat) (v : Mask) : (g.setM r v).nextPath = g.nextPath := rfl
@[simp] theorem Group.setM_backoff (g : Group) (r : Nat) (v : Mask) : (g.setM r v).backoff = g.backoff := rfl
@[simp] theorem Group.setM_polling (g : Group) (r : Nat) (v : Mask) : (g.setM r v).polling = g.polling := rfl
@[simp] theorem Group.setM_park (g : Group) (r : Nat) (v : Mask) : (g.setM r v).park = g.park := rfl
@[simp] theorem Group.setM_tokens (g : Group) (r : Nat) (v : Mask) : (g.setM r v).tokens = g.tokens := rfl
@[simp] theorem Group.setM_chain (g : Group) (r : Nat) (v : Mask) : (g.setM r v).chain = g.chain := rfl
@[simp] theorem Group.setM_cap (g : Group) (r : Nat) (v : Mask) : (g.setM r v).cap = g.cap := rfl
@[simp] theorem Group.setM_aggLost (g : Group) (r : Nat) (v : Mask) : (g.setM r v).aggLost = g.aggLost := rfl
@[simp] theorem Group.setM_aggLog (g : Group) (r : Nat) (v : Mask) : (g.setM r v).aggLog = g.aggLog := rfl
@[simp] theorem Group.setM_latch (g : Group) (r : Nat) (v : Mask) : (g.setM r v).latch = g.latch := rfl
@[simp] theorem Group.setM_fault (g : Group) (r : Nat) (v : Mask) : (g.setM r v).fault = g.fault := rfl
@[simp] theorem Group.setM_stopped (g : Group) (r : Nat) (v : Mask) : (g.setM r v).stopped = g.stopped := rfl
@[simp] theorem Group.setM_sig (g : Group) (r : Nat) (v : Mask) : (g.setM r v).sig = g.sig := rfl

/-! ### Group.setX -/

@[simp] theorem Group.setX_gid (g : Group) (i p : Nat) (x : Xa) : (g.setX i p x).gid = g.gid := rfl
@[simp] theorem Group.setX_vf (g : Group) (i p : Nat) (x : Xa) : (g.setX i p x).vf = g.vf := rfl
@[simp] theorem Group.setX_launch (g : Group) (i p : Nat) (x : Xa) : (g.setX i p x).launch = g.launch := rfl
@[simp] theorem Group.setX_block (g : Group) (i p : Nat) (x : Xa) : (g.setX i p x).block = g.block := rfl
@[simp] theorem Group.setX_part (g : Group) (i p : Nat) (x : Xa) : (g.setX i p x).part = g.part := rfl
@[simp] theorem Group.setX_slot (g : Group) (i p : Nat) (x : Xa) : (g.setX i p x).slot = g.slot := rfl
@[simp] theorem Group.setX_cluster (g : Group) (i p : Nat) (x : Xa) : (g.setX i p x).cluster = g.cluster := rfl
@[simp] theorem Group.setX_blockNo (g : Group) (i p : Nat) (x : Xa) : (g.setX i p x).blockNo = g.blockNo := rfl
@[simp] theorem Group.setX_groupNo (g : Group) (i p : Nat) (x : Xa) : (g.setX i p x).groupNo = g.groupNo := rfl
@[simp] theorem Group.setX_w (g : Group) (i p : Nat) (x : Xa) : (g.setX i p x).w = g.w := rfl
@[simp] theorem Group.setX_e (g : Group) (i p : Nat) (x : Xa) : (g.setX i p x).e = g.e := rfl
@[simp] theorem Group.setX_laneOff (g : Group) (i p : Nat) (x : Xa) : (g.setX i p x).laneOff = g.laneOff := rfl
@[simp] theorem Group.setX_vregs (g : Group) (i p : Nat) (x : Xa) : (g.setX i p x).vregs = g.vregs := rfl
@[simp] theorem Group.setX_vcur (g : Group) (i p : Nat) (x : Xa) : (g.setX i p x).vcur = g.vcur := rfl
@[simp] theorem Group.setX_helpers (g : Group) (i p : Nat) (x : Xa) : (g.setX i p x).helpers = g.helpers := rfl
@[simp] theorem Group.setX_atiles (g : Group) (i p : Nat) (x : Xa) : (g.setX i p x).atiles = g.atiles := rfl
@[simp] theorem Group.setX_xext (g : Group) (i p : Nat) (x : Xa) : (g.setX i p x).xext = g.xext := rfl
@[simp] theorem Group.setX_dstack (g : Group) (i p : Nat) (x : Xa) : (g.setX i p x).dstack = g.dstack := rfl
@[simp] theorem Group.setX_blocks (g : Group) (i p : Nat) (x : Xa) : (g.setX i p x).blocks = g.blocks := rfl
@[simp] theorem Group.setX_groups (g : Group) (i p : Nat) (x : Xa) : (g.setX i p x).groups = g.groups := rfl
@[simp] theorem Group.setX_round (g : Group) (i p : Nat) (x : Xa) : (g.setX i p x).round = g.round := rfl
@[simp] theorem Group.setX_prio (g : Group) (i p : Nat) (x : Xa) : (g.setX i p x).prio = g.prio := rfl
@[simp] theorem Group.setX_tag (g : Group) (i p : Nat) (x : Xa) : (g.setX i p x).tag = g.tag := rfl
@[simp] theorem Group.setX_k (g : Group) (i p : Nat) (x : Xa) : (g.setX i p x).k = g.k := rfl
@[simp] theorem Group.setX_v (g : Group) (i p : Nat) (x : Xa) : (g.setX i p x).v = g.v := rfl
@[simp] theorem Group.setX_vEmpty (g : Group) (i p : Nat) (x : Xa) : (g.setX i p x).vEmpty = g.vEmpty := rfl
@[simp] theorem Group.setX_sh (g : Group) (i p : Nat) (x : Xa) : (g.setX i p x).sh = g.sh := rfl
@[simp] theorem Group.setX_shEmpty (g : Group) (i p : Nat) (x : Xa) : (g.setX i p x).shEmpty = g.shEmpty := rfl
@[simp] theorem Group.setX_shLive (g : Group) (i p : Nat) (x : Xa) : (g.setX i p x).shLive = g.shLive := rfl
@[simp] theorem Group.setX_shOwner (g : Group) (i p : Nat) (x : Xa) : (g.setX i p x).shOwner = g.shOwner := rfl
@[simp] theorem Group.setX_s (g : Group) (i p : Nat) (x : Xa) : (g.setX i p x).s = g.s := rfl
@[simp] theorem Group.setX_sEmpty (g : Group) (i p : Nat) (x : Xa) : (g.setX i p x).sEmpty = g.sEmpty := rfl
@[simp] theorem Group.setX_sTicket (g : Group) (i p : Nat) (x : Xa) : (g.setX i p x).sTicket = g.sTicket := rfl
@[simp] theorem Group.setX_m (g : Group) (i p : Nat) (x : Xa) : (g.setX i p x).m = g.m := rfl
@[simp] theorem Group.setX_q (g : Group) (i p : Nat) (x : Xa) : (g.setX i p x).q = g.q := rfl
@[simp] theorem Group.setX_x (g : Group) (i p : Nat) (x : Xa) : (g.setX i p x).x = fset Xa.reset g.x (4 * p + i) x := rfl
@[simp] theorem Group.setX_tiles (g : Group) (i p : Nat) (x : Xa) : (g.setX i p x).tiles = g.tiles := rfl
@[simp] theorem Group.setX_slots (g : Group) (i p : Nat) (x : Xa) : (g.setX i p x).slots = g.slots := rfl
@[simp] theorem Group.setX_fstat (g : Group) (i p : Nat) (x : Xa) : (g.setX i p x).fstat = g.fstat := rfl
@[simp] theorem Group.setX_paths (g : Group) (i p : Nat) (x : Xa) : (g.setX i p x).paths = g.paths := rfl
@[simp] theorem Group.setX_nextPath (g : Group) (i p : Nat) (x : Xa) : (g.setX i p x).nextPath = g.nextPath := rfl
@[simp] theorem Group.setX_backoff (g : Group) (i p : Nat) (x : Xa) : (g.setX i p x).backoff = g.backoff := rfl
@[simp] theorem Group.setX_polling (g : Group) (i p : Nat) (x : Xa) : (g.setX i p x).polling = g.polling := rfl
@[simp] theorem Group.setX_park (g : Group) (i p : Nat) (x : Xa) : (g.setX i p x).park = g.park := rfl
@[simp] theorem Group.setX_tokens (g : Group) (i p : Nat) (x : Xa) : (g.setX i p x).tokens = g.tokens := rfl
@[simp] theorem Group.setX_chain (g : Group) (i p : Nat) (x : Xa) : (g.setX i p x).chain = g.chain := rfl
@[simp] theorem Group.setX_cap (g : Group) (i p : Nat) (x : Xa) : (g.setX i p x).cap = g.cap := rfl
@[simp] theorem Group.setX_aggLost (g : Group) (i p : Nat) (x : Xa) : (g.setX i p x).aggLost = g.aggLost := rfl
@[simp] theorem Group.setX_aggLog (g : Group) (i p : Nat) (x : Xa) : (g.setX i p x).aggLog = g.aggLog := rfl
@[simp] theorem Group.setX_latch (g : Group) (i p : Nat) (x : Xa) : (g.setX i p x).latch = g.latch := rfl
@[simp] theorem Group.setX_fault (g : Group) (i p : Nat) (x : Xa) : (g.setX i p x).fault = g.fault := rfl
@[simp] theorem Group.setX_stopped (g : Group) (i p : Nat) (x : Xa) : (g.setX i p x).stopped = g.stopped := rfl
@[simp] theorem Group.setX_sig (g : Group) (i p : Nat) (x : Xa) : (g.setX i p x).sig = g.sig := rfl

/-! ### Group.setPath -/

@[simp] theorem Group.setPath_gid (g : Group) (q : Path) : (g.setPath q).gid = g.gid := rfl
@[simp] theorem Group.setPath_vf (g : Group) (q : Path) : (g.setPath q).vf = g.vf := rfl
@[simp] theorem Group.setPath_launch (g : Group) (q : Path) : (g.setPath q).launch = g.launch := rfl
@[simp] theorem Group.setPath_block (g : Group) (q : Path) : (g.setPath q).block = g.block := rfl
@[simp] theorem Group.setPath_part (g : Group) (q : Path) : (g.setPath q).part = g.part := rfl
@[simp] theorem Group.setPath_slot (g : Group) (q : Path) : (g.setPath q).slot = g.slot := rfl
@[simp] theorem Group.setPath_cluster (g : Group) (q : Path) : (g.setPath q).cluster = g.cluster := rfl
@[simp] theorem Group.setPath_blockNo (g : Group) (q : Path) : (g.setPath q).blockNo = g.blockNo := rfl
@[simp] theorem Group.setPath_groupNo (g : Group) (q : Path) : (g.setPath q).groupNo = g.groupNo := rfl
@[simp] theorem Group.setPath_w (g : Group) (q : Path) : (g.setPath q).w = g.w := rfl
@[simp] theorem Group.setPath_e (g : Group) (q : Path) : (g.setPath q).e = g.e := rfl
@[simp] theorem Group.setPath_laneOff (g : Group) (q : Path) : (g.setPath q).laneOff = g.laneOff := rfl
@[simp] theorem Group.setPath_vregs (g : Group) (q : Path) : (g.setPath q).vregs = g.vregs := rfl
@[simp] theorem Group.setPath_vcur (g : Group) (q : Path) : (g.setPath q).vcur = g.vcur := rfl
@[simp] theorem Group.setPath_helpers (g : Group) (q : Path) : (g.setPath q).helpers = g.helpers := rfl
@[simp] theorem Group.setPath_atiles (g : Group) (q : Path) : (g.setPath q).atiles = g.atiles := rfl
@[simp] theorem Group.setPath_xext (g : Group) (q : Path) : (g.setPath q).xext = g.xext := rfl
@[simp] theorem Group.setPath_dstack (g : Group) (q : Path) : (g.setPath q).dstack = g.dstack := rfl
@[simp] theorem Group.setPath_blocks (g : Group) (q : Path) : (g.setPath q).blocks = g.blocks := rfl
@[simp] theorem Group.setPath_groups (g : Group) (q : Path) : (g.setPath q).groups = g.groups := rfl
@[simp] theorem Group.setPath_round (g : Group) (q : Path) : (g.setPath q).round = g.round := rfl
@[simp] theorem Group.setPath_prio (g : Group) (q : Path) : (g.setPath q).prio = g.prio := rfl
@[simp] theorem Group.setPath_tag (g : Group) (q : Path) : (g.setPath q).tag = g.tag := rfl
@[simp] theorem Group.setPath_k (g : Group) (q : Path) : (g.setPath q).k = g.k := rfl
@[simp] theorem Group.setPath_v (g : Group) (q : Path) : (g.setPath q).v = g.v := rfl
@[simp] theorem Group.setPath_vEmpty (g : Group) (q : Path) : (g.setPath q).vEmpty = g.vEmpty := rfl
@[simp] theorem Group.setPath_sh (g : Group) (q : Path) : (g.setPath q).sh = g.sh := rfl
@[simp] theorem Group.setPath_shEmpty (g : Group) (q : Path) : (g.setPath q).shEmpty = g.shEmpty := rfl
@[simp] theorem Group.setPath_shLive (g : Group) (q : Path) : (g.setPath q).shLive = g.shLive := rfl
@[simp] theorem Group.setPath_shOwner (g : Group) (q : Path) : (g.setPath q).shOwner = g.shOwner := rfl
@[simp] theorem Group.setPath_s (g : Group) (q : Path) : (g.setPath q).s = g.s := rfl
@[simp] theorem Group.setPath_sEmpty (g : Group) (q : Path) : (g.setPath q).sEmpty = g.sEmpty := rfl
@[simp] theorem Group.setPath_sTicket (g : Group) (q : Path) : (g.setPath q).sTicket = g.sTicket := rfl
@[simp] theorem Group.setPath_m (g : Group) (q : Path) : (g.setPath q).m = g.m := rfl
@[simp] theorem Group.setPath_q (g : Group) (q : Path) : (g.setPath q).q = g.q := rfl
@[simp] theorem Group.setPath_x (g : Group) (q : Path) : (g.setPath q).x = g.x := rfl
@[simp] theorem Group.setPath_tiles (g : Group) (q : Path) : (g.setPath q).tiles = g.tiles := rfl
@[simp] theorem Group.setPath_slots (g : Group) (q : Path) : (g.setPath q).slots = g.slots := rfl
@[simp] theorem Group.setPath_fstat (g : Group) (q : Path) : (g.setPath q).fstat = g.fstat := rfl
@[simp] theorem Group.setPath_paths (g : Group) (q : Path) : (g.setPath q).paths = updWhere (fun p => p.id == q.id) (fun _ => q) g.paths := rfl
@[simp] theorem Group.setPath_nextPath (g : Group) (q : Path) : (g.setPath q).nextPath = g.nextPath := rfl
@[simp] theorem Group.setPath_backoff (g : Group) (q : Path) : (g.setPath q).backoff = g.backoff := rfl
@[simp] theorem Group.setPath_polling (g : Group) (q : Path) : (g.setPath q).polling = g.polling := rfl
@[simp] theorem Group.setPath_park (g : Group) (q : Path) : (g.setPath q).park = g.park := rfl
@[simp] theorem Group.setPath_tokens (g : Group) (q : Path) : (g.setPath q).tokens = g.tokens := rfl
@[simp] theorem Group.setPath_chain (g : Group) (q : Path) : (g.setPath q).chain = g.chain := rfl
@[simp] theorem Group.setPath_cap (g : Group) (q : Path) : (g.setPath q).cap = g.cap := rfl
@[simp] theorem Group.setPath_aggLost (g : Group) (q : Path) : (g.setPath q).aggLost = g.aggLost := rfl
@[simp] theorem Group.setPath_aggLog (g : Group) (q : Path) : (g.setPath q).aggLog = g.aggLog := rfl
@[simp] theorem Group.setPath_latch (g : Group) (q : Path) : (g.setPath q).latch = g.latch := rfl
@[simp] theorem Group.setPath_fault (g : Group) (q : Path) : (g.setPath q).fault = g.fault := rfl
@[simp] theorem Group.setPath_stopped (g : Group) (q : Path) : (g.setPath q).stopped = g.stopped := rfl
@[simp] theorem Group.setPath_sig (g : Group) (q : Path) : (g.setPath q).sig = g.sig := rfl

/-! ### Group.onPath -/

@[simp] theorem Group.onPath_gid (g : Group) (id : Nat) (f : Path → Path) : (g.onPath id f).gid = g.gid := rfl
@[simp] theorem Group.onPath_vf (g : Group) (id : Nat) (f : Path → Path) : (g.onPath id f).vf = g.vf := rfl
@[simp] theorem Group.onPath_launch (g : Group) (id : Nat) (f : Path → Path) : (g.onPath id f).launch = g.launch := rfl
@[simp] theorem Group.onPath_block (g : Group) (id : Nat) (f : Path → Path) : (g.onPath id f).block = g.block := rfl
@[simp] theorem Group.onPath_part (g : Group) (id : Nat) (f : Path → Path) : (g.onPath id f).part = g.part := rfl
@[simp] theorem Group.onPath_slot (g : Group) (id : Nat) (f : Path → Path) : (g.onPath id f).slot = g.slot := rfl
@[simp] theorem Group.onPath_cluster (g : Group) (id : Nat) (f : Path → Path) : (g.onPath id f).cluster = g.cluster := rfl
@[simp] theorem Group.onPath_blockNo (g : Group) (id : Nat) (f : Path → Path) : (g.onPath id f).blockNo = g.blockNo := rfl
@[simp] theorem Group.onPath_groupNo (g : Group) (id : Nat) (f : Path → Path) : (g.onPath id f).groupNo = g.groupNo := rfl
@[simp] theorem Group.onPath_w (g : Group) (id : Nat) (f : Path → Path) : (g.onPath id f).w = g.w := rfl
@[simp] theorem Group.onPath_e (g : Group) (id : Nat) (f : Path → Path) : (g.onPath id f).e = g.e := rfl
@[simp] theorem Group.onPath_laneOff (g : Group) (id : Nat) (f : Path → Path) : (g.onPath id f).laneOff = g.laneOff := rfl
@[simp] theorem Group.onPath_vregs (g : Group) (id : Nat) (f : Path → Path) : (g.onPath id f).vregs = g.vregs := rfl
@[simp] theorem Group.onPath_vcur (g : Group) (id : Nat) (f : Path → Path) : (g.onPath id f).vcur = g.vcur := rfl
@[simp] theorem Group.onPath_helpers (g : Group) (id : Nat) (f : Path → Path) : (g.onPath id f).helpers = g.helpers := rfl
@[simp] theorem Group.onPath_atiles (g : Group) (id : Nat) (f : Path → Path) : (g.onPath id f).atiles = g.atiles := rfl
@[simp] theorem Group.onPath_xext (g : Group) (id : Nat) (f : Path → Path) : (g.onPath id f).xext = g.xext := rfl
@[simp] theorem Group.onPath_dstack (g : Group) (id : Nat) (f : Path → Path) : (g.onPath id f).dstack = g.dstack := rfl
@[simp] theorem Group.onPath_blocks (g : Group) (id : Nat) (f : Path → Path) : (g.onPath id f).blocks = g.blocks := rfl
@[simp] theorem Group.onPath_groups (g : Group) (id : Nat) (f : Path → Path) : (g.onPath id f).groups = g.groups := rfl
@[simp] theorem Group.onPath_round (g : Group) (id : Nat) (f : Path → Path) : (g.onPath id f).round = g.round := rfl
@[simp] theorem Group.onPath_prio (g : Group) (id : Nat) (f : Path → Path) : (g.onPath id f).prio = g.prio := rfl
@[simp] theorem Group.onPath_tag (g : Group) (id : Nat) (f : Path → Path) : (g.onPath id f).tag = g.tag := rfl
@[simp] theorem Group.onPath_k (g : Group) (id : Nat) (f : Path → Path) : (g.onPath id f).k = g.k := rfl
@[simp] theorem Group.onPath_v (g : Group) (id : Nat) (f : Path → Path) : (g.onPath id f).v = g.v := rfl
@[simp] theorem Group.onPath_vEmpty (g : Group) (id : Nat) (f : Path → Path) : (g.onPath id f).vEmpty = g.vEmpty := rfl
@[simp] theorem Group.onPath_sh (g : Group) (id : Nat) (f : Path → Path) : (g.onPath id f).sh = g.sh := rfl
@[simp] theorem Group.onPath_shEmpty (g : Group) (id : Nat) (f : Path → Path) : (g.onPath id f).shEmpty = g.shEmpty := rfl
@[simp] theorem Group.onPath_shLive (g : Group) (id : Nat) (f : Path → Path) : (g.onPath id f).shLive = g.shLive := rfl
@[simp] theorem Group.onPath_shOwner (g : Group) (id : Nat) (f : Path → Path) : (g.onPath id f).shOwner = g.shOwner := rfl
@[simp] theorem Group.onPath_s (g : Group) (id : Nat) (f : Path → Path) : (g.onPath id f).s = g.s := rfl
@[simp] theorem Group.onPath_sEmpty (g : Group) (id : Nat) (f : Path → Path) : (g.onPath id f).sEmpty = g.sEmpty := rfl
@[simp] theorem Group.onPath_sTicket (g : Group) (id : Nat) (f : Path → Path) : (g.onPath id f).sTicket = g.sTicket := rfl
@[simp] theorem Group.onPath_m (g : Group) (id : Nat) (f : Path → Path) : (g.onPath id f).m = g.m := rfl
@[simp] theorem Group.onPath_q (g : Group) (id : Nat) (f : Path → Path) : (g.onPath id f).q = g.q := rfl
@[simp] theorem Group.onPath_x (g : Group) (id : Nat) (f : Path → Path) : (g.onPath id f).x = g.x := rfl
@[simp] theorem Group.onPath_tiles (g : Group) (id : Nat) (f : Path → Path) : (g.onPath id f).tiles = g.tiles := rfl
@[simp] theorem Group.onPath_slots (g : Group) (id : Nat) (f : Path → Path) : (g.onPath id f).slots = g.slots := rfl
@[simp] theorem Group.onPath_fstat (g : Group) (id : Nat) (f : Path → Path) : (g.onPath id f).fstat = g.fstat := rfl
@[simp] theorem Group.onPath_paths (g : Group) (id : Nat) (f : Path → Path) : (g.onPath id f).paths = updWhere (fun p => p.id == id) f g.paths := rfl
@[simp] theorem Group.onPath_nextPath (g : Group) (id : Nat) (f : Path → Path) : (g.onPath id f).nextPath = g.nextPath := rfl
@[simp] theorem Group.onPath_backoff (g : Group) (id : Nat) (f : Path → Path) : (g.onPath id f).backoff = g.backoff := rfl
@[simp] theorem Group.onPath_polling (g : Group) (id : Nat) (f : Path → Path) : (g.onPath id f).polling = g.polling := rfl
@[simp] theorem Group.onPath_park (g : Group) (id : Nat) (f : Path → Path) : (g.onPath id f).park = g.park := rfl
@[simp] theorem Group.onPath_tokens (g : Group) (id : Nat) (f : Path → Path) : (g.onPath id f).tokens = g.tokens := rfl
@[simp] theorem Group.onPath_chain (g : Group) (id : Nat) (f : Path → Path) : (g.onPath id f).chain = g.chain := rfl
@[simp] theorem Group.onPath_cap (g : Group) (id : Nat) (f : Path → Path) : (g.onPath id f).cap = g.cap := rfl
@[simp] theorem Group.onPath_aggLost (g : Group) (id : Nat) (f : Path → Path) : (g.onPath id f).aggLost = g.aggLost := rfl
@[simp] theorem Group.onPath_aggLog (g : Group) (id : Nat) (f : Path → Path) : (g.onPath id f).aggLog = g.aggLog := rfl
@[simp] theorem Group.onPath_latch (g : Group) (id : Nat) (f : Path → Path) : (g.onPath id f).latch = g.latch := rfl
@[simp] theorem Group.onPath_fault (g : Group) (id : Nat) (f : Path → Path) : (g.onPath id f).fault = g.fault := rfl
@[simp] theorem Group.onPath_stopped (g : Group) (id : Nat) (f : Path → Path) : (g.onPath id f).stopped = g.stopped := rfl
@[simp] theorem Group.onPath_sig (g : Group) (id : Nat) (f : Path → Path) : (g.onPath id f).sig = g.sig := rfl

/-! ### Group.setStream -/

@[simp] theorem Group.setStream_gid (g : Group) (i : Nat) (k : Stream) : (g.setStream i k).gid = g.gid := rfl
@[simp] theorem Group.setStream_vf (g : Group) (i : Nat) (k : Stream) : (g.setStream i k).vf = g.vf := rfl
@[simp] theorem Group.setStream_launch (g : Group) (i : Nat) (k : Stream) : (g.setStream i k).launch = g.launch := rfl
@[simp] theorem Group.setStream_block (g : Group) (i : Nat) (k : Stream) : (g.setStream i k).block = g.block := rfl
@[simp] theorem Group.setStream_part (g : Group) (i : Nat) (k : Stream) : (g.setStream i k).part = g.part := rfl
@[simp] theorem Group.setStream_slot (g : Group) (i : Nat) (k : Stream) : (g.setStream i k).slot = g.slot := rfl
@[simp] theorem Group.setStream_cluster (g : Group) (i : Nat) (k : Stream) : (g.setStream i k).cluster = g.cluster := rfl
@[simp] theorem Group.setStream_blockNo (g : Group) (i : Nat) (k : Stream) : (g.setStream i k).blockNo = g.blockNo := rfl
@[simp] theorem Group.setStream_groupNo (g : Group) (i : Nat) (k : Stream) : (g.setStream i k).groupNo = g.groupNo := rfl
@[simp] theorem Group.setStream_w (g : Group) (i : Nat) (k : Stream) : (g.setStream i k).w = g.w := rfl
@[simp] theorem Group.setStream_e (g : Group) (i : Nat) (k : Stream) : (g.setStream i k).e = g.e := rfl
@[simp] theorem Group.setStream_laneOff (g : Group) (i : Nat) (k : Stream) : (g.setStream i k).laneOff = g.laneOff := rfl
@[simp] theorem Group.setStream_vregs (g : Group) (i : Nat) (k : Stream) : (g.setStream i k).vregs = g.vregs := rfl
@[simp] theorem Group.setStream_vcur (g : Group) (i : Nat) (k : Stream) : (g.setStream i k).vcur = g.vcur := rfl
@[simp] theorem Group.setStream_helpers (g : Group) (i : Nat) (k : Stream) : (g.setStream i k).helpers = g.helpers := rfl
@[simp] theorem Group.setStream_atiles (g : Group) (i : Nat) (k : Stream) : (g.setStream i k).atiles = g.atiles := rfl
@[simp] theorem Group.setStream_xext (g : Group) (i : Nat) (k : Stream) : (g.setStream i k).xext = g.xext := rfl
@[simp] theorem Group.setStream_dstack (g : Group) (i : Nat) (k : Stream) : (g.setStream i k).dstack = g.dstack := rfl
@[simp] theorem Group.setStream_blocks (g : Group) (i : Nat) (k : Stream) : (g.setStream i k).blocks = g.blocks := rfl
@[simp] theorem Group.setStream_groups (g : Group) (i : Nat) (k : Stream) : (g.setStream i k).groups = g.groups := rfl
@[simp] theorem Group.setStream_round (g : Group) (i : Nat) (k : Stream) : (g.setStream i k).round = g.round := rfl
@[simp] theorem Group.setStream_prio (g : Group) (i : Nat) (k : Stream) : (g.setStream i k).prio = g.prio := rfl
@[simp] theorem Group.setStream_tag (g : Group) (i : Nat) (k : Stream) : (g.setStream i k).tag = g.tag := rfl
@[simp] theorem Group.setStream_k (g : Group) (i : Nat) (k : Stream) : (g.setStream i k).k = g.k := rfl
@[simp] theorem Group.setStream_v (g : Group) (i : Nat) (k : Stream) : (g.setStream i k).v = g.v := rfl
@[simp] theorem Group.setStream_vEmpty (g : Group) (i : Nat) (k : Stream) : (g.setStream i k).vEmpty = g.vEmpty := rfl
@[simp] theorem Group.setStream_sh (g : Group) (i : Nat) (k : Stream) : (g.setStream i k).sh = g.sh := rfl
@[simp] theorem Group.setStream_shEmpty (g : Group) (i : Nat) (k : Stream) : (g.setStream i k).shEmpty = g.shEmpty := rfl
@[simp] theorem Group.setStream_shLive (g : Group) (i : Nat) (k : Stream) : (g.setStream i k).shLive = g.shLive := rfl
@[simp] theorem Group.setStream_shOwner (g : Group) (i : Nat) (k : Stream) : (g.setStream i k).shOwner = g.shOwner := rfl
@[simp] theorem Group.setStream_s (g : Group) (i : Nat) (k : Stream) : (g.setStream i k).s = g.s := rfl
@[simp] theorem Group.setStream_sEmpty (g : Group) (i : Nat) (k : Stream) : (g.setStream i k).sEmpty = g.sEmpty := rfl
@[simp] theorem Group.setStream_sTicket (g : Group) (i : Nat) (k : Stream) : (g.setStream i k).sTicket = g.sTicket := rfl
@[simp] theorem Group.setStream_m (g : Group) (i : Nat) (k : Stream) : (g.setStream i k).m = g.m := rfl
@[simp] theorem Group.setStream_q (g : Group) (i : Nat) (k : Stream) : (g.setStream i k).q = fset Stream.reset g.q i k := rfl
@[simp] theorem Group.setStream_x (g : Group) (i : Nat) (k : Stream) : (g.setStream i k).x = g.x := rfl
@[simp] theorem Group.setStream_tiles (g : Group) (i : Nat) (k : Stream) : (g.setStream i k).tiles = g.tiles := rfl
@[simp] theorem Group.setStream_slots (g : Group) (i : Nat) (k : Stream) : (g.setStream i k).slots = g.slots := rfl
@[simp] theorem Group.setStream_fstat (g : Group) (i : Nat) (k : Stream) : (g.setStream i k).fstat = g.fstat := rfl
@[simp] theorem Group.setStream_paths (g : Group) (i : Nat) (k : Stream) : (g.setStream i k).paths = g.paths := rfl
@[simp] theorem Group.setStream_nextPath (g : Group) (i : Nat) (k : Stream) : (g.setStream i k).nextPath = g.nextPath := rfl
@[simp] theorem Group.setStream_backoff (g : Group) (i : Nat) (k : Stream) : (g.setStream i k).backoff = g.backoff := rfl
@[simp] theorem Group.setStream_polling (g : Group) (i : Nat) (k : Stream) : (g.setStream i k).polling = g.polling := rfl
@[simp] theorem Group.setStream_park (g : Group) (i : Nat) (k : Stream) : (g.setStream i k).park = g.park := rfl
@[simp] theorem Group.setStream_tokens (g : Group) (i : Nat) (k : Stream) : (g.setStream i k).tokens = g.tokens := rfl
@[simp] theorem Group.setStream_chain (g : Group) (i : Nat) (k : Stream) : (g.setStream i k).chain = g.chain := rfl
@[simp] theorem Group.setStream_cap (g : Group) (i : Nat) (k : Stream) : (g.setStream i k).cap = g.cap := rfl
@[simp] theorem Group.setStream_aggLost (g : Group) (i : Nat) (k : Stream) : (g.setStream i k).aggLost = g.aggLost := rfl
@[simp] theorem Group.setStream_aggLog (g : Group) (i : Nat) (k : Stream) : (g.setStream i k).aggLog = g.aggLog := rfl
@[simp] theorem Group.setStream_latch (g : Group) (i : Nat) (k : Stream) : (g.setStream i k).latch = g.latch := rfl
@[simp] theorem Group.setStream_fault (g : Group) (i : Nat) (k : Stream) : (g.setStream i k).fault = g.fault := rfl
@[simp] theorem Group.setStream_stopped (g : Group) (i : Nat) (k : Stream) : (g.setStream i k).stopped = g.stopped := rfl
@[simp] theorem Group.setStream_sig (g : Group) (i : Nat) (k : Stream) : (g.setStream i k).sig = g.sig := rfl

/-! ### Group.raiseFlags -/

@[simp] theorem Group.raiseFlags_gid (g : Group) (e : Nat) (f : Half) : (g.raiseFlags e f).gid = g.gid := rfl
@[simp] theorem Group.raiseFlags_vf (g : Group) (e : Nat) (f : Half) : (g.raiseFlags e f).vf = g.vf := rfl
@[simp] theorem Group.raiseFlags_launch (g : Group) (e : Nat) (f : Half) : (g.raiseFlags e f).launch = g.launch := rfl
@[simp] theorem Group.raiseFlags_block (g : Group) (e : Nat) (f : Half) : (g.raiseFlags e f).block = g.block := rfl
@[simp] theorem Group.raiseFlags_part (g : Group) (e : Nat) (f : Half) : (g.raiseFlags e f).part = g.part := rfl
@[simp] theorem Group.raiseFlags_slot (g : Group) (e : Nat) (f : Half) : (g.raiseFlags e f).slot = g.slot := rfl
@[simp] theorem Group.raiseFlags_cluster (g : Group) (e : Nat) (f : Half) : (g.raiseFlags e f).cluster = g.cluster := rfl
@[simp] theorem Group.raiseFlags_blockNo (g : Group) (e : Nat) (f : Half) : (g.raiseFlags e f).blockNo = g.blockNo := rfl
@[simp] theorem Group.raiseFlags_groupNo (g : Group) (e : Nat) (f : Half) : (g.raiseFlags e f).groupNo = g.groupNo := rfl
@[simp] theorem Group.raiseFlags_w (g : Group) (e : Nat) (f : Half) : (g.raiseFlags e f).w = g.w := rfl
@[simp] theorem Group.raiseFlags_e (g : Group) (e : Nat) (f : Half) : (g.raiseFlags e f).e = g.e := rfl
@[simp] theorem Group.raiseFlags_laneOff (g : Group) (e : Nat) (f : Half) : (g.raiseFlags e f).laneOff = g.laneOff := rfl
@[simp] theorem Group.raiseFlags_vregs (g : Group) (e : Nat) (f : Half) : (g.raiseFlags e f).vregs = g.vregs := rfl
@[simp] theorem Group.raiseFlags_vcur (g : Group) (e : Nat) (f : Half) : (g.raiseFlags e f).vcur = g.vcur := rfl
@[simp] theorem Group.raiseFlags_helpers (g : Group) (e : Nat) (f : Half) : (g.raiseFlags e f).helpers = g.helpers := rfl
@[simp] theorem Group.raiseFlags_atiles (g : Group) (e : Nat) (f : Half) : (g.raiseFlags e f).atiles = g.atiles := rfl
@[simp] theorem Group.raiseFlags_xext (g : Group) (e : Nat) (f : Half) : (g.raiseFlags e f).xext = g.xext := rfl
@[simp] theorem Group.raiseFlags_dstack (g : Group) (e : Nat) (f : Half) : (g.raiseFlags e f).dstack = g.dstack := rfl
@[simp] theorem Group.raiseFlags_blocks (g : Group) (e : Nat) (f : Half) : (g.raiseFlags e f).blocks = g.blocks := rfl
@[simp] theorem Group.raiseFlags_groups (g : Group) (e : Nat) (f : Half) : (g.raiseFlags e f).groups = g.groups := rfl
@[simp] theorem Group.raiseFlags_round (g : Group) (e : Nat) (f : Half) : (g.raiseFlags e f).round = g.round := rfl
@[simp] theorem Group.raiseFlags_prio (g : Group) (e : Nat) (f : Half) : (g.raiseFlags e f).prio = g.prio := rfl
@[simp] theorem Group.raiseFlags_tag (g : Group) (e : Nat) (f : Half) : (g.raiseFlags e f).tag = g.tag := rfl
@[simp] theorem Group.raiseFlags_k (g : Group) (e : Nat) (f : Half) : (g.raiseFlags e f).k = g.k := rfl
@[simp] theorem Group.raiseFlags_v (g : Group) (e : Nat) (f : Half) : (g.raiseFlags e f).v = g.v := rfl
@[simp] theorem Group.raiseFlags_vEmpty (g : Group) (e : Nat) (f : Half) : (g.raiseFlags e f).vEmpty = g.vEmpty := rfl
@[simp] theorem Group.raiseFlags_sh (g : Group) (e : Nat) (f : Half) : (g.raiseFlags e f).sh = g.sh := rfl
@[simp] theorem Group.raiseFlags_shEmpty (g : Group) (e : Nat) (f : Half) : (g.raiseFlags e f).shEmpty = g.shEmpty := rfl
@[simp] theorem Group.raiseFlags_shLive (g : Group) (e : Nat) (f : Half) : (g.raiseFlags e f).shLive = g.shLive := rfl
@[simp] theorem Group.raiseFlags_shOwner (g : Group) (e : Nat) (f : Half) : (g.raiseFlags e f).shOwner = g.shOwner := rfl
@[simp] theorem Group.raiseFlags_s (g : Group) (e : Nat) (f : Half) : (g.raiseFlags e f).s = g.s := rfl
@[simp] theorem Group.raiseFlags_sEmpty (g : Group) (e : Nat) (f : Half) : (g.raiseFlags e f).sEmpty = g.sEmpty := rfl
@[simp] theorem Group.raiseFlags_sTicket (g : Group) (e : Nat) (f : Half) : (g.raiseFlags e f).sTicket = g.sTicket := rfl
@[simp] theorem Group.raiseFlags_m (g : Group) (e : Nat) (f : Half) : (g.raiseFlags e f).m = g.m := rfl
@[simp] theorem Group.raiseFlags_q (g : Group) (e : Nat) (f : Half) : (g.raiseFlags e f).q = g.q := rfl
@[simp] theorem Group.raiseFlags_x (g : Group) (e : Nat) (f : Half) : (g.raiseFlags e f).x = g.x := rfl
@[simp] theorem Group.raiseFlags_tiles (g : Group) (e : Nat) (f : Half) : (g.raiseFlags e f).tiles = g.tiles := rfl
@[simp] theorem Group.raiseFlags_slots (g : Group) (e : Nat) (f : Half) : (g.raiseFlags e f).slots = g.slots := rfl
@[simp] theorem Group.raiseFlags_fstat (g : Group) (e : Nat) (f : Half) : (g.raiseFlags e f).fstat = fset 0 g.fstat e (g.flags e ||| f) := rfl
@[simp] theorem Group.raiseFlags_paths (g : Group) (e : Nat) (f : Half) : (g.raiseFlags e f).paths = g.paths := rfl
@[simp] theorem Group.raiseFlags_nextPath (g : Group) (e : Nat) (f : Half) : (g.raiseFlags e f).nextPath = g.nextPath := rfl
@[simp] theorem Group.raiseFlags_backoff (g : Group) (e : Nat) (f : Half) : (g.raiseFlags e f).backoff = g.backoff := rfl
@[simp] theorem Group.raiseFlags_polling (g : Group) (e : Nat) (f : Half) : (g.raiseFlags e f).polling = g.polling := rfl
@[simp] theorem Group.raiseFlags_park (g : Group) (e : Nat) (f : Half) : (g.raiseFlags e f).park = g.park := rfl
@[simp] theorem Group.raiseFlags_tokens (g : Group) (e : Nat) (f : Half) : (g.raiseFlags e f).tokens = g.tokens := rfl
@[simp] theorem Group.raiseFlags_chain (g : Group) (e : Nat) (f : Half) : (g.raiseFlags e f).chain = g.chain := rfl
@[simp] theorem Group.raiseFlags_cap (g : Group) (e : Nat) (f : Half) : (g.raiseFlags e f).cap = g.cap := rfl
@[simp] theorem Group.raiseFlags_aggLost (g : Group) (e : Nat) (f : Half) : (g.raiseFlags e f).aggLost = g.aggLost := rfl
@[simp] theorem Group.raiseFlags_aggLog (g : Group) (e : Nat) (f : Half) : (g.raiseFlags e f).aggLog = g.aggLog := rfl
@[simp] theorem Group.raiseFlags_latch (g : Group) (e : Nat) (f : Half) : (g.raiseFlags e f).latch = g.latch := rfl
@[simp] theorem Group.raiseFlags_fault (g : Group) (e : Nat) (f : Half) : (g.raiseFlags e f).fault = g.fault := rfl
@[simp] theorem Group.raiseFlags_stopped (g : Group) (e : Nat) (f : Half) : (g.raiseFlags e f).stopped = g.stopped := rfl
@[simp] theorem Group.raiseFlags_sig (g : Group) (e : Nat) (f : Half) : (g.raiseFlags e f).sig = g.sig := rfl

/-! ### Group.clearFlags -/

@[simp] theorem Group.clearFlags_gid (g : Group) (e : Nat) (f : Half) : (g.clearFlags e f).gid = g.gid := rfl
@[simp] theorem Group.clearFlags_vf (g : Group) (e : Nat) (f : Half) : (g.clearFlags e f).vf = g.vf := rfl
@[simp] theorem Group.clearFlags_launch (g : Group) (e : Nat) (f : Half) : (g.clearFlags e f).launch = g.launch := rfl
@[simp] theorem Group.clearFlags_block (g : Group) (e : Nat) (f : Half) : (g.clearFlags e f).block = g.block := rfl
@[simp] theorem Group.clearFlags_part (g : Group) (e : Nat) (f : Half) : (g.clearFlags e f).part = g.part := rfl
@[simp] theorem Group.clearFlags_slot (g : Group) (e : Nat) (f : Half) : (g.clearFlags e f).slot = g.slot := rfl
@[simp] theorem Group.clearFlags_cluster (g : Group) (e : Nat) (f : Half) : (g.clearFlags e f).cluster = g.cluster := rfl
@[simp] theorem Group.clearFlags_blockNo (g : Group) (e : Nat) (f : Half) : (g.clearFlags e f).blockNo = g.blockNo := rfl
@[simp] theorem Group.clearFlags_groupNo (g : Group) (e : Nat) (f : Half) : (g.clearFlags e f).groupNo = g.groupNo := rfl
@[simp] theorem Group.clearFlags_w (g : Group) (e : Nat) (f : Half) : (g.clearFlags e f).w = g.w := rfl
@[simp] theorem Group.clearFlags_e (g : Group) (e : Nat) (f : Half) : (g.clearFlags e f).e = g.e := rfl
@[simp] theorem Group.clearFlags_laneOff (g : Group) (e : Nat) (f : Half) : (g.clearFlags e f).laneOff = g.laneOff := rfl
@[simp] theorem Group.clearFlags_vregs (g : Group) (e : Nat) (f : Half) : (g.clearFlags e f).vregs = g.vregs := rfl
@[simp] theorem Group.clearFlags_vcur (g : Group) (e : Nat) (f : Half) : (g.clearFlags e f).vcur = g.vcur := rfl
@[simp] theorem Group.clearFlags_helpers (g : Group) (e : Nat) (f : Half) : (g.clearFlags e f).helpers = g.helpers := rfl
@[simp] theorem Group.clearFlags_atiles (g : Group) (e : Nat) (f : Half) : (g.clearFlags e f).atiles = g.atiles := rfl
@[simp] theorem Group.clearFlags_xext (g : Group) (e : Nat) (f : Half) : (g.clearFlags e f).xext = g.xext := rfl
@[simp] theorem Group.clearFlags_dstack (g : Group) (e : Nat) (f : Half) : (g.clearFlags e f).dstack = g.dstack := rfl
@[simp] theorem Group.clearFlags_blocks (g : Group) (e : Nat) (f : Half) : (g.clearFlags e f).blocks = g.blocks := rfl
@[simp] theorem Group.clearFlags_groups (g : Group) (e : Nat) (f : Half) : (g.clearFlags e f).groups = g.groups := rfl
@[simp] theorem Group.clearFlags_round (g : Group) (e : Nat) (f : Half) : (g.clearFlags e f).round = g.round := rfl
@[simp] theorem Group.clearFlags_prio (g : Group) (e : Nat) (f : Half) : (g.clearFlags e f).prio = g.prio := rfl
@[simp] theorem Group.clearFlags_tag (g : Group) (e : Nat) (f : Half) : (g.clearFlags e f).tag = g.tag := rfl
@[simp] theorem Group.clearFlags_k (g : Group) (e : Nat) (f : Half) : (g.clearFlags e f).k = g.k := rfl
@[simp] theorem Group.clearFlags_v (g : Group) (e : Nat) (f : Half) : (g.clearFlags e f).v = g.v := rfl
@[simp] theorem Group.clearFlags_vEmpty (g : Group) (e : Nat) (f : Half) : (g.clearFlags e f).vEmpty = g.vEmpty := rfl
@[simp] theorem Group.clearFlags_sh (g : Group) (e : Nat) (f : Half) : (g.clearFlags e f).sh = g.sh := rfl
@[simp] theorem Group.clearFlags_shEmpty (g : Group) (e : Nat) (f : Half) : (g.clearFlags e f).shEmpty = g.shEmpty := rfl
@[simp] theorem Group.clearFlags_shLive (g : Group) (e : Nat) (f : Half) : (g.clearFlags e f).shLive = g.shLive := rfl
@[simp] theorem Group.clearFlags_shOwner (g : Group) (e : Nat) (f : Half) : (g.clearFlags e f).shOwner = g.shOwner := rfl
@[simp] theorem Group.clearFlags_s (g : Group) (e : Nat) (f : Half) : (g.clearFlags e f).s = g.s := rfl
@[simp] theorem Group.clearFlags_sEmpty (g : Group) (e : Nat) (f : Half) : (g.clearFlags e f).sEmpty = g.sEmpty := rfl
@[simp] theorem Group.clearFlags_sTicket (g : Group) (e : Nat) (f : Half) : (g.clearFlags e f).sTicket = g.sTicket := rfl
@[simp] theorem Group.clearFlags_m (g : Group) (e : Nat) (f : Half) : (g.clearFlags e f).m = g.m := rfl
@[simp] theorem Group.clearFlags_q (g : Group) (e : Nat) (f : Half) : (g.clearFlags e f).q = g.q := rfl
@[simp] theorem Group.clearFlags_x (g : Group) (e : Nat) (f : Half) : (g.clearFlags e f).x = g.x := rfl
@[simp] theorem Group.clearFlags_tiles (g : Group) (e : Nat) (f : Half) : (g.clearFlags e f).tiles = g.tiles := rfl
@[simp] theorem Group.clearFlags_slots (g : Group) (e : Nat) (f : Half) : (g.clearFlags e f).slots = g.slots := rfl
@[simp] theorem Group.clearFlags_fstat (g : Group) (e : Nat) (f : Half) : (g.clearFlags e f).fstat = fset 0 g.fstat e (g.flags e &&& ~~~f) := rfl
@[simp] theorem Group.clearFlags_paths (g : Group) (e : Nat) (f : Half) : (g.clearFlags e f).paths = g.paths := rfl
@[simp] theorem Group.clearFlags_nextPath (g : Group) (e : Nat) (f : Half) : (g.clearFlags e f).nextPath = g.nextPath := rfl
@[simp] theorem Group.clearFlags_backoff (g : Group) (e : Nat) (f : Half) : (g.clearFlags e f).backoff = g.backoff := rfl
@[simp] theorem Group.clearFlags_polling (g : Group) (e : Nat) (f : Half) : (g.clearFlags e f).polling = g.polling := rfl
@[simp] theorem Group.clearFlags_park (g : Group) (e : Nat) (f : Half) : (g.clearFlags e f).park = g.park := rfl
@[simp] theorem Group.clearFlags_tokens (g : Group) (e : Nat) (f : Half) : (g.clearFlags e f).tokens = g.tokens := rfl
@[simp] theorem Group.clearFlags_chain (g : Group) (e : Nat) (f : Half) : (g.clearFlags e f).chain = g.chain := rfl
@[simp] theorem Group.clearFlags_cap (g : Group) (e : Nat) (f : Half) : (g.clearFlags e f).cap = g.cap := rfl
@[simp] theorem Group.clearFlags_aggLost (g : Group) (e : Nat) (f : Half) : (g.clearFlags e f).aggLost = g.aggLost := rfl
@[simp] theorem Group.clearFlags_aggLog (g : Group) (e : Nat) (f : Half) : (g.clearFlags e f).aggLog = g.aggLog := rfl
@[simp] theorem Group.clearFlags_latch (g : Group) (e : Nat) (f : Half) : (g.clearFlags e f).latch = g.latch := rfl
@[simp] theorem Group.clearFlags_fault (g : Group) (e : Nat) (f : Half) : (g.clearFlags e f).fault = g.fault := rfl
@[simp] theorem Group.clearFlags_stopped (g : Group) (e : Nat) (f : Half) : (g.clearFlags e f).stopped = g.stopped := rfl
@[simp] theorem Group.clearFlags_sig (g : Group) (e : Nat) (f : Half) : (g.clearFlags e f).sig = g.sig := rfl

/-! ### Group.writeV -/

@[simp] theorem Group.writeV_gid (g : Group) (r : Nat) (f : Nat → Option Word) : (g.writeV r f).gid = g.gid := rfl
@[simp] theorem Group.writeV_vf (g : Group) (r : Nat) (f : Nat → Option Word) : (g.writeV r f).vf = g.vf := rfl
@[simp] theorem Group.writeV_launch (g : Group) (r : Nat) (f : Nat → Option Word) : (g.writeV r f).launch = g.launch := rfl
@[simp] theorem Group.writeV_block (g : Group) (r : Nat) (f : Nat → Option Word) : (g.writeV r f).block = g.block := rfl
@[simp] theorem Group.writeV_part (g : Group) (r : Nat) (f : Nat → Option Word) : (g.writeV r f).part = g.part := rfl
@[simp] theorem Group.writeV_slot (g : Group) (r : Nat) (f : Nat → Option Word) : (g.writeV r f).slot = g.slot := rfl
@[simp] theorem Group.writeV_cluster (g : Group) (r : Nat) (f : Nat → Option Word) : (g.writeV r f).cluster = g.cluster := rfl
@[simp] theorem Group.writeV_blockNo (g : Group) (r : Nat) (f : Nat → Option Word) : (g.writeV r f).blockNo = g.blockNo := rfl
@[simp] theorem Group.writeV_groupNo (g : Group) (r : Nat) (f : Nat → Option Word) : (g.writeV r f).groupNo = g.groupNo := rfl
@[simp] theorem Group.writeV_w (g : Group) (r : Nat) (f : Nat → Option Word) : (g.writeV r f).w = g.w := rfl
@[simp] theorem Group.writeV_e (g : Group) (r : Nat) (f : Nat → Option Word) : (g.writeV r f).e = g.e := rfl
@[simp] theorem Group.writeV_laneOff (g : Group) (r : Nat) (f : Nat → Option Word) : (g.writeV r f).laneOff = g.laneOff := rfl
@[simp] theorem Group.writeV_vregs (g : Group) (r : Nat) (f : Nat → Option Word) : (g.writeV r f).vregs = g.vregs := rfl
@[simp] theorem Group.writeV_vcur (g : Group) (r : Nat) (f : Nat → Option Word) : (g.writeV r f).vcur = g.vcur := rfl
@[simp] theorem Group.writeV_helpers (g : Group) (r : Nat) (f : Nat → Option Word) : (g.writeV r f).helpers = g.helpers := rfl
@[simp] theorem Group.writeV_atiles (g : Group) (r : Nat) (f : Nat → Option Word) : (g.writeV r f).atiles = g.atiles := rfl
@[simp] theorem Group.writeV_xext (g : Group) (r : Nat) (f : Nat → Option Word) : (g.writeV r f).xext = g.xext := rfl
@[simp] theorem Group.writeV_dstack (g : Group) (r : Nat) (f : Nat → Option Word) : (g.writeV r f).dstack = g.dstack := rfl
@[simp] theorem Group.writeV_blocks (g : Group) (r : Nat) (f : Nat → Option Word) : (g.writeV r f).blocks = g.blocks := rfl
@[simp] theorem Group.writeV_groups (g : Group) (r : Nat) (f : Nat → Option Word) : (g.writeV r f).groups = g.groups := rfl
@[simp] theorem Group.writeV_round (g : Group) (r : Nat) (f : Nat → Option Word) : (g.writeV r f).round = g.round := rfl
@[simp] theorem Group.writeV_prio (g : Group) (r : Nat) (f : Nat → Option Word) : (g.writeV r f).prio = g.prio := rfl
@[simp] theorem Group.writeV_tag (g : Group) (r : Nat) (f : Nat → Option Word) : (g.writeV r f).tag = g.tag := rfl
@[simp] theorem Group.writeV_k (g : Group) (r : Nat) (f : Nat → Option Word) : (g.writeV r f).k = g.k := rfl
@[simp] theorem Group.writeV_v (g : Group) (r : Nat) (f : Nat → Option Word) : (g.writeV r f).v = finsert r (tab g.n (fun p => (f p).getD ((fget [] g.v r).getD p 0))) g.v := rfl
@[simp] theorem Group.writeV_vEmpty (g : Group) (r : Nat) (f : Nat → Option Word) : (g.writeV r f).vEmpty = fset 0 g.vEmpty r (fget 0 g.vEmpty r &&& ~~~(maskOf g.n (fun p => (f p).isSome))) := rfl
@[simp] theorem Group.writeV_sh (g : Group) (r : Nat) (f : Nat → Option Word) : (g.writeV r f).sh = g.sh := rfl
@[simp] theorem Group.writeV_shEmpty (g : Group) (r : Nat) (f : Nat → Option Word) : (g.writeV r f).shEmpty = g.shEmpty := rfl
@[simp] theorem Group.writeV_shLive (g : Group) (r : Nat) (f : Nat → Option Word) : (g.writeV r f).shLive = g.shLive := rfl
@[simp] theorem Group.writeV_shOwner (g : Group) (r : Nat) (f : Nat → Option Word) : (g.writeV r f).shOwner = g.shOwner := rfl
@[simp] theorem Group.writeV_s (g : Group) (r : Nat) (f : Nat → Option Word) : (g.writeV r f).s = g.s := rfl
@[simp] theorem Group.writeV_sEmpty (g : Group) (r : Nat) (f : Nat → Option Word) : (g.writeV r f).sEmpty = g.sEmpty := rfl
@[simp] theorem Group.writeV_sTicket (g : Group) (r : Nat) (f : Nat → Option Word) : (g.writeV r f).sTicket = g.sTicket := rfl
@[simp] theorem Group.writeV_m (g : Group) (r : Nat) (f : Nat → Option Word) : (g.writeV r f).m = g.m := rfl
@[simp] theorem Group.writeV_q (g : Group) (r : Nat) (f : Nat → Option Word) : (g.writeV r f).q = g.q := rfl
@[simp] theorem Group.writeV_x (g : Group) (r : Nat) (f : Nat → Option Word) : (g.writeV r f).x = g.x := rfl
@[simp] theorem Group.writeV_tiles (g : Group) (r : Nat) (f : Nat → Option Word) : (g.writeV r f).tiles = g.tiles := rfl
@[simp] theorem Group.writeV_slots (g : Group) (r : Nat) (f : Nat → Option Word) : (g.writeV r f).slots = g.slots := rfl
@[simp] theorem Group.writeV_fstat (g : Group) (r : Nat) (f : Nat → Option Word) : (g.writeV r f).fstat = g.fstat := rfl
@[simp] theorem Group.writeV_paths (g : Group) (r : Nat) (f : Nat → Option Word) : (g.writeV r f).paths = g.paths := rfl
@[simp] theorem Group.writeV_nextPath (g : Group) (r : Nat) (f : Nat → Option Word) : (g.writeV r f).nextPath = g.nextPath := rfl
@[simp] theorem Group.writeV_backoff (g : Group) (r : Nat) (f : Nat → Option Word) : (g.writeV r f).backoff = g.backoff := rfl
@[simp] theorem Group.writeV_polling (g : Group) (r : Nat) (f : Nat → Option Word) : (g.writeV r f).polling = g.polling := rfl
@[simp] theorem Group.writeV_park (g : Group) (r : Nat) (f : Nat → Option Word) : (g.writeV r f).park = g.park := rfl
@[simp] theorem Group.writeV_tokens (g : Group) (r : Nat) (f : Nat → Option Word) : (g.writeV r f).tokens = g.tokens := rfl
@[simp] theorem Group.writeV_chain (g : Group) (r : Nat) (f : Nat → Option Word) : (g.writeV r f).chain = g.chain := rfl
@[simp] theorem Group.writeV_cap (g : Group) (r : Nat) (f : Nat → Option Word) : (g.writeV r f).cap = g.cap := rfl
@[simp] theorem Group.writeV_aggLost (g : Group) (r : Nat) (f : Nat → Option Word) : (g.writeV r f).aggLost = g.aggLost := rfl
@[simp] theorem Group.writeV_aggLog (g : Group) (r : Nat) (f : Nat → Option Word) : (g.writeV r f).aggLog = g.aggLog := rfl
@[simp] theorem Group.writeV_latch (g : Group) (r : Nat) (f : Nat → Option Word) : (g.writeV r f).latch = g.latch := rfl
@[simp] theorem Group.writeV_fault (g : Group) (r : Nat) (f : Nat → Option Word) : (g.writeV r f).fault = g.fault := rfl
@[simp] theorem Group.writeV_stopped (g : Group) (r : Nat) (f : Nat → Option Word) : (g.writeV r f).stopped = g.stopped := rfl
@[simp] theorem Group.writeV_sig (g : Group) (r : Nat) (f : Nat → Option Word) : (g.writeV r f).sig = g.sig := rfl

/-! ### Group.writeSh -/

@[simp] theorem Group.writeSh_gid (g : Group) (path r : Nat) (f : Nat → Option Word) : (g.writeSh path r f).gid = g.gid := rfl
@[simp] theorem Group.writeSh_vf (g : Group) (path r : Nat) (f : Nat → Option Word) : (g.writeSh path r f).vf = g.vf := rfl
@[simp] theorem Group.writeSh_launch (g : Group) (path r : Nat) (f : Nat → Option Word) : (g.writeSh path r f).launch = g.launch := rfl
@[simp] theorem Group.writeSh_block (g : Group) (path r : Nat) (f : Nat → Option Word) : (g.writeSh path r f).block = g.block := rfl
@[simp] theorem Group.writeSh_part (g : Group) (path r : Nat) (f : Nat → Option Word) : (g.writeSh path r f).part = g.part := rfl
@[simp] theorem Group.writeSh_slot (g : Group) (path r : Nat) (f : Nat → Option Word) : (g.writeSh path r f).slot = g.slot := rfl
@[simp] theorem Group.writeSh_cluster (g : Group) (path r : Nat) (f : Nat → Option Word) : (g.writeSh path r f).cluster = g.cluster := rfl
@[simp] theorem Group.writeSh_blockNo (g : Group) (path r : Nat) (f : Nat → Option Word) : (g.writeSh path r f).blockNo = g.blockNo := rfl
@[simp] theorem Group.writeSh_groupNo (g : Group) (path r : Nat) (f : Nat → Option Word) : (g.writeSh path r f).groupNo = g.groupNo := rfl
@[simp] theorem Group.writeSh_w (g : Group) (path r : Nat) (f : Nat → Option Word) : (g.writeSh path r f).w = g.w := rfl
@[simp] theorem Group.writeSh_e (g : Group) (path r : Nat) (f : Nat → Option Word) : (g.writeSh path r f).e = g.e := rfl
@[simp] theorem Group.writeSh_laneOff (g : Group) (path r : Nat) (f : Nat → Option Word) : (g.writeSh path r f).laneOff = g.laneOff := rfl
@[simp] theorem Group.writeSh_vregs (g : Group) (path r : Nat) (f : Nat → Option Word) : (g.writeSh path r f).vregs = g.vregs := rfl
@[simp] theorem Group.writeSh_vcur (g : Group) (path r : Nat) (f : Nat → Option Word) : (g.writeSh path r f).vcur = g.vcur := rfl
@[simp] theorem Group.writeSh_helpers (g : Group) (path r : Nat) (f : Nat → Option Word) : (g.writeSh path r f).helpers = g.helpers := rfl
@[simp] theorem Group.writeSh_atiles (g : Group) (path r : Nat) (f : Nat → Option Word) : (g.writeSh path r f).atiles = g.atiles := rfl
@[simp] theorem Group.writeSh_xext (g : Group) (path r : Nat) (f : Nat → Option Word) : (g.writeSh path r f).xext = g.xext := rfl
@[simp] theorem Group.writeSh_dstack (g : Group) (path r : Nat) (f : Nat → Option Word) : (g.writeSh path r f).dstack = g.dstack := rfl
@[simp] theorem Group.writeSh_blocks (g : Group) (path r : Nat) (f : Nat → Option Word) : (g.writeSh path r f).blocks = g.blocks := rfl
@[simp] theorem Group.writeSh_groups (g : Group) (path r : Nat) (f : Nat → Option Word) : (g.writeSh path r f).groups = g.groups := rfl
@[simp] theorem Group.writeSh_round (g : Group) (path r : Nat) (f : Nat → Option Word) : (g.writeSh path r f).round = g.round := rfl
@[simp] theorem Group.writeSh_prio (g : Group) (path r : Nat) (f : Nat → Option Word) : (g.writeSh path r f).prio = g.prio := rfl
@[simp] theorem Group.writeSh_tag (g : Group) (path r : Nat) (f : Nat → Option Word) : (g.writeSh path r f).tag = g.tag := rfl
@[simp] theorem Group.writeSh_k (g : Group) (path r : Nat) (f : Nat → Option Word) : (g.writeSh path r f).k = g.k := rfl
@[simp] theorem Group.writeSh_v (g : Group) (path r : Nat) (f : Nat → Option Word) : (g.writeSh path r f).v = g.v := rfl
@[simp] theorem Group.writeSh_vEmpty (g : Group) (path r : Nat) (f : Nat → Option Word) : (g.writeSh path r f).vEmpty = g.vEmpty := rfl
@[simp] theorem Group.writeSh_s (g : Group) (path r : Nat) (f : Nat → Option Word) : (g.writeSh path r f).s = g.s := rfl
@[simp] theorem Group.writeSh_sEmpty (g : Group) (path r : Nat) (f : Nat → Option Word) : (g.writeSh path r f).sEmpty = g.sEmpty := rfl
@[simp] theorem Group.writeSh_sTicket (g : Group) (path r : Nat) (f : Nat → Option Word) : (g.writeSh path r f).sTicket = g.sTicket := rfl
@[simp] theorem Group.writeSh_m (g : Group) (path r : Nat) (f : Nat → Option Word) : (g.writeSh path r f).m = g.m := rfl
@[simp] theorem Group.writeSh_q (g : Group) (path r : Nat) (f : Nat → Option Word) : (g.writeSh path r f).q = g.q := rfl
@[simp] theorem Group.writeSh_x (g : Group) (path r : Nat) (f : Nat → Option Word) : (g.writeSh path r f).x = g.x := rfl
@[simp] theorem Group.writeSh_tiles (g : Group) (path r : Nat) (f : Nat → Option Word) : (g.writeSh path r f).tiles = g.tiles := rfl
@[simp] theorem Group.writeSh_slots (g : Group) (path r : Nat) (f : Nat → Option Word) : (g.writeSh path r f).slots = g.slots := rfl
@[simp] theorem Group.writeSh_fstat (g : Group) (path r : Nat) (f : Nat → Option Word) : (g.writeSh path r f).fstat = g.fstat := rfl
@[simp] theorem Group.writeSh_paths (g : Group) (path r : Nat) (f : Nat → Option Word) : (g.writeSh path r f).paths = g.paths := rfl
@[simp] theorem Group.writeSh_nextPath (g : Group) (path r : Nat) (f : Nat → Option Word) : (g.writeSh path r f).nextPath = g.nextPath := rfl
@[simp] theorem Group.writeSh_backoff (g : Group) (path r : Nat) (f : Nat → Option Word) : (g.writeSh path r f).backoff = g.backoff := rfl
@[simp] theorem Group.writeSh_polling (g : Group) (path r : Nat) (f : Nat → Option Word) : (g.writeSh path r f).polling = g.polling := rfl
@[simp] theorem Group.writeSh_park (g : Group) (path r : Nat) (f : Nat → Option Word) : (g.writeSh path r f).park = g.park := rfl
@[simp] theorem Group.writeSh_tokens (g : Group) (path r : Nat) (f : Nat → Option Word) : (g.writeSh path r f).tokens = g.tokens := rfl
@[simp] theorem Group.writeSh_chain (g : Group) (path r : Nat) (f : Nat → Option Word) : (g.writeSh path r f).chain = g.chain := rfl
@[simp] theorem Group.writeSh_cap (g : Group) (path r : Nat) (f : Nat → Option Word) : (g.writeSh path r f).cap = g.cap := rfl
@[simp] theorem Group.writeSh_aggLost (g : Group) (path r : Nat) (f : Nat → Option Word) : (g.writeSh path r f).aggLost = g.aggLost := rfl
@[simp] theorem Group.writeSh_aggLog (g : Group) (path r : Nat) (f : Nat → Option Word) : (g.writeSh path r f).aggLog = g.aggLog := rfl
@[simp] theorem Group.writeSh_latch (g : Group) (path r : Nat) (f : Nat → Option Word) : (g.writeSh path r f).latch = g.latch := rfl
@[simp] theorem Group.writeSh_fault (g : Group) (path r : Nat) (f : Nat → Option Word) : (g.writeSh path r f).fault = g.fault := rfl
@[simp] theorem Group.writeSh_stopped (g : Group) (path r : Nat) (f : Nat → Option Word) : (g.writeSh path r f).stopped = g.stopped := rfl
@[simp] theorem Group.writeSh_sig (g : Group) (path r : Nat) (f : Nat → Option Word) : (g.writeSh path r f).sig = g.sig := rfl

end Sys2Proof.Machine
end

