-- ==== Sys2Proof/Laws/Fields.lean ====
section
/-! SUPPORT. What the shared operations of an issuing word and of a step without a word change, and, field by field, what they leave. -/
namespace Sys2Proof.Machine

/-! ### What each changes -/

/-- Counting changes cores only. -/
theorem State.count_shape (s : State) (vf core ev n : Nat) : ∃ cs, s.count vf core ev n = { s with cores := cs } := by
  simp only [State.count]
  split
  · exact ⟨_, rfl⟩
  · exact ⟨s.cores, rfl⟩

/-- The next runner is a matter of the partition. -/
theorem State.advanceRun_shape (s : State) (p : Nat) (e : Bool) : ∃ ps, s.advanceRun p e = { s with parts := ps } := by
  simp only [State.advanceRun]
  repeat' split
  all_goals first | exact ⟨s.parts, rfl⟩ | exact ⟨_, rfl⟩

/-- The end of a leg changes paths and the partition. -/
theorem State.endLeg_shape (s : State) (p : Nat) (gid : Gid) (path : Nat) (w : Wait) :
    ∃ ps gs, s.endLeg p gid path w = { s with parts := ps, groups := gs } := by
  simp only [State.endLeg]
  obtain ⟨ps, h⟩ := State.advanceRun_shape _ p true
  exact ⟨ps, _, h⟩

theorem State.retire_shape (s : State) (x : Ix) (w : Option Wait) : ∃ ps gs, s.retire x w = { s with parts := ps, groups := gs } := by
  cases w <;> simp only [State.retire]
  · split
    · obtain ⟨ps, gs, h⟩ := State.endLeg_shape _ x.p x.g.gid x.path.id .none; exact ⟨ps, gs, h⟩
    · obtain ⟨ps, h⟩ := State.advanceRun_shape _ x.p false; exact ⟨ps, _, h⟩
  · obtain ⟨ps, gs, h⟩ := State.endLeg_shape _ x.p x.g.gid x.path.id _; exact ⟨ps, gs, h⟩

theorem State.transferred_shape (s : State) (x : Ix) : ∃ ps gs, s.transferred x = { s with parts := ps, groups := gs } := by
  simp only [State.transferred]
  repeat' split
  all_goals first
    | (obtain ⟨ps, gs, h⟩ := State.endLeg_shape _ x.p x.g.gid x.path.id .none; exact ⟨ps, gs, h⟩)
    | (obtain ⟨ps, h⟩ := State.advanceRun_shape _ x.p false; exact ⟨ps, _, h⟩)

/-- The cycles that a core has counted are a matter of the cores. -/
theorem State.coreTo_shape (s : State) (c n : Nat) : ∃ cs, s.coreTo c n = { s with cores := cs } := by
  simp only [State.coreTo]
  split
  · obtain ⟨cs, h⟩ := State.count_shape (s.setCore c { s.core c with cycles := max (s.core c).cycles n }) (dfield s.manage.pmctl 53 48) c 0x01 (n - (s.core c).cycles)
    rw [h]; exact ⟨cs, rfl⟩
  · exact ⟨_, rfl⟩

/-- A word's cycles change cores and partitions, and take one open choice. -/
theorem State.spendCycles_shape (s : State) (x : Ix) (c : Cost) :
    ∃ cs ps, s.spendCycles x c = { s with cores := cs, parts := ps, free := s.free + 1 } := by
  unfold State.spendCycles
  extract_lets core run mine partner other joint second passes cost start s1 src s2
  obtain ⟨c3, h3⟩ : ∃ cs, s1 = { s.spend with cores := cs } := State.coreTo_shape s.spend core start
  obtain ⟨ps, h2⟩ : ∃ ps, s2 = { s1 with parts := ps } := ⟨_, rfl⟩
  clear_value s1 s2
  subst h3 h2
  split
  · obtain ⟨c1, h1⟩ := State.count_shape _ x.g.vf core 0x04 (x.g.passes - passCount mine)
    obtain ⟨c2, h2⟩ := State.count_shape _ x.g.vf core 0x03 (passCount mine)
    rw [h1, h2]
    exact ⟨c1, ps, rfl⟩
  · exact ⟨c3, ps, rfl⟩

/-- Waking changes paths only. -/
theorem State.wake_shape (s : State) : ∃ gs, s.wake = { s with groups := gs } := ⟨_, rfl⟩

/-! ### Field by field -/

@[simp] theorem State.count_dev (s : State) (vf core ev n : Nat) : (s.count vf core ev n).dev = s.dev := by obtain ⟨_, h⟩ := State.count_shape s vf core ev n; rw [h]
@[simp] theorem State.count_manage (s : State) (vf core ev n : Nat) : (s.count vf core ev n).manage = s.manage := by obtain ⟨_, h⟩ := State.count_shape s vf core ev n; rw [h]
@[simp] theorem State.count_dies (s : State) (vf core ev n : Nat) : (s.count vf core ev n).dies = s.dies := by obtain ⟨_, h⟩ := State.count_shape s vf core ev n; rw [h]
@[simp] theorem State.count_parts (s : State) (vf core ev n : Nat) : (s.count vf core ev n).parts = s.parts := by obtain ⟨_, h⟩ := State.count_shape s vf core ev n; rw [h]
@[simp] theorem State.count_ctxs (s : State) (vf core ev n : Nat) : (s.count vf core ev n).ctxs = s.ctxs := by obtain ⟨_, h⟩ := State.count_shape s vf core ev n; rw [h]
@[simp] theorem State.count_launches (s : State) (vf core ev n : Nat) : (s.count vf core ev n).launches = s.launches := by obtain ⟨_, h⟩ := State.count_shape s vf core ev n; rw [h]
@[simp] theorem State.count_blocks (s : State) (vf core ev n : Nat) : (s.count vf core ev n).blocks = s.blocks := by obtain ⟨_, h⟩ := State.count_shape s vf core ev n; rw [h]
@[simp] theorem State.count_groups (s : State) (vf core ev n : Nat) : (s.count vf core ev n).groups = s.groups := by obtain ⟨_, h⟩ := State.count_shape s vf core ev n; rw [h]
@[simp] theorem State.count_hbm (s : State) (vf core ev n : Nat) : (s.count vf core ev n).hbm = s.hbm := by obtain ⟨_, h⟩ := State.count_shape s vf core ev n; rw [h]
@[simp] theorem State.count_host (s : State) (vf core ev n : Nat) : (s.count vf core ev n).host = s.host := by obtain ⟨_, h⟩ := State.count_shape s vf core ev n; rw [h]
@[simp] theorem State.count_hostOld (s : State) (vf core ev n : Nat) : (s.count vf core ev n).hostOld = s.hostOld := by obtain ⟨_, h⟩ := State.count_shape s vf core ev n; rw [h]
@[simp] theorem State.count_codeOld (s : State) (vf core ev n : Nat) : (s.count vf core ev n).codeOld = s.codeOld := by obtain ⟨_, h⟩ := State.count_shape s vf core ev n; rw [h]
@[simp] theorem State.count_weights (s : State) (vf core ev n : Nat) : (s.count vf core ev n).weights = s.weights := by obtain ⟨_, h⟩ := State.count_shape s vf core ev n; rw [h]
@[simp] theorem State.count_poisoned (s : State) (vf core ev n : Nat) : (s.count vf core ev n).poisoned = s.poisoned := by obtain ⟨_, h⟩ := State.count_shape s vf core ev n; rw [h]
@[simp] theorem State.count_lost (s : State) (vf core ev n : Nat) : (s.count vf core ev n).lost = s.lost := by obtain ⟨_, h⟩ := State.count_shape s vf core ev n; rw [h]
@[simp] theorem State.count_dirty (s : State) (vf core ev n : Nat) : (s.count vf core ev n).dirty = s.dirty := by obtain ⟨_, h⟩ := State.count_shape s vf core ev n; rw [h]
@[simp] theorem State.count_tlb (s : State) (vf core ev n : Nat) : (s.count vf core ev n).tlb = s.tlb := by obtain ⟨_, h⟩ := State.count_shape s vf core ev n; rw [h]
@[simp] theorem State.count_flight (s : State) (vf core ev n : Nat) : (s.count vf core ev n).flight = s.flight := by obtain ⟨_, h⟩ := State.count_shape s vf core ev n; rw [h]
@[simp] theorem State.count_unacked (s : State) (vf core ev n : Nat) : (s.count vf core ev n).unacked = s.unacked := by obtain ⟨_, h⟩ := State.count_shape s vf core ev n; rw [h]
@[simp] theorem State.count_fills (s : State) (vf core ev n : Nat) : (s.count vf core ev n).fills = s.fills := by obtain ⟨_, h⟩ := State.count_shape s vf core ev n; rw [h]
@[simp] theorem State.count_updates (s : State) (vf core ev n : Nat) : (s.count vf core ev n).updates = s.updates := by obtain ⟨_, h⟩ := State.count_shape s vf core ev n; rw [h]
@[simp] theorem State.count_xfers (s : State) (vf core ev n : Nat) : (s.count vf core ev n).xfers = s.xfers := by obtain ⟨_, h⟩ := State.count_shape s vf core ev n; rw [h]
@[simp] theorem State.count_readouts (s : State) (vf core ev n : Nat) : (s.count vf core ev n).readouts = s.readouts := by obtain ⟨_, h⟩ := State.count_shape s vf core ev n; rw [h]
@[simp] theorem State.count_moves (s : State) (vf core ev n : Nat) : (s.count vf core ev n).moves = s.moves := by obtain ⟨_, h⟩ := State.count_shape s vf core ev n; rw [h]
@[simp] theorem State.count_tokens (s : State) (vf core ev n : Nat) : (s.count vf core ev n).tokens = s.tokens := by obtain ⟨_, h⟩ := State.count_shape s vf core ev n; rw [h]
@[simp] theorem State.count_landings (s : State) (vf core ev n : Nat) : (s.count vf core ev n).landings = s.landings := by obtain ⟨_, h⟩ := State.count_shape s vf core ev n; rw [h]
@[simp] theorem State.count_agg (s : State) (vf core ev n : Nat) : (s.count vf core ev n).agg = s.agg := by obtain ⟨_, h⟩ := State.count_shape s vf core ev n; rw [h]
@[simp] theorem State.count_reqs (s : State) (vf core ev n : Nat) : (s.count vf core ev n).reqs = s.reqs := by obtain ⟨_, h⟩ := State.count_shape s vf core ev n; rw [h]
@[simp] theorem State.count_waitReqs (s : State) (vf core ev n : Nat) : (s.count vf core ev n).waitReqs = s.waitReqs := by obtain ⟨_, h⟩ := State.count_shape s vf core ev n; rw [h]
@[simp] theorem State.count_arrived (s : State) (vf core ev n : Nat) : (s.count vf core ev n).arrived = s.arrived := by obtain ⟨_, h⟩ := State.count_shape s vf core ev n; rw [h]
@[simp] theorem State.count_ports (s : State) (vf core ev n : Nat) : (s.count vf core ev n).ports = s.ports := by obtain ⟨_, h⟩ := State.count_shape s vf core ev n; rw [h]
@[simp] theorem State.count_remap (s : State) (vf core ev n : Nat) : (s.count vf core ev n).remap = s.remap := by obtain ⟨_, h⟩ := State.count_shape s vf core ev n; rw [h]
@[simp] theorem State.count_heldCw (s : State) (vf core ev n : Nat) : (s.count vf core ev n).heldCw = s.heldCw := by obtain ⟨_, h⟩ := State.count_shape s vf core ev n; rw [h]
@[simp] theorem State.count_pseq (s : State) (vf core ev n : Nat) : (s.count vf core ev n).pseq = s.pseq := by obtain ⟨_, h⟩ := State.count_shape s vf core ev n; rw [h]
@[simp] theorem State.count_accepted (s : State) (vf core ev n : Nat) : (s.count vf core ev n).accepted = s.accepted := by obtain ⟨_, h⟩ := State.count_shape s vf core ev n; rw [h]
@[simp] theorem State.count_rlogBase (s : State) (vf core ev n : Nat) : (s.count vf core ev n).rlogBase = s.rlogBase := by obtain ⟨_, h⟩ := State.count_shape s vf core ev n; rw [h]
@[simp] theorem State.count_rlogSize (s : State) (vf core ev n : Nat) : (s.count vf core ev n).rlogSize = s.rlogSize := by obtain ⟨_, h⟩ := State.count_shape s vf core ev n; rw [h]
@[simp] theorem State.count_rlog (s : State) (vf core ev n : Nat) : (s.count vf core ev n).rlog = s.rlog := by obtain ⟨_, h⟩ := State.count_shape s vf core ev n; rw [h]
@[simp] theorem State.count_withheld (s : State) (vf core ev n : Nat) : (s.count vf core ev n).withheld = s.withheld := by obtain ⟨_, h⟩ := State.count_shape s vf core ev n; rw [h]
@[simp] theorem State.count_iwin (s : State) (vf core ev n : Nat) : (s.count vf core ev n).iwin = s.iwin := by obtain ⟨_, h⟩ := State.count_shape s vf core ev n; rw [h]
@[simp] theorem State.count_chunks (s : State) (vf core ev n : Nat) : (s.count vf core ev n).chunks = s.chunks := by obtain ⟨_, h⟩ := State.count_shape s vf core ev n; rw [h]
@[simp] theorem State.count_results (s : State) (vf core ev n : Nat) : (s.count vf core ev n).results = s.results := by obtain ⟨_, h⟩ := State.count_shape s vf core ev n; rw [h]
@[simp] theorem State.count_hists (s : State) (vf core ev n : Nat) : (s.count vf core ev n).hists = s.hists := by obtain ⟨_, h⟩ := State.count_shape s vf core ev n; rw [h]
@[simp] theorem State.count_replay (s : State) (vf core ev n : Nat) : (s.count vf core ev n).replay = s.replay := by obtain ⟨_, h⟩ := State.count_shape s vf core ev n; rw [h]
@[simp] theorem State.count_pending (s : State) (vf core ev n : Nat) : (s.count vf core ev n).pending = s.pending := by obtain ⟨_, h⟩ := State.count_shape s vf core ev n; rw [h]
@[simp] theorem State.count_cmd (s : State) (vf core ev n : Nat) : (s.count vf core ev n).cmd = s.cmd := by obtain ⟨_, h⟩ := State.count_shape s vf core ev n; rw [h]
@[simp] theorem State.count_agenda (s : State) (vf core ev n : Nat) : (s.count vf core ev n).agenda = s.agenda := by obtain ⟨_, h⟩ := State.count_shape s vf core ev n; rw [h]
@[simp] theorem State.count_cur (s : State) (vf core ev n : Nat) : (s.count vf core ev n).cur = s.cur := by obtain ⟨_, h⟩ := State.count_shape s vf core ev n; rw [h]
@[simp] theorem State.count_nextId (s : State) (vf core ev n : Nat) : (s.count vf core ev n).nextId = s.nextId := by obtain ⟨_, h⟩ := State.count_shape s vf core ev n; rw [h]
@[simp] theorem State.count_free (s : State) (vf core ev n : Nat) : (s.count vf core ev n).free = s.free := by obtain ⟨_, h⟩ := State.count_shape s vf core ev n; rw [h]

@[simp] theorem State.advanceRun_dev (s : State) (p : Nat) (e : Bool) : (s.advanceRun p e).dev = s.dev := by obtain ⟨_, h⟩ := State.advanceRun_shape s p e; rw [h]
@[simp] theorem State.advanceRun_manage (s : State) (p : Nat) (e : Bool) : (s.advanceRun p e).manage = s.manage := by obtain ⟨_, h⟩ := State.advanceRun_shape s p e; rw [h]
@[simp] theorem State.advanceRun_dies (s : State) (p : Nat) (e : Bool) : (s.advanceRun p e).dies = s.dies := by obtain ⟨_, h⟩ := State.advanceRun_shape s p e; rw [h]
@[simp] theorem State.advanceRun_cores (s : State) (p : Nat) (e : Bool) : (s.advanceRun p e).cores = s.cores := by obtain ⟨_, h⟩ := State.advanceRun_shape s p e; rw [h]
@[simp] theorem State.advanceRun_ctxs (s : State) (p : Nat) (e : Bool) : (s.advanceRun p e).ctxs = s.ctxs := by obtain ⟨_, h⟩ := State.advanceRun_shape s p e; rw [h]
@[simp] theorem State.advanceRun_launches (s : State) (p : Nat) (e : Bool) : (s.advanceRun p e).launches = s.launches := by obtain ⟨_, h⟩ := State.advanceRun_shape s p e; rw [h]
@[simp] theorem State.advanceRun_blocks (s : State) (p : Nat) (e : Bool) : (s.advanceRun p e).blocks = s.blocks := by obtain ⟨_, h⟩ := State.advanceRun_shape s p e; rw [h]
@[simp] theorem State.advanceRun_groups (s : State) (p : Nat) (e : Bool) : (s.advanceRun p e).groups = s.groups := by obtain ⟨_, h⟩ := State.advanceRun_shape s p e; rw [h]
@[simp] theorem State.advanceRun_hbm (s : State) (p : Nat) (e : Bool) : (s.advanceRun p e).hbm = s.hbm := by obtain ⟨_, h⟩ := State.advanceRun_shape s p e; rw [h]
@[simp] theorem State.advanceRun_host (s : State) (p : Nat) (e : Bool) : (s.advanceRun p e).host = s.host := by obtain ⟨_, h⟩ := State.advanceRun_shape s p e; rw [h]
@[simp] theorem State.advanceRun_hostOld (s : State) (p : Nat) (e : Bool) : (s.advanceRun p e).hostOld = s.hostOld := by obtain ⟨_, h⟩ := State.advanceRun_shape s p e; rw [h]
@[simp] theorem State.advanceRun_codeOld (s : State) (p : Nat) (e : Bool) : (s.advanceRun p e).codeOld = s.codeOld := by obtain ⟨_, h⟩ := State.advanceRun_shape s p e; rw [h]
@[simp] theorem State.advanceRun_weights (s : State) (p : Nat) (e : Bool) : (s.advanceRun p e).weights = s.weights := by obtain ⟨_, h⟩ := State.advanceRun_shape s p e; rw [h]
@[simp] theorem State.advanceRun_poisoned (s : State) (p : Nat) (e : Bool) : (s.advanceRun p e).poisoned = s.poisoned := by obtain ⟨_, h⟩ := State.advanceRun_shape s p e; rw [h]
@[simp] theorem State.advanceRun_lost (s : State) (p : Nat) (e : Bool) : (s.advanceRun p e).lost = s.lost := by obtain ⟨_, h⟩ := State.advanceRun_shape s p e; rw [h]
@[simp] theorem State.advanceRun_dirty (s : State) (p : Nat) (e : Bool) : (s.advanceRun p e).dirty = s.dirty := by obtain ⟨_, h⟩ := State.advanceRun_shape s p e; rw [h]
@[simp] theorem State.advanceRun_tlb (s : State) (p : Nat) (e : Bool) : (s.advanceRun p e).tlb = s.tlb := by obtain ⟨_, h⟩ := State.advanceRun_shape s p e; rw [h]
@[simp] theorem State.advanceRun_flight (s : State) (p : Nat) (e : Bool) : (s.advanceRun p e).flight = s.flight := by obtain ⟨_, h⟩ := State.advanceRun_shape s p e; rw [h]
@[simp] theorem State.advanceRun_unacked (s : State) (p : Nat) (e : Bool) : (s.advanceRun p e).unacked = s.unacked := by obtain ⟨_, h⟩ := State.advanceRun_shape s p e; rw [h]
@[simp] theorem State.advanceRun_fills (s : State) (p : Nat) (e : Bool) : (s.advanceRun p e).fills = s.fills := by obtain ⟨_, h⟩ := State.advanceRun_shape s p e; rw [h]
@[simp] theorem State.advanceRun_updates (s : State) (p : Nat) (e : Bool) : (s.advanceRun p e).updates = s.updates := by obtain ⟨_, h⟩ := State.advanceRun_shape s p e; rw [h]
@[simp] theorem State.advanceRun_xfers (s : State) (p : Nat) (e : Bool) : (s.advanceRun p e).xfers = s.xfers := by obtain ⟨_, h⟩ := State.advanceRun_shape s p e; rw [h]
@[simp] theorem State.advanceRun_readouts (s : State) (p : Nat) (e : Bool) : (s.advanceRun p e).readouts = s.readouts := by obtain ⟨_, h⟩ := State.advanceRun_shape s p e; rw [h]
@[simp] theorem State.advanceRun_moves (s : State) (p : Nat) (e : Bool) : (s.advanceRun p e).moves = s.moves := by obtain ⟨_, h⟩ := State.advanceRun_shape s p e; rw [h]
@[simp] theorem State.advanceRun_tokens (s : State) (p : Nat) (e : Bool) : (s.advanceRun p e).tokens = s.tokens := by obtain ⟨_, h⟩ := State.advanceRun_shape s p e; rw [h]
@[simp] theorem State.advanceRun_landings (s : State) (p : Nat) (e : Bool) : (s.advanceRun p e).landings = s.landings := by obtain ⟨_, h⟩ := State.advanceRun_shape s p e; rw [h]
@[simp] theorem State.advanceRun_agg (s : State) (p : Nat) (e : Bool) : (s.advanceRun p e).agg = s.agg := by obtain ⟨_, h⟩ := State.advanceRun_shape s p e; rw [h]
@[simp] theorem State.advanceRun_reqs (s : State) (p : Nat) (e : Bool) : (s.advanceRun p e).reqs = s.reqs := by obtain ⟨_, h⟩ := State.advanceRun_shape s p e; rw [h]
@[simp] theorem State.advanceRun_waitReqs (s : State) (p : Nat) (e : Bool) : (s.advanceRun p e).waitReqs = s.waitReqs := by obtain ⟨_, h⟩ := State.advanceRun_shape s p e; rw [h]
@[simp] theorem State.advanceRun_arrived (s : State) (p : Nat) (e : Bool) : (s.advanceRun p e).arrived = s.arrived := by obtain ⟨_, h⟩ := State.advanceRun_shape s p e; rw [h]
@[simp] theorem State.advanceRun_ports (s : State) (p : Nat) (e : Bool) : (s.advanceRun p e).ports = s.ports := by obtain ⟨_, h⟩ := State.advanceRun_shape s p e; rw [h]
@[simp] theorem State.advanceRun_remap (s : State) (p : Nat) (e : Bool) : (s.advanceRun p e).remap = s.remap := by obtain ⟨_, h⟩ := State.advanceRun_shape s p e; rw [h]
@[simp] theorem State.advanceRun_heldCw (s : State) (p : Nat) (e : Bool) : (s.advanceRun p e).heldCw = s.heldCw := by obtain ⟨_, h⟩ := State.advanceRun_shape s p e; rw [h]
@[simp] theorem State.advanceRun_pseq (s : State) (p : Nat) (e : Bool) : (s.advanceRun p e).pseq = s.pseq := by obtain ⟨_, h⟩ := State.advanceRun_shape s p e; rw [h]
@[simp] theorem State.advanceRun_accepted (s : State) (p : Nat) (e : Bool) : (s.advanceRun p e).accepted = s.accepted := by obtain ⟨_, h⟩ := State.advanceRun_shape s p e; rw [h]
@[simp] theorem State.advanceRun_rlogBase (s : State) (p : Nat) (e : Bool) : (s.advanceRun p e).rlogBase = s.rlogBase := by obtain ⟨_, h⟩ := State.advanceRun_shape s p e; rw [h]
@[simp] theorem State.advanceRun_rlogSize (s : State) (p : Nat) (e : Bool) : (s.advanceRun p e).rlogSize = s.rlogSize := by obtain ⟨_, h⟩ := State.advanceRun_shape s p e; rw [h]
@[simp] theorem State.advanceRun_rlog (s : State) (p : Nat) (e : Bool) : (s.advanceRun p e).rlog = s.rlog := by obtain ⟨_, h⟩ := State.advanceRun_shape s p e; rw [h]
@[simp] theorem State.advanceRun_withheld (s : State) (p : Nat) (e : Bool) : (s.advanceRun p e).withheld = s.withheld := by obtain ⟨_, h⟩ := State.advanceRun_shape s p e; rw [h]
@[simp] theorem State.advanceRun_iwin (s : State) (p : Nat) (e : Bool) : (s.advanceRun p e).iwin = s.iwin := by obtain ⟨_, h⟩ := State.advanceRun_shape s p e; rw [h]
@[simp] theorem State.advanceRun_chunks (s : State) (p : Nat) (e : Bool) : (s.advanceRun p e).chunks = s.chunks := by obtain ⟨_, h⟩ := State.advanceRun_shape s p e; rw [h]
@[simp] theorem State.advanceRun_results (s : State) (p : Nat) (e : Bool) : (s.advanceRun p e).results = s.results := by obtain ⟨_, h⟩ := State.advanceRun_shape s p e; rw [h]
@[simp] theorem State.advanceRun_hists (s : State) (p : Nat) (e : Bool) : (s.advanceRun p e).hists = s.hists := by obtain ⟨_, h⟩ := State.advanceRun_shape s p e; rw [h]
@[simp] theorem State.advanceRun_replay (s : State) (p : Nat) (e : Bool) : (s.advanceRun p e).replay = s.replay := by obtain ⟨_, h⟩ := State.advanceRun_shape s p e; rw [h]
@[simp] theorem State.advanceRun_pending (s : State) (p : Nat) (e : Bool) : (s.advanceRun p e).pending = s.pending := by obtain ⟨_, h⟩ := State.advanceRun_shape s p e; rw [h]
@[simp] theorem State.advanceRun_cmd (s : State) (p : Nat) (e : Bool) : (s.advanceRun p e).cmd = s.cmd := by obtain ⟨_, h⟩ := State.advanceRun_shape s p e; rw [h]
@[simp] theorem State.advanceRun_agenda (s : State) (p : Nat) (e : Bool) : (s.advanceRun p e).agenda = s.agenda := by obtain ⟨_, h⟩ := State.advanceRun_shape s p e; rw [h]
@[simp] theorem State.advanceRun_cur (s : State) (p : Nat) (e : Bool) : (s.advanceRun p e).cur = s.cur := by obtain ⟨_, h⟩ := State.advanceRun_shape s p e; rw [h]
@[simp] theorem State.advanceRun_nextId (s : State) (p : Nat) (e : Bool) : (s.advanceRun p e).nextId = s.nextId := by obtain ⟨_, h⟩ := State.advanceRun_shape s p e; rw [h]
@[simp] theorem State.advanceRun_free (s : State) (p : Nat) (e : Bool) : (s.advanceRun p e).free = s.free := by obtain ⟨_, h⟩ := State.advanceRun_shape s p e; rw [h]

@[simp] theorem State.endLeg_dev (s : State) (p : Nat) (gid : Gid) (path : Nat) (w : Wait) : (s.endLeg p gid path w).dev = s.dev := by obtain ⟨_, _, h⟩ := State.endLeg_shape s p gid path w; rw [h]
@[simp] theorem State.endLeg_manage (s : State) (p : Nat) (gid : Gid) (path : Nat) (w : Wait) : (s.endLeg p gid path w).manage = s.manage := by obtain ⟨_, _, h⟩ := State.endLeg_shape s p gid path w; rw [h]
@[simp] theorem State.endLeg_dies (s : State) (p : Nat) (gid : Gid) (path : Nat) (w : Wait) : (s.endLeg p gid path w).dies = s.dies := by obtain ⟨_, _, h⟩ := State.endLeg_shape s p gid path w; rw [h]
@[simp] theorem State.endLeg_cores (s : State) (p : Nat) (gid : Gid) (path : Nat) (w : Wait) : (s.endLeg p gid path w).cores = s.cores := by obtain ⟨_, _, h⟩ := State.endLeg_shape s p gid path w; rw [h]
@[simp] theorem State.endLeg_ctxs (s : State) (p : Nat) (gid : Gid) (path : Nat) (w : Wait) : (s.endLeg p gid path w).ctxs = s.ctxs := by obtain ⟨_, _, h⟩ := State.endLeg_shape s p gid path w; rw [h]
@[simp] theorem State.endLeg_launches (s : State) (p : Nat) (gid : Gid) (path : Nat) (w : Wait) : (s.endLeg p gid path w).launches = s.launches := by obtain ⟨_, _, h⟩ := State.endLeg_shape s p gid path w; rw [h]
@[simp] theorem State.endLeg_blocks (s : State) (p : Nat) (gid : Gid) (path : Nat) (w : Wait) : (s.endLeg p gid path w).blocks = s.blocks := by obtain ⟨_, _, h⟩ := State.endLeg_shape s p gid path w; rw [h]
@[simp] theorem State.endLeg_hbm (s : State) (p : Nat) (gid : Gid) (path : Nat) (w : Wait) : (s.endLeg p gid path w).hbm = s.hbm := by obtain ⟨_, _, h⟩ := State.endLeg_shape s p gid path w; rw [h]
@[simp] theorem State.endLeg_host (s : State) (p : Nat) (gid : Gid) (path : Nat) (w : Wait) : (s.endLeg p gid path w).host = s.host := by obtain ⟨_, _, h⟩ := State.endLeg_shape s p gid path w; rw [h]
@[simp] theorem State.endLeg_hostOld (s : State) (p : Nat) (gid : Gid) (path : Nat) (w : Wait) : (s.endLeg p gid path w).hostOld = s.hostOld := by obtain ⟨_, _, h⟩ := State.endLeg_shape s p gid path w; rw [h]
@[simp] theorem State.endLeg_codeOld (s : State) (p : Nat) (gid : Gid) (path : Nat) (w : Wait) : (s.endLeg p gid path w).codeOld = s.codeOld := by obtain ⟨_, _, h⟩ := State.endLeg_shape s p gid path w; rw [h]
@[simp] theorem State.endLeg_weights (s : State) (p : Nat) (gid : Gid) (path : Nat) (w : Wait) : (s.endLeg p gid path w).weights = s.weights := by obtain ⟨_, _, h⟩ := State.endLeg_shape s p gid path w; rw [h]
@[simp] theorem State.endLeg_poisoned (s : State) (p : Nat) (gid : Gid) (path : Nat) (w : Wait) : (s.endLeg p gid path w).poisoned = s.poisoned := by obtain ⟨_, _, h⟩ := State.endLeg_shape s p gid path w; rw [h]
@[simp] theorem State.endLeg_lost (s : State) (p : Nat) (gid : Gid) (path : Nat) (w : Wait) : (s.endLeg p gid path w).lost = s.lost := by obtain ⟨_, _, h⟩ := State.endLeg_shape s p gid path w; rw [h]
@[simp] theorem State.endLeg_dirty (s : State) (p : Nat) (gid : Gid) (path : Nat) (w : Wait) : (s.endLeg p gid path w).dirty = s.dirty := by obtain ⟨_, _, h⟩ := State.endLeg_shape s p gid path w; rw [h]
@[simp] theorem State.endLeg_tlb (s : State) (p : Nat) (gid : Gid) (path : Nat) (w : Wait) : (s.endLeg p gid path w).tlb = s.tlb := by obtain ⟨_, _, h⟩ := State.endLeg_shape s p gid path w; rw [h]
@[simp] theorem State.endLeg_flight (s : State) (p : Nat) (gid : Gid) (path : Nat) (w : Wait) : (s.endLeg p gid path w).flight = s.flight := by obtain ⟨_, _, h⟩ := State.endLeg_shape s p gid path w; rw [h]
@[simp] theorem State.endLeg_unacked (s : State) (p : Nat) (gid : Gid) (path : Nat) (w : Wait) : (s.endLeg p gid path w).unacked = s.unacked := by obtain ⟨_, _, h⟩ := State.endLeg_shape s p gid path w; rw [h]
@[simp] theorem State.endLeg_fills (s : State) (p : Nat) (gid : Gid) (path : Nat) (w : Wait) : (s.endLeg p gid path w).fills = s.fills := by obtain ⟨_, _, h⟩ := State.endLeg_shape s p gid path w; rw [h]
@[simp] theorem State.endLeg_updates (s : State) (p : Nat) (gid : Gid) (path : Nat) (w : Wait) : (s.endLeg p gid path w).updates = s.updates := by obtain ⟨_, _, h⟩ := State.endLeg_shape s p gid path w; rw [h]
@[simp] theorem State.endLeg_xfers (s : State) (p : Nat) (gid : Gid) (path : Nat) (w : Wait) : (s.endLeg p gid path w).xfers = s.xfers := by obtain ⟨_, _, h⟩ := State.endLeg_shape s p gid path w; rw [h]
@[simp] theorem State.endLeg_readouts (s : State) (p : Nat) (gid : Gid) (path : Nat) (w : Wait) : (s.endLeg p gid path w).readouts = s.readouts := by obtain ⟨_, _, h⟩ := State.endLeg_shape s p gid path w; rw [h]
@[simp] theorem State.endLeg_moves (s : State) (p : Nat) (gid : Gid) (path : Nat) (w : Wait) : (s.endLeg p gid path w).moves = s.moves := by obtain ⟨_, _, h⟩ := State.endLeg_shape s p gid path w; rw [h]
@[simp] theorem State.endLeg_tokens (s : State) (p : Nat) (gid : Gid) (path : Nat) (w : Wait) : (s.endLeg p gid path w).tokens = s.tokens := by obtain ⟨_, _, h⟩ := State.endLeg_shape s p gid path w; rw [h]
@[simp] theorem State.endLeg_landings (s : State) (p : Nat) (gid : Gid) (path : Nat) (w : Wait) : (s.endLeg p gid path w).landings = s.landings := by obtain ⟨_, _, h⟩ := State.endLeg_shape s p gid path w; rw [h]
@[simp] theorem State.endLeg_agg (s : State) (p : Nat) (gid : Gid) (path : Nat) (w : Wait) : (s.endLeg p gid path w).agg = s.agg := by obtain ⟨_, _, h⟩ := State.endLeg_shape s p gid path w; rw [h]
@[simp] theorem State.endLeg_reqs (s : State) (p : Nat) (gid : Gid) (path : Nat) (w : Wait) : (s.endLeg p gid path w).reqs = s.reqs := by obtain ⟨_, _, h⟩ := State.endLeg_shape s p gid path w; rw [h]
@[simp] theorem State.endLeg_waitReqs (s : State) (p : Nat) (gid : Gid) (path : Nat) (w : Wait) : (s.endLeg p gid path w).waitReqs = s.waitReqs := by obtain ⟨_, _, h⟩ := State.endLeg_shape s p gid path w; rw [h]
@[simp] theorem State.endLeg_arrived (s : State) (p : Nat) (gid : Gid) (path : Nat) (w : Wait) : (s.endLeg p gid path w).arrived = s.arrived := by obtain ⟨_, _, h⟩ := State.endLeg_shape s p gid path w; rw [h]
@[simp] theorem State.endLeg_ports (s : State) (p : Nat) (gid : Gid) (path : Nat) (w : Wait) : (s.endLeg p gid path w).ports = s.ports := by obtain ⟨_, _, h⟩ := State.endLeg_shape s p gid path w; rw [h]
@[simp] theorem State.endLeg_remap (s : State) (p : Nat) (gid : Gid) (path : Nat) (w : Wait) : (s.endLeg p gid path w).remap = s.remap := by obtain ⟨_, _, h⟩ := State.endLeg_shape s p gid path w; rw [h]
@[simp] theorem State.endLeg_heldCw (s : State) (p : Nat) (gid : Gid) (path : Nat) (w : Wait) : (s.endLeg p gid path w).heldCw = s.heldCw := by obtain ⟨_, _, h⟩ := State.endLeg_shape s p gid path w; rw [h]
@[simp] theorem State.endLeg_pseq (s : State) (p : Nat) (gid : Gid) (path : Nat) (w : Wait) : (s.endLeg p gid path w).pseq = s.pseq := by obtain ⟨_, _, h⟩ := State.endLeg_shape s p gid path w; rw [h]
@[simp] theorem State.endLeg_accepted (s : State) (p : Nat) (gid : Gid) (path : Nat) (w : Wait) : (s.endLeg p gid path w).accepted = s.accepted := by obtain ⟨_, _, h⟩ := State.endLeg_shape s p gid path w; rw [h]
@[simp] theorem State.endLeg_rlogBase (s : State) (p : Nat) (gid : Gid) (path : Nat) (w : Wait) : (s.endLeg p gid path w).rlogBase = s.rlogBase := by obtain ⟨_, _, h⟩ := State.endLeg_shape s p gid path w; rw [h]
@[simp] theorem State.endLeg_rlogSize (s : State) (p : Nat) (gid : Gid) (path : Nat) (w : Wait) : (s.endLeg p gid path w).rlogSize = s.rlogSize := by obtain ⟨_, _, h⟩ := State.endLeg_shape s p gid path w; rw [h]
@[simp] theorem State.endLeg_rlog (s : State) (p : Nat) (gid : Gid) (path : Nat) (w : Wait) : (s.endLeg p gid path w).rlog = s.rlog := by obtain ⟨_, _, h⟩ := State.endLeg_shape s p gid path w; rw [h]
@[simp] theorem State.endLeg_withheld (s : State) (p : Nat) (gid : Gid) (path : Nat) (w : Wait) : (s.endLeg p gid path w).withheld = s.withheld := by obtain ⟨_, _, h⟩ := State.endLeg_shape s p gid path w; rw [h]
@[simp] theorem State.endLeg_iwin (s : State) (p : Nat) (gid : Gid) (path : Nat) (w : Wait) : (s.endLeg p gid path w).iwin = s.iwin := by obtain ⟨_, _, h⟩ := State.endLeg_shape s p gid path w; rw [h]
@[simp] theorem State.endLeg_chunks (s : State) (p : Nat) (gid : Gid) (path : Nat) (w : Wait) : (s.endLeg p gid path w).chunks = s.chunks := by obtain ⟨_, _, h⟩ := State.endLeg_shape s p gid path w; rw [h]
@[simp] theorem State.endLeg_results (s : State) (p : Nat) (gid : Gid) (path : Nat) (w : Wait) : (s.endLeg p gid path w).results = s.results := by obtain ⟨_, _, h⟩ := State.endLeg_shape s p gid path w; rw [h]
@[simp] theorem State.endLeg_hists (s : State) (p : Nat) (gid : Gid) (path : Nat) (w : Wait) : (s.endLeg p gid path w).hists = s.hists := by obtain ⟨_, _, h⟩ := State.endLeg_shape s p gid path w; rw [h]
@[simp] theorem State.endLeg_replay (s : State) (p : Nat) (gid : Gid) (path : Nat) (w : Wait) : (s.endLeg p gid path w).replay = s.replay := by obtain ⟨_, _, h⟩ := State.endLeg_shape s p gid path w; rw [h]
@[simp] theorem State.endLeg_pending (s : State) (p : Nat) (gid : Gid) (path : Nat) (w : Wait) : (s.endLeg p gid path w).pending = s.pending := by obtain ⟨_, _, h⟩ := State.endLeg_shape s p gid path w; rw [h]
@[simp] theorem State.endLeg_cmd (s : State) (p : Nat) (gid : Gid) (path : Nat) (w : Wait) : (s.endLeg p gid path w).cmd = s.cmd := by obtain ⟨_, _, h⟩ := State.endLeg_shape s p gid path w; rw [h]
@[simp] theorem State.endLeg_agenda (s : State) (p : Nat) (gid : Gid) (path : Nat) (w : Wait) : (s.endLeg p gid path w).agenda = s.agenda := by obtain ⟨_, _, h⟩ := State.endLeg_shape s p gid path w; rw [h]
@[simp] theorem State.endLeg_cur (s : State) (p : Nat) (gid : Gid) (path : Nat) (w : Wait) : (s.endLeg p gid path w).cur = s.cur := by obtain ⟨_, _, h⟩ := State.endLeg_shape s p gid path w; rw [h]
@[simp] theorem State.endLeg_nextId (s : State) (p : Nat) (gid : Gid) (path : Nat) (w : Wait) : (s.endLeg p gid path w).nextId = s.nextId := by obtain ⟨_, _, h⟩ := State.endLeg_shape s p gid path w; rw [h]
@[simp] theorem State.endLeg_free (s : State) (p : Nat) (gid : Gid) (path : Nat) (w : Wait) : (s.endLeg p gid path w).free = s.free := by obtain ⟨_, _, h⟩ := State.endLeg_shape s p gid path w; rw [h]

@[simp] theorem State.retire_dev (s : State) (x : Ix) (w : Option Wait) : (s.retire x w).dev = s.dev := by obtain ⟨_, _, h⟩ := State.retire_shape s x w; rw [h]
@[simp] theorem State.retire_manage (s : State) (x : Ix) (w : Option Wait) : (s.retire x w).manage = s.manage := by obtain ⟨_, _, h⟩ := State.retire_shape s x w; rw [h]
@[simp] theorem State.retire_dies (s : State) (x : Ix) (w : Option Wait) : (s.retire x w).dies = s.dies := by obtain ⟨_, _, h⟩ := State.retire_shape s x w; rw [h]
@[simp] theorem State.retire_cores (s : State) (x : Ix) (w : Option Wait) : (s.retire x w).cores = s.cores := by obtain ⟨_, _, h⟩ := State.retire_shape s x w; rw [h]
@[simp] theorem State.retire_ctxs (s : State) (x : Ix) (w : Option Wait) : (s.retire x w).ctxs = s.ctxs := by obtain ⟨_, _, h⟩ := State.retire_shape s x w; rw [h]
@[simp] theorem State.retire_launches (s : State) (x : Ix) (w : Option Wait) : (s.retire x w).launches = s.launches := by obtain ⟨_, _, h⟩ := State.retire_shape s x w; rw [h]
@[simp] theorem State.retire_blocks (s : State) (x : Ix) (w : Option Wait) : (s.retire x w).blocks = s.blocks := by obtain ⟨_, _, h⟩ := State.retire_shape s x w; rw [h]
@[simp] theorem State.retire_hbm (s : State) (x : Ix) (w : Option Wait) : (s.retire x w).hbm = s.hbm := by obtain ⟨_, _, h⟩ := State.retire_shape s x w; rw [h]
@[simp] theorem State.retire_host (s : State) (x : Ix) (w : Option Wait) : (s.retire x w).host = s.host := by obtain ⟨_, _, h⟩ := State.retire_shape s x w; rw [h]
@[simp] theorem State.retire_hostOld (s : State) (x : Ix) (w : Option Wait) : (s.retire x w).hostOld = s.hostOld := by obtain ⟨_, _, h⟩ := State.retire_shape s x w; rw [h]
@[simp] theorem State.retire_codeOld (s : State) (x : Ix) (w : Option Wait) : (s.retire x w).codeOld = s.codeOld := by obtain ⟨_, _, h⟩ := State.retire_shape s x w; rw [h]
@[simp] theorem State.retire_weights (s : State) (x : Ix) (w : Option Wait) : (s.retire x w).weights = s.weights := by obtain ⟨_, _, h⟩ := State.retire_shape s x w; rw [h]
@[simp] theorem State.retire_poisoned (s : State) (x : Ix) (w : Option Wait) : (s.retire x w).poisoned = s.poisoned := by obtain ⟨_, _, h⟩ := State.retire_shape s x w; rw [h]
@[simp] theorem State.retire_lost (s : State) (x : Ix) (w : Option Wait) : (s.retire x w).lost = s.lost := by obtain ⟨_, _, h⟩ := State.retire_shape s x w; rw [h]
@[simp] theorem State.retire_dirty (s : State) (x : Ix) (w : Option Wait) : (s.retire x w).dirty = s.dirty := by obtain ⟨_, _, h⟩ := State.retire_shape s x w; rw [h]
@[simp] theorem State.retire_tlb (s : State) (x : Ix) (w : Option Wait) : (s.retire x w).tlb = s.tlb := by obtain ⟨_, _, h⟩ := State.retire_shape s x w; rw [h]
@[simp] theorem State.retire_flight (s : State) (x : Ix) (w : Option Wait) : (s.retire x w).flight = s.flight := by obtain ⟨_, _, h⟩ := State.retire_shape s x w; rw [h]
@[simp] theorem State.retire_unacked (s : State) (x : Ix) (w : Option Wait) : (s.retire x w).unacked = s.unacked := by obtain ⟨_, _, h⟩ := State.retire_shape s x w; rw [h]
@[simp] theorem State.retire_fills (s : State) (x : Ix) (w : Option Wait) : (s.retire x w).fills = s.fills := by obtain ⟨_, _, h⟩ := State.retire_shape s x w; rw [h]
@[simp] theorem State.retire_updates (s : State) (x : Ix) (w : Option Wait) : (s.retire x w).updates = s.updates := by obtain ⟨_, _, h⟩ := State.retire_shape s x w; rw [h]
@[simp] theorem State.retire_xfers (s : State) (x : Ix) (w : Option Wait) : (s.retire x w).xfers = s.xfers := by obtain ⟨_, _, h⟩ := State.retire_shape s x w; rw [h]
@[simp] theorem State.retire_readouts (s : State) (x : Ix) (w : Option Wait) : (s.retire x w).readouts = s.readouts := by obtain ⟨_, _, h⟩ := State.retire_shape s x w; rw [h]
@[simp] theorem State.retire_moves (s : State) (x : Ix) (w : Option Wait) : (s.retire x w).moves = s.moves := by obtain ⟨_, _, h⟩ := State.retire_shape s x w; rw [h]
@[simp] theorem State.retire_tokens (s : State) (x : Ix) (w : Option Wait) : (s.retire x w).tokens = s.tokens := by obtain ⟨_, _, h⟩ := State.retire_shape s x w; rw [h]
@[simp] theorem State.retire_landings (s : State) (x : Ix) (w : Option Wait) : (s.retire x w).landings = s.landings := by obtain ⟨_, _, h⟩ := State.retire_shape s x w; rw [h]
@[simp] theorem State.retire_agg (s : State) (x : Ix) (w : Option Wait) : (s.retire x w).agg = s.agg := by obtain ⟨_, _, h⟩ := State.retire_shape s x w; rw [h]
@[simp] theorem State.retire_reqs (s : State) (x : Ix) (w : Option Wait) : (s.retire x w).reqs = s.reqs := by obtain ⟨_, _, h⟩ := State.retire_shape s x w; rw [h]
@[simp] theorem State.retire_waitReqs (s : State) (x : Ix) (w : Option Wait) : (s.retire x w).waitReqs = s.waitReqs := by obtain ⟨_, _, h⟩ := State.retire_shape s x w; rw [h]
@[simp] theorem State.retire_arrived (s : State) (x : Ix) (w : Option Wait) : (s.retire x w).arrived = s.arrived := by obtain ⟨_, _, h⟩ := State.retire_shape s x w; rw [h]
@[simp] theorem State.retire_ports (s : State) (x : Ix) (w : Option Wait) : (s.retire x w).ports = s.ports := by obtain ⟨_, _, h⟩ := State.retire_shape s x w; rw [h]
@[simp] theorem State.retire_remap (s : State) (x : Ix) (w : Option Wait) : (s.retire x w).remap = s.remap := by obtain ⟨_, _, h⟩ := State.retire_shape s x w; rw [h]
@[simp] theorem State.retire_heldCw (s : State) (x : Ix) (w : Option Wait) : (s.retire x w).heldCw = s.heldCw := by obtain ⟨_, _, h⟩ := State.retire_shape s x w; rw [h]
@[simp] theorem State.retire_pseq (s : State) (x : Ix) (w : Option Wait) : (s.retire x w).pseq = s.pseq := by obtain ⟨_, _, h⟩ := State.retire_shape s x w; rw [h]
@[simp] theorem State.retire_accepted (s : State) (x : Ix) (w : Option Wait) : (s.retire x w).accepted = s.accepted := by obtain ⟨_, _, h⟩ := State.retire_shape s x w; rw [h]
@[simp] theorem State.retire_rlogBase (s : State) (x : Ix) (w : Option Wait) : (s.retire x w).rlogBase = s.rlogBase := by obtain ⟨_, _, h⟩ := State.retire_shape s x w; rw [h]
@[simp] theorem State.retire_rlogSize (s : State) (x : Ix) (w : Option Wait) : (s.retire x w).rlogSize = s.rlogSize := by obtain ⟨_, _, h⟩ := State.retire_shape s x w; rw [h]
@[simp] theorem State.retire_rlog (s : State) (x : Ix) (w : Option Wait) : (s.retire x w).rlog = s.rlog := by obtain ⟨_, _, h⟩ := State.retire_shape s x w; rw [h]
@[simp] theorem State.retire_withheld (s : State) (x : Ix) (w : Option Wait) : (s.retire x w).withheld = s.withheld := by obtain ⟨_, _, h⟩ := State.retire_shape s x w; rw [h]
@[simp] theorem State.retire_iwin (s : State) (x : Ix) (w : Option Wait) : (s.retire x w).iwin = s.iwin := by obtain ⟨_, _, h⟩ := State.retire_shape s x w; rw [h]
@[simp] theorem State.retire_chunks (s : State) (x : Ix) (w : Option Wait) : (s.retire x w).chunks = s.chunks := by obtain ⟨_, _, h⟩ := State.retire_shape s x w; rw [h]
@[simp] theorem State.retire_results (s : State) (x : Ix) (w : Option Wait) : (s.retire x w).results = s.results := by obtain ⟨_, _, h⟩ := State.retire_shape s x w; rw [h]
@[simp] theorem State.retire_hists (s : State) (x : Ix) (w : Option Wait) : (s.retire x w).hists = s.hists := by obtain ⟨_, _, h⟩ := State.retire_shape s x w; rw [h]
@[simp] theorem State.retire_replay (s : State) (x : Ix) (w : Option Wait) : (s.retire x w).replay = s.replay := by obtain ⟨_, _, h⟩ := State.retire_shape s x w; rw [h]
@[simp] theorem State.retire_pending (s : State) (x : Ix) (w : Option Wait) : (s.retire x w).pending = s.pending := by obtain ⟨_, _, h⟩ := State.retire_shape s x w; rw [h]
@[simp] theorem State.retire_cmd (s : State) (x : Ix) (w : Option Wait) : (s.retire x w).cmd = s.cmd := by obtain ⟨_, _, h⟩ := State.retire_shape s x w; rw [h]
@[simp] theorem State.retire_agenda (s : State) (x : Ix) (w : Option Wait) : (s.retire x w).agenda = s.agenda := by obtain ⟨_, _, h⟩ := State.retire_shape s x w; rw [h]
@[simp] theorem State.retire_cur (s : State) (x : Ix) (w : Option Wait) : (s.retire x w).cur = s.cur := by obtain ⟨_, _, h⟩ := State.retire_shape s x w; rw [h]
@[simp] theorem State.retire_nextId (s : State) (x : Ix) (w : Option Wait) : (s.retire x w).nextId = s.nextId := by obtain ⟨_, _, h⟩ := State.retire_shape s x w; rw [h]
@[simp] theorem State.retire_free (s : State) (x : Ix) (w : Option Wait) : (s.retire x w).free = s.free := by obtain ⟨_, _, h⟩ := State.retire_shape s x w; rw [h]

@[simp] theorem State.transferred_dev (s : State) (x : Ix) : (s.transferred x).dev = s.dev := by obtain ⟨_, _, h⟩ := State.transferred_shape s x; rw [h]
@[simp] theorem State.transferred_manage (s : State) (x : Ix) : (s.transferred x).manage = s.manage := by obtain ⟨_, _, h⟩ := State.transferred_shape s x; rw [h]
@[simp] theorem State.transferred_dies (s : State) (x : Ix) : (s.transferred x).dies = s.dies := by obtain ⟨_, _, h⟩ := State.transferred_shape s x; rw [h]
@[simp] theorem State.transferred_cores (s : State) (x : Ix) : (s.transferred x).cores = s.cores := by obtain ⟨_, _, h⟩ := State.transferred_shape s x; rw [h]
@[simp] theorem State.transferred_ctxs (s : State) (x : Ix) : (s.transferred x).ctxs = s.ctxs := by obtain ⟨_, _, h⟩ := State.transferred_shape s x; rw [h]
@[simp] theorem State.transferred_launches (s : State) (x : Ix) : (s.transferred x).launches = s.launches := by obtain ⟨_, _, h⟩ := State.transferred_shape s x; rw [h]
@[simp] theorem State.transferred_blocks (s : State) (x : Ix) : (s.transferred x).blocks = s.blocks := by obtain ⟨_, _, h⟩ := State.transferred_shape s x; rw [h]
@[simp] theorem State.transferred_hbm (s : State) (x : Ix) : (s.transferred x).hbm = s.hbm := by obtain ⟨_, _, h⟩ := State.transferred_shape s x; rw [h]
@[simp] theorem State.transferred_host (s : State) (x : Ix) : (s.transferred x).host = s.host := by obtain ⟨_, _, h⟩ := State.transferred_shape s x; rw [h]
@[simp] theorem State.transferred_hostOld (s : State) (x : Ix) : (s.transferred x).hostOld = s.hostOld := by obtain ⟨_, _, h⟩ := State.transferred_shape s x; rw [h]
@[simp] theorem State.transferred_codeOld (s : State) (x : Ix) : (s.transferred x).codeOld = s.codeOld := by obtain ⟨_, _, h⟩ := State.transferred_shape s x; rw [h]
@[simp] theorem State.transferred_weights (s : State) (x : Ix) : (s.transferred x).weights = s.weights := by obtain ⟨_, _, h⟩ := State.transferred_shape s x; rw [h]
@[simp] theorem State.transferred_poisoned (s : State) (x : Ix) : (s.transferred x).poisoned = s.poisoned := by obtain ⟨_, _, h⟩ := State.transferred_shape s x; rw [h]
@[simp] theorem State.transferred_lost (s : State) (x : Ix) : (s.transferred x).lost = s.lost := by obtain ⟨_, _, h⟩ := State.transferred_shape s x; rw [h]
@[simp] theorem State.transferred_dirty (s : State) (x : Ix) : (s.transferred x).dirty = s.dirty := by obtain ⟨_, _, h⟩ := State.transferred_shape s x; rw [h]
@[simp] theorem State.transferred_tlb (s : State) (x : Ix) : (s.transferred x).tlb = s.tlb := by obtain ⟨_, _, h⟩ := State.transferred_shape s x; rw [h]
@[simp] theorem State.transferred_flight (s : State) (x : Ix) : (s.transferred x).flight = s.flight := by obtain ⟨_, _, h⟩ := State.transferred_shape s x; rw [h]
@[simp] theorem State.transferred_unacked (s : State) (x : Ix) : (s.transferred x).unacked = s.unacked := by obtain ⟨_, _, h⟩ := State.transferred_shape s x; rw [h]
@[simp] theorem State.transferred_fills (s : State) (x : Ix) : (s.transferred x).fills = s.fills := by obtain ⟨_, _, h⟩ := State.transferred_shape s x; rw [h]
@[simp] theorem State.transferred_updates (s : State) (x : Ix) : (s.transferred x).updates = s.updates := by obtain ⟨_, _, h⟩ := State.transferred_shape s x; rw [h]
@[simp] theorem State.transferred_xfers (s : State) (x : Ix) : (s.transferred x).xfers = s.xfers := by obtain ⟨_, _, h⟩ := State.transferred_shape s x; rw [h]
@[simp] theorem State.transferred_readouts (s : State) (x : Ix) : (s.transferred x).readouts = s.readouts := by obtain ⟨_, _, h⟩ := State.transferred_shape s x; rw [h]
@[simp] theorem State.transferred_moves (s : State) (x : Ix) : (s.transferred x).moves = s.moves := by obtain ⟨_, _, h⟩ := State.transferred_shape s x; rw [h]
@[simp] theorem State.transferred_tokens (s : State) (x : Ix) : (s.transferred x).tokens = s.tokens := by obtain ⟨_, _, h⟩ := State.transferred_shape s x; rw [h]
@[simp] theorem State.transferred_landings (s : State) (x : Ix) : (s.transferred x).landings = s.landings := by obtain ⟨_, _, h⟩ := State.transferred_shape s x; rw [h]
@[simp] theorem State.transferred_agg (s : State) (x : Ix) : (s.transferred x).agg = s.agg := by obtain ⟨_, _, h⟩ := State.transferred_shape s x; rw [h]
@[simp] theorem State.transferred_reqs (s : State) (x : Ix) : (s.transferred x).reqs = s.reqs := by obtain ⟨_, _, h⟩ := State.transferred_shape s x; rw [h]
@[simp] theorem State.transferred_waitReqs (s : State) (x : Ix) : (s.transferred x).waitReqs = s.waitReqs := by obtain ⟨_, _, h⟩ := State.transferred_shape s x; rw [h]
@[simp] theorem State.transferred_arrived (s : State) (x : Ix) : (s.transferred x).arrived = s.arrived := by obtain ⟨_, _, h⟩ := State.transferred_shape s x; rw [h]
@[simp] theorem State.transferred_ports (s : State) (x : Ix) : (s.transferred x).ports = s.ports := by obtain ⟨_, _, h⟩ := State.transferred_shape s x; rw [h]
@[simp] theorem State.transferred_remap (s : State) (x : Ix) : (s.transferred x).remap = s.remap := by obtain ⟨_, _, h⟩ := State.transferred_shape s x; rw [h]
@[simp] theorem State.transferred_heldCw (s : State) (x : Ix) : (s.transferred x).heldCw = s.heldCw := by obtain ⟨_, _, h⟩ := State.transferred_shape s x; rw [h]
@[simp] theorem State.transferred_pseq (s : State) (x : Ix) : (s.transferred x).pseq = s.pseq := by obtain ⟨_, _, h⟩ := State.transferred_shape s x; rw [h]
@[simp] theorem State.transferred_accepted (s : State) (x : Ix) : (s.transferred x).accepted = s.accepted := by obtain ⟨_, _, h⟩ := State.transferred_shape s x; rw [h]
@[simp] theorem State.transferred_rlogBase (s : State) (x : Ix) : (s.transferred x).rlogBase = s.rlogBase := by obtain ⟨_, _, h⟩ := State.transferred_shape s x; rw [h]
@[simp] theorem State.transferred_rlogSize (s : State) (x : Ix) : (s.transferred x).rlogSize = s.rlogSize := by obtain ⟨_, _, h⟩ := State.transferred_shape s x; rw [h]
@[simp] theorem State.transferred_rlog (s : State) (x : Ix) : (s.transferred x).rlog = s.rlog := by obtain ⟨_, _, h⟩ := State.transferred_shape s x; rw [h]
@[simp] theorem State.transferred_withheld (s : State) (x : Ix) : (s.transferred x).withheld = s.withheld := by obtain ⟨_, _, h⟩ := State.transferred_shape s x; rw [h]
@[simp] theorem State.transferred_iwin (s : State) (x : Ix) : (s.transferred x).iwin = s.iwin := by obtain ⟨_, _, h⟩ := State.transferred_shape s x; rw [h]
@[simp] theorem State.transferred_chunks (s : State) (x : Ix) : (s.transferred x).chunks = s.chunks := by obtain ⟨_, _, h⟩ := State.transferred_shape s x; rw [h]
@[simp] theorem State.transferred_results (s : State) (x : Ix) : (s.transferred x).results = s.results := by obtain ⟨_, _, h⟩ := State.transferred_shape s x; rw [h]
@[simp] theorem State.transferred_hists (s : State) (x : Ix) : (s.transferred x).hists = s.hists := by obtain ⟨_, _, h⟩ := State.transferred_shape s x; rw [h]
@[simp] theorem State.transferred_replay (s : State) (x : Ix) : (s.transferred x).replay = s.replay := by obtain ⟨_, _, h⟩ := State.transferred_shape s x; rw [h]
@[simp] theorem State.transferred_pending (s : State) (x : Ix) : (s.transferred x).pending = s.pending := by obtain ⟨_, _, h⟩ := State.transferred_shape s x; rw [h]
@[simp] theorem State.transferred_cmd (s : State) (x : Ix) : (s.transferred x).cmd = s.cmd := by obtain ⟨_, _, h⟩ := State.transferred_shape s x; rw [h]
@[simp] theorem State.transferred_agenda (s : State) (x : Ix) : (s.transferred x).agenda = s.agenda := by obtain ⟨_, _, h⟩ := State.transferred_shape s x; rw [h]
@[simp] theorem State.transferred_cur (s : State) (x : Ix) : (s.transferred x).cur = s.cur := by obtain ⟨_, _, h⟩ := State.transferred_shape s x; rw [h]
@[simp] theorem State.transferred_nextId (s : State) (x : Ix) : (s.transferred x).nextId = s.nextId := by obtain ⟨_, _, h⟩ := State.transferred_shape s x; rw [h]
@[simp] theorem State.transferred_free (s : State) (x : Ix) : (s.transferred x).free = s.free := by obtain ⟨_, _, h⟩ := State.transferred_shape s x; rw [h]

@[simp] theorem State.spendCycles_dev (s : State) (x : Ix) (c : Cost) : (s.spendCycles x c).dev = s.dev := by obtain ⟨_, _, h⟩ := State.spendCycles_shape s x c; rw [h]
@[simp] theorem State.spendCycles_manage (s : State) (x : Ix) (c : Cost) : (s.spendCycles x c).manage = s.manage := by obtain ⟨_, _, h⟩ := State.spendCycles_shape s x c; rw [h]
@[simp] theorem State.spendCycles_dies (s : State) (x : Ix) (c : Cost) : (s.spendCycles x c).dies = s.dies := by obtain ⟨_, _, h⟩ := State.spendCycles_shape s x c; rw [h]
@[simp] theorem State.spendCycles_ctxs (s : State) (x : Ix) (c : Cost) : (s.spendCycles x c).ctxs = s.ctxs := by obtain ⟨_, _, h⟩ := State.spendCycles_shape s x c; rw [h]
@[simp] theorem State.spendCycles_launches (s : State) (x : Ix) (c : Cost) : (s.spendCycles x c).launches = s.launches := by obtain ⟨_, _, h⟩ := State.spendCycles_shape s x c; rw [h]
@[simp] theorem State.spendCycles_blocks (s : State) (x : Ix) (c : Cost) : (s.spendCycles x c).blocks = s.blocks := by obtain ⟨_, _, h⟩ := State.spendCycles_shape s x c; rw [h]
@[simp] theorem State.spendCycles_groups (s : State) (x : Ix) (c : Cost) : (s.spendCycles x c).groups = s.groups := by obtain ⟨_, _, h⟩ := State.spendCycles_shape s x c; rw [h]
@[simp] theorem State.spendCycles_hbm (s : State) (x : Ix) (c : Cost) : (s.spendCycles x c).hbm = s.hbm := by obtain ⟨_, _, h⟩ := State.spendCycles_shape s x c; rw [h]
@[simp] theorem State.spendCycles_host (s : State) (x : Ix) (c : Cost) : (s.spendCycles x c).host = s.host := by obtain ⟨_, _, h⟩ := State.spendCycles_shape s x c; rw [h]
@[simp] theorem State.spendCycles_hostOld (s : State) (x : Ix) (c : Cost) : (s.spendCycles x c).hostOld = s.hostOld := by obtain ⟨_, _, h⟩ := State.spendCycles_shape s x c; rw [h]
@[simp] theorem State.spendCycles_codeOld (s : State) (x : Ix) (c : Cost) : (s.spendCycles x c).codeOld = s.codeOld := by obtain ⟨_, _, h⟩ := State.spendCycles_shape s x c; rw [h]
@[simp] theorem State.spendCycles_weights (s : State) (x : Ix) (c : Cost) : (s.spendCycles x c).weights = s.weights := by obtain ⟨_, _, h⟩ := State.spendCycles_shape s x c; rw [h]
@[simp] theorem State.spendCycles_poisoned (s : State) (x : Ix) (c : Cost) : (s.spendCycles x c).poisoned = s.poisoned := by obtain ⟨_, _, h⟩ := State.spendCycles_shape s x c; rw [h]
@[simp] theorem State.spendCycles_lost (s : State) (x : Ix) (c : Cost) : (s.spendCycles x c).lost = s.lost := by obtain ⟨_, _, h⟩ := State.spendCycles_shape s x c; rw [h]
@[simp] theorem State.spendCycles_dirty (s : State) (x : Ix) (c : Cost) : (s.spendCycles x c).dirty = s.dirty := by obtain ⟨_, _, h⟩ := State.spendCycles_shape s x c; rw [h]
@[simp] theorem State.spendCycles_tlb (s : State) (x : Ix) (c : Cost) : (s.spendCycles x c).tlb = s.tlb := by obtain ⟨_, _, h⟩ := State.spendCycles_shape s x c; rw [h]
@[simp] theorem State.spendCycles_flight (s : State) (x : Ix) (c : Cost) : (s.spendCycles x c).flight = s.flight := by obtain ⟨_, _, h⟩ := State.spendCycles_shape s x c; rw [h]
@[simp] theorem State.spendCycles_unacked (s : State) (x : Ix) (c : Cost) : (s.spendCycles x c).unacked = s.unacked := by obtain ⟨_, _, h⟩ := State.spendCycles_shape s x c; rw [h]
@[simp] theorem State.spendCycles_fills (s : State) (x : Ix) (c : Cost) : (s.spendCycles x c).fills = s.fills := by obtain ⟨_, _, h⟩ := State.spendCycles_shape s x c; rw [h]
@[simp] theorem State.spendCycles_updates (s : State) (x : Ix) (c : Cost) : (s.spendCycles x c).updates = s.updates := by obtain ⟨_, _, h⟩ := State.spendCycles_shape s x c; rw [h]
@[simp] theorem State.spendCycles_xfers (s : State) (x : Ix) (c : Cost) : (s.spendCycles x c).xfers = s.xfers := by obtain ⟨_, _, h⟩ := State.spendCycles_shape s x c; rw [h]
@[simp] theorem State.spendCycles_readouts (s : State) (x : Ix) (c : Cost) : (s.spendCycles x c).readouts = s.readouts := by obtain ⟨_, _, h⟩ := State.spendCycles_shape s x c; rw [h]
@[simp] theorem State.spendCycles_moves (s : State) (x : Ix) (c : Cost) : (s.spendCycles x c).moves = s.moves := by obtain ⟨_, _, h⟩ := State.spendCycles_shape s x c; rw [h]
@[simp] theorem State.spendCycles_tokens (s : State) (x : Ix) (c : Cost) : (s.spendCycles x c).tokens = s.tokens := by obtain ⟨_, _, h⟩ := State.spendCycles_shape s x c; rw [h]
@[simp] theorem State.spendCycles_landings (s : State) (x : Ix) (c : Cost) : (s.spendCycles x c).landings = s.landings := by obtain ⟨_, _, h⟩ := State.spendCycles_shape s x c; rw [h]
@[simp] theorem State.spendCycles_agg (s : State) (x : Ix) (c : Cost) : (s.spendCycles x c).agg = s.agg := by obtain ⟨_, _, h⟩ := State.spendCycles_shape s x c; rw [h]
@[simp] theorem State.spendCycles_reqs (s : State) (x : Ix) (c : Cost) : (s.spendCycles x c).reqs = s.reqs := by obtain ⟨_, _, h⟩ := State.spendCycles_shape s x c; rw [h]
@[simp] theorem State.spendCycles_waitReqs (s : State) (x : Ix) (c : Cost) : (s.spendCycles x c).waitReqs = s.waitReqs := by obtain ⟨_, _, h⟩ := State.spendCycles_shape s x c; rw [h]
@[simp] theorem State.spendCycles_arrived (s : State) (x : Ix) (c : Cost) : (s.spendCycles x c).arrived = s.arrived := by obtain ⟨_, _, h⟩ := State.spendCycles_shape s x c; rw [h]
@[simp] theorem State.spendCycles_ports (s : State) (x : Ix) (c : Cost) : (s.spendCycles x c).ports = s.ports := by obtain ⟨_, _, h⟩ := State.spendCycles_shape s x c; rw [h]
@[simp] theorem State.spendCycles_remap (s : State) (x : Ix) (c : Cost) : (s.spendCycles x c).remap = s.remap := by obtain ⟨_, _, h⟩ := State.spendCycles_shape s x c; rw [h]
@[simp] theorem State.spendCycles_heldCw (s : State) (x : Ix) (c : Cost) : (s.spendCycles x c).heldCw = s.heldCw := by obtain ⟨_, _, h⟩ := State.spendCycles_shape s x c; rw [h]
@[simp] theorem State.spendCycles_pseq (s : State) (x : Ix) (c : Cost) : (s.spendCycles x c).pseq = s.pseq := by obtain ⟨_, _, h⟩ := State.spendCycles_shape s x c; rw [h]
@[simp] theorem State.spendCycles_accepted (s : State) (x : Ix) (c : Cost) : (s.spendCycles x c).accepted = s.accepted := by obtain ⟨_, _, h⟩ := State.spendCycles_shape s x c; rw [h]
@[simp] theorem State.spendCycles_rlogBase (s : State) (x : Ix) (c : Cost) : (s.spendCycles x c).rlogBase = s.rlogBase := by obtain ⟨_, _, h⟩ := State.spendCycles_shape s x c; rw [h]
@[simp] theorem State.spendCycles_rlogSize (s : State) (x : Ix) (c : Cost) : (s.spendCycles x c).rlogSize = s.rlogSize := by obtain ⟨_, _, h⟩ := State.spendCycles_shape s x c; rw [h]
@[simp] theorem State.spendCycles_rlog (s : State) (x : Ix) (c : Cost) : (s.spendCycles x c).rlog = s.rlog := by obtain ⟨_, _, h⟩ := State.spendCycles_shape s x c; rw [h]
@[simp] theorem State.spendCycles_withheld (s : State) (x : Ix) (c : Cost) : (s.spendCycles x c).withheld = s.withheld := by obtain ⟨_, _, h⟩ := State.spendCycles_shape s x c; rw [h]
@[simp] theorem State.spendCycles_iwin (s : State) (x : Ix) (c : Cost) : (s.spendCycles x c).iwin = s.iwin := by obtain ⟨_, _, h⟩ := State.spendCycles_shape s x c; rw [h]
@[simp] theorem State.spendCycles_chunks (s : State) (x : Ix) (c : Cost) : (s.spendCycles x c).chunks = s.chunks := by obtain ⟨_, _, h⟩ := State.spendCycles_shape s x c; rw [h]
@[simp] theorem State.spendCycles_results (s : State) (x : Ix) (c : Cost) : (s.spendCycles x c).results = s.results := by obtain ⟨_, _, h⟩ := State.spendCycles_shape s x c; rw [h]
@[simp] theorem State.spendCycles_hists (s : State) (x : Ix) (c : Cost) : (s.spendCycles x c).hists = s.hists := by obtain ⟨_, _, h⟩ := State.spendCycles_shape s x c; rw [h]
@[simp] theorem State.spendCycles_replay (s : State) (x : Ix) (c : Cost) : (s.spendCycles x c).replay = s.replay := by obtain ⟨_, _, h⟩ := State.spendCycles_shape s x c; rw [h]
@[simp] theorem State.spendCycles_pending (s : State) (x : Ix) (c : Cost) : (s.spendCycles x c).pending = s.pending := by obtain ⟨_, _, h⟩ := State.spendCycles_shape s x c; rw [h]
@[simp] theorem State.spendCycles_cmd (s : State) (x : Ix) (c : Cost) : (s.spendCycles x c).cmd = s.cmd := by obtain ⟨_, _, h⟩ := State.spendCycles_shape s x c; rw [h]
@[simp] theorem State.spendCycles_agenda (s : State) (x : Ix) (c : Cost) : (s.spendCycles x c).agenda = s.agenda := by obtain ⟨_, _, h⟩ := State.spendCycles_shape s x c; rw [h]
@[simp] theorem State.spendCycles_cur (s : State) (x : Ix) (c : Cost) : (s.spendCycles x c).cur = s.cur := by obtain ⟨_, _, h⟩ := State.spendCycles_shape s x c; rw [h]
@[simp] theorem State.spendCycles_nextId (s : State) (x : Ix) (c : Cost) : (s.spendCycles x c).nextId = s.nextId := by obtain ⟨_, _, h⟩ := State.spendCycles_shape s x c; rw [h]

@[simp] theorem State.wake_dev (s : State) : (s.wake).dev = s.dev := by obtain ⟨_, h⟩ := State.wake_shape s; rw [h]
@[simp] theorem State.wake_manage (s : State) : (s.wake).manage = s.manage := by obtain ⟨_, h⟩ := State.wake_shape s; rw [h]
@[simp] theorem State.wake_dies (s : State) : (s.wake).dies = s.dies := by obtain ⟨_, h⟩ := State.wake_shape s; rw [h]
@[simp] theorem State.wake_cores (s : State) : (s.wake).cores = s.cores := by obtain ⟨_, h⟩ := State.wake_shape s; rw [h]
@[simp] theorem State.wake_parts (s : State) : (s.wake).parts = s.parts := by obtain ⟨_, h⟩ := State.wake_shape s; rw [h]
@[simp] theorem State.wake_ctxs (s : State) : (s.wake).ctxs = s.ctxs := by obtain ⟨_, h⟩ := State.wake_shape s; rw [h]
@[simp] theorem State.wake_launches (s : State) : (s.wake).launches = s.launches := by obtain ⟨_, h⟩ := State.wake_shape s; rw [h]
@[simp] theorem State.wake_blocks (s : State) : (s.wake).blocks = s.blocks := by obtain ⟨_, h⟩ := State.wake_shape s; rw [h]
@[simp] theorem State.wake_hbm (s : State) : (s.wake).hbm = s.hbm := by obtain ⟨_, h⟩ := State.wake_shape s; rw [h]
@[simp] theorem State.wake_host (s : State) : (s.wake).host = s.host := by obtain ⟨_, h⟩ := State.wake_shape s; rw [h]
@[simp] theorem State.wake_hostOld (s : State) : (s.wake).hostOld = s.hostOld := by obtain ⟨_, h⟩ := State.wake_shape s; rw [h]
@[simp] theorem State.wake_codeOld (s : State) : (s.wake).codeOld = s.codeOld := by obtain ⟨_, h⟩ := State.wake_shape s; rw [h]
@[simp] theorem State.wake_weights (s : State) : (s.wake).weights = s.weights := by obtain ⟨_, h⟩ := State.wake_shape s; rw [h]
@[simp] theorem State.wake_poisoned (s : State) : (s.wake).poisoned = s.poisoned := by obtain ⟨_, h⟩ := State.wake_shape s; rw [h]
@[simp] theorem State.wake_lost (s : State) : (s.wake).lost = s.lost := by obtain ⟨_, h⟩ := State.wake_shape s; rw [h]
@[simp] theorem State.wake_dirty (s : State) : (s.wake).dirty = s.dirty := by obtain ⟨_, h⟩ := State.wake_shape s; rw [h]
@[simp] theorem State.wake_tlb (s : State) : (s.wake).tlb = s.tlb := by obtain ⟨_, h⟩ := State.wake_shape s; rw [h]
@[simp] theorem State.wake_flight (s : State) : (s.wake).flight = s.flight := by obtain ⟨_, h⟩ := State.wake_shape s; rw [h]
@[simp] theorem State.wake_unacked (s : State) : (s.wake).unacked = s.unacked := by obtain ⟨_, h⟩ := State.wake_shape s; rw [h]
@[simp] theorem State.wake_fills (s : State) : (s.wake).fills = s.fills := by obtain ⟨_, h⟩ := State.wake_shape s; rw [h]
@[simp] theorem State.wake_updates (s : State) : (s.wake).updates = s.updates := by obtain ⟨_, h⟩ := State.wake_shape s; rw [h]
@[simp] theorem State.wake_xfers (s : State) : (s.wake).xfers = s.xfers := by obtain ⟨_, h⟩ := State.wake_shape s; rw [h]
@[simp] theorem State.wake_readouts (s : State) : (s.wake).readouts = s.readouts := by obtain ⟨_, h⟩ := State.wake_shape s; rw [h]
@[simp] theorem State.wake_moves (s : State) : (s.wake).moves = s.moves := by obtain ⟨_, h⟩ := State.wake_shape s; rw [h]
@[simp] theorem State.wake_tokens (s : State) : (s.wake).tokens = s.tokens := by obtain ⟨_, h⟩ := State.wake_shape s; rw [h]
@[simp] theorem State.wake_landings (s : State) : (s.wake).landings = s.landings := by obtain ⟨_, h⟩ := State.wake_shape s; rw [h]
@[simp] theorem State.wake_agg (s : State) : (s.wake).agg = s.agg := by obtain ⟨_, h⟩ := State.wake_shape s; rw [h]
@[simp] theorem State.wake_reqs (s : State) : (s.wake).reqs = s.reqs := by obtain ⟨_, h⟩ := State.wake_shape s; rw [h]
@[simp] theorem State.wake_waitReqs (s : State) : (s.wake).waitReqs = s.waitReqs := by obtain ⟨_, h⟩ := State.wake_shape s; rw [h]
@[simp] theorem State.wake_arrived (s : State) : (s.wake).arrived = s.arrived := by obtain ⟨_, h⟩ := State.wake_shape s; rw [h]
@[simp] theorem State.wake_ports (s : State) : (s.wake).ports = s.ports := by obtain ⟨_, h⟩ := State.wake_shape s; rw [h]
@[simp] theorem State.wake_remap (s : State) : (s.wake).remap = s.remap := by obtain ⟨_, h⟩ := State.wake_shape s; rw [h]
@[simp] theorem State.wake_heldCw (s : State) : (s.wake).heldCw = s.heldCw := by obtain ⟨_, h⟩ := State.wake_shape s; rw [h]
@[simp] theorem State.wake_pseq (s : State) : (s.wake).pseq = s.pseq := by obtain ⟨_, h⟩ := State.wake_shape s; rw [h]
@[simp] theorem State.wake_accepted (s : State) : (s.wake).accepted = s.accepted := by obtain ⟨_, h⟩ := State.wake_shape s; rw [h]
@[simp] theorem State.wake_rlogBase (s : State) : (s.wake).rlogBase = s.rlogBase := by obtain ⟨_, h⟩ := State.wake_shape s; rw [h]
@[simp] theorem State.wake_rlogSize (s : State) : (s.wake).rlogSize = s.rlogSize := by obtain ⟨_, h⟩ := State.wake_shape s; rw [h]
@[simp] theorem State.wake_rlog (s : State) : (s.wake).rlog = s.rlog := by obtain ⟨_, h⟩ := State.wake_shape s; rw [h]
@[simp] theorem State.wake_withheld (s : State) : (s.wake).withheld = s.withheld := by obtain ⟨_, h⟩ := State.wake_shape s; rw [h]
@[simp] theorem State.wake_iwin (s : State) : (s.wake).iwin = s.iwin := by obtain ⟨_, h⟩ := State.wake_shape s; rw [h]
@[simp] theorem State.wake_chunks (s : State) : (s.wake).chunks = s.chunks := by obtain ⟨_, h⟩ := State.wake_shape s; rw [h]
@[simp] theorem State.wake_results (s : State) : (s.wake).results = s.results := by obtain ⟨_, h⟩ := State.wake_shape s; rw [h]
@[simp] theorem State.wake_hists (s : State) : (s.wake).hists = s.hists := by obtain ⟨_, h⟩ := State.wake_shape s; rw [h]
@[simp] theorem State.wake_replay (s : State) : (s.wake).replay = s.replay := by obtain ⟨_, h⟩ := State.wake_shape s; rw [h]
@[simp] theorem State.wake_pending (s : State) : (s.wake).pending = s.pending := by obtain ⟨_, h⟩ := State.wake_shape s; rw [h]
@[simp] theorem State.wake_cmd (s : State) : (s.wake).cmd = s.cmd := by obtain ⟨_, h⟩ := State.wake_shape s; rw [h]
@[simp] theorem State.wake_agenda (s : State) : (s.wake).agenda = s.agenda := by obtain ⟨_, h⟩ := State.wake_shape s; rw [h]
@[simp] theorem State.wake_cur (s : State) : (s.wake).cur = s.cur := by obtain ⟨_, h⟩ := State.wake_shape s; rw [h]
@[simp] theorem State.wake_nextId (s : State) : (s.wake).nextId = s.nextId := by obtain ⟨_, h⟩ := State.wake_shape s; rw [h]
@[simp] theorem State.wake_free (s : State) : (s.wake).free = s.free := by obtain ⟨_, h⟩ := State.wake_shape s; rw [h]

end Sys2Proof.Machine
end

