-- ==== Sys2Proof/Laws/Maps.lean ====
section
/-! SUPPORT. Laws of finite maps, masks and lists by index: reading after writing, and that the operations keep the canonical form. -/
namespace Sys2Proof.Machine

/-! ### Reading after writing -/

variable {α : Type}

theorem fget_finsert (d : α) (m : FMap α) (k j : Nat) (v : α) : fget d (finsert k v m) j = if k = j then v else fget d m j := by
  induction m with
  | nil => simp [finsert, fget]
  | cons e m ih =>
    obtain ⟨i, w⟩ := e
    simp only [finsert]
    split
    · simp [fget]
    · split
      · subst_vars; by_cases h : i = j <;> simp [fget, h]
      · simp only [fget, ih]
        split <;> split <;> simp_all

theorem fsortedFrom_mono (m : FMap α) {a b : Nat} (h : a ≤ b) (hb : fsortedFrom b m = true) : fsortedFrom a m = true := by
  cases m with
  | nil => rfl
  | cons e m => simp only [fsortedFrom, Bool.and_eq_true, decide_eq_true_eq] at *; exact ⟨by omega, hb.2⟩

/-- A key below every listed one is unlisted. -/
theorem fget_below (d : α) (m : FMap α) {lo k : Nat} (h : fsortedFrom lo m = true) (hk : k < lo) : fget d m k = d := by
  induction m generalizing lo with
  | nil => rfl
  | cons e m ih =>
    simp only [fsortedFrom, Bool.and_eq_true, decide_eq_true_eq] at h
    simp only [fget]
    rw [if_neg (by omega), ih h.2 (by omega)]

theorem fget_fremove (d : α) (m : FMap α) (k j : Nat) : fget d (fremove k m) j = if k = j then d else fget d m j := by
  induction m with
  | nil => simp [fremove, fget]
  | cons e m ih =>
    simp only [fremove]
    split
    · next hk =>
      rw [ih]
      split
      · rfl
      · next hj => simp only [fget, hk, if_neg hj]
    · next hk =>
      simp only [fget, ih]
      split <;> split <;> simp_all

/-! ### The canonical form -/

theorem fsortedFrom_finsert (m : FMap α) {lo : Nat} (h : fsortedFrom lo m = true) (k : Nat) (hk : lo ≤ k) (v : α) :
    fsortedFrom lo (finsert k v m) = true := by
  induction m generalizing lo with
  | nil => simp [finsert, fsortedFrom, hk]
  | cons e m ih =>
    have h' := h
    simp only [fsortedFrom, Bool.and_eq_true, decide_eq_true_eq] at h
    simp only [finsert]
    split
    · simp [fsortedFrom, hk, h.2]; omega
    · split
      · subst_vars; simpa [fsortedFrom] using h
      · simp only [fsortedFrom, Bool.and_eq_true, decide_eq_true_eq]
        exact ⟨h.1, ih h.2 (by omega)⟩

theorem fsortedFrom_fremove (m : FMap α) {lo : Nat} (h : fsortedFrom lo m = true) (k : Nat) :
    fsortedFrom lo (fremove k m) = true := by
  induction m generalizing lo with
  | nil => rfl
  | cons e m ih =>
    simp only [fsortedFrom, Bool.and_eq_true, decide_eq_true_eq] at h
    simp only [fremove]
    split
    · exact ih (fsortedFrom_mono m (by omega) h.2)
    · simp only [fsortedFrom, Bool.and_eq_true, decide_eq_true_eq]; exact ⟨h.1, ih h.2⟩

theorem all_finsert (p : Nat × α → Bool) (m : FMap α) (k : Nat) (v : α) (h : m.all p = true) (hv : p (k, v) = true) :
    (finsert k v m).all p = true := by
  induction m with
  | nil => simp [finsert, hv]
  | cons e m ih =>
    simp only [List.all_cons, Bool.and_eq_true] at h
    simp only [finsert]
    split
    · simp [hv, h.1, h.2]
    · split
      · simp [hv, h.2]
      · simp [h.1, ih h.2]

theorem all_fremove (p : Nat × α → Bool) (m : FMap α) (k : Nat) (h : m.all p = true) : (fremove k m).all p = true := by
  induction m with
  | nil => rfl
  | cons e m ih =>
    simp only [List.all_cons, Bool.and_eq_true] at h
    simp only [fremove]
    split
    · exact ih h.2
    · simp [h.1, ih h.2]

variable [DecidableEq α]

/-- Setting a key keeps the canonical form. -/
theorem fwf_fset (d : α) (m : FMap α) (k : Nat) (v : α) (h : fwf d m = true) : fwf d (fset d m k v) = true := by
  simp only [fwf, Bool.and_eq_true] at *
  unfold fset
  split
  · exact ⟨fsortedFrom_fremove m h.1 k, all_fremove _ m k h.2⟩
  · next hv => exact ⟨fsortedFrom_finsert m h.1 k (by omega) v, all_finsert _ m k v h.2 (by simpa using hv)⟩

/-- Reading after setting. -/
theorem fget_fset (d : α) (m : FMap α) (k j : Nat) (v : α) : fget d (fset d m k v) j = if k = j then v else fget d m j := by
  unfold fset
  split
  · next hv => rw [fget_fremove]; subst hv; rfl
  · exact fget_finsert d m k j v

omit [DecidableEq α] in
theorem fget_mem (d : α) (m : FMap α) (k : Nat) : fget d m k = d ∨ (k, fget d m k) ∈ m := by
  induction m with
  | nil => simp [fget]
  | cons e m ih =>
    simp only [fget]
    split
    · next hk => right; subst hk; simp
    · rcases ih with h | h <;> simp_all

omit [DecidableEq α] in
/-- What is listed under a key of a canonical map is what reads there. -/
theorem fget_eq_of_mem (d : α) (m : FMap α) {lo : Nat} (h : fsortedFrom lo m = true) {e : Nat × α} (he : e ∈ m) :
    fget d m e.1 = e.2 := by
  induction m generalizing lo with
  | nil => simp at he
  | cons f m ih =>
    simp only [fsortedFrom, Bool.and_eq_true, decide_eq_true_eq] at h
    simp only [fget]
    rcases List.mem_cons.mp he with rfl | he
    · simp
    · split
      · next hk =>
        exfalso
        have : ∀ (m : FMap α) (lo : Nat), fsortedFrom lo m = true → ∀ e ∈ m, lo ≤ e.1 := by
          intro m; induction m with
          | nil => simp
          | cons g m ih =>
            intro lo hs e he
            simp only [fsortedFrom, Bool.and_eq_true, decide_eq_true_eq] at hs
            rcases List.mem_cons.mp he with rfl | he
            · exact hs.1
            · have := ih _ hs.2 e he; omega
        have := this m _ h.2 e he
        omega
      · exact ih h.2 he

/-! ### Lists -/

omit [DecidableEq α] in
@[simp] theorem updWhere_length (p : α → Bool) (f : α → α) (l : List α) : (updWhere p f l).length = l.length := by
  induction l with
  | nil => rfl
  | cons a l ih => simp [updWhere, ih]

omit [DecidableEq α] in
theorem updWhere_eq_map (p : α → Bool) (f : α → α) (l : List α) : updWhere p f l = l.map (fun a => if p a then f a else a) := by
  induction l with
  | nil => rfl
  | cons a l ih => simp [updWhere, ih]

omit [DecidableEq α] in
/-- Looking up by a key that the change keeps. -/
theorem find?_updWhere (p : α → Bool) (f : α → α) (q : α → Bool) (l : List α) (h : ∀ a ∈ l, q (if p a then f a else a) = q a) :
    (updWhere p f l).find? q = (l.find? q).map (fun a => if p a then f a else a) := by
  induction l with
  | nil => rfl
  | cons a l ih =>
    simp only [updWhere, List.find?_cons, h a (by simp)]
    cases q a
    · exact ih (fun b hb => h b (by simp [hb]))
    · simp

omit [DecidableEq α] in
@[simp] theorem tab_length (n : Nat) (f : Nat → α) : (tab n f).length = n := by simp [tab]

omit [DecidableEq α] in
@[simp] theorem getD_tab (n : Nat) (f : Nat → α) (i : Nat) (d : α) : (tab n f).getD i d = if i < n then f i else d := by
  simp only [tab, List.getD_eq_getElem?_getD, List.getElem?_map]
  split <;> simp_all

/-! ### Masks -/

theorem foldl_pow_lt (f : Nat → Bool) (n : Nat) :
    (List.range n).foldl (fun acc i => if f i then acc + 2 ^ i else acc) 0 < 2 ^ n := by
  induction n with
  | zero => simp
  | succ n ih =>
    rw [List.range_succ, List.foldl_append]
    simp only [List.foldl_cons, List.foldl_nil, Nat.pow_succ]
    split <;> omega

theorem testBit_foldl_pow (f : Nat → Bool) (n i : Nat) :
    ((List.range n).foldl (fun acc i => if f i then acc + 2 ^ i else acc) 0).testBit i = (decide (i < n) && f i) := by
  induction n with
  | zero => simp
  | succ n ih =>
    rw [List.range_succ, List.foldl_append]
    simp only [List.foldl_cons, List.foldl_nil]
    have hlt := foldl_pow_lt f n
    rcases Nat.lt_trichotomy i n with h | h | h
    · have hs : ∀ x, (x + 2 ^ n).testBit i = x.testBit i := fun x => by
        rw [Nat.add_comm, Nat.testBit_two_pow_add_gt h]
      split
      · rw [hs, ih]; simp [h, Nat.lt_succ_of_lt h]
      · rw [ih]; simp [h, Nat.lt_succ_of_lt h]
    · subst h
      split
      · next hf => rw [Nat.add_comm, Nat.testBit_two_pow_add_eq, Nat.testBit_lt_two_pow hlt]; simp [hf]
      · next hf => rw [Nat.testBit_lt_two_pow hlt]; simp [hf]
    · have hp : 2 ^ n + 2 ^ n ≤ 2 ^ i := by
        calc 2 ^ n + 2 ^ n = 2 ^ (n + 1) := by ring
          _ ≤ 2 ^ i := Nat.pow_le_pow_right (by norm_num) h
      have : (if f n = true then (List.range n).foldl (fun acc i => if f i then acc + 2 ^ i else acc) 0 + 2 ^ n
          else (List.range n).foldl (fun acc i => if f i then acc + 2 ^ i else acc) 0) < 2 ^ i := by split <;> omega
      rw [Nat.testBit_lt_two_pow this]
      simp; omega

/-- A mask holds the positions that it is made of. -/
theorem has_maskOf (n : Nat) (f : Nat → Bool) (i : Nat) (hn : n ≤ 256) : has (maskOf n f) i = (decide (i < n) && f i) := by
  unfold has maskOf
  rw [BitVec.toNat_ofNat, Nat.mod_eq_of_lt (lt_of_lt_of_le (foldl_pow_lt f n) (Nat.pow_le_pow_right (by norm_num) hn)),
    testBit_foldl_pow]

/-- The same for a position of a mask, whatever the size. -/
theorem has_maskOf_lt (n : Nat) (f : Nat → Bool) (i : Nat) (hi : i < 256) : has (maskOf n f) i = (decide (i < n) && f i) := by
  unfold has maskOf
  rw [BitVec.toNat_ofNat, Nat.testBit_mod_two_pow, testBit_foldl_pow]
  simp [hi]

theorem has_lowMask_lt (n i : Nat) (hi : i < 256) : has (lowMask n) i = decide (i < n) := by
  unfold has lowMask
  rw [BitVec.toNat_ofNat, Nat.testBit_mod_two_pow, Nat.testBit_two_pow_sub_one]
  simp [hi]

@[simp] theorem has_zero (i : Nat) : has 0 i = false := by simp [has]

@[simp] theorem has_and (a b : Mask) (i : Nat) : has (a &&& b) i = (has a i && has b i) := by simp [has]

@[simp] theorem has_or (a b : Mask) (i : Nat) : has (a ||| b) i = (has a i || has b i) := by simp [has]

theorem has_not (a : Mask) (i : Nat) (hi : i < 256) : has (~~~a) i = !has a i := by
  simp only [has, ← BitVec.getLsbD.eq_1]
  simp [hi]

theorem has_lowMask (n i : Nat) (hn : n ≤ 256) : has (lowMask n) i = decide (i < n) := by
  unfold has lowMask
  rw [BitVec.toNat_ofNat, Nat.mod_eq_of_lt]
  · exact Nat.testBit_two_pow_sub_one n i
  · have := Nat.pow_le_pow_right (n := 2) (by norm_num) hn
    have : 0 < 2 ^ n := by positivity
    omega

theorem mem_positions (n : Nat) (m : Mask) (i : Nat) : i ∈ positions n m ↔ i < n ∧ has m i = true := by
  simp [positions]

@[simp] theorem positions_zero (n : Nat) : positions n 0 = [] := by
  simp only [positions, List.filter_eq_nil_iff]
  intro i _; rw [has_zero]; simp

end Sys2Proof.Machine
end

