-- ==== Sys2Proof/Laws/Memory.lean ====
section
/-! SUPPORT. Laws of memory: every operation keeps the canonical form; a byte written reads back and every other byte is as before. -/
namespace Sys2Proof.Machine

/-! ### The canonical form -/

theorem wf_fset (m : FMap Byte) (a : Nat) (b : Byte) (h : Memory.wf m = true) : Memory.wf (fset emptyByte m a b) = true :=
  fwf_fset emptyByte m a b h

theorem wf_writeList (m : FMap Byte) (a : Nat) (bs : List Byte) (h : Memory.wf m = true) : Memory.wf (writeList m a bs) = true := by
  induction bs generalizing m a with
  | nil => exact h
  | cons b bs ih => exact ih _ _ (wf_fset m a b h)

theorem wf_writeBytes (m : FMap Byte) (a n v : Nat) (h : Memory.wf m = true) : Memory.wf (writeBytes m a n v) = true := by
  induction n generalizing m a v with
  | zero => exact h
  | succ n ih => exact ih _ _ _ (wf_fset m a _ h)

theorem wf_nil : Memory.wf [] = true := rfl

/-! ### Reading after writing -/

/-- A byte after a list of bytes is written: a byte of the list, or what it was. -/
theorem fget_writeList (m : FMap Byte) (a : Nat) (bs : List Byte) (j : Nat) :
    fget emptyByte (writeList m a bs) j
      = if a ≤ j ∧ j < a + bs.length then bs.getD (j - a) emptyByte else fget emptyByte m j := by
  induction bs generalizing m a with
  | nil => rw [if_neg (by simp)]; rfl
  | cons b bs ih =>
    rw [writeList, ih]
    by_cases h1 : a + 1 ≤ j ∧ j < a + 1 + bs.length
    · have h2 : a ≤ j ∧ j < a + (b :: bs).length := by simp only [List.length_cons]; omega
      rw [if_pos h1, if_pos h2]
      have : j - a = (j - (a + 1)) + 1 := by omega
      rw [this]; simp
    · rw [if_neg h1, fget_fset emptyByte m a j b]
      by_cases h2 : a = j
      · subst h2; simp
      · rw [if_neg h2, if_neg]; simp only [List.length_cons]; omega

/-- A byte outside what is written is as before. -/
theorem fget_writeList_other (m : FMap Byte) (a : Nat) (bs : List Byte) (j : Nat)
    (hj : j < a ∨ a + bs.length ≤ j) : fget emptyByte (writeList m a bs) j = fget emptyByte m j := by
  rw [fget_writeList m a bs, if_neg (by omega)]

/-- The number read back is the number of the bytes written. -/
theorem readBytes_writeList (m : FMap Byte) (a : Nat) (bs : List Byte) :
    readBytes (writeList m a bs) a bs.length = numOf bs := by
  have gen : ∀ (n : Nat) (l : List Byte) (m : FMap Byte) (a : Nat), l.length = n →
      (∀ i < n, fget emptyByte m (a + i) = l.getD i emptyByte) → readBytes m a n = numOf l := by
    intro n
    induction n with
    | zero => intro l m a hl _; rw [List.length_eq_zero_iff.mp hl]; rfl
    | succ n ih =>
      intro l m a hl hm
      match l, hl with
      | b :: l, hl =>
        simp only [readBytes, numOf]
        have h0 : fget emptyByte m a = b := by simpa using hm 0 (by omega)
        rw [h0, ih l m (a + 1) (by simpa using hl)]
        intro i hi
        have := hm (i + 1) (by omega)
        rw [show a + 1 + i = a + (i + 1) by omega, this]; simp
  refine gen bs.length bs _ a rfl (fun i hi => ?_)
  rw [fget_writeList m a bs, if_pos (by omega)]
  congr 1; omega

theorem bytesOf_length (n v : Nat) : (bytesOf n v).length = n := by
  unfold bytesOf
  induction n generalizing v with
  | zero => rfl
  | succ n ih => simp [bytesOf.leBytes', ih]

/-- The bytes of a number stand for the number (R3). -/
theorem numOf_bytesOf (n v : Nat) : numOf (bytesOf n v) = v % 256 ^ n := by
  unfold bytesOf
  induction n generalizing v with
  | zero => simp [bytesOf.leBytes', numOf, Nat.mod_one]
  | succ n ih =>
    simp only [bytesOf.leBytes', numOf, ih, BitVec.toNat_ofNat]
    have e : (256 : Nat) ^ (n + 1) = 256 * 256 ^ n := by ring
    rw [e, Nat.mod_mul]

/-- A word written reads back (R3). -/
theorem readBytes_written (m : FMap Byte) (a n v : Nat) :
    readBytes (writeList m a (bytesOf n v)) a n = v % 256 ^ n := by
  have := readBytes_writeList m a (bytesOf n v)
  rwa [bytesOf_length, numOf_bytesOf] at this

/-- Bytes apart from what is written read as before. -/
theorem readBytes_writeList_other (m : FMap Byte) (a : Nat) (bs : List Byte) (b n : Nat)
    (hd : b + n ≤ a ∨ a + bs.length ≤ b) : readBytes (writeList m a bs) b n = readBytes m b n := by
  induction n generalizing b with
  | zero => rfl
  | succ n ih =>
    simp only [readBytes]
    rw [fget_writeList_other m a bs b (by omega), ih (b + 1) (by omega)]

end Sys2Proof.Machine
end

