-- ==== Sys2Proof/Laws/Words.lean ====
section
/-! SUPPORT. The word that issues: what its issuer is, how each of its fates is carried out, and what a completed word leaves. -/
namespace Sys2Proof.Machine

/-! ### Groups and paths by name -/

theorem State.group_gid {s : State} {gid : Gid} {g : Group} (h : s.group gid = some g) : g.gid = gid := by
  have := List.find?_some h; simpa using this

/-- A change of one group, as the others and as it is seen. -/
theorem State.group_onGroup (s : State) (gid h : Gid) (f : Group → Group) (hf : ∀ g, (f g).gid = g.gid) :
    (s.onGroup gid f).group h = (s.group h).map (fun g => if g.gid == gid then f g else g) := by
  refine find?_updWhere _ _ _ _ (fun g _ => ?_)
  split <;> simp [hf]

theorem State.group_onGroup_same (s : State) (gid : Gid) (f : Group → Group) (hf : ∀ g, (f g).gid = g.gid) {g : Group}
    (h : s.group gid = some g) : (s.onGroup gid f).group gid = some (f g) := by
  rw [State.group_onGroup s gid gid f hf, h]; simp [State.group_gid h]

theorem State.group_setGroup_same (s : State) (k : Group) {g : Group} (h : s.group k.gid = some g) :
    (s.setGroup k).group k.gid = some k := by
  have h1 : (s.setGroup k).group k.gid = (s.group k.gid).map (fun g => if g.gid == k.gid then k else g) := by
    refine find?_updWhere _ _ _ _ (fun g _ => ?_)
    by_cases hg : g.gid == k.gid
    · simp [hg]
    · simp [hg]
  rw [h1, h]; simp [State.group_gid h]

/-- Looking up a group depends on the groups alone. -/
theorem State.group_congr {s t : State} (h : t.groups = s.groups) (gid : Gid) : t.group gid = s.group gid := by
  unfold State.group; rw [h]

theorem Group.path?_id {g : Group} {id : Nat} {t : Path} (h : g.path? id = some t) : t.id = id := by
  have := List.find?_some h; simpa using this

theorem Group.path?_onPath (g : Group) (id : Nat) (f : Path → Path) (hf : ∀ t, (f t).id = t.id) {t : Path}
    (h : g.path? id = some t) : (g.onPath id f).path? id = some (f t) := by
  have : (g.onPath id f).path? id = (g.path? id).map (fun t => if t.id == id then f t else t) := by
    refine find?_updWhere _ _ _ _ (fun t _ => ?_)
    split <;> simp [hf]
  rw [this, h]; simp [Group.path?_id h]

theorem Group.path?_congr {g h : Group} (e : h.paths = g.paths) (id : Nat) : h.path? id = g.path? id := by
  unfold Group.path?; rw [e]

/-! ### The issuer -/

theorem ixOf_spec {p : Nat} {g : Group} {path : Path} {x : Ix} (h : ixOf p g path = some x) :
    x.p = p ∧ x.g = g ∧ x.path = path ∧ x.miss = 0 ∧ path.fetched = some x.cl := by
  unfold ixOf at h
  split at h
  · exact absurd h (by simp)
  · next cl hc =>
    split at h
    · exact absurd h (by simp)
    · split at h <;> (cases h; exact ⟨rfl, rfl, rfl, rfl, hc⟩)

/-- The issuer is the state's own partition, group and path. -/
theorem State.issuer_spec {s : State} {x : Ix} (h : s.issuer = some x) :
    s.cur = some x.p ∧ s.group x.g.gid = some x.g ∧ x.g.path? x.path.id = some x.path ∧ x.path.eligible = true
      ∧ x.miss = 0 ∧ x.path.fetched = some x.cl := by
  unfold State.issuer at h
  split at h
  · next p hp =>
    unfold State.ixAt at h
    split at h
    · exact absurd h (by simp)
    · next r hr =>
      split at h
      · exact absurd h (by simp)
      · next g hg =>
        split at h
        · exact absurd h (by simp)
        · next path hpath =>
          split at h
          · next he =>
            obtain ⟨h1, h2, h3, h4, h5⟩ := ixOf_spec h
            subst h2; subst h3; subst h1
            exact ⟨hp, by rw [State.group_gid hg, hg], by rw [Group.path?_id hpath, hpath], he, h4, h5⟩
          · exact absurd h (by simp)
  · exact absurd h (by simp)

/-- A word that issues outside capsule mode does what its meaning says. -/
theorem word_run {s : State} {x : Ix} (h : Issues s x) (u : CapUse) (f : State → Ix → Res) :
    s.word u f = .next (s.finish x (f s x)) := by
  obtain ⟨h1, h2, h3⟩ := h
  simp [State.word, h1, h2, h3]

/-- A step of the part that is due happens. -/
theorem event_due {s t : State} {due : Bool} (h : s.manage.poweredDown = false) (hd : due = true) : s.event due t = .next t.wake := by
  simp [State.event, h, hd]

/-! ### What a completed word leaves -/

/-- Two groups that are the same but for their paths. -/
def Group.sameBut (g h : Group) : Prop := g = { h with paths := g.paths }

theorem State.endLeg_group (s : State) (p : Nat) (gid : Gid) (id : Nat) (w : Wait) {g : Group} {t : Path}
    (hg : s.group gid = some g) (ht : g.path? id = some t) :
    ∃ k u, (s.endLeg p gid id w).group gid = some k ∧ k.sameBut g ∧ k.path? id = some u ∧ u.pc = t.pc ∧ u.widx = t.widx
      ∧ u.fetched = t.fetched ∧ u.wait = w := by
  simp only [State.endLeg]
  generalize (s.part p).freeAt = n
  generalize hF : (fun (t : Path) => ({ t with wait := w, count := 0, lastLeg := n, readyAt := n, aged := false, classAged := false, passed := 0 } : Path)) = F
  have hid : ∀ t, (F t).id = t.id := by intro t; subst hF; rfl
  refine ⟨_, F t, (State.group_congr (State.advanceRun_groups _ p true) gid).trans
    (State.group_onGroup_same s gid (fun g => g.onPath id F) (fun _ => rfl) hg), rfl, Group.path?_onPath g id F hid ht, ?_⟩
  subst hF; exact ⟨rfl, rfl, rfl, rfl⟩

/-- A word that retires leaves its group as it was but for the paths, and its path past the word. -/
theorem State.retire_group (s : State) (x : Ix) (w : Option Wait) {g : Group} (hg : s.group x.g.gid = some g)
    (hp : g.path? x.path.id = some x.path) (hf : x.path.fetched = some x.cl) :
    ∃ k u, (s.retire x w).group x.g.gid = some k ∧ k.sameBut g ∧ k.path? x.path.id = some u ∧ Past x u := by
  simp only [State.retire]
  generalize hF : (fun (t : Path) => if x.cl.words.length ≤ x.next then { t.goto x.cl.after with fresh := x.cl.hdr.ms }
      else { t with widx := x.next, only := none }) = F
  have hid : ∀ t, (F t).id = t.id := by intro t; subst hF; simp only []; split <;> rfl
  have hpast : Past x (F x.path) := by
    subst hF; unfold Past; simp only
    split <;> simp [Path.goto, hf]
  have h1 : (s.onGroup x.g.gid (fun g => g.onPath x.path.id F)).group x.g.gid = some (g.onPath x.path.id F) :=
    State.group_onGroup_same s x.g.gid (fun g => g.onPath x.path.id F) (fun _ => rfl) hg
  have h2 := Group.path?_onPath g x.path.id F hid hp
  have stop : ∀ w, ∃ k u, ((s.onGroup x.g.gid (fun g => g.onPath x.path.id F)).endLeg x.p x.g.gid x.path.id w).group x.g.gid = some k
      ∧ k.sameBut g ∧ k.path? x.path.id = some u ∧ Past x u := by
    intro w
    obtain ⟨k, u, a, b, c, d, e, f, _⟩ := State.endLeg_group _ x.p x.g.gid x.path.id w h1 h2
    refine ⟨k, u, a, b, c, ?_⟩
    unfold Past at *; rw [d, e, f]; exact hpast
  cases w with
  | some w => exact stop w
  | none =>
    simp only
    split
    · exact stop .none
    · exact ⟨_, _, (State.group_congr (State.advanceRun_groups _ x.p false) _).trans h1, rfl, h2, hpast⟩

/-! ### What a completed word leaves alone -/

theorem State.group_onGroup_other (s : State) {gid h : Gid} (f : Group → Group) (hf : ∀ g, (f g).gid = g.gid) (hh : h ≠ gid) :
    (s.onGroup gid f).group h = s.group h := by
  rw [State.group_onGroup s gid h f hf]
  cases hg : s.group h with
  | none => rfl
  | some g =>
    have : ¬ g.gid = gid := by rw [State.group_gid hg]; exact hh
    simp [this]

theorem State.endLeg_other (s : State) (p : Nat) {gid h : Gid} (id : Nat) (w : Wait) (hh : h ≠ gid) :
    (s.endLeg p gid id w).group h = s.group h := by
  simp only [State.endLeg]
  rw [State.group_congr (State.advanceRun_groups _ p true)]
  exact State.group_onGroup_other s _ (fun _ => rfl) hh

theorem State.retire_other (s : State) (x : Ix) (w : Option Wait) {h : Gid} (hh : h ≠ x.g.gid) :
    (s.retire x w).group h = s.group h := by
  simp only [State.retire]
  generalize hF : (fun (t : Path) => if x.cl.words.length ≤ x.next then { t.goto x.cl.after with fresh := x.cl.hdr.ms }
      else { t with widx := x.next, only := none }) = F
  have h1 : (s.onGroup x.g.gid (fun g => g.onPath x.path.id F)).group h = s.group h :=
    State.group_onGroup_other s _ (fun _ => rfl) hh
  cases w with
  | some w => exact (State.endLeg_other _ _ _ _ hh).trans h1
  | none =>
    simp only
    split
    · exact (State.endLeg_other _ _ _ _ hh).trans h1
    · exact (State.group_congr (State.advanceRun_groups _ x.p false) _).trans h1

theorem kept_refl (s : State) (gid : Gid) : Kept s s gid := ⟨⟨s.groups, s.parts, s.cores, s.free, rfl⟩, fun _ _ => rfl⟩

theorem kept_trans {s t u : State} {gid : Gid} (a : Kept s t gid) (b : Kept t u gid) : Kept s u gid := by
  obtain ⟨⟨gs, ps, cs, n, rfl⟩, ha⟩ := a
  obtain ⟨⟨gs', ps', cs', n', rfl⟩, hb⟩ := b
  exact ⟨⟨gs', ps', cs', n', rfl⟩, fun h hh => (hb h hh).trans (ha h hh)⟩

theorem kept_onGroup (s : State) (gid : Gid) (f : Group → Group) (hf : ∀ g, (f g).gid = g.gid) : Kept s (s.onGroup gid f) gid :=
  ⟨⟨_, s.parts, s.cores, s.free, rfl⟩, fun _ hh => State.group_onGroup_other s f hf hh⟩

theorem kept_free (s : State) (gid : Gid) (n : Nat) : Kept s { s with free := n } gid :=
  ⟨⟨s.groups, s.parts, s.cores, n, rfl⟩, fun _ _ => rfl⟩

theorem kept_spendCycles (s : State) (x : Ix) (c : Cost) (gid : Gid) : Kept s (s.spendCycles x c) gid := by
  obtain ⟨cs, ps, h⟩ := State.spendCycles_shape s x c
  exact ⟨⟨s.groups, ps, cs, _, by rw [h]⟩, fun _ _ => State.group_congr (State.spendCycles_groups s x c) _⟩

theorem kept_retire (s : State) (x : Ix) (w : Option Wait) : Kept s (s.retire x w) x.g.gid := by
  obtain ⟨ps, gs, h⟩ := State.retire_shape s x w
  exact ⟨⟨gs, ps, s.cores, s.free, by rw [h]⟩, fun _ hh => State.retire_other s x w hh⟩

/-- Completing a word keeps what was kept. -/
theorem kept_finish {s T : State} {x : Ix} (h : Kept s T x.g.gid) (c : Cost) (w : Option Wait) :
    Kept s ((T.spendCycles x c).retire x w) x.g.gid :=
  kept_trans (kept_trans h (kept_spendCycles T x c x.g.gid)) (kept_retire _ x w)

/-- A word that is done completes: what holds of the state after it, whatever its paths, holds. -/
theorem completes_done {s T : State} {x : Ix} {c : Cost} {G : Group} {P : State → Group → Prop} (hs : s.issuer = some x)
    (hG : T.group x.g.gid = some G) (hp : G.paths = x.g.paths)
    (hP : ∀ g, g.sameBut G → P ((T.spendCycles x c).retire x none) g) : Completes (.next (s.finish x (.done T c))) x P := by
  obtain ⟨_, _, h3, _, _, h6⟩ := State.issuer_spec hs
  obtain ⟨k, u, a, b, d, e⟩ := State.retire_group (T.spendCycles x c) x none (g := G)
    (by rw [State.group_congr (State.spendCycles_groups T x c), hG]) (by rw [Group.path?_congr hp, h3]) h6
  exact ⟨_, k, u, rfl, a, d, e, hP k b⟩

/-- A word that completes with a wait. -/
theorem completes_doneWait {s T : State} {x : Ix} {w : Wait} {G : Group} {P : State → Group → Prop} (hs : s.issuer = some x)
    (hG : T.group x.g.gid = some G) (hp : G.paths = x.g.paths)
    (hP : ∀ g, g.sameBut G → P ((T.spendCycles x Cost.one).retire x (some w)) g) :
    Completes (.next (s.finish x (.doneWait T w))) x P := by
  obtain ⟨_, _, h3, _, _, h6⟩ := State.issuer_spec hs
  obtain ⟨k, u, a, b, d, e⟩ := State.retire_group (T.spendCycles x Cost.one) x (some w) (g := G)
    (by rw [State.group_congr (State.spendCycles_groups T x _), hG]) (by rw [Group.path?_congr hp, h3]) h6
  exact ⟨_, k, u, rfl, a, d, e, hP k b⟩

/-! ### Faults -/

theorem foldl_keep {α : Type} (f : State → α → State) (Q : State → State → Prop) (hr : ∀ s, Q s s) (ht : ∀ s t u, Q s t → Q t u → Q s u)
    (hf : ∀ s a, Q s (f s a)) (l : List α) (s : State) : Q s (l.foldl f s) := by
  induction l generalizing s with
  | nil => exact hr s
  | cons a l ih => exact ht _ _ _ (hf s a) (ih _)

theorem State.captureOne_groups (s : State) (r : Replay) (k : Loc) : (s.captureOne r k).groups = s.groups := by
  simp only [State.captureOne]; repeat' split
  all_goals rfl

theorem State.capture_groups (s : State) (l : Loc) (n vf : Nat) : (s.capture l n vf).groups = s.groups := by
  simp only [State.capture]
  split
  · rfl
  · split
    · rfl
    · refine foldl_keep _ (fun s t => t.groups = s.groups) (fun _ => rfl) (fun _ _ _ a b => b.trans a) (fun s k => ?_) _ s
      split
      · exact State.captureOne_groups _ _ _
      · rfl

theorem State.markDirty_groups (s : State) (host : Bool) (line : Nat) : (s.markDirty host line).groups = s.groups := by
  simp only [State.markDirty]; repeat' split
  all_goals rfl

/-- A write of memory changes no group. -/
@[simp] theorem State.writeLoc_groups (s : State) (l : Loc) (bs : List Byte) (core : Option Nat) (vf : Nat) :
    (s.writeLoc l bs core vf).groups = s.groups := by
  have hc := State.capture_groups s l bs.length vf
  unfold State.writeLoc
  cases l with
  | hbm a =>
    simp only
    refine (foldl_keep _ (fun s t => t.groups = s.groups) (fun _ => rfl) (fun _ _ _ a b => b.trans a) (fun s k => ?_) _ _).trans hc
    rw [State.markDirty_groups]; rfl
  | host a =>
    simp only
    refine (foldl_keep _ (fun s t => t.groups = s.groups) (fun _ => rfl) (fun _ _ _ a b => b.trans a) (fun s k => ?_) _ _).trans hc
    rw [State.markDirty_groups]; rfl
  | peer d a => exact hc
  | scr b o => exact hc
  | weight d a => exact hc

@[simp] theorem State.writeNum_groups (s : State) (l : Loc) (n v : Nat) (core : Option Nat) (vf : Nat) :
    (s.writeNum l n v core vf).groups = s.groups := State.writeLoc_groups _ _ _ _ _

/-- An entry put into a ring changes no group. -/
theorem State.pushOrDrop_groups (s : State) (fn r : Nat) (ws : List Dword) : (s.pushOrDrop fn r ws).groups = s.groups := by
  unfold State.pushOrDrop
  split
  · next h =>
    unfold State.push at h
    dsimp only at h
    split at h
    · cases h; exact State.writeLoc_groups _ _ _ _ _
    · cases h
  · dsimp only; split <;> rfl

/-- The report of a poisoned page changes no group. -/
@[simp] theorem State.reportPois_groups (s : State) (vf owner : Nat) (f : FaultInfo) : (s.reportPois vf owner f).groups = s.groups := by
  have h (a b c d p v o k : Nat) : (s.reportError a b c d p v o k).groups = s.groups := State.pushOrDrop_groups _ _ _ _
  unfold State.reportPois
  repeat' split
  all_goals first | rfl | exact h _ _ _ _ _ _ _ _

/-- A stalled runner is as it was but for its capsule state. -/
theorem State.stall_group (s : State) {gid : Gid} {g : Group} (h : s.group gid = some g) :
    ∃ c, (s.stall gid).group gid = some { g with cap := c } := by
  unfold State.stall
  rw [h]
  simp only
  split
  · exact ⟨g.cap, h⟩
  · have h1 := State.group_onGroup_same s gid (fun g => { g with cap := { g.cap with stalled := true, buffer := [], vas := [], lines := [] } })
      (fun _ => rfl) h
    repeat' split
    all_goals first
      | exact ⟨_, h1⟩
      | exact ⟨_, (State.group_congr (State.writeNum_groups _ _ _ _ _ _) gid).trans h1⟩

theorem State.raiseHalt_groups (s : State) (vf : Nat) (u : Option StopUnit) (f : FaultInfo) : (s.raiseHalt vf u f).groups = s.groups := by
  simp only [State.raiseHalt]; split <;> rfl

/-- A raised halt line leaves no live context. -/
theorem State.raiseHalt_notLive (s : State) (vf : Nat) (u : Option StopUnit) (f : FaultInfo) : ((s.raiseHalt vf u f).ctx vf).st ≠ .live := by
  simp only [State.raiseHalt]
  split
  · unfold State.ctx State.setCtx; simp only [fget_fset, if_true]; simp
  · unfold State.ctx State.setCtx; simp only [fget_fset, if_true]; simp
  · next h _ => exact fun hl => h hl

/-- Taking a fault: the group keeps it and stops, and its context is no longer live. -/
theorem State.takeFault_spec (s : State) {gid : Gid} {g : Group} (f : FaultInfo) (h : s.group gid = some g) :
    (∃ c, (s.takeFault gid f).group gid = some { g with cap := c, fault := some f, stopped := true })
    ∧ ((s.takeFault gid f).ctx g.vf).st ≠ .live := by
  unfold State.takeFault
  rw [h]
  simp only
  refine ⟨?_, State.raiseHalt_notLive _ _ _ _⟩
  obtain ⟨c, hc⟩ := State.stall_group s h
  refine ⟨c, (State.group_congr (State.raiseHalt_groups _ _ _ _) gid).trans ?_⟩
  exact State.group_onGroup_same _ gid (fun g => { g with fault := some f, stopped := true }) (fun _ => rfl) hc

/-- A word whose meaning traps takes its fault. -/
theorem trap_faults {s : State} {x : Ix} (hs : s.issuer = some x) (f : FaultInfo) : FaultsWith (.next (s.finish x (.trap f))) x f := by
  obtain ⟨_, h2, h3, _, _, _⟩ := State.issuer_spec hs
  have h2' : (s.reportPois x.g.vf x.g.gid.toNat f).group x.g.gid = some x.g :=
    (State.group_congr (State.reportPois_groups s x.g.vf x.g.gid.toNat f) x.g.gid).trans h2
  obtain ⟨⟨c, hc⟩, hl⟩ := State.takeFault_spec _ { f with faddr := if f.faddr = 0 then x.addr else f.faddr } h2'
  obtain ⟨k, u, a, b, _⟩ := State.endLeg_group _ x.p x.g.gid x.path.id .none hc (t := x.path) h3
  refine ⟨_, k, rfl, a, ?_, ?_, ?_⟩
  · rw [b]
  · rw [b]
  · show ((State.endLeg _ _ _ _ _).ctx x.g.vf).st ≠ _
    unfold State.ctx; rw [State.endLeg_ctxs]; exact hl

end Sys2Proof.Machine
end

