-- ==== Sys2Proof/Laws/Form.lean ====
section
/-! SUPPORT. The canonical form of memory through the operations that write it: every one keeps the form of HBM, host memory, the weight
stores and the shares of resident blocks. -/
namespace Sys2Proof.Machine

/-- What a step that writes no memory keeps. -/
def SameMem (s t : State) : Prop := t.hbm = s.hbm ∧ t.host = s.host ∧ t.weights = s.weights ∧ t.blocks = s.blocks

/-- The canonical form of memory, and of the shares of resident blocks. -/
def FullForm (s : State) : Prop := MemoryForm s ∧ ∀ b ∈ s.blocks, Memory.wf b.data = true

theorem sameMem_refl (s : State) : SameMem s s := ⟨rfl, rfl, rfl, rfl⟩

theorem sameMem_trans (s t u : State) (a : SameMem s t) (b : SameMem t u) : SameMem s u :=
  ⟨b.1.trans a.1, b.2.1.trans a.2.1, b.2.2.1.trans a.2.2.1, b.2.2.2.trans a.2.2.2⟩

theorem memoryForm_same {s t : State} (h : SameMem s t) (f : MemoryForm s) : MemoryForm t := by
  unfold MemoryForm; rw [h.1, h.2.1, h.2.2.1]; exact f

theorem fullForm_same {s t : State} (h : SameMem s t) (f : FullForm s) : FullForm t :=
  ⟨memoryForm_same h f.1, by rw [h.2.2.2]; exact f.2⟩

theorem fullForm_reset : FullForm State.reset := ⟨⟨rfl, rfl, rfl⟩, fun _ h => nomatch h⟩

/-! ### Operations that write no memory -/

theorem State.markDirty_mem (s : State) (host : Bool) (line : Nat) : SameMem s (s.markDirty host line) := by
  unfold State.markDirty SameMem
  simp only
  repeat' split
  all_goals exact ⟨rfl, rfl, rfl, rfl⟩

theorem State.dropL1_mem (s : State) (p : Nat → Bool) (host : Bool) (line : Nat) : SameMem s (s.dropL1 p host line) := ⟨rfl, rfl, rfl, rfl⟩

theorem State.onGroup_mem (s : State) (gid : Gid) (f : Group → Group) : SameMem s (s.onGroup gid f) := ⟨rfl, rfl, rfl, rfl⟩

theorem State.setCtx_mem (s : State) (vf : Nat) (c : Ctx) : SameMem s (s.setCtx vf c) := ⟨rfl, rfl, rfl, rfl⟩

theorem State.setPart_mem (s : State) (p : Nat) (k : Part) : SameMem s (s.setPart p k) := ⟨rfl, rfl, rfl, rfl⟩

theorem State.wake_mem (s : State) : SameMem s s.wake := ⟨rfl, rfl, rfl, rfl⟩

theorem State.raiseHalt_mem (s : State) (vf : Nat) (u : Option StopUnit) (f : FaultInfo) : SameMem s (s.raiseHalt vf u f) := by
  unfold State.raiseHalt; simp only; split <;> exact ⟨rfl, rfl, rfl, rfl⟩

/-! ### Operations that write memory -/

theorem State.captureOne_form (s : State) (r : Replay) (k : Loc) (h : FullForm s) : FullForm (s.captureOne r k) := by
  unfold State.captureOne
  split
  · exact h
  · dsimp only
    split
    · split
      · exact fullForm_same ⟨rfl, rfl, rfl, rfl⟩ h
      · exact fullForm_same ⟨rfl, rfl, rfl, rfl⟩ h
    · generalize bytesOf 4096 _ = bs
      exact ⟨⟨wf_writeList _ _ _ h.1.1, h.1.2⟩, h.2⟩

theorem State.capture_form (s : State) (l : Loc) (n vf : Nat) (h : FullForm s) : FullForm (s.capture l n vf) := by
  unfold State.capture
  split
  · exact h
  · split
    · exact h
    · refine foldl_keep _ (fun s t => FullForm s → FullForm t) (fun _ h => h) (fun _ _ _ a b h => b (a h)) (fun s k h => ?_) _ s h
      split
      · exact State.captureOne_form _ _ _ h
      · exact h

theorem foldl_mem {α : Type} (f : State → α → State) (hf : ∀ s a, SameMem s (f s a)) (l : List α) (s : State) : SameMem s (l.foldl f s) :=
  foldl_keep f SameMem sameMem_refl sameMem_trans hf l s

/-- Every write of memory keeps the canonical form. -/
theorem State.writeLoc_form (s : State) (l : Loc) (bs : List Byte) (core : Option Nat) (vf : Nat) (h : FullForm s) :
    FullForm (s.writeLoc l bs core vf) := by
  have hc := State.capture_form s l bs.length vf h
  unfold State.writeLoc
  generalize s.capture l bs.length vf = t at hc ⊢
  cases l with
  | hbm a =>
    refine fullForm_same (foldl_mem _ (fun s k => ?_) _ _) (s := { t with hbm := writeList t.hbm a bs, codeOld := t.oldCode false a bs.length })
      ⟨⟨wf_writeList _ _ _ hc.1.1, hc.1.2⟩, hc.2⟩
    exact sameMem_trans _ _ _ (State.dropL1_mem _ _ _ _) (State.markDirty_mem _ _ _)
  | host a =>
    refine fullForm_same (foldl_mem _ (fun s k => ?_) _ _) (s := { t with host := writeList t.host a bs, hostOld := oldWrite t.hostOld a bs, codeOld := t.oldCode true a bs.length })
      ⟨⟨hc.1.1, wf_writeList _ _ _ hc.1.2.1, hc.1.2.2⟩, hc.2⟩
    exact sameMem_trans _ _ _ (State.dropL1_mem _ _ _ _) (State.markDirty_mem _ _ _)
  | peer d a => exact hc
  | scr b o =>
    refine ⟨hc.1, fun k hk => ?_⟩
    simp only [updWhere_eq_map, List.mem_map] at hk
    obtain ⟨j, hj, rfl⟩ := hk
    split
    · exact wf_writeList _ _ _ (hc.2 j hj)
    · exact hc.2 j hj
  | weight d a => exact ⟨⟨hc.1.1, hc.1.2.1, wf_writeList _ _ _ hc.1.2.2⟩, hc.2⟩

theorem State.writeNum_form (s : State) (l : Loc) (n v : Nat) (core : Option Nat) (vf : Nat) (h : FullForm s) :
    FullForm (s.writeNum l n v core vf) := State.writeLoc_form _ _ _ _ _ h

theorem State.stall_form (s : State) (gid : Gid) (h : FullForm s) : FullForm (s.stall gid) := by
  have h1 (f : Group → Group) : FullForm (s.onGroup gid f) := fullForm_same (State.onGroup_mem s gid f) h
  unfold State.stall
  split
  · exact h
  · dsimp only
    split
    · exact h
    · generalize hu : s.onGroup gid _ = u
      have h2 : FullForm { u with fills := u.fills.map (fun f => if f.gid = gid then f.noCap else f) } :=
        fullForm_same (s := u) ⟨rfl, rfl, rfl, rfl⟩ (by rw [← hu]; exact h1 _)
      repeat' split
      all_goals first
        | exact h2
        | exact State.writeNum_form _ _ _ _ _ _ h2

/-- Taking a fault keeps the canonical form. -/
theorem State.takeFault_form (s : State) (gid : Gid) (f : FaultInfo) (h : FullForm s) : FullForm (s.takeFault gid f) := by
  unfold State.takeFault
  split
  · exact h
  · exact fullForm_same (sameMem_trans _ _ _ (State.onGroup_mem _ _ _) (State.raiseHalt_mem _ _ _ _)) (State.stall_form s gid h)

end Sys2Proof.Machine
end

