-- ==== Sys2Proof/Laws/PerInstr.lean ====
section
/-! SUPPORT. Per instruction: the number that the encoding tables give an instruction fits 32 bits, so that its word holds every bit of it. -/
namespace Sys2Proof.Laws.Encoding

/-- The word of an instruction, where it has one, fits 32 bits. -/
def Statement (i : Instr) : Prop := ∀ n, encodeNat i = some n → n < 2 ^ 32

/-- A field's contribution is below the bit above it. -/
theorem put_lt {k : Nat} (v : BitVec k) (lo : Nat) : put v lo ≤ (2 ^ k - 1) * 2 ^ lo := by
  unfold put; exact Nat.mul_le_mul_right _ (by have := v.isLt; omega)

theorem vadd (d : BitVec 7) (a : BitVec 7) (b : BitVec 7) (f : BitVec 3) (s : BitVec 1) : Statement (.vadd d a b f s) := by
  intro n h; cases h
  have := put_lt d 18
  have := put_lt a 11
  have := put_lt b 4
  have := put_lt f 1
  have := put_lt s 0
  simp only [word] at *; omega

theorem vsub (d : BitVec 7) (a : BitVec 7) (b : BitVec 7) (f : BitVec 3) (s : BitVec 1) : Statement (.vsub d a b f s) := by
  intro n h; cases h
  have := put_lt d 18
  have := put_lt a 11
  have := put_lt b 4
  have := put_lt f 1
  have := put_lt s 0
  simp only [word] at *; omega

theorem vmul (d : BitVec 7) (a : BitVec 7) (b : BitVec 7) (f : BitVec 3) (s : BitVec 1) : Statement (.vmul d a b f s) := by
  intro n h; cases h
  have := put_lt d 18
  have := put_lt a 11
  have := put_lt b 4
  have := put_lt f 1
  have := put_lt s 0
  simp only [word] at *; omega

theorem vmulh (d : BitVec 7) (a : BitVec 7) (b : BitVec 7) (f : BitVec 3) (s : BitVec 1) : Statement (.vmulh d a b f s) := by
  intro n h; cases h
  have := put_lt d 18
  have := put_lt a 11
  have := put_lt b 4
  have := put_lt f 1
  have := put_lt s 0
  simp only [word] at *; omega

theorem vmad (d : BitVec 7) (a : BitVec 7) (b : BitVec 7) (f : BitVec 3) (s : BitVec 1) : Statement (.vmad d a b f s) := by
  intro n h; cases h
  have := put_lt d 18
  have := put_lt a 11
  have := put_lt b 4
  have := put_lt f 1
  have := put_lt s 0
  simp only [word] at *; omega

theorem vmin (d : BitVec 7) (a : BitVec 7) (b : BitVec 7) (f : BitVec 3) (s : BitVec 1) : Statement (.vmin d a b f s) := by
  intro n h; cases h
  have := put_lt d 18
  have := put_lt a 11
  have := put_lt b 4
  have := put_lt f 1
  have := put_lt s 0
  simp only [word] at *; omega

theorem vmax (d : BitVec 7) (a : BitVec 7) (b : BitVec 7) (f : BitVec 3) (s : BitVec 1) : Statement (.vmax d a b f s) := by
  intro n h; cases h
  have := put_lt d 18
  have := put_lt a 11
  have := put_lt b 4
  have := put_lt f 1
  have := put_lt s 0
  simp only [word] at *; omega

theorem vabsd (d : BitVec 7) (a : BitVec 7) (b : BitVec 7) (f : BitVec 3) (s : BitVec 1) : Statement (.vabsd d a b f s) := by
  intro n h; cases h
  have := put_lt d 18
  have := put_lt a 11
  have := put_lt b 4
  have := put_lt f 1
  have := put_lt s 0
  simp only [word] at *; omega

theorem vand (d : BitVec 7) (a : BitVec 7) (b : BitVec 7) (f : BitVec 2) (s : BitVec 1) : Statement (.vand d a b f s) := by
  intro n h; cases h
  have := put_lt d 18
  have := put_lt a 11
  have := put_lt b 4
  have := put_lt f 1
  have := put_lt s 0
  simp only [word] at *; omega

theorem vor (d : BitVec 7) (a : BitVec 7) (b : BitVec 7) (f : BitVec 2) (s : BitVec 1) : Statement (.vor d a b f s) := by
  intro n h; cases h
  have := put_lt d 18
  have := put_lt a 11
  have := put_lt b 4
  have := put_lt f 1
  have := put_lt s 0
  simp only [word] at *; omega

theorem vxor (d : BitVec 7) (a : BitVec 7) (b : BitVec 7) (f : BitVec 2) (s : BitVec 1) : Statement (.vxor d a b f s) := by
  intro n h; cases h
  have := put_lt d 18
  have := put_lt a 11
  have := put_lt b 4
  have := put_lt f 1
  have := put_lt s 0
  simp only [word] at *; omega

theorem vandn (d : BitVec 7) (a : BitVec 7) (b : BitVec 7) (f : BitVec 2) (s : BitVec 1) : Statement (.vandn d a b f s) := by
  intro n h; cases h
  have := put_lt d 18
  have := put_lt a 11
  have := put_lt b 4
  have := put_lt f 1
  have := put_lt s 0
  simp only [word] at *; omega

theorem vshl (d : BitVec 7) (a : BitVec 7) (b : BitVec 7) (f : BitVec 3) (s : BitVec 1) : Statement (.vshl d a b f s) := by
  intro n h; cases h
  have := put_lt d 18
  have := put_lt a 11
  have := put_lt b 4
  have := put_lt f 1
  have := put_lt s 0
  simp only [word] at *; omega

theorem vshr (d : BitVec 7) (a : BitVec 7) (b : BitVec 7) (f : BitVec 3) (s : BitVec 1) : Statement (.vshr d a b f s) := by
  intro n h; cases h
  have := put_lt d 18
  have := put_lt a 11
  have := put_lt b 4
  have := put_lt f 1
  have := put_lt s 0
  simp only [word] at *; omega

theorem vsar (d : BitVec 7) (a : BitVec 7) (b : BitVec 7) (f : BitVec 3) (s : BitVec 1) : Statement (.vsar d a b f s) := by
  intro n h; cases h
  have := put_lt d 18
  have := put_lt a 11
  have := put_lt b 4
  have := put_lt f 1
  have := put_lt s 0
  simp only [word] at *; omega

theorem vrot (d : BitVec 7) (a : BitVec 7) (b : BitVec 7) (f : BitVec 3) (s : BitVec 1) : Statement (.vrot d a b f s) := by
  intro n h; cases h
  have := put_lt d 18
  have := put_lt a 11
  have := put_lt b 4
  have := put_lt f 1
  have := put_lt s 0
  simp only [word] at *; omega

theorem vbfx (d : BitVec 7) (a : BitVec 7) (b : BitVec 7) (f : BitVec 1) (s : BitVec 1) : Statement (.vbfx d a b f s) := by
  intro n h; cases h
  have := put_lt d 18
  have := put_lt a 11
  have := put_lt b 4
  have := put_lt f 1
  have := put_lt s 0
  simp only [word] at *; omega

theorem vbfi (d : BitVec 7) (a : BitVec 7) (b : BitVec 7) (f : BitVec 1) (s : BitVec 1) : Statement (.vbfi d a b f s) := by
  intro n h; cases h
  have := put_lt d 18
  have := put_lt a 11
  have := put_lt b 4
  have := put_lt f 1
  have := put_lt s 0
  simp only [word] at *; omega

theorem vpopc (d : BitVec 7) (a : BitVec 7) (f : BitVec 2) : Statement (.vpopc d a f) := by
  intro n h; cases h
  have := put_lt d 18
  have := put_lt a 11
  have := put_lt f 1
  simp only [word] at *; omega

theorem vclz (d : BitVec 7) (a : BitVec 7) (f : BitVec 2) : Statement (.vclz d a f) := by
  intro n h; cases h
  have := put_lt d 18
  have := put_lt a 11
  have := put_lt f 1
  simp only [word] at *; omega

theorem vcmp (t : BitVec 2) (m : BitVec 4) (a : BitVec 7) (b : BitVec 7) (c : BitVec 3) (s : BitVec 1) : Statement (.vcmp t m a b c s) := by
  intro n h; cases h
  have := put_lt t 22
  have := put_lt m 18
  have := put_lt a 11
  have := put_lt b 4
  have := put_lt c 1
  have := put_lt s 0
  simp only [word] at *; omega

theorem vsel (d : BitVec 7) (a : BitVec 7) (b : BitVec 7) (f : BitVec 2) (s : BitVec 1) : Statement (.vsel d a b f s) := by
  intro n h; cases h
  have := put_lt d 18
  have := put_lt a 11
  have := put_lt b 4
  have := put_lt f 1
  have := put_lt s 0
  simp only [word] at *; omega

theorem vmov (d : BitVec 7) (b : BitVec 7) (f : BitVec 2) (s : BitVec 1) : Statement (.vmov d b f s) := by
  intro n h; cases h
  have := put_lt d 18
  have := put_lt b 4
  have := put_lt f 1
  have := put_lt s 0
  simp only [word] at *; omega

theorem vaddi (d : BitVec 7) (a : BitVec 7) (i : BitVec 8) (f : BitVec 2) : Statement (.vaddi d a i f) := by
  intro n h; cases h
  have := put_lt d 18
  have := put_lt a 11
  have := put_lt i 3
  have := put_lt f 0
  simp only [word] at *; omega

theorem vshli (d : BitVec 7) (a : BitVec 7) (i : BitVec 8) (f : BitVec 3) : Statement (.vshli d a i f) := by
  intro n h; cases h
  have := put_lt d 18
  have := put_lt a 11
  have := put_lt i 3
  have := put_lt f 0
  simp only [word] at *; omega

theorem vshri (d : BitVec 7) (a : BitVec 7) (i : BitVec 8) (f : BitVec 3) : Statement (.vshri d a i f) := by
  intro n h; cases h
  have := put_lt d 18
  have := put_lt a 11
  have := put_lt i 3
  have := put_lt f 0
  simp only [word] at *; omega

theorem vandi (d : BitVec 7) (a : BitVec 7) (i : BitVec 8) (f : BitVec 2) : Statement (.vandi d a i f) := by
  intro n h; cases h
  have := put_lt d 18
  have := put_lt a 11
  have := put_lt i 3
  have := put_lt f 0
  simp only [word] at *; omega

theorem vcmpi (t : BitVec 2) (m : BitVec 4) (a : BitVec 7) (i : BitVec 8) (c : BitVec 3) : Statement (.vcmpi t m a i c) := by
  intro n h; cases h
  have := put_lt t 22
  have := put_lt m 18
  have := put_lt a 11
  have := put_lt i 3
  have := put_lt c 0
  simp only [word] at *; omega

theorem vmovi (d : BitVec 7) (i : BitVec 8) (f : BitVec 2) : Statement (.vmovi d i f) := by
  intro n h; cases h
  have := put_lt d 18
  have := put_lt i 3
  have := put_lt f 0
  simp only [word] at *; omega

theorem fadd (d : BitVec 7) (a : BitVec 7) (b : BitVec 7) (f : BitVec 2) (s : BitVec 1) : Statement (.fadd d a b f s) := by
  intro n h; cases h
  have := put_lt d 18
  have := put_lt a 11
  have := put_lt b 4
  have := put_lt f 1
  have := put_lt s 0
  simp only [word] at *; omega

theorem fsub (d : BitVec 7) (a : BitVec 7) (b : BitVec 7) (f : BitVec 2) (s : BitVec 1) : Statement (.fsub d a b f s) := by
  intro n h; cases h
  have := put_lt d 18
  have := put_lt a 11
  have := put_lt b 4
  have := put_lt f 1
  have := put_lt s 0
  simp only [word] at *; omega

theorem fmul (d : BitVec 7) (a : BitVec 7) (b : BitVec 7) (f : BitVec 2) (s : BitVec 1) : Statement (.fmul d a b f s) := by
  intro n h; cases h
  have := put_lt d 18
  have := put_lt a 11
  have := put_lt b 4
  have := put_lt f 1
  have := put_lt s 0
  simp only [word] at *; omega

theorem ffma (d : BitVec 7) (a : BitVec 7) (b : BitVec 7) (f : BitVec 2) (s : BitVec 1) : Statement (.ffma d a b f s) := by
  intro n h; cases h
  have := put_lt d 18
  have := put_lt a 11
  have := put_lt b 4
  have := put_lt f 1
  have := put_lt s 0
  simp only [word] at *; omega

theorem fmin (d : BitVec 7) (a : BitVec 7) (b : BitVec 7) (f : BitVec 2) (s : BitVec 1) : Statement (.fmin d a b f s) := by
  intro n h; cases h
  have := put_lt d 18
  have := put_lt a 11
  have := put_lt b 4
  have := put_lt f 1
  have := put_lt s 0
  simp only [word] at *; omega

theorem fmax (d : BitVec 7) (a : BitVec 7) (b : BitVec 7) (f : BitVec 2) (s : BitVec 1) : Statement (.fmax d a b f s) := by
  intro n h; cases h
  have := put_lt d 18
  have := put_lt a 11
  have := put_lt b 4
  have := put_lt f 1
  have := put_lt s 0
  simp only [word] at *; omega

theorem fsgn (d : BitVec 7) (a : BitVec 7) (b : BitVec 7) (f : BitVec 3) (s : BitVec 1) : Statement (.fsgn d a b f s) := by
  intro n h; cases h
  have := put_lt d 18
  have := put_lt a 11
  have := put_lt b 4
  have := put_lt f 1
  have := put_lt s 0
  simp only [word] at *; omega

theorem fcmp (t : BitVec 1) (m : BitVec 4) (a : BitVec 7) (b : BitVec 7) (c : BitVec 3) (s : BitVec 1) : Statement (.fcmp t m a b c s) := by
  intro n h; cases h
  have := put_lt t 22
  have := put_lt m 18
  have := put_lt a 11
  have := put_lt b 4
  have := put_lt c 1
  have := put_lt s 0
  simp only [word] at *; omega

theorem fcvt (d : BitVec 7) (a : BitVec 7) (e : BitVec 1) (t : BitVec 3) (f : BitVec 3) : Statement (.fcvt d a e t f) := by
  intro n h; cases h
  have := put_lt d 18
  have := put_lt a 11
  have := put_lt e 7
  have := put_lt t 4
  have := put_lt f 1
  simp only [word] at *; omega

theorem fclass (d : BitVec 7) (a : BitVec 7) (f : BitVec 1) : Statement (.fclass d a f) := by
  intro n h; cases h
  have := put_lt d 18
  have := put_lt a 11
  have := put_lt f 1
  simp only [word] at *; omega

theorem fsfn (d : BitVec 7) (a : BitVec 7) (f : BitVec 3) : Statement (.fsfn d a f) := by
  intro n h; cases h
  have := put_lt d 18
  have := put_lt a 11
  have := put_lt f 1
  simp only [word] at *; omega

theorem fdiv (d : BitVec 7) (a : BitVec 7) (b : BitVec 7) (f : BitVec 2) (s : BitVec 1) : Statement (.fdiv d a b f s) := by
  intro n h; cases h
  have := put_lt d 18
  have := put_lt a 11
  have := put_lt b 4
  have := put_lt f 1
  have := put_lt s 0
  simp only [word] at *; omega

theorem fsqrt (d : BitVec 7) (a : BitVec 7) (f : BitVec 2) : Statement (.fsqrt d a f) := by
  intro n h; cases h
  have := put_lt d 18
  have := put_lt a 11
  have := put_lt f 1
  simp only [word] at *; omega

theorem frnd (d : BitVec 7) (a : BitVec 7) (f : BitVec 2) : Statement (.frnd d a f) := by
  intro n h; cases h
  have := put_lt d 18
  have := put_lt a 11
  have := put_lt f 1
  simp only [word] at *; omega

theorem fldexp (d : BitVec 7) (a : BitVec 7) (b : BitVec 7) (f : BitVec 2) (s : BitVec 1) : Statement (.fldexp d a b f s) := by
  intro n h; cases h
  have := put_lt d 18
  have := put_lt a 11
  have := put_lt b 4
  have := put_lt f 1
  have := put_lt s 0
  simp only [word] at *; omega

theorem fdot2 (d : BitVec 7) (a : BitVec 7) (b : BitVec 7) (f : BitVec 1) (s : BitVec 1) : Statement (.fdot2 d a b f s) := by
  intro n h; cases h
  have := put_lt d 18
  have := put_lt a 11
  have := put_lt b 4
  have := put_lt f 1
  have := put_lt s 0
  simp only [word] at *; omega

theorem xclr (d : BitVec 2) : Statement (.xclr d) := by
  intro n h; cases h
  have := put_lt d 18
  simp only [word] at *; omega

theorem xadd (d : BitVec 2) (a : BitVec 7) (f : BitVec 3) : Statement (.xadd d a f) := by
  intro n h; cases h
  have := put_lt d 18
  have := put_lt a 11
  have := put_lt f 1
  simp only [word] at *; omega

theorem xfma (d : BitVec 2) (a : BitVec 7) (b : BitVec 7) (f : BitVec 3) : Statement (.xfma d a b f) := by
  intro n h; cases h
  have := put_lt d 18
  have := put_lt a 11
  have := put_lt b 4
  have := put_lt f 1
  simp only [word] at *; omega

theorem xsub (d : BitVec 2) (a : BitVec 7) (f : BitVec 3) : Statement (.xsub d a f) := by
  intro n h; cases h
  have := put_lt d 18
  have := put_lt a 11
  have := put_lt f 1
  simp only [word] at *; omega

theorem xrd (d : BitVec 7) (a : BitVec 2) (f : BitVec 3) : Statement (.xrd d a f) := by
  intro n h; cases h
  have := put_lt d 18
  have := put_lt a 11
  have := put_lt f 1
  simp only [word] at *; omega

theorem xmrg (d : BitVec 2) (a : BitVec 2) : Statement (.xmrg d a) := by
  intro n h; cases h
  have := put_lt d 18
  have := put_lt a 11
  simp only [word] at *; omega

theorem xst (d : BitVec 7) (a : BitVec 2) : Statement (.xst d a) := by
  intro n h; cases h
  have := put_lt d 18
  have := put_lt a 11
  simp only [word] at *; omega

theorem xld (d : BitVec 2) (a : BitVec 7) : Statement (.xld d a) := by
  intro n h; cases h
  have := put_lt d 18
  have := put_lt a 11
  simp only [word] at *; omega

theorem qswz (d : BitVec 7) (a : BitVec 7) (f : BitVec 3) : Statement (.qswz d a f) := by
  intro n h; cases h
  have := put_lt d 18
  have := put_lt a 11
  have := put_lt f 1
  simp only [word] at *; omega

theorem qdiff (d : BitVec 7) (a : BitVec 7) (f : BitVec 3) : Statement (.qdiff d a f) := by
  intro n h; cases h
  have := put_lt d 18
  have := put_lt a 11
  have := put_lt f 1
  simp only [word] at *; omega

theorem shfl (d : BitVec 7) (a : BitVec 7) (b : BitVec 7) (f : BitVec 3) (s : BitVec 1) : Statement (.shfl d a b f s) := by
  intro n h; cases h
  have := put_lt d 18
  have := put_lt a 11
  have := put_lt b 4
  have := put_lt f 1
  have := put_lt s 0
  simp only [word] at *; omega

theorem vred (d : BitVec 7) (a : BitVec 7) (o : BitVec 3) (f : BitVec 3) : Statement (.vred d a o f) := by
  intro n h; cases h
  have := put_lt d 18
  have := put_lt a 11
  have := put_lt o 4
  have := put_lt f 1
  simp only [word] at *; omega

theorem vscan (d : BitVec 7) (a : BitVec 7) (x : BitVec 1) (o : BitVec 3) (f : BitVec 3) : Statement (.vscan d a x o f) := by
  intro n h; cases h
  have := put_lt d 18
  have := put_lt a 11
  have := put_lt x 10
  have := put_lt o 4
  have := put_lt f 1
  simp only [word] at *; omega

theorem vballot (m : BitVec 4) (a : BitVec 7) : Statement (.vballot m a) := by
  intro n h; cases h
  have := put_lt m 18
  have := put_lt a 11
  simp only [word] at *; omega

theorem vballotCnt (d : BitVec 6) (a : BitVec 7) : Statement (.vballotCnt d a) := by
  intro n h; cases h
  have := put_lt d 18
  have := put_lt a 11
  simp only [word] at *; omega

theorem vmatch (d : BitVec 7) (a : BitVec 7) (f : BitVec 3) : Statement (.vmatch d a f) := by
  intro n h; cases h
  have := put_lt d 18
  have := put_lt a 11
  have := put_lt f 1
  simp only [word] at *; omega

theorem mxchBc (d : BitVec 7) (a : BitVec 7) (b : BitVec 7) (f : BitVec 1) (s : BitVec 1) : Statement (.mxchBc d a b f s) := by
  intro n h; cases h
  have := put_lt d 18
  have := put_lt a 11
  have := put_lt b 4
  have := put_lt f 1
  have := put_lt s 0
  simp only [word] at *; omega

theorem mxchRed (d : BitVec 7) (a : BitVec 7) (u : BitVec 1) (o : BitVec 3) (f : BitVec 3) : Statement (.mxchRed d a u o f) := by
  intro n h; cases h
  have := put_lt d 18
  have := put_lt a 11
  have := put_lt u 9
  have := put_lt o 4
  have := put_lt f 1
  simp only [word] at *; omega

theorem sadd (d : BitVec 6) (a : BitVec 6) (b : BitVec 6) (f : BitVec 1) (k : BitVec 1) : Statement (.sadd d a b f k) := by
  intro n h; cases h
  have := put_lt d 19
  have := put_lt a 13
  have := put_lt b 7
  have := put_lt f 4
  have := put_lt k 3
  simp only [word] at *; omega

theorem ssub (d : BitVec 6) (a : BitVec 6) (b : BitVec 6) (f : BitVec 1) (k : BitVec 1) : Statement (.ssub d a b f k) := by
  intro n h; cases h
  have := put_lt d 19
  have := put_lt a 13
  have := put_lt b 7
  have := put_lt f 4
  have := put_lt k 3
  simp only [word] at *; omega

theorem smul (d : BitVec 6) (a : BitVec 6) (b : BitVec 6) (f : BitVec 2) (k : BitVec 1) : Statement (.smul d a b f k) := by
  intro n h; cases h
  have := put_lt d 19
  have := put_lt a 13
  have := put_lt b 7
  have := put_lt f 4
  have := put_lt k 3
  simp only [word] at *; omega

theorem smad (d : BitVec 6) (a : BitVec 6) (b : BitVec 6) (k : BitVec 1) : Statement (.smad d a b k) := by
  intro n h; cases h
  have := put_lt d 19
  have := put_lt a 13
  have := put_lt b 7
  have := put_lt k 3
  simp only [word] at *; omega

theorem sand (d : BitVec 6) (a : BitVec 6) (b : BitVec 6) (k : BitVec 1) : Statement (.sand d a b k) := by
  intro n h; cases h
  have := put_lt d 19
  have := put_lt a 13
  have := put_lt b 7
  have := put_lt k 3
  simp only [word] at *; omega

theorem sor (d : BitVec 6) (a : BitVec 6) (b : BitVec 6) (k : BitVec 1) : Statement (.sor d a b k) := by
  intro n h; cases h
  have := put_lt d 19
  have := put_lt a 13
  have := put_lt b 7
  have := put_lt k 3
  simp only [word] at *; omega

theorem sxor (d : BitVec 6) (a : BitVec 6) (b : BitVec 6) (k : BitVec 1) : Statement (.sxor d a b k) := by
  intro n h; cases h
  have := put_lt d 19
  have := put_lt a 13
  have := put_lt b 7
  have := put_lt k 3
  simp only [word] at *; omega

theorem sshl (d : BitVec 6) (a : BitVec 6) (b : BitVec 6) (k : BitVec 1) : Statement (.sshl d a b k) := by
  intro n h; cases h
  have := put_lt d 19
  have := put_lt a 13
  have := put_lt b 7
  have := put_lt k 3
  simp only [word] at *; omega

theorem sshr (d : BitVec 6) (a : BitVec 6) (b : BitVec 6) (k : BitVec 1) : Statement (.sshr d a b k) := by
  intro n h; cases h
  have := put_lt d 19
  have := put_lt a 13
  have := put_lt b 7
  have := put_lt k 3
  simp only [word] at *; omega

theorem ssar (d : BitVec 6) (a : BitVec 6) (b : BitVec 6) (k : BitVec 1) : Statement (.ssar d a b k) := by
  intro n h; cases h
  have := put_lt d 19
  have := put_lt a 13
  have := put_lt b 7
  have := put_lt k 3
  simp only [word] at *; omega

theorem scmp (d : BitVec 6) (a : BitVec 6) (b : BitVec 6) (c : BitVec 3) (k : BitVec 1) : Statement (.scmp d a b c k) := by
  intro n h; cases h
  have := put_lt d 19
  have := put_lt a 13
  have := put_lt b 7
  have := put_lt c 4
  have := put_lt k 3
  simp only [word] at *; omega

theorem ssel (d : BitVec 6) (a : BitVec 6) (b : BitVec 6) (k : BitVec 1) : Statement (.ssel d a b k) := by
  intro n h; cases h
  have := put_lt d 19
  have := put_lt a 13
  have := put_lt b 7
  have := put_lt k 3
  simp only [word] at *; omega

theorem smov (d : BitVec 6) (b : BitVec 6) (k : BitVec 1) : Statement (.smov d b k) := by
  intro n h; cases h
  have := put_lt d 19
  have := put_lt b 7
  have := put_lt k 3
  simp only [word] at *; omega

theorem saddi (d : BitVec 6) (a : BitVec 6) (i : BitVec 8) (f : BitVec 1) : Statement (.saddi d a i f) := by
  intro n h; cases h
  have := put_lt d 19
  have := put_lt a 13
  have := put_lt i 5
  have := put_lt f 2
  simp only [word] at *; omega

theorem smin (d : BitVec 6) (a : BitVec 6) (b : BitVec 6) (t : BitVec 1) (k : BitVec 1) : Statement (.smin d a b t k) := by
  intro n h; cases h
  have := put_lt d 19
  have := put_lt a 13
  have := put_lt b 7
  have := put_lt t 5
  have := put_lt k 3
  simp only [word] at *; omega

theorem smax (d : BitVec 6) (a : BitVec 6) (b : BitVec 6) (t : BitVec 1) (k : BitVec 1) : Statement (.smax d a b t k) := by
  intro n h; cases h
  have := put_lt d 19
  have := put_lt a 13
  have := put_lt b 7
  have := put_lt t 5
  have := put_lt k 3
  simp only [word] at *; omega

theorem srd (d : BitVec 6) (a : BitVec 6) (i : BitVec 8) : Statement (.srd d a i) := by
  intro n h; cases h
  have := put_lt d 19
  have := put_lt a 13
  have := put_lt i 5
  simp only [word] at *; omega

theorem srdClr (d : BitVec 6) (a : BitVec 6) : Statement (.srdClr d a) := by
  intro n h; cases h
  have := put_lt d 19
  have := put_lt a 13
  simp only [word] at *; omega

theorem bra (c : BitVec 6) (o : BitVec 3) (d : BitVec 16) : Statement (.bra c o d) := by
  intro n h; cases h
  have := put_lt c 19
  have := put_lt o 16
  have := put_lt d 0
  simp only [word] at *; omega

theorem bdiv (m : BitVec 4) (n : BitVec 1) (d : BitVec 16) : Statement (.bdiv m n d) := by
  intro n h; cases h
  have := put_lt m 19
  have := put_lt n 16
  have := put_lt d 0
  simp only [word] at *; omega

theorem call (c : BitVec 6) (d : BitVec 16) : Statement (.call c d) := by
  intro n h; cases h
  have := put_lt c 19
  have := put_lt d 0
  simp only [word] at *; omega

theorem ret (c : BitVec 6) : Statement (.ret c) := by
  intro n h; cases h
  have := put_lt c 19
  simp only [word] at *; omega

theorem jmpi (c : BitVec 6) : Statement (.jmpi c) := by
  intro n h; cases h
  have := put_lt c 19
  simp only [word] at *; omega

theorem ld (d : BitVec 7) (s : BitVec 6) (o : BitVec 8) (z : BitVec 2) (x : BitVec 1) (h : BitVec 1) : Statement (.ld d s o z x h) := by
  intro n h; cases h
  have := put_lt d 18
  have := put_lt s 12
  have := put_lt o 4
  have := put_lt z 2
  have := put_lt x 1
  have := put_lt h 0
  simp only [word] at *; omega

theorem st (d : BitVec 7) (s : BitVec 6) (o : BitVec 8) (z : BitVec 2) : Statement (.st d s o z) := by
  intro n h; cases h
  have := put_lt d 18
  have := put_lt s 12
  have := put_lt o 4
  have := put_lt z 2
  simp only [word] at *; omega

theorem ldx (d : BitVec 7) (s : BitVec 6) (v : BitVec 7) (z : BitVec 2) (x : BitVec 1) (h : BitVec 1) (c : BitVec 1) : Statement (.ldx d s v z x h c) := by
  intro n h; cases h
  have := put_lt d 18
  have := put_lt s 12
  have := put_lt v 5
  have := put_lt z 3
  have := put_lt x 2
  have := put_lt h 1
  have := put_lt c 0
  simp only [word] at *; omega

theorem stx (d : BitVec 7) (s : BitVec 6) (v : BitVec 7) (z : BitVec 2) (c : BitVec 1) : Statement (.stx d s v z c) := by
  intro n h; cases h
  have := put_lt d 18
  have := put_lt s 12
  have := put_lt v 5
  have := put_lt z 3
  have := put_lt c 0
  simp only [word] at *; omega

theorem lds (d : BitVec 7) (s : BitVec 6) (v : BitVec 7) (z : BitVec 2) (x : BitVec 1) (h : BitVec 1) (c : BitVec 1) : Statement (.lds d s v z x h c) := by
  intro n h; cases h
  have := put_lt d 18
  have := put_lt s 12
  have := put_lt v 5
  have := put_lt z 3
  have := put_lt x 2
  have := put_lt h 1
  have := put_lt c 0
  simp only [word] at *; omega

theorem sts (d : BitVec 7) (s : BitVec 6) (v : BitVec 7) (z : BitVec 2) (c : BitVec 1) : Statement (.sts d s v z c) := by
  intro n h; cases h
  have := put_lt d 18
  have := put_lt s 12
  have := put_lt v 5
  have := put_lt z 3
  have := put_lt c 0
  simp only [word] at *; omega

theorem ldw (d : BitVec 7) (s : BitVec 6) (v : BitVec 7) (z : BitVec 2) (x : BitVec 1) (h : BitVec 1) (c : BitVec 1) : Statement (.ldw d s v z x h c) := by
  intro n h; cases h
  have := put_lt d 18
  have := put_lt s 12
  have := put_lt v 5
  have := put_lt z 3
  have := put_lt x 2
  have := put_lt h 1
  have := put_lt c 0
  simp only [word] at *; omega

theorem ldc (d : BitVec 7) (s : BitVec 6) (v : BitVec 7) (z : BitVec 2) (x : BitVec 1) (h : BitVec 1) (c : BitVec 1) : Statement (.ldc d s v z x h c) := by
  intro n h; cases h
  have := put_lt d 18
  have := put_lt s 12
  have := put_lt v 5
  have := put_lt z 3
  have := put_lt x 2
  have := put_lt h 1
  have := put_lt c 0
  simp only [word] at *; omega

theorem atom (d : BitVec 7) (a : BitVec 7) (r : BitVec 1) (g : BitVec 1) (o : BitVec 3) (f : BitVec 3) : Statement (.atom d a r g o f) := by
  intro n h; cases h
  have := put_lt d 18
  have := put_lt a 11
  have := put_lt r 8
  have := put_lt g 7
  have := put_lt o 4
  have := put_lt f 1
  simp only [word] at *; omega

theorem red (d : BitVec 7) (a : BitVec 7) (g : BitVec 1) (o : BitVec 3) (f : BitVec 3) : Statement (.red d a g o f) := by
  intro n h; cases h
  have := put_lt d 18
  have := put_lt a 11
  have := put_lt g 7
  have := put_lt o 4
  have := put_lt f 1
  simp only [word] at *; omega

theorem atoms (d : BitVec 7) (a : BitVec 7) (r : BitVec 1) (g : BitVec 1) (o : BitVec 3) (f : BitVec 3) : Statement (.atoms d a r g o f) := by
  intro n h; cases h
  have := put_lt d 18
  have := put_lt a 11
  have := put_lt r 8
  have := put_lt g 7
  have := put_lt o 4
  have := put_lt f 1
  simp only [word] at *; omega

theorem fence (q : BitVec 1) (s : BitVec 3) : Statement (.fence q s) := by
  intro n h; cases h
  have := put_lt q 8
  have := put_lt s 5
  simp only [word] at *; omega

theorem qsetBase (q : BitVec 3) (a : BitVec 6) : Statement (.qsetBase q a) := by
  intro n h; cases h
  have := put_lt q 19
  have := put_lt a 13
  simp only [word] at *; omega

theorem qsetShape (q : BitVec 3) (a : BitVec 6) (b : BitVec 6) (k : BitVec 1) : Statement (.qsetShape q a b k) := by
  intro n h; cases h
  have := put_lt q 19
  have := put_lt a 13
  have := put_lt b 7
  have := put_lt k 3
  simp only [word] at *; omega

theorem qbind (q : BitVec 3) (a : BitVec 6) (f : BitVec 2) : Statement (.qbind q a f) := by
  intro n h; cases h
  have := put_lt q 19
  have := put_lt a 13
  have := put_lt f 4
  simp only [word] at *; omega

theorem qbindOff (q : BitVec 3) : Statement (.qbindOff q) := by
  intro n h; cases h
  have := put_lt q 19
  simp only [word] at *; omega

theorem qposRd (d : BitVec 6) (q : BitVec 3) : Statement (.qposRd d q) := by
  intro n h; cases h
  have := put_lt d 19
  have := put_lt q 13
  simp only [word] at *; omega

theorem qposWr (q : BitVec 3) (a : BitVec 6) : Statement (.qposWr q a) := by
  intro n h; cases h
  have := put_lt q 19
  have := put_lt a 13
  simp only [word] at *; omega

theorem cpy (t : BitVec 6) (r : BitVec 6) (k : BitVec 6) : Statement (.cpy t r k) := by
  intro n h; cases h
  have := put_lt t 19
  have := put_lt r 13
  have := put_lt k 7
  simp only [word] at *; omega

theorem cpym (t : BitVec 6) (r : BitVec 6) (k : BitVec 6) : Statement (.cpym t r k) := by
  intro n h; cases h
  have := put_lt t 19
  have := put_lt r 13
  have := put_lt k 7
  simp only [word] at *; omega

theorem halo (t : BitVec 6) (r : BitVec 6) (k : BitVec 6) : Statement (.halo t r k) := by
  intro n h; cases h
  have := put_lt t 19
  have := put_lt r 13
  have := put_lt k 7
  simp only [word] at *; omega

theorem haloAllm (t : BitVec 6) (r : BitVec 6) (k : BitVec 6) : Statement (.haloAllm t r k) := by
  intro n h; cases h
  have := put_lt t 19
  have := put_lt r 13
  have := put_lt k 7
  simp only [word] at *; omega

theorem kick (t : BitVec 6) (r : BitVec 6) : Statement (.kick t r) := by
  intro n h; cases h
  have := put_lt t 19
  have := put_lt r 13
  simp only [word] at *; omega

theorem mighHot (t : BitVec 6) (r : BitVec 6) : Statement (.mighHot t r) := by
  intro n h; cases h
  have := put_lt t 19
  have := put_lt r 13
  simp only [word] at *; omega

theorem mighCold (t : BitVec 6) (r : BitVec 6) : Statement (.mighCold t r) := by
  intro n h; cases h
  have := put_lt t 19
  have := put_lt r 13
  simp only [word] at *; omega

theorem mighClr (t : BitVec 6) (r : BitVec 6) : Statement (.mighClr t r) := by
  intro n h; cases h
  have := put_lt t 19
  have := put_lt r 13
  simp only [word] at *; omega

theorem rtsend (t : BitVec 6) (r : BitVec 6) : Statement (.rtsend t r) := by
  intro n h; cases h
  have := put_lt t 19
  have := put_lt r 13
  simp only [word] at *; omega

theorem rtrecvFill (t : BitVec 6) (r : BitVec 6) : Statement (.rtrecvFill t r) := by
  intro n h; cases h
  have := put_lt t 19
  have := put_lt r 13
  simp only [word] at *; omega

theorem rtrecvNext (t : BitVec 6) (r : BitVec 6) : Statement (.rtrecvNext t r) := by
  intro n h; cases h
  have := put_lt t 19
  have := put_lt r 13
  simp only [word] at *; omega

theorem rtrecvLand (t : BitVec 6) (r : BitVec 6) : Statement (.rtrecvLand t r) := by
  intro n h; cases h
  have := put_lt t 19
  have := put_lt r 13
  simp only [word] at *; omega

theorem rtrecvReset (t : BitVec 6) (r : BitVec 6) : Statement (.rtrecvReset t r) := by
  intro n h; cases h
  have := put_lt t 19
  have := put_lt r 13
  simp only [word] at *; omega

theorem mma (t : BitVec 4) (k : BitVec 6) (a : BitVec 7) (b : BitVec 7) (u : BitVec 1) : Statement (.mma t k a b u) := by
  intro n h; cases h
  have := put_lt t 21
  have := put_lt k 15
  have := put_lt a 8
  have := put_lt b 1
  have := put_lt u 0
  simp only [word] at *; omega

theorem mmag (t : BitVec 4) (k : BitVec 6) (a : BitVec 7) (b : BitVec 7) (u : BitVec 1) : Statement (.mmag t k a b u) := by
  intro n h; cases h
  have := put_lt t 21
  have := put_lt k 15
  have := put_lt a 8
  have := put_lt b 1
  have := put_lt u 0
  simp only [word] at *; omega

theorem aclr (t : BitVec 4) (n : BitVec 4) : Statement (.aclr t n) := by
  intro n h; cases h
  have := put_lt t 21
  have := put_lt n 1
  simp only [word] at *; omega

theorem ard (t : BitVec 4) (k : BitVec 6) (d : BitVec 7) (g : BitVec 3) : Statement (.ard t k d g) := by
  intro n h; cases h
  have := put_lt t 21
  have := put_lt k 15
  have := put_lt d 8
  have := put_lt g 1
  simp only [word] at *; omega

theorem ards (t : BitVec 4) (k : BitVec 6) (p : BitVec 7) (b : BitVec 7) : Statement (.ards t k p b) := by
  intro n h; cases h
  have := put_lt t 21
  have := put_lt k 15
  have := put_lt p 8
  have := put_lt b 1
  simp only [word] at *; omega

theorem rqcvt (d : BitVec 7) (a : BitVec 7) (k : BitVec 2) (f : BitVec 3) : Statement (.rqcvt d a k f) := by
  intro n h; cases h
  have := put_lt d 18
  have := put_lt a 11
  have := put_lt k 4
  have := put_lt f 1
  simp only [word] at *; omega

theorem tarm (a : BitVec 6) (b : BitVec 6) : Statement (.tarm a b) := by
  intro n h; cases h
  have := put_lt a 13
  have := put_lt b 7
  simp only [word] at *; omega

theorem tarmClr (a : BitVec 6) : Statement (.tarmClr a) := by
  intro n h; cases h
  have := put_lt a 13
  simp only [word] at *; omega

theorem tarmInit (a : BitVec 6) (b : BitVec 6) (k : BitVec 1) : Statement (.tarmInit a b k) := by
  intro n h; cases h
  have := put_lt a 13
  have := put_lt b 7
  have := put_lt k 3
  simp only [word] at *; omega

theorem tadd (a : BitVec 6) (b : BitVec 6) (k : BitVec 1) : Statement (.tadd a b k) := by
  intro n h; cases h
  have := put_lt a 13
  have := put_lt b 7
  have := put_lt k 3
  simp only [word] at *; omega

theorem taddR (d : BitVec 6) (a : BitVec 6) (b : BitVec 6) (k : BitVec 1) : Statement (.taddR d a b k) := by
  intro n h; cases h
  have := put_lt d 19
  have := put_lt a 13
  have := put_lt b 7
  have := put_lt k 3
  simp only [word] at *; omega

theorem arrive (a : BitVec 6) : Statement (.arrive a) := by
  intro n h; cases h
  have := put_lt a 13
  simp only [word] at *; omega

theorem arriveAdd (a : BitVec 6) (b : BitVec 6) (k : BitVec 1) : Statement (.arriveAdd a b k) := by
  intro n h; cases h
  have := put_lt a 13
  have := put_lt b 7
  have := put_lt k 3
  simp only [word] at *; omega

theorem arriveWait (a : BitVec 6) : Statement (.arriveWait a) := by
  intro n h; cases h
  have := put_lt a 13
  simp only [word] at *; omega

theorem poll (d : BitVec 6) (a : BitVec 6) (b : BitVec 6) (k : BitVec 1) : Statement (.poll d a b k) := by
  intro n h; cases h
  have := put_lt d 19
  have := put_lt a 13
  have := put_lt b 7
  have := put_lt k 3
  simp only [word] at *; omega

theorem capenter (d : BitVec 6) (a : BitVec 6) : Statement (.capenter d a) := by
  intro n h; cases h
  have := put_lt d 19
  have := put_lt a 13
  simp only [word] at *; omega

theorem capstep (d : BitVec 6) (a : BitVec 6) : Statement (.capstep d a) := by
  intro n h; cases h
  have := put_lt d 19
  have := put_lt a 13
  simp only [word] at *; omega

theorem capexit (d : BitVec 6) (a : BitVec 6) : Statement (.capexit d a) := by
  intro n h; cases h
  have := put_lt d 19
  have := put_lt a 13
  simp only [word] at *; omega

theorem capres (d : BitVec 6) (a : BitVec 6) : Statement (.capres d a) := by
  intro n h; cases h
  have := put_lt d 19
  have := put_lt a 13
  simp only [word] at *; omega

theorem regrel (n : BitVec 8) : Statement (.regrel n) := by
  intro n h; cases h
  have := put_lt n 5
  simp only [word] at *; omega

theorem regclm (n : BitVec 8) : Statement (.regclm n) := by
  intro n h; cases h
  have := put_lt n 5
  simp only [word] at *; omega

theorem tspawn (a : BitVec 6) : Statement (.tspawn a) := by
  intro n h; cases h
  have := put_lt a 13
  simp only [word] at *; omega

theorem sysTrap (i : BitVec 8) : Statement (.sysTrap i) := by
  intro n h; cases h
  have := put_lt i 5
  simp only [word] at *; omega

theorem sysBrk (i : BitVec 8) : Statement (.sysBrk i) := by
  intro n h; cases h
  have := put_lt i 5
  simp only [word] at *; omega

theorem sysPmrd (d : BitVec 6) (c : BitVec 2) : Statement (.sysPmrd d c) := by
  intro n h; cases h
  have := put_lt d 19
  have := put_lt c 5
  simp only [word] at *; omega

theorem sysCyc (d : BitVec 6) : Statement (.sysCyc d) := by
  intro n h; cases h
  have := put_lt d 19
  simp only [word] at *; omega

theorem sysEvsig (a : BitVec 6) (i : BitVec 8) : Statement (.sysEvsig a i) := by
  intro n h; cases h
  have := put_lt a 13
  have := put_lt i 5
  simp only [word] at *; omega

theorem clauseFetch (p : Nat) : Statement (.clauseFetch p) := fun _ h => nomatch h

theorem clauseWaitRelease (gid : Gid) (path : Nat) : Statement (.clauseWaitRelease gid path) := fun _ h => nomatch h

theorem legIssue (p : Nat) : Statement (.legIssue p) := fun _ h => nomatch h

theorem backOffAgeing (gid : Gid) (path : Nat) : Statement (.backOffAgeing gid path) := fun _ h => nomatch h

theorem classAgeing (gid : Gid) (path : Nat) : Statement (.classAgeing gid path) := fun _ h => nomatch h

theorem yieldRelease (gid : Gid) (path : Nat) : Statement (.yieldRelease gid path) := fun _ h => nomatch h

theorem registerFill (id : Nat) : Statement (.registerFill id) := fun _ h => nomatch h

theorem homeReply (gid : Gid) (path : Nat) : Statement (.homeReply gid path) := fun _ h => nomatch h

theorem storeAcknowledge (id : Nat) : Statement (.storeAcknowledge id) := fun _ h => nomatch h

theorem globalAccessAtHome (id : Nat) : Statement (.globalAccessAtHome id) := fun _ h => nomatch h

theorem scratchpadRemoteAccess (id : Nat) : Statement (.scratchpadRemoteAccess id) := fun _ h => nomatch h

theorem faultQueueEntryWrite (vf : Nat) : Statement (.faultQueueEntryWrite vf) := fun _ h => nomatch h

theorem resumeEntry (vf : Nat) : Statement (.resumeEntry vf) := fun _ h => nomatch h

theorem layerWake (layer : Nat) : Statement (.layerWake layer) := fun _ h => nomatch h

theorem layerGate (layer : Nat) (mode : BitVec 2) : Statement (.layerGate layer mode) := fun _ h => nomatch h

theorem weightRefreshWindow (die : Nat) : Statement (.weightRefreshWindow die) := fun _ h => nomatch h

theorem hbmRefresh (stack : Nat) (layer : Nat) : Statement (.hbmRefresh stack layer) := fun _ h => nomatch h

theorem migrationPeriod (die : Nat) (vf : Nat) : Statement (.migrationPeriod die vf) := fun _ h => nomatch h

theorem pageMoveComplete (id : Nat) : Statement (.pageMoveComplete id) := fun _ h => nomatch h

theorem aggBufferAgeExpiry (id : Nat) : Statement (.aggBufferAgeExpiry id) := fun _ h => nomatch h

theorem fenceComplete (gid : Gid) (path : Nat) : Statement (.fenceComplete gid path) := fun _ h => nomatch h

theorem engineRequestAccept (gid : Gid) : Statement (.engineRequestAccept gid) := fun _ h => nomatch h

theorem engineLineLand (id : Nat) : Statement (.engineLineLand id) := fun _ h => nomatch h

theorem engineRequestComplete (id : Nat) : Statement (.engineRequestComplete id) := fun _ h => nomatch h

theorem kickEntryStart (id : Nat) : Statement (.kickEntryStart id) := fun _ h => nomatch h

theorem streamElementArrival (gid : Gid) (q : Nat) : Statement (.streamElementArrival gid q) := fun _ h => nomatch h

theorem matrixOperation (p : Nat) : Statement (.matrixOperation p) := fun _ h => nomatch h

theorem matrixOperationComplete (p : Nat) : Statement (.matrixOperationComplete p) := fun _ h => nomatch h

theorem sliceHang (p : Nat) : Statement (.sliceHang p) := fun _ h => nomatch h

theorem readoutEntryWrite (id : Nat) : Statement (.readoutEntryWrite id) := fun _ h => nomatch h

theorem taskUpdate (id : Nat) : Statement (.taskUpdate id) := fun _ h => nomatch h

theorem spawnQueueEntry (vf : Nat) : Statement (.spawnQueueEntry vf) := fun _ h => nomatch h

theorem launchRecordAccept (vf : Nat) (spawn : Bool) : Statement (.launchRecordAccept vf spawn) := fun _ h => nomatch h

theorem blockPlacement (die : Nat) (vf : Nat) (spawn : Bool) (core : Nat) : Statement (.blockPlacement die vf spawn core) := fun _ h => nomatch h

theorem dispatchAgeing (die : Nat) (vf : Nat) (spawn : Bool) : Statement (.dispatchAgeing die vf spawn) := fun _ h => nomatch h

theorem gridCompletion (launch : Nat) : Statement (.gridCompletion launch) := fun _ h => nomatch h

theorem unitStop (vf : Nat) (u : StopUnit) : Statement (.unitStop vf u) := fun _ h => nomatch h

theorem collectorComplete (vf : Nat) : Statement (.collectorComplete vf) := fun _ h => nomatch h

theorem uncorrectableError (site : ErrorSite) : Statement (.uncorrectableError site) := fun _ h => nomatch h

theorem correctableRateThreshold (source : BitVec 8) (die : BitVec 2) (unit : BitVec 10) : Statement (.correctableRateThreshold source die unit) := fun _ h => nomatch h

theorem coreRetirement (core : Nat) : Statement (.coreRetirement core) := fun _ h => nomatch h

theorem layerThermalLoss (layer : Nat) : Statement (.layerThermalLoss layer) := fun _ h => nomatch h

theorem loopLoss (top : Bool) : Statement (.loopLoss top) := fun _ h => nomatch h

theorem loopRestored (top : Bool) : Statement (.loopRestored top) := fun _ h => nomatch h

theorem coldStart (env : StartEnv) : Statement (.coldStart env) := fun _ h => nomatch h

theorem warmRestart (env : StartEnv) : Statement (.warmRestart env) := fun _ h => nomatch h

theorem startStepTimeout (stage : Nat) : Statement (.startStepTimeout stage) := fun _ h => nomatch h

theorem hbmtRefresh (index : Nat) (value : Half) : Statement (.hbmtRefresh index value) := fun _ h => nomatch h

theorem laneFailure (port : Nat) (outbound : Bool) : Statement (.laneFailure port outbound) := fun _ h => nomatch h

theorem laneWidthChange (port : Nat) (outbound : Bool) : Statement (.laneWidthChange port outbound) := fun _ h => nomatch h

theorem widthChangeIdleEnd (port : Nat) (outbound : Bool) : Statement (.widthChangeIdleEnd port outbound) := fun _ h => nomatch h

theorem flitReceive (port : Nat) (f : Flit) : Statement (.flitReceive port f) := fun _ h => nomatch h

theorem replayRequest (port : Nat) (seq : Nat) : Statement (.replayRequest port seq) := fun _ h => nomatch h

theorem flitAcknowledge (port : Nat) (seq : Nat) : Statement (.flitAcknowledge port seq) := fun _ h => nomatch h

theorem linkRetrain (port : Nat) : Statement (.linkRetrain port) := fun _ h => nomatch h

theorem linkPause (port : Nat) (vc : BitVec 2) : Statement (.linkPause port vc) := fun _ h => nomatch h

theorem linkResume (port : Nat) (vc : BitVec 2) : Statement (.linkResume port vc) := fun _ h => nomatch h

theorem linkDeath (port : Nat) : Statement (.linkDeath port) := fun _ h => nomatch h

theorem carriagewayDrainComplete (cw : BitVec 4) : Statement (.carriagewayDrainComplete cw) := fun _ h => nomatch h

theorem fabricTimeout (id : Nat) : Statement (.fabricTimeout id) := fun _ h => nomatch h

theorem read (pkt : Packet) : Statement (.read pkt) := fun _ h => nomatch h

theorem readData (pkt : Packet) : Statement (.readData pkt) := fun _ h => nomatch h

theorem write (pkt : Packet) : Statement (.write pkt) := fun _ h => nomatch h

theorem aggregated (pkt : Packet) : Statement (.aggregated pkt) := fun _ h => nomatch h

theorem atomic (pkt : Packet) : Statement (.atomic pkt) := fun _ h => nomatch h

theorem atomicData (pkt : Packet) : Statement (.atomicData pkt) := fun _ h => nomatch h

theorem acknowledge (pkt : Packet) : Statement (.acknowledge pkt) := fun _ h => nomatch h

theorem elementFaults (pkt : Packet) : Statement (.elementFaults pkt) := fun _ h => nomatch h

theorem status (pkt : Packet) : Statement (.status pkt) := fun _ h => nomatch h

theorem discardedPacket (port : Nat) (pkt : Packet) : Statement (.discardedPacket port pkt) := fun _ h => nomatch h

theorem routeTokenAccept (die : Nat) : Statement (.routeTokenAccept die) := fun _ h => nomatch h

theorem routeToken (pkt : Packet) : Statement (.routeToken pkt) := fun _ h => nomatch h

theorem routeTokenHeaderWrite (id : Nat) : Statement (.routeTokenHeaderWrite id) := fun _ h => nomatch h

theorem routeTokenLand (id : Nat) : Statement (.routeTokenLand id) := fun _ h => nomatch h

theorem routeReply (pkt : Packet) : Statement (.routeReply pkt) := fun _ h => nomatch h

theorem ringChunk (msg : RingMsg) : Statement (.ringChunk msg) := fun _ h => nomatch h

theorem ringResultWrite (vf : Nat) (region : Nat) (chunk : Nat) : Statement (.ringResultWrite vf region chunk) := fun _ h => nomatch h

theorem hostSnoop (addr : Nat) (data : List Byte) : Statement (.hostSnoop addr data) := fun _ h => nomatch h

theorem ringPiWrite (fn : Nat) (ring : Nat) (value : Word) : Statement (.ringPiWrite fn ring value) := fun _ h => nomatch h

theorem ringCiWrite (fn : Nat) (ring : Nat) (value : Word) : Statement (.ringCiWrite fn ring value) := fun _ h => nomatch h

theorem ringControlWrite (fn : Nat) (ring : Nat) (value : Dword) : Statement (.ringControlWrite fn ring value) := fun _ h => nomatch h

theorem registerWriteOther (fn : Nat) (offset : Nat) (width : Nat) (value : Dword) : Statement (.registerWriteOther fn offset width value) := fun _ h => nomatch h

theorem illegalInstruction (w : Word) : Statement (.illegalInstruction w) := fun _ h => nomatch h

theorem normalFlowReturn (top : Bool) : Statement (.normalFlowReturn top) := fun _ h => nomatch h

theorem linkTrainingEnd (port : Nat) (lostOut : Nat) (lostIn : Nat) : Statement (.linkTrainingEnd port lostOut lostIn) := fun _ h => nomatch h

theorem join : Statement .join := by
  intro n h; cases h; decide

theorem exit : Statement .exit := by
  intro n h; cases h; decide

theorem nop : Statement .nop := by
  intro n h; cases h; decide

theorem yield : Statement .yield := by
  intro n h; cases h; decide

theorem flushagg : Statement .flushagg := by
  intro n h; cases h; decide

theorem flushaggWait : Statement .flushaggWait := by
  intro n h; cases h; decide

theorem sysHalt : Statement .sysHalt := by
  intro n h; cases h; decide

theorem tableChange : Statement .tableChange := fun _ h => nomatch h

theorem setctxRoot : Statement .setctxRoot := fun _ h => nomatch h

theorem setctxWindow : Statement .setctxWindow := fun _ h => nomatch h

theorem setctxAgel : Statement .setctxAgel := fun _ h => nomatch h

theorem setctxRoute : Statement .setctxRoute := fun _ h => nomatch h

theorem setctxRegion : Statement .setctxRegion := fun _ h => nomatch h

theorem setctxSavebase : Statement .setctxSavebase := fun _ h => nomatch h

theorem setctxWeightRegion : Statement .setctxWeightRegion := fun _ h => nomatch h

theorem setctxMigrationPolicy : Statement .setctxMigrationPolicy := fun _ h => nomatch h

theorem setctxFramePool : Statement .setctxFramePool := fun _ h => nomatch h

theorem setctxT2Limit : Statement .setctxT2Limit := fun _ h => nomatch h

theorem inval : Statement .inval := fun _ h => nomatch h

theorem preempt : Statement .preempt := fun _ h => nomatch h

theorem resume : Statement .resume := fun _ h => nomatch h

theorem endctx : Statement .endctx := fun _ h => nomatch h

theorem lsplit : Statement .lsplit := fun _ h => nomatch h

theorem dbgrd : Statement .dbgrd := fun _ h => nomatch h

theorem pmctl : Statement .pmctl := fun _ h => nomatch h

theorem replay : Statement .replay := fun _ h => nomatch h

theorem replayPassEnd : Statement .replayPassEnd := fun _ h => nomatch h

theorem attest : Statement .attest := fun _ h => nomatch h

theorem fwload : Statement .fwload := fun _ h => nomatch h

theorem fullstart : Statement .fullstart := fun _ h => nomatch h

theorem fabcfgImportWindow : Statement .fabcfgImportWindow := fun _ h => nomatch h

theorem fabcfgResponseLog : Statement .fabcfgResponseLog := fun _ h => nomatch h

theorem unknownOp : Statement .unknownOp := fun _ h => nomatch h

theorem powerLoss : Statement .powerLoss := fun _ h => nomatch h

end Sys2Proof.Laws.Encoding
end

