-- ==== Sys2Proof/Laws/Vectors.lean ====
section
/-! SUPPORT. Vector and scalar words that nothing stands in the way of: what they perform, what a result leaves in the registers and the
flags, and what it leaves alone. -/
namespace Sys2Proof.Machine

/-! ### Streams of a completed word -/

/-- Marking pages as read changes no group (R104). -/
theorem Read_groups (s : State) (x : Ix) (o : VOp) : (Read s x o).groups = s.groups := by
  have h (s : State) (vf va : Nat) (w : Bool) (l : Loc) : (s.touch vf va w l).groups = s.groups := by
    unfold State.touch
    repeat' (first | split | dsimp only)
    all_goals first | rfl | exact State.writeNum_groups _ _ _ _ _ _
  refine foldl_keep _ (fun s t => t.groups = s.groups) (fun _ => rfl) (fun _ _ _ a b => b.trans a) (fun s e => ?_) _ s
  split
  · exact h _ _ _ _ _
  · exact h _ _ _ _ _
  · rfl

/-- Advancing streams changes stream registers alone. -/
theorem advance_shape (l : List Nat) (g : Group) : ∃ q, l.foldl Group.advanceStream g = { g with q := q } := by
  induction l generalizing g with
  | nil => exact ⟨g.q, rfl⟩
  | cons i l ih => obtain ⟨q, h⟩ := ih (g.advanceStream i); exact ⟨q, h.trans rfl⟩

/-- The streams a word consumes, each once. -/
def Ix.streams (x : Ix) (o : VOp) : List Nat := ((x.consumed o).map (·.1)).eraseDups

/-- A vector word that nothing stands in the way of performs its function on the values of its sources, and its streams advance. -/
theorem vecWord_ready {s : State} {x : Ix} {o : VOp} (hm : x.miss = 0) (h : VecReady s x o)
    (f : State → Ix → VVals → Except FaultInfo State) :
    ∃ n, s.vecWord x o f = match f { Read s x o with free := n } x (opVals s x o) with
      | .error e => .trap e
      | .ok t => .done (t.onGroup x.g.gid (fun g => (x.streams o).foldl Group.advanceStream g)) o.cost := by
  obtain ⟨h1, h2, h3, h4, h5, h6, h7⟩ := h
  have hz : maskOf x.g.n (fun _ => false) = 0 := by
    have : ∀ n, (List.range n).foldl (fun acc i => if false = true then acc + 2 ^ i else acc) 0 = 0 := by
      intro n; induction n with
      | zero => rfl
      | succ n ih => rw [List.range_succ, List.foldl_append, ih]; rfl
    unfold maskOf; rw [this]; rfl
  have hx : { x with miss := 0 } = x := by rw [← hm]
  refine ⟨if (x.consumed o).isEmpty then (Read s x o).free else (Read s x o).free + 256, ?_⟩
  unfold State.vecWord
  simp only [h1, h2, h3, h4, h5, h6, h7, ne_eq, not_true_eq_false, List.isEmpty_nil, Bool.not_true, Bool.and_false, Bool.false_eq_true,
    List.any_nil, if_false, dite_false, hz, hx, if_true]
  rfl

/-! ### Registers after a result -/

theorem Group.v1_writeV (g : Group) (r q p : Nat) (f : Nat → Option Word) (hp : p < g.n) :
    (g.writeV r f).v1 q p = if r = q then (f p).getD (g.v1 r p) else g.v1 q p := by
  simp only [Group.v1, Group.writeV_v, fget_finsert]
  split
  · next h => subst h; rw [getD_tab, if_pos hp]
  · rfl

theorem Group.v1_writeSh (g : Group) (path r q p : Nat) (f : Nat → Option Word) : (g.writeSh path r f).v1 q p = g.v1 q p := rfl

@[simp] theorem Group.writeV_n (g : Group) (r : Nat) (f : Nat → Option Word) : (g.writeV r f).n = g.n := rfl
@[simp] theorem Group.writeSh_n (g : Group) (path r : Nat) (f : Nat → Option Word) : (g.writeSh path r f).n = g.n := rfl

/-- A value written to a register or pair reads back where one is given; elsewhere the register is as before. -/
theorem Group.vval_writeVal (g : Group) (pair : Bool) (r p : Nat) (f : Nat → Option Nat) (hp : p < g.n) :
    (g.writeVal pair r f).vval pair r p
      = match f p with | some v => v % (if pair then 2 ^ 64 else 2 ^ 32) | none => g.vval pair r p := by
  cases pair
  · simp only [Group.writeVal, Group.vval, Bool.false_eq_true, if_false, Nat.add_zero]
    rw [Group.v1_writeV _ _ _ _ _ hp]
    cases h : f p <;> simp
  · simp only [Group.writeVal, Group.vval, if_true]
    simp only [Group.v1_writeV _ _ _ _ _ hp, Group.v1_writeV (g.writeV r _) _ _ _ _ (show p < (g.writeV r _).n from hp)]
    have hne : ¬ (r + 1 = r) := by omega
    have hne' : ¬ (r = r + 1) := by omega
    cases h : f p with
    | none => simp
    | some v =>
      simp only [hne, hne', if_false, if_true, Option.map_some, Option.getD_some, BitVec.toNat_ofNat]
      omega

/-- A register that is neither a value's first nor, for a pair, its second is as before. -/
theorem Group.v1_writeVal_other (g : Group) (pair : Bool) (r q p : Nat) (f : Nat → Option Nat) (hp : p < g.n) (h : q ≠ r)
    (h' : pair = true → q ≠ r + 1) : (g.writeVal pair r f).v1 q p = g.v1 q p := by
  cases pair
  · simp only [Group.writeVal, Bool.false_eq_true, if_false]
    rw [Group.v1_writeV _ _ _ _ _ hp, if_neg (Ne.symm h)]
  · simp only [Group.writeVal, if_true]
    rw [Group.v1_writeV _ _ _ _ _ (by simpa using hp), if_neg (Ne.symm (h' rfl)), Group.v1_writeV _ _ _ _ _ hp, if_neg (Ne.symm h)]

/-- A group with other vector registers, shadows and flags. -/
def Group.withRegs (g : Group) (v : FMap (List Word)) (e : FMap Mask) (sh : FMap (List Word)) (se sl : FMap Mask) (so : FMap Nat)
    (fl : FMap Half) : Group :=
  { g with v := v, vEmpty := e, sh := sh, shEmpty := se, shLive := sl, shOwner := so, fstat := fl }

/-- Is a group another with other vector registers, shadows and flags? -/
def Group.RegsOf (h g : Group) : Prop := ∃ v e sh se sl so fl, h = g.withRegs v e sh se sl so fl

theorem Group.regsOf_refl (g : Group) : g.RegsOf g := ⟨g.v, g.vEmpty, g.sh, g.shEmpty, g.shLive, g.shOwner, g.fstat, rfl⟩

theorem Group.regsOf_trans {g h k : Group} (a : k.RegsOf h) (b : h.RegsOf g) : k.RegsOf g := by
  obtain ⟨v, e, sh, se, sl, so, fl, rfl⟩ := a
  obtain ⟨v', e', sh', se', sl', so', fl', rfl⟩ := b
  exact ⟨v, e, sh, se, sl, so, fl, rfl⟩

theorem Group.writeV_regs (g : Group) (r : Nat) (f : Nat → Option Word) : (g.writeV r f).RegsOf g :=
  ⟨_, _, _, _, _, _, _, rfl⟩

theorem Group.writeSh_regs (g : Group) (path r : Nat) (f : Nat → Option Word) : (g.writeSh path r f).RegsOf g :=
  ⟨_, _, _, _, _, _, _, rfl⟩

theorem Group.writeVal_regs (g : Group) (pair : Bool) (r : Nat) (f : Nat → Option Nat) : (g.writeVal pair r f).RegsOf g := by
  cases pair
  · exact Group.writeV_regs _ _ _
  · exact Group.regsOf_trans (Group.writeV_regs _ _ _) (Group.writeV_regs _ _ _)

theorem Group.writeShVal_regs (g : Group) (path : Nat) (pair : Bool) (r : Nat) (f : Nat → Option Nat) :
    (g.writeShVal path pair r f).RegsOf g := by
  cases pair
  · exact Group.writeSh_regs _ _ _ _
  · exact Group.regsOf_trans (Group.writeSh_regs _ _ _ _) (Group.writeSh_regs _ _ _ _)

theorem Group.raiseFlags_regs (g : Group) (e : Nat) (f : Half) : (g.raiseFlags e f).RegsOf g := ⟨_, _, _, _, _, _, _, rfl⟩

/-- The raising of flags by a list of results. -/
theorem raise_regs (r : Nat → Nat × Half) (l : List Nat) (g : Group) :
    (l.foldl (fun g p => if (r p).2 = 0 then g else g.raiseFlags (g.member p) (r p).2) g).RegsOf g := by
  induction l generalizing g with
  | nil => exact g.regsOf_refl
  | cons p l ih =>
    simp only [List.foldl_cons]
    split
    · exact ih g
    · exact Group.regsOf_trans (ih _) (Group.raiseFlags_regs _ _ _)

/-- The raising of flags leaves the registers. -/
theorem raise_v (r : Nat → Nat × Half) (l : List Nat) (g : Group) :
    (l.foldl (fun g p => if (r p).2 = 0 then g else g.raiseFlags (g.member p) (r p).2) g).v = g.v := by
  induction l generalizing g with
  | nil => rfl
  | cons p l ih =>
    simp only [List.foldl_cons]
    split
    · exact ih g
    · exact ih _

theorem Group.writeShVal_v (g : Group) (path : Nat) (pair : Bool) (r : Nat) (f : Nat → Option Nat) :
    (g.writeShVal path pair r f).v = g.v := by cases pair <;> rfl

theorem Group.writeShVal_fstat (g : Group) (path : Nat) (pair : Bool) (r : Nat) (f : Nat → Option Nat) :
    (g.writeShVal path pair r f).fstat = g.fstat := by cases pair <;> rfl

theorem Group.writeVal_fstat (g : Group) (pair : Bool) (r : Nat) (f : Nat → Option Nat) : (g.writeVal pair r f).fstat = g.fstat := by
  cases pair <;> rfl

theorem Group.RegsOf.w {g h : Group} (a : h.RegsOf g) : h.w = g.w := by obtain ⟨_, _, _, _, _, _, _, rfl⟩ := a; rfl
theorem Group.RegsOf.n {g h : Group} (a : h.RegsOf g) : h.n = g.n := by obtain ⟨_, _, _, _, _, _, _, rfl⟩ := a; rfl
theorem Group.RegsOf.gid {g h : Group} (a : h.RegsOf g) : h.gid = g.gid := by obtain ⟨_, _, _, _, _, _, _, rfl⟩ := a; rfl
theorem Group.RegsOf.paths {g h : Group} (a : h.RegsOf g) : h.paths = g.paths := by obtain ⟨_, _, _, _, _, _, _, rfl⟩ := a; rfl

/-! ### The whole of a result (R178, R158, R33) -/

/-- A result changes registers, shadows and flags alone. -/
theorem writeResult_regs (x : Ix) (hlp pair : Bool) (d : Nat) (r : Nat → Nat × Half) (g : Group) :
    (x.writeResult hlp pair d r g).RegsOf g := by
  simp only [Ix.writeResult]
  refine Group.regsOf_trans (raise_regs r _ _) ?_
  split
  · exact Group.regsOf_trans (Group.writeShVal_regs _ _ _ _ _) (Group.writeVal_regs _ _ _ _)
  · exact Group.writeVal_regs _ _ _ _

/-- Looking at a register depends on the registers and their fullness alone. -/
theorem Group.v1_congr {g h : Group} (e : h.v = g.v) (r p : Nat) : h.v1 r p = g.v1 r p := by unfold Group.v1; rw [e]
theorem Group.vval_congr {g h : Group} (e : h.v = g.v) (pair : Bool) (r p : Nat) : h.vval pair r p = g.vval pair r p := by
  unfold Group.vval; rw [Group.v1_congr e, Group.v1_congr e]

theorem writeResult_v (x : Ix) (hlp pair : Bool) (d : Nat) (r : Nat → Nat × Half) (g : Group) :
    (x.writeResult hlp pair d r g).v
      = (g.writeVal pair d (fun p => if has x.act p then some (r p).1 else if has x.off p then some 0 else none)).v := by
  simp only [Ix.writeResult]
  rw [raise_v]
  split
  · rw [Group.writeShVal_v]
  · rfl

/-- The destination after a result: the result where the position is active, zero where ZERO clears it, else as before. -/
theorem writeResult_val (x : Ix) (hlp pair : Bool) (d : Nat) (r : Nat → Nat × Half) (g : Group) (p : Nat) (hp : p < g.n) :
    (x.writeResult hlp pair d r g).vval pair d p
      = if has x.act p then (r p).1 % (if pair then 2 ^ 64 else 2 ^ 32) else if has x.off p then 0 else g.vval pair d p := by
  rw [Group.vval_congr (writeResult_v x hlp pair d r g), Group.vval_writeVal _ _ _ _ _ hp]
  split
  · next v h =>
    by_cases h1 : has x.act p
    · simp [h1] at h; simp [h1, h]
    · by_cases h2 : has x.off p
      · simp [h1, h2] at h; simp [h1, h2, ← h]
      · simp [h1, h2] at h
  · next h =>
    by_cases h1 : has x.act p
    · simp [h1] at h
    · by_cases h2 : has x.off p
      · simp [h1, h2] at h
      · simp [h1, h2]

/-- Every other register is as before. -/
theorem writeResult_other (x : Ix) (hlp pair : Bool) (d : Nat) (r : Nat → Nat × Half) (g : Group) (q p : Nat) (hp : p < g.n)
    (h : q ≠ d) (h' : pair = true → q ≠ d + 1) : (x.writeResult hlp pair d r g).v1 q p = g.v1 q p := by
  rw [Group.v1_congr (writeResult_v x hlp pair d r g), Group.v1_writeVal_other _ _ _ _ _ _ hp h h']

theorem or_ne_zero (a b : Half) (h : b ≠ 0) : a ||| b ≠ 0 := by
  intro hz; apply h
  ext i hi
  have := congrArg (fun v => v[i]) hz
  simp at this; simp [this.2]

theorem flags_raise (x : Ix) (r : Nat → Nat × Half) (e : Nat) (l : List Nat) (g : Group) (hw : g.w = x.g.w) :
    (l.foldl (fun g p => if (r p).2 = 0 then g else g.raiseFlags (g.member p) (r p).2) g).flags e = g.flags e ||| flagsOf x r e l := by
  induction l generalizing g with
  | nil => simp [flagsOf]
  | cons p l ih =>
    simp only [List.foldl_cons, flagsOf]
    have hmem : g.member p = x.g.member p := by simp [Group.member, hw]
    split
    · next h => rw [ih g hw, h]; simp
    · next h =>
      rw [ih (g.raiseFlags (g.member p) (r p).2) hw]
      have : (g.raiseFlags (g.member p) (r p).2).flags e = g.flags e ||| (if x.g.member p = e then (r p).2 else 0) := by
        simp only [Group.flags, Group.raiseFlags, fget_fset, hmem]
        split
        · next h2 => subst h2; rfl
        · simp
      rw [this, BitVec.or_assoc]

/-- A member's flags after a result: those it had and those its active positions raise (R64, R65). -/
theorem writeResult_flags (x : Ix) (hlp pair : Bool) (d : Nat) (r : Nat → Nat × Half) (g : Group) (hw : g.w = x.g.w) (hn : g.n = x.g.n) (e : Nat) :
    (x.writeResult hlp pair d r g).flags e = g.flags e ||| flagsOf x r e (positions x.g.n x.act) := by
  simp only [Ix.writeResult]
  have hfl : ∀ k : Group, k.fstat = g.fstat → k.flags e = g.flags e := fun k h => by unfold Group.flags; rw [h]
  split
  · have a : Group.RegsOf _ g := Group.regsOf_trans (Group.writeShVal_regs _ x.path.id pair d
      (fun p => if has x.hlp p then some (r p).1 else none)) (Group.writeVal_regs g pair d
      (fun p => if has x.act p then some (r p).1 else if has x.off p then some 0 else none))
    rw [a.n, hn, flags_raise x r e _ _ (a.w.trans hw), hfl _ (by rw [Group.writeShVal_fstat, Group.writeVal_fstat])]
  · have a := Group.writeVal_regs g pair d (fun p => if has x.act p then some (r p).1 else if has x.off p then some 0 else none)
    rw [a.n, hn, flags_raise x r e _ _ (a.w.trans hw), hfl _ (Group.writeVal_fstat _ _ _ _)]

/-! ### Words of the V3 shape -/

/-- What a completed vector word that changes its group by `F` leaves: the group changed, but for paths and streams. -/
theorem vec_completes {s : State} {x : Ix} {o : VOp} {P : Group → Prop} (hi : Issues s x) (hr : VecReady s x o)
    (F : Group → Group) (hF : ∀ g, (F g).gid = g.gid) (hFp : (F x.g).paths = x.g.paths)
    (hP : ∀ ps q, P { F x.g with paths := ps, q := q })
    (f : State → Ix → VVals → Except FaultInfo State)
    (hf : ∀ n, f { Read s x o with free := n } x (opVals s x o) = .ok (({ Read s x o with free := n } : State).onGroup x.g.gid F)) :
    Completes (.next (s.finish x (s.vecWord x o f))) x (fun t g => Kept (Read s x o) t x.g.gid ∧ P g) := by
  obtain ⟨h1, h2, h3, h4, h5, h6⟩ := State.issuer_spec hi.2.1
  obtain ⟨n, hv⟩ := vecWord_ready h5 hr f
  rw [hv, hf n]
  simp only
  obtain ⟨q, hq⟩ := advance_shape (x.streams o) (F x.g)
  have hgid : ∀ g : Group, ((x.streams o).foldl Group.advanceStream g).gid = g.gid := by
    intro g; obtain ⟨q, hq⟩ := advance_shape (x.streams o) g; rw [hq]
  have hG := State.group_onGroup_same _ x.g.gid (fun g => (x.streams o).foldl Group.advanceStream g) hgid
    (State.group_onGroup_same ({ Read s x o with free := n } : State) x.g.gid F hF ((State.group_congr (Read_groups s x o) x.g.gid).trans h2))
  rw [hq] at hG
  refine completes_done hi.2.1 hG hFp (fun g hg => ⟨kept_finish ?_ _ _, by rw [hg]; exact hP g.paths q⟩)
  exact kept_trans (kept_trans (kept_free (Read s x o) _ n) (kept_onGroup _ _ F hF)) (kept_onGroup _ _ _ hgid)

/-- A word that writes the results `f`, which `R` accepts, runs. -/
theorem vec_runs {i : Instr} {hlp pair : Bool} {d : Nat} {o : Ix → VOp} {R : Ix → VVals → Nat → Nat × Half → Prop}
    (F : Ix → State → Ix → VVals → Except FaultInfo State) (f : Ix → VVals → Nat → Nat × Half)
    (hi : ∀ s, exec i s = s.word .never (fun s x => s.vecWord x (o x) (F x)))
    (hF : ∀ s x vals, F x s x vals = .ok (s.onGroup x.g.gid (x.writeResult hlp pair d (f x vals))))
    (hR : ∀ x vals p, R x vals p ((f x vals p).1 % (if pair then 2 ^ 64 else 2 ^ 32), (f x vals p).2)) :
    VecRuns i pair d o R := by
  intro s x his hr
  refine ⟨fun p => ((f x (opVals s x (o x)) p).1 % (if pair then 2 ^ 64 else 2 ^ 32), (f x (opVals s x (o x)) p).2), fun p _ _ => hR _ _ _, ?_⟩
  rw [hi, word_run his]
  refine vec_completes his hr (fun g => x.writeResult hlp pair d (f x (opVals s x (o x))) g)
    (fun g => (writeResult_regs _ _ _ _ _ _).gid) (writeResult_regs _ _ _ _ _ _).paths (fun ps q => ⟨?_, ?_, ?_, ?_⟩) _ (fun n => hF _ _ _)
  · obtain ⟨v', e, sh, se, sl, so, fl, h⟩ := writeResult_regs x hlp pair d (f x (opVals s x (o x))) x.g
    exact ⟨v', e, sh, se, sl, so, fl, q, ps, by rw [h]; rfl⟩
  · exact fun p hp => writeResult_val x hlp pair d _ x.g p hp
  · exact fun q p hp h h' => writeResult_other x hlp pair d _ x.g q p hp h h'
  · intro e
    refine (writeResult_flags x hlp pair d _ x.g rfl rfl e).trans ?_
    congr 1
    generalize positions x.g.n x.act = l
    induction l with
    | nil => rfl
    | cons p l ih => simp only [flagsOf]; rw [ih]

/-- A word that computes at each position alone, by `f`, with results that `R` accepts, runs. -/
theorem v3_runs {i : Instr} {v : V3} {legal : Bool} {acc : Accept} {cost : Cost} {R : Ix → Nat → Nat → Nat → Nat × Half → Prop}
    (f : Ix → Nat → Nat → Nat → Nat × Half) (hi : ∀ s, exec i s = s.v3 v legal acc cost f)
    (hR : ∀ x a b c, R x a b c ((f x a b c).1 % (if v.pd then 2 ^ 64 else 2 ^ 32), (f x a b c).2)) :
    V3Runs i v legal acc cost R :=
  vec_runs _ (fun x vals p => f x (v.args x vals p).1 (v.args x vals p).2.1 (v.args x vals p).2.2) hi (fun _ _ _ => rfl)
    (fun _ _ _ => hR _ _ _ _)

/-! ### Results by elements -/

/-- A result by elements: each element of it, and the flags of all. -/
theorem perElem_spec (n cnt : Nat) (xs : List Nat) (f : List Nat → Nat × Half) :
    (perElem n cnt xs f).1 < 2 ^ (n * cnt)
    ∧ (∀ j, j < cnt → el n j (perElem n cnt xs f).1 = (f (xs.map (el n j))).1 % 2 ^ n)
    ∧ (perElem n cnt xs f).2 = (List.range cnt).foldl (fun a j => a ||| (f (xs.map (el n j))).2) 0 := by
  induction cnt with
  | zero => simp [perElem]
  | succ cnt ih =>
    obtain ⟨h1, h2, h3⟩ := ih
    have hs : perElem n (cnt + 1) xs f = ((perElem n cnt xs f).1 + (f (xs.map (el n cnt))).1 % 2 ^ n * 2 ^ (n * cnt),
        (perElem n cnt xs f).2 ||| (f (xs.map (el n cnt))).2) := by
      simp only [perElem, List.range_succ, List.foldl_append, List.foldl_cons, List.foldl_nil]; rfl
    have hp : 0 < 2 ^ (n * cnt) := by positivity
    have hq : (f (xs.map (el n cnt))).1 % 2 ^ n < 2 ^ n := Nat.mod_lt _ (by positivity)
    rw [hs]
    refine ⟨?_, ?_, ?_⟩
    · rw [Nat.mul_succ, pow_add]
      nlinarith
    · intro j hj
      unfold el
      by_cases hjc : j = cnt
      · subst hjc
        rw [Nat.add_mul_div_right _ _ hp, Nat.div_eq_of_lt h1, Nat.zero_add, Nat.mod_mod]
      · have hlt : j < cnt := by omega
        rw [show n * cnt = n * j + (n + n * (cnt - j - 1)) by
          obtain ⟨k, rfl⟩ : ∃ k, cnt = j + 1 + k := ⟨cnt - j - 1, by omega⟩
          rw [show j + 1 + k - j - 1 = k by omega]; ring]
        rw [pow_add, pow_add, ← Nat.mul_assoc, ← Nat.mul_assoc, Nat.mul_right_comm _ (2 ^ (n * j)), Nat.mul_right_comm _ (2 ^ (n * j)),
          Nat.add_mul_div_right _ _ (by positivity), Nat.mul_right_comm, Nat.add_mul_mod_self_right]
        exact h2 j hlt
    · rw [List.range_succ, List.foldl_append, h3]; rfl

/-- An exact result as the type wraps or clamps it. -/
theorem IType.result_spec (t : IType) (sat : Bool) (i : Int) :
    (((t.result sat i).1 : Nat) : Int) = (if sat then max (typeMin t.signed t.n) (min i (typeMax t.signed t.n)) else i) % 2 ^ t.n
    ∧ (t.result sat i).2 = if sat = true ∧ (i < typeMin t.signed t.n ∨ typeMax t.signed t.n < i) then fSAT else 0 := by
  have hpow : (0 : Int) < 2 ^ t.n := by positivity
  have hs : ∀ k : Int, ((ofSigned t.n k : Nat) : Int) = k % 2 ^ t.n := fun k => by
    unfold ofSigned; rw [Int.toNat_of_nonneg (Int.emod_nonneg _ hpow.ne')]
  have hmm : typeMin t.signed t.n ≤ typeMax t.signed t.n := by
    unfold typeMin typeMax
    have : 0 < 2 ^ (t.n - 1) := by positivity
    have : 0 < 2 ^ t.n := by positivity
    split <;> omega
  unfold IType.result
  cases sat
  · simp [hs]
  · simp only [if_true, true_and, clampTo]
    split
    · next h => rw [max_eq_left (by omega)]; simp [hs, h]
    · next h =>
      split
      · next h2 => rw [min_eq_right (by omega), max_eq_right hmm]; simp [hs, h2]
      · next h2 => rw [min_eq_left (by omega), max_eq_right (by omega)]; simp [hs, h, h2]

/-! ### Masks -/

theorem Group.has_mreg_setM (g : Group) (m : Nat) (f : Nat → Bool) (p : Nat) (hp : p < g.n) (h : p < 256) (hm : m ≠ 0) :
    has ((g.setM m (maskOf g.n f)).mreg m) p = f p := by
  have hn : (g.setM m (maskOf g.n f)).n = g.n := rfl
  unfold Group.mreg
  rw [hn]
  simp only [hm, if_false, Group.setM, fget_fset, if_true, has_and, has_maskOf_lt _ _ _ h, has_lowMask_lt _ _ h]
  simp [hp]

theorem Group.mreg_setM_other (g : Group) (m k : Nat) (w : Mask) (h : k ≠ m) : (g.setM m w).mreg k = g.mreg k := by
  have hn : (g.setM m w).n = g.n := rfl
  unfold Group.mreg
  rw [hn]
  simp only [Group.setM, fget_fset, if_neg (Ne.symm h)]

/-- The raising of flags by mask results changes flags alone. -/
theorem raise_mask (r : Nat → Bool × Half) (l : List Nat) (g : Group) :
    ∃ fl, l.foldl (fun g p => if (r p).2 = 0 then g else g.raiseFlags (g.member p) (r p).2) g = { g with fstat := fl } := by
  induction l generalizing g with
  | nil => exact ⟨g.fstat, rfl⟩
  | cons p l ih =>
    simp only [List.foldl_cons]
    split
    · exact ih g
    · obtain ⟨fl, h⟩ := ih (g.raiseFlags (g.member p) (r p).2); exact ⟨fl, h.trans rfl⟩

/-- A word that writes an m register by `f`, with results that `R` accepts, runs. -/
theorem mask_runs {i : Instr} {v : V3} {m : BitVec 4} {legal : Bool} {acc : Accept} {cost : Cost} {R : Nat → Nat → Bool × Half → Prop}
    (f : Ix → Nat → Nat → Bool × Half) (hi : ∀ s, exec i s = s.vmask v m legal acc cost f) (hR : ∀ x a b, R a b (f x a b)) :
    MaskRuns i v m legal acc cost R := by
  intro s x his hr
  have hm : m.toNat ≠ 0 := by
    have h1 := hr.1
    intro h
    have h0 : m = 0 := by apply BitVec.eq_of_toNat_eq; simpa using h
    rw [h0] at h1
    simp [Ix.vecFault, V3.op] at h1
  refine ⟨fun p => f x (v.args x (opVals s x { v.op x (legal && m != 0) acc false cost with vd := [] }) p).1
    (v.args x (opVals s x { v.op x (legal && m != 0) acc false cost with vd := [] }) p).2.1, fun p _ _ => hR _ _ _, ?_⟩
  rw [hi]
  unfold State.vmask
  rw [word_run his]
  generalize hr' : (fun p => f x (v.args x (opVals s x { v.op x (legal && m != 0) acc false cost with vd := [] }) p).1
    (v.args x (opVals s x { v.op x (legal && m != 0) acc false cost with vd := [] }) p).2.1) = r
  have hsh : ∀ g : Group, ∃ ms fl, x.writeMask m.toNat r g = { g with m := ms, fstat := fl } := by
    intro g
    unfold Ix.writeMask
    obtain ⟨fl, h⟩ := raise_mask r (positions (g.setM m.toNat (maskOf g.n (fun p => if has x.act p then (r p).1 else if has x.off p then false
      else has (g.mreg m.toNat) p))).n x.act) (g.setM m.toNat (maskOf g.n (fun p => if has x.act p then (r p).1 else if has x.off p then false
      else has (g.mreg m.toNat) p)))
    exact ⟨_, fl, h⟩
  have hmreg : ∀ g : Group, ∀ k, (x.writeMask m.toNat r g).mreg k = (g.setM m.toNat (maskOf g.n (fun p => if has x.act p then (r p).1
      else if has x.off p then false else has (g.mreg m.toNat) p))).mreg k := by
    intro g k
    unfold Ix.writeMask
    obtain ⟨fl, h⟩ := raise_mask r (positions (g.setM m.toNat (maskOf g.n (fun p => if has x.act p then (r p).1 else if has x.off p then false
      else has (g.mreg m.toNat) p))).n x.act) (g.setM m.toNat (maskOf g.n (fun p => if has x.act p then (r p).1 else if has x.off p then false
      else has (g.mreg m.toNat) p)))
    simp only [h]; rfl
  refine vec_completes his hr (x.writeMask m.toNat r) (fun g => ?_) ?_ (fun ps q => ⟨?_, ?_, ?_, ?_⟩) _ (fun n => by subst hr'; rfl)
  · obtain ⟨ms, fl, h⟩ := hsh g; rw [h]
  · obtain ⟨ms, fl, h⟩ := hsh x.g; rw [h]
  · obtain ⟨ms, fl, h⟩ := hsh x.g; exact ⟨ms, fl, q, ps, by rw [h]⟩
  · intro p hp h
    have := hmreg x.g m.toNat
    refine (congrArg (fun w => has w p) this).trans ?_
    exact Group.has_mreg_setM x.g m.toNat _ p hp h hm
  · intro k hk
    exact (hmreg x.g k).trans (Group.mreg_setM_other _ _ _ _ hk)
  · intro e
    have := flags_raise x (fun p => (0, (r p).2)) e (positions x.g.n x.act) (x.g.setM m.toNat (maskOf x.g.n (fun p => if has x.act p then (r p).1
      else if has x.off p then false else has (x.g.mreg m.toNat) p))) rfl
    exact this

end Sys2Proof.Machine
end

