-- ==== Sys2Proof/Tests/Slice0.lean ====
section
/-! SUPPORT. Tests: ill-formed terms, words of the encoding tables, one step of each word and of many other steps on a small state, and for every statement
a state that meets its hypotheses. Expected values are hand computed from the spec's rules or are its worked examples. -/
namespace Sys2Proof.Tests

open Sys2Proof Sys2Proof.Machine

/-! ### A small state -/

/-- A state whose next step issues the word: one group of 16 lanes, changed by `f`. -/
def stand (ws : List Word) (f : Group → Group) : State :=
  let s := State.reset.withFetchWord 32 0
  let c : Clause := { base := 0, hdr := { n := ws.length, cls := 7, ms := false, epol := false, wtk := false, wcq := false, wpa := false, wst := false }, words := ws }
  { s with blocks := s.blocks.map (fun b => { b with scr := 1024 }), groups := s.groups.map (fun g => f (g.onPath 0 (fun p => { p with fetched := some c }))) }

/-- The same with the clause's milestone bit set. -/
def standMs (ws : List Word) (f : Group → Group) : State :=
  stand ws (fun g => f (g.onPath 0 (fun p => { p with fetched := p.fetched.map (fun c => { c with hdr := { c.hdr with ms := true } }) })))

/-- The same with two members of 16 lanes. -/
def standTwo (ws : List Word) (f : Group → Group) : State :=
  stand ws (fun g => f ({ g with e := 2 }.onPath 0 (fun p => { p with mask := lowMask 32 })))

/-- Function 0 with a page table: the first GiB of its addresses is the first GiB of HBM; `bits` are the leaf's further bits. Its weight
region is one unit, its receive table lies at 0x8000. -/
def mapped (bits : Nat) (s : State) : State :=
  { (s.setCtx 0 { s.ctx 0 with root := 1, weight := [(1, 262144)], rxtab := 0x8000 }) with
    hbm := writeBytes (writeBytes (writeBytes [] 0x1000 8 0x2001) 0x2000 8 0x3001) 0x3000 8 (0x31B + bits),
    dirty := [⟨0, false, 256⟩, ⟨0, false, 288⟩, ⟨0, false, 289⟩] }

def standMap (ws : List Word) (f : Group → Group) : State := mapped 0 (stand ws f)
def standRx (ws : List Word) (f : Group → Group) : State := mapped 0 (stand ws f)

/-- The same with the page a capsule-home page. -/
def standCap (ws : List Word) (f : Group → Group) : State := mapped 0x80 (stand ws f)

def vIs (r v : Nat) (g : Group) : Group := g.writeV r (fun _ => some (BitVec.ofNat 32 v))
def vTab (r : Nat) (f : Nat → Nat) (g : Group) : Group := g.writeV r (fun p => some (BitVec.ofNat 32 (f p)))
def lanes (r : Nat) (g : Group) : Group := vTab r (fun p => p) g
def sIs (r v : Nat) (g : Group) : Group := g.setS r (dw v)
def kIs (r v : Nat) (g : Group) : Group := { g with k := List.replicate r 0 ++ [dw v] }
def mIs (r v : Nat) (g : Group) : Group := g.setM r (BitVec.ofNat 256 v)
def xOne : Xa := { Xa.reset with anchor := some (-40), int := 2 ^ 40 }
def xIs (i : Nat) (x : Xa) (g : Group) : Group := (List.range g.n).foldl (fun g p => g.setX i p x) g
def flagsIs (f : Nat) (g : Group) : Group := g.raiseFlags 0 (BitVec.ofNat 16 f)
def deep (g : Group) : Group := { g with dstack := 2 }
def fewer (g : Group) : Group := { g with vcur := 100 }
def qWith (q pos : Nat) (b : Option (Nat × Nat)) (g : Group) : Group :=
  g.setStream q { Stream.reset with q0 := 0x8000, q1 := dw (2 * 2 ^ 59 + 6 * 2 ^ 24 + 6), q2 := dw (24 * 2 ^ 32 + 4), pos := pos, bind := b }
def qIs (q : Nat) (g : Group) : Group := qWith q 0 none g
def qAt (q pos : Nat) (g : Group) : Group := qWith q pos none g
def qBound (q : Nat) (g : Group) : Group := qWith q 0 (some (0, 40)) g
/-- R276's row: 3.0, -1.5, 0.1, 40.0, a quiet NaN and eleven zeros in v0 to v15. -/
def rqRow (g : Group) : Group :=
  vIs 0 0x40400000 (vIs 1 0xBFC00000 (vIs 2 0x3DCCCCCD (vIs 3 0x42200000 (vIs 4 0x7FC00000 g))))

/-- The step of `s` goes on, and `f` holds of its next state and of the one group there. -/
def ran (s : State) (f : State → Group → Bool) : Bool :=
  match step s with | .next t => (match t.groups with | [g] => f t g | _ => false) | _ => false

/-- The instructions run one after another, and `f` holds at the end. -/
def runs (s : State) (is : List Instr) (f : State → Bool) : Bool :=
  match is with | [] => f s | i :: is => (match exec i s with | .next t => runs t is f | _ => false)

def scr8 (s : State) (a : Nat) : Nat := match s.blocks with | [b] => readBytes b.data a 8 | _ => 0
def hbm8 (s : State) (a : Nat) : Nat := readBytes s.hbm a 8

/-! ### Words of the encoding tables, written out bit by bit -/

def reads (l : List (Word × Instr)) : Bool := l.all (fun e => match decode e.1 with | .ok i => i == e.2 | .error _ => false)

theorem test_decode_0 :
  reads [(0x00D28EE6, .vadd 52 81 110 3 0), (0x028E05D5, .vsub 35 64 93 2 1), (0x044574B2, .vmul 17 46 75 1 0), (0x0604EBAE, .vmulh 1 29 58 7 0),
    (0x09B8629D, .vmad 110 12 41 6 1), (0x0B77D178, .vmin 93 122 23 4 0), (0x0D334866, .vmax 76 105 6 3 0), (0x0EEABF55, .vabsd 58 87 117 2 1),
    (0x10A63633, .vand 41 70 99 1 1), (0x1261AD26, .vor 24 53 82 3 0), (0x14191C05, .vxor 6 35 64 2 1), (0x17D492F3, .vandn 117 18 47 1 1),
    (0x198C09E6, .vshl 99 1 30 3 0), (0x1B4B78C3, .vshr 82 111 12 1 1), (0x1D06F7B3, .vsar 65 94 123 1 1)] = true := by decide

theorem test_decode_1 :
  reads [(0x1EBE66AE, .vrot 47 76 106 7 0), (0x2079DD82, .vbfx 30 59 88 1 0), (0x22355471, .vbfi 13 42 71 0 1), (0x25ECC002, .vpopc 123 24 1),
    (0x27A83802, .vclz 106 7 1), (0x28589B0A, .vcmp 1 6 19 48 5 0), (0x2B1F2014, .vsel 71 100 1 2 0), (0x2CD80533, .vmov 54 83 1 1),
    (0x2E920AF9, .vaddi 36 65 95 1), (0x304D826A, .vshli 19 48 77 2), (0x3208F9E1, .vshri 2 31 60 1), (0x35C06951, .vandi 112 13 42 1),
    (0x36F0C9B3, .vcmpi 3 12 25 54 3), (0x39340759, .vmovi 77 235 1), (0x40F2CF67, .fadd 60 89 118 3 1)] = true := by decide

theorem test_decode_2 :
  reads [(0x42AE4655, .fsub 43 72 101 2 1), (0x4465B542, .fmul 25 54 84 1 0), (0x46212C26, .ffma 8 37 66 3 0), (0x49DCA315, .fmin 119 20 49 2 1),
    (0x4B9411F2, .fmax 101 2 31 1 0), (0x4D5388E6, .fsgn 84 113 14 3 0), (0x4E07E9AE, .fcmp 0 1 125 26 7 0), (0x50C6709C, .fcvt 49 78 1 1 6),
    (0x5281E800, .fclass 32 61 0), (0x54395802, .fsfn 14 43 1), (0x57F4D373, .fdiv 125 26 55 1 1), (0x59B04804, .fsqrt 108 9 2),
    (0x5B6BB802, .frnd 90 119 1), (0x5D273033, .fldexp 73 102 3 1 1), (0x5EDEAF26, .fdot2 55 85 114 1 0)] = true := by decide

theorem test_decode_3 :
  reads [(0x60080000, .xclr 2), (0x6205900E, .xadd 1 50 7), (0x640D03E6, .xfma 3 32 62 3), (0x66087808, .xsub 2 15 4), (0x69841006, .xrd 97 2 3),
    (0x6A0C0800, .xmrg 3 1), (0x6CF81800, .xst 62 3), (0x6E065000, .xld 1 74), (0x706DC00A, .qswz 27 56 5), (0x72293808, .qdiff 10 39 4),
    (0x75E0AB33, .shfl 120 21 51 1 1), (0x779C201C, .vred 103 4 1 6), (0x795B9854, .vscan 86 115 0 5 2), (0x7A130800, .vballot 4 97),
    (0x7ACE8002, .vballotCnt 51 80)] = true := by decide

theorem test_decode_4 :
  reads [(0x7C85F808, .vmatch 33 63 4), (0x7E416CA3, .mxchBc 16 45 74 1 1), (0x7FFCE26A, .mxchRed 127 28 1 6 5), (0x81695410, .sadd 45 10 40 1 0),
    (0x82E72B10, .ssub 28 57 22 1 0), (0x845D02A8, .smul 11 40 5 2 1), (0x87CAD988, .smad 57 22 51 1), (0x8940B108, .sand 40 5 34 1),
    (0x8AB68880, .sor 22 52 17 0), (0x8C2C5F80, .sxor 5 34 63 0), (0x8FA23708, .sshl 52 17 46 1), (0x9117EE80, .sshr 34 63 29 0),
    (0x928DC580, .ssar 17 46 11 0), (0x940BBD70, .scmp 1 29 58 7 0), (0x97717400, .ssel 46 11 40 0)] = true := by decide

theorem test_decode_5 :
  reads [(0x98E81D08, .smov 29 58 1), (0x9A5D38C4, .saddi 11 41 198 1), (0x9DD2FA28, .smin 58 23 52 1 1), (0x9D48D198, .smax 41 6 35 0 1),
    (0x9EBE9240, .srd 23 52 146), (0x9E3460E4, .srdClr 6 35), (0xA1AA2C6F, .bra 53 2 11375), (0xA2181D5D, .bdiv 3 0 7517), (0xA4000000, .join),
    (0xA608E11E, .call 1 57630), (0xA9780000, .ret 47), (0xAAF00000, .jmpi 30), (0xAC000000, .exit), (0xAE000000, .nop),
    (0xAE010000, .yield)] = true := by decide

theorem test_decode_6 :
  reads [(0xB0635D26, .ld 24 53 210 1 1 0), (0xB21E4C18, .st 7 36 193 2), (0xB5D5360A, .ldx 117 19 48 1 0 1 0), (0xB79013D9, .stx 100 1 30 3 1),
    (0xB94F01B5, .lds 83 48 13 2 1 0 1), (0xBB05EF88, .sts 65 30 124 1 0), (0xBCC0DD59, .ldw 48 13 106 3 0 0 1), (0xBE7FCB35, .ldc 31 60 89 2 1 0 1),
    (0xC03551AE, .atom 13 42 1 1 2 7), (0xC3F0C832, .red 124 25 0 3 1), (0xC5A84178, .atoms 106 8 1 0 7 4), (0xC60001C0, .fence 1 6),
    (0xC8000000, .flushagg), (0xC8000020, .flushaggWait), (0xCA284000, .qsetBase 5 2)] = true := by decide

theorem test_decode_7 :
  reads [(0xCA262718, .qsetShape 4 49 14 1), (0xCC13E010, .qbind 2 31 1), (0xCC080030, .qbindOff 1), (0xCEF8A000, .qposRd 31 5),
    (0xCE356010, .qposWr 6 43), (0xD1EB5B80, .cpy 61 26 55), (0xD3591300, .cpym 43 8 38), (0xD4D6EA00, .halo 26 55 20),
    (0xD44CC181, .haloAllm 9 38 3), (0xD7BA8000, .kick 55 20), (0xD9306000, .mighHot 38 3), (0xD8A64001, .mighCold 20 50),
    (0xD81C0002, .mighClr 3 32), (0xDB91E000, .rtsend 50 15), (0xDD07A000, .rtrecvFill 32 61)] = true := by decide

theorem test_decode_8 :
  reads [(0xDC7D8001, .rtrecvNext 15 44), (0xDDF36002, .rtrecvLand 62 27), (0xDD612003, .rtrecvReset 44 9), (0xE17C1565, .mma 11 56 21 50 1),
    (0xE3338442, .mmag 9 39 4 33 0), (0xE500000A, .aclr 8 5), (0xE6E2610C, .ard 7 4 97 6), (0xE8B950DA, .ards 5 50 80 109),
    (0xEA110826, .rqcvt 4 33 2 3), (0xEC066800, .tarm 51 16), (0xEC042010, .tarmClr 33), (0xEC0216A0, .tarmInit 16 45 0),
    (0xEE07CE08, .tadd 62 28 1), (0xEF695390, .taddR 45 10 39 0), (0xF0038000, .arrive 28)] = true := by decide

theorem test_decode_9 :
  reads [(0xF0015398, .arriveAdd 10 39 1), (0xF0072020, .arriveWait 57), (0xF340B108, .poll 40 5 34 1), (0xF4B66000, .capenter 22 51),
    (0xF42C4010, .capstep 5 34), (0xF59A2020, .capexit 51 17), (0xF517E030, .capres 34 63), (0xF6000220, .regrel 17), (0xF6001FE4, .regclm 255),
    (0xF805C000, .tspawn 46), (0xFA001BA0, .sysTrap 221), (0xFA001964, .sysBrk 203), (0xFA000008, .sysHalt), (0xFB40004C, .sysPmrd 40 2),
    (0xFAB80010, .sysCyc 23)] = true := by decide

theorem test_decode_10 :
  reads [(0xFA00D474, .sysEvsig 6 163)] = true := by decide

/-! ### One step of each word -/

theorem test_vadd_wraps : ran (stand [0x00041030] (fun g => vIs 3 0x2 (vIs 2 0xFFFFFFFF g))) (fun _ g => g.v1 1 3 == 0x1) = true := by decide

theorem test_vadd_saturates : ran (stand [0xFC000010, 0x00041030] (fun g => vIs 3 0x2 (vIs 2 0x7FFFFFFF g))) (fun _ g => g.v1 1 3 == 0x7FFFFFFF && g.flags 0 == 0x20) = true := by decide

theorem test_vsub : ran (stand [0x02041030] (fun g => vIs 3 0x7 (vIs 2 0x5 g))) (fun _ g => g.v1 1 3 == 0xFFFFFFFE) = true := by decide

theorem test_vmul_low_half : ran (stand [0x04041030] (fun g => vIs 3 0x10001 (vIs 2 0x10001 g))) (fun _ g => g.v1 1 3 == 0x20001) = true := by decide

theorem test_vmulh_signed : ran (stand [0x06041030] (fun g => vIs 3 0x2 (vIs 2 0xFFFFFFFF g))) (fun _ g => g.v1 1 3 == 0xFFFFFFFF) = true := by decide

theorem test_vmulh_unsigned : ran (stand [0x06041032] (fun g => vIs 3 0x2 (vIs 2 0xFFFFFFFF g))) (fun _ g => g.v1 1 3 == 0x1) = true := by decide

theorem test_vmad : ran (stand [0x08041030] (fun g => vIs 3 0x4 (vIs 2 0x3 (vIs 1 0x5 g)))) (fun _ g => g.v1 1 3 == 0x11) = true := by decide

theorem test_vmad_third_operand : ran (stand [0xFC000D00, 0x08041030] (fun g => vIs 6 0x64 (vIs 3 0x4 (vIs 2 0x3 (vIs 1 0x5 g))))) (fun _ g => g.v1 1 3 == 0x70) = true := by decide

theorem test_vmin_signed : ran (stand [0x0A041030] (fun g => vIs 3 0x1 (vIs 2 0xFFFFFFFF g))) (fun _ g => g.v1 1 3 == 0xFFFFFFFF) = true := by decide

theorem test_vmin_unsigned : ran (stand [0x0A041032] (fun g => vIs 3 0x1 (vIs 2 0xFFFFFFFF g))) (fun _ g => g.v1 1 3 == 0x1) = true := by decide

theorem test_vmax_packed : ran (stand [0x0C041038] (fun g => vIs 3 0x10003 (vIs 2 0xFFFF0005 g))) (fun _ g => g.v1 1 3 == 0x10005) = true := by decide

theorem test_vabsd_extremes : ran (stand [0x0E041030] (fun g => vIs 3 0x7FFFFFFF (vIs 2 0x80000000 g))) (fun _ g => g.v1 1 3 == 0xFFFFFFFF) = true := by decide

theorem test_vand : ran (stand [0x10041030] (fun g => vIs 3 0xFF00 (vIs 2 0xF0F0 g))) (fun _ g => g.v1 1 3 == 0xF000) = true := by decide

theorem test_vor : ran (stand [0x12041030] (fun g => vIs 3 0xFF00 (vIs 2 0xF0F0 g))) (fun _ g => g.v1 1 3 == 0xFFF0) = true := by decide

theorem test_vxor : ran (stand [0x14041030] (fun g => vIs 3 0xFF00 (vIs 2 0xF0F0 g))) (fun _ g => g.v1 1 3 == 0xFF0) = true := by decide

theorem test_vandn_a_and_not_b : ran (stand [0x16041030] (fun g => vIs 3 0xFF00 (vIs 2 0xF0F0 g))) (fun _ g => g.v1 1 3 == 0xF0) = true := by decide

theorem test_vshl_count_modulo_width : ran (stand [0x18041030] (fun g => vIs 3 0x21 (vIs 2 0x1 g))) (fun _ g => g.v1 1 3 == 0x2) = true := by decide

theorem test_vshr : ran (stand [0x1A041030] (fun g => vIs 3 0x1F (vIs 2 0x80000000 g))) (fun _ g => g.v1 1 3 == 0x1) = true := by decide

theorem test_vsar : ran (stand [0x1C041030] (fun g => vIs 3 0x1F (vIs 2 0x80000000 g))) (fun _ g => g.v1 1 3 == 0xFFFFFFFF) = true := by decide

theorem test_vrot_left : ran (stand [0x1E041030] (fun g => vIs 3 0x1 (vIs 2 0x80000001 g))) (fun _ g => g.v1 1 3 == 0x3) = true := by decide

theorem test_vbfx_sign_extends : ran (stand [0x20041030] (fun g => vIs 3 0x404 (vIs 2 0xF0 g))) (fun _ g => g.v1 1 3 == 0xFFFFFFFF) = true := by decide

theorem test_vbfx_clips_width : ran (stand [0x20041032] (fun g => vIs 3 0x3F1F (vIs 2 0x80000000 g))) (fun _ g => g.v1 1 3 == 0x1) = true := by decide

theorem test_vbfi_keeps_other_bits : ran (stand [0x22041030] (fun g => vIs 3 0x404 (vIs 2 0x5 (vIs 1 0xFFFFFFFF g)))) (fun _ g => g.v1 1 3 == 0xFFFFFF5F) = true := by decide

theorem test_vpopc : ran (stand [0x24041000] (fun g => vIs 2 0xFF00F g)) (fun _ g => g.v1 1 3 == 0xC) = true := by decide

theorem test_vclz_of_zero : ran (stand [0x26041000] (fun g => vIs 2 0x0 g)) (fun _ g => g.v1 1 3 == 0x20) = true := by decide

/-- R188: the example word vcmp.lt.n32 m3, v1, v2. -/
theorem test_vcmp_example_word : ran (stand [0x284C0824] (fun g => vIs 2 0xFFFFFFFF (vIs 1 0x1 g))) (fun _ g => g.mreg 3 == 0xFFFF) = true := by decide

theorem test_vsel_by_mask : ran (stand [0xFC000500, 0x2A041030] (fun g => mIs 2 0x8 (vIs 3 0x9 (vIs 2 0x7 g)))) (fun _ g => g.v1 1 3 == 0x7 && g.v1 1 2 == 0x9) = true := by decide

theorem test_vmov_broadcasts_s : ran (stand [0x2C040051] (fun g => sIs 5 0x1234 g)) (fun _ g => g.v1 1 3 == 0x1234) = true := by decide

theorem test_vaddi_minus_one : ran (stand [0x2E0417F8] (fun g => vIs 2 0x0 g)) (fun _ g => g.v1 1 3 == 0xFFFFFFFF) = true := by decide

theorem test_vshli : ran (stand [0x30041020] (fun g => vIs 2 0x3 g)) (fun _ g => g.v1 1 3 == 0x30) = true := by decide

theorem test_vshri_arithmetic : ran (stand [0x32041008] (fun g => vIs 2 0xFFFFFFF8 g)) (fun _ g => g.v1 1 3 == 0xFFFFFFFC) = true := by decide

theorem test_vandi_zero_extends : ran (stand [0x340417F8] (fun g => vIs 2 0xFFFFFFFF g)) (fun _ g => g.v1 1 3 == 0xFF) = true := by decide

/-- R188: the immediate -1 of n32 compares as 0xFFFF_FFFF. -/
theorem test_vcmpi_unsigned_minus_one : ran (stand [0x36480FF8] (fun g => vIs 1 0xFFFFFFFF g)) (fun _ g => g.mreg 2 == 0xFFFF) = true := by decide

/-- R221: vcmpi.lt.i32 m2, v1, 0 on values that are not negative. -/
theorem test_vcmpi_example_word : ran (stand [0x36080802] (fun g => lanes 1 g)) (fun _ g => g.mreg 2 == 0) = true := by decide

theorem test_vmovi_sign_extends : ran (stand [0x380407F8] id) (fun _ g => g.v1 1 3 == 0xFFFFFFFF) = true := by decide

theorem test_fadd_ties_to_even : ran (stand [0x40041030] (fun g => vIs 3 0x33800000 (vIs 2 0x3F800000 g))) (fun _ g => g.v1 1 3 == 0x3F800000 && g.flags 0 == 0x10) = true := by decide

theorem test_fadd_inf_minus_inf : ran (stand [0x40041030] (fun g => vIs 3 0xFF800000 (vIs 2 0x7F800000 g))) (fun _ g => g.v1 1 3 == 0x7FC00000 && g.flags 0 == 1) = true := by decide

theorem test_fsub_zero_sign_in_rd : ran (stand [0xFC040000, 0x42041030] (fun g => vIs 3 0x3F800000 (vIs 2 0x3F800000 g))) (fun _ g => g.v1 1 3 == 0x80000000) = true := by decide

theorem test_fmul : ran (stand [0x44041030] (fun g => vIs 3 0x40000000 (vIs 2 0x40400000 g))) (fun _ g => g.v1 1 3 == 0x40C00000) = true := by decide

theorem test_ffma_adds_d : ran (stand [0x46041030] (fun g => vIs 3 0x40000000 (vIs 2 0x40400000 (vIs 1 0x3F800000 g)))) (fun _ g => g.v1 1 3 == 0x40E00000) = true := by decide

theorem test_fmin_of_zeros : ran (stand [0x48041030] (fun g => vIs 3 0x80000000 (vIs 2 0x0 g))) (fun _ g => g.v1 1 3 == 0x80000000) = true := by decide

theorem test_fmax_of_zeros : ran (stand [0x4A041030] (fun g => vIs 3 0x0 (vIs 2 0x80000000 g))) (fun _ g => g.v1 1 3 == 0x0) = true := by decide

theorem test_fsgn_copies_sign : ran (stand [0x4C041030] (fun g => vIs 3 0x80000000 (vIs 2 0x3F800000 g))) (fun _ g => g.v1 1 3 == 0xBF800000) = true := by decide

theorem test_fcmp_lt : ran (stand [0x4E0C1034] (fun g => vIs 3 0x3F800000 (vIs 2 0xBF800000 g))) (fun _ g => g.mreg 3 == 0xFFFF) = true := by decide

theorem test_fcvt_ties_to_even : ran (stand [0x50041008] (fun g => vIs 2 0x40200000 g)) (fun _ g => g.v1 1 3 == 0x2 && g.flags 0 == 0x10) = true := by decide

/-- R63. -/
theorem test_fcvt_clamps : ran (stand [0x50041008] (fun g => vIs 2 0x4F800000 g)) (fun _ g => g.v1 1 3 == 0x7FFFFFFF && g.flags 0 == 0x21) = true := by decide

theorem test_fclass_plus_zero : ran (stand [0x52041000] (fun g => vIs 2 0x0 g)) (fun _ g => g.v1 1 3 == 0x10) = true := by decide

/-- R198: the exact cases. -/
theorem test_fsfn_rcp_of_two : ran (stand [0x54041000] (fun g => vIs 2 0x40000000 g)) (fun _ g => g.v1 1 3 == 0x3F000000) = true := by decide

theorem test_fdiv_one_third : ran (stand [0x56041030] (fun g => vIs 3 0x40400000 (vIs 2 0x3F800000 g))) (fun _ g => g.v1 1 3 == 0x3EAAAAAB) = true := by decide

theorem test_fsqrt_of_minus_zero : ran (stand [0x58041000] (fun g => vIs 2 0x80000000 g)) (fun _ g => g.v1 1 3 == 0x80000000) = true := by decide

theorem test_frnd_ties_to_even : ran (stand [0x5A041000] (fun g => vIs 2 0x40200000 g)) (fun _ g => g.v1 1 3 == 0x40000000 && g.flags 0 == 0) = true := by decide

theorem test_fldexp : ran (stand [0x5C041030] (fun g => vIs 3 0x3 (vIs 2 0x3F800000 g))) (fun _ g => g.v1 1 3 == 0x41000000) = true := by decide

theorem test_fdot2_bf16 : ran (stand [0x5E041034] (fun g => vIs 3 0x3F804000 (vIs 2 0x40004040 (vIs 1 0x3F800000 g)))) (fun _ g => g.v1 1 3 == 0x41100000) = true := by decide

theorem test_xclr : ran (stand [0x60040000] (fun g => xIs 1 xOne g)) (fun _ g => g.xreg 1 3 == Xa.reset) = true := by decide

/-- R82: the lowest bit stands at window bit 40. -/
theorem test_xadd_of_one : ran (stand [0x62001000] (fun g => vIs 2 0x3F800000 g)) (fun _ g => (g.xreg 0 3).anchor == some (-40) && (g.xreg 0 3).int == 2 ^ 40) = true := by decide

theorem test_xfma_two_by_three : ran (stand [0x64001030] (fun g => vIs 3 0x40400000 (vIs 2 0x40000000 g))) (fun _ g => (g.xreg 0 3).anchor == some (-39) && (g.xreg 0 3).int == 3 * 2 ^ 40) = true := by decide

theorem test_xsub_of_one : ran (stand [0x66001000] (fun g => vIs 2 0x3F800000 g)) (fun _ g => (g.xreg 0 3).int == -(2 ^ 40)) = true := by decide

/-- R85: the example 2^-30, 1.0, 2^-24. -/
theorem test_xrd_rounds_once : ran (stand [0x68040000] (fun g => xIs 0 { Xa.reset with anchor := some (-70), int := 0x400000410000000000 } g)) (fun _ g => g.v1 1 3 == 0x3F800001) = true := by decide

theorem test_xmrg_adds : ran (stand [0x6A000800] (fun g => xIs 1 xOne (xIs 0 xOne g))) (fun _ g => (g.xreg 0 3).int == 2 ^ 41) = true := by decide

theorem test_xst_image : ran (stand [0x6C100000] (fun g => xIs 0 xOne g)) (fun _ g => g.v1 5 3 == 0x100 && g.v1 4 3 == 0) = true := by decide

theorem test_xld_zero_image : ran (stand [0x6E042000] (fun g => xIs 1 xOne (vIs 9 0x8000000 (vIs 8 0x0 (vIs 7 0x0 (vIs 6 0x0 (vIs 5 0x0 (vIs 4 0x0 g)))))))) (fun _ g => (g.xreg 1 3).int == 0) = true := by decide

theorem test_qswz_x1 : ran (stand [0x70041008] (fun g => lanes 2 g)) (fun _ g => g.v1 1 3 == 0x2 && g.v1 1 2 == 0x3) = true := by decide

theorem test_qdiff_cx : ran (stand [0x72041000] (fun g => vTab 2 (fun p => if p % 4 = 1 then 0x40400000 else 0x3F800000) g)) (fun _ g => g.v1 1 3 == 0x40000000) = true := by decide

/-- R204: pick with b = -1 names lane W - 1. -/
theorem test_shfl_pick_minus_one : ran (stand [0x74041030] (fun g => vIs 3 0xFFFFFFFF (lanes 2 g))) (fun _ g => g.v1 1 3 == 0xF) = true := by decide

/-- R204: rev with b = 2 reverses each quad. -/
theorem test_shfl_rev_quads : ran (stand [0x74041034] (fun g => vIs 3 0x2 (lanes 2 g))) (fun _ g => g.v1 1 3 == 0x0 && g.v1 1 5 == 0x6) = true := by decide

theorem test_vred_add : ran (stand [0x76041000] (fun g => lanes 2 g)) (fun _ g => g.v1 1 3 == 0x78 && g.v1 1 15 == 0x78) = true := by decide

theorem test_vscan_exclusive : ran (stand [0x78041400] (fun g => lanes 2 g)) (fun _ g => g.v1 1 0 == 0x0 && g.v1 1 4 == 0x6) = true := by decide

theorem test_vballot : ran (stand [0x7A0C1000] (fun g => lanes 2 g)) (fun _ g => g.mreg 3 == 0xFFFE) = true := by decide

theorem test_vballot_cnt : ran (stand [0x7A0C1002] (fun g => lanes 2 g)) (fun _ g => g.sreg 3 == 0xF) = true := by decide

theorem test_vmatch_b32 : ran (stand [0x7C101000] (fun g => vTab 2 (fun p => if p < 4 then 1 else 2) g)) (fun _ g => g.v1 4 3 == 0xF && g.v1 4 5 == 0xFFF0 && g.v1 5 5 == 0x0) = true := by decide

theorem test_mxch_bc : ran (standTwo [0x7E041010] (fun g => lanes 2 g)) (fun _ g => g.v1 1 3 == 0x13) = true := by decide

theorem test_mxch_add : ran (standTwo [0x7E041004] (fun g => lanes 2 g)) (fun _ g => g.v1 1 3 == 0x16 && g.v1 1 19 == 0x16) = true := by decide

theorem test_sadd_register_k : ran (stand [0x8028C008] (fun g => kIs 0 40 (sIs 6 0x2 g))) (fun _ g => g.sreg 5 == 0x2A) = true := by decide

theorem test_ssub : ran (stand [0x8228C380] (fun g => sIs 7 0x3 (sIs 6 0x2 g))) (fun _ g => g.sreg 5 == 0xFFFFFFFFFFFFFFFF) = true := by decide

theorem test_smul_low : ran (stand [0x8428C380] (fun g => sIs 7 0x5 (sIs 6 0xFFFFFFFFFFFFFFFD g))) (fun _ g => g.sreg 5 == 0xFFFFFFFFFFFFFFF1) = true := by decide

theorem test_smad_adds_d : ran (stand [0x8628C380] (fun g => sIs 7 0x5 (sIs 6 0x3 (sIs 5 0x1 g)))) (fun _ g => g.sreg 5 == 0x10) = true := by decide

theorem test_sand : ran (stand [0x8828C380] (fun g => sIs 7 0xA (sIs 6 0xC g))) (fun _ g => g.sreg 5 == 0x8) = true := by decide

theorem test_sor : ran (stand [0x8A28C380] (fun g => sIs 7 0xA (sIs 6 0xC g))) (fun _ g => g.sreg 5 == 0xE) = true := by decide

theorem test_sxor : ran (stand [0x8C28C380] (fun g => sIs 7 0xA (sIs 6 0xC g))) (fun _ g => g.sreg 5 == 0x6) = true := by decide

theorem test_sshl_count_modulo_64 : ran (stand [0x8E28C380] (fun g => sIs 7 0x41 (sIs 6 0x1 g))) (fun _ g => g.sreg 5 == 0x2) = true := by decide

theorem test_sshr : ran (stand [0x9028C380] (fun g => sIs 7 0x3F (sIs 6 0xFFFFFFFFFFFFFFFF g))) (fun _ g => g.sreg 5 == 0x1) = true := by decide

theorem test_ssar : ran (stand [0x9228C380] (fun g => sIs 7 0x2 (sIs 6 0xFFFFFFFFFFFFFFF8 g))) (fun _ g => g.sreg 5 == 0xFFFFFFFFFFFFFFFE) = true := by decide

theorem test_scmp_lt : ran (stand [0x9428C3A0] (fun g => sIs 7 0x0 (sIs 6 0xFFFFFFFFFFFFFFFF g))) (fun _ g => g.sreg 5 == 0x1) = true := by decide

theorem test_ssel_of_zero : ran (stand [0x9628C380] (fun g => sIs 7 0x16 (sIs 6 0xB (sIs 5 0x0 g)))) (fun _ g => g.sreg 5 == 0x16) = true := by decide

theorem test_smov : ran (stand [0x98280380] (fun g => sIs 7 0x63 g)) (fun _ g => g.sreg 5 == 0x63) = true := by decide

/-- the example word saddi.i64 s41, s40, -1. -/
theorem test_saddi_example_word : ran (stand [0x9B4D1FE0] (fun g => sIs 40 0x5 g)) (fun _ g => g.sreg 41 == 0x4) = true := by decide

theorem test_smin_signed : ran (stand [0x9C28C380] (fun g => sIs 7 0x1 (sIs 6 0xFFFFFFFFFFFFFFFF g))) (fun _ g => g.sreg 5 == 0xFFFFFFFFFFFFFFFF) = true := by decide

theorem test_smax_unsigned : ran (stand [0x9C28C3B0] (fun g => sIs 7 0x1 (sIs 6 0xFFFFFFFFFFFFFFFF g))) (fun _ g => g.sreg 5 == 0xFFFFFFFFFFFFFFFF) = true := by decide

/-- R214: SHAPE of 16 lanes, E = 1, 128 registers, 16 tiles. -/
theorem test_srd_shape : ran (stand [0x9E280080] id) (fun _ g => g.sreg 5 == BitVec.ofNat 64 (16 * 2 ^ 28 + 128 * 2 ^ 20 + 128 * 2 ^ 12 + 1 * 2 ^ 8 + 16)) = true := by decide

theorem test_srd_clr : ran (stand [0x9E28C0E4] (fun g => flagsIs 0x11 (sIs 6 0x0 g))) (fun _ g => g.sreg 5 == 0x11 && g.flags 0 == 0) = true := by decide

/-- the example word bra.eqz s41 with DISP 27. -/
theorem test_bra_eqz_taken : ran (stand [0xA149001B] (fun g => sIs 41 0x0 g)) (fun _ g => (g.path? 0).map (fun q => (q.pc, q.fetched.isNone)) == some (108, true)) = true := by decide

theorem test_bra_eqz_not_taken : ran (stand [0xA149001B] (fun g => sIs 41 0x1 g)) (fun _ g => (g.path? 0).map (fun q => (q.pc, q.fetched.isNone)) == some (8, true)) = true := by decide

/-- the example word bdiv.n m2. -/
theorem test_bdiv_splits : ran (standMs [0xA2110004] (fun g => deep (mIs 2 0xFF g))) (fun _ g => (g.paths.map (fun q => (q.pc, q.mask, q.pending))) == [(16, 0xFF00, 0), (8, 0xFF, 0), (16, 0xFFFF, 2)]) = true := by decide

theorem test_join_passes_through : ran (standMs [0xA4000000] id) (fun _ g => (g.path? 0).map (fun q => (q.pc, q.fetched.isNone)) == some (8, true)) = true := by decide

theorem test_call_writes_return : ran (stand [0xA6280005] id) (fun _ g => (g.path? 0).map (fun q => (q.pc, q.fetched.isNone)) == some (20, true) && g.sreg 5 == 0x8) = true := by decide

theorem test_ret : ran (stand [0xA8280000] (fun g => sIs 5 0x40 g)) (fun _ g => (g.path? 0).map (fun q => (q.pc, q.fetched.isNone)) == some (64, true)) = true := by decide

theorem test_jmpi : ran (stand [0xAA280000] (fun g => sIs 5 0x80 g)) (fun _ g => (g.path? 0).map (fun q => (q.pc, q.fetched.isNone)) == some (128, true)) = true := by decide

theorem test_nop : ran (stand [0xAE000000] id) (fun _ g => (g.path? 0).map (fun q => (q.pc, q.fetched.isNone)) == some (8, true)) = true := by decide

theorem test_yield_waits : ran (standMs [0xAE010000] id) (fun _ g => ((g.path? 0).map (fun q => match q.wait with | .yield _ _ => true | _ => false)) == some true) = true := by decide

/-- the example word ld.n64 v48, [s49 + 0]. -/
theorem test_ld_example_word : ran (standMap [0xB0C3100C] (fun g => sIs 49 0x8000 g)) (fun t g => (t.flight.map (fun a => (a.loc, a.size))) == [(Loc.hbm 0x8000, 8)] && g.vEmptyAt 48 3 && g.vEmptyAt 49 3) = true := by decide

set_option maxRecDepth 8000 in
theorem test_st_offset_scaled : ran (standMap [0xB2085018] (fun g => lanes 2 (sIs 5 0x8000 g))) (fun t _ => (t.flight.map (fun a => a.loc)).head? == some (Loc.hbm 0x8004)) = true := by decide

set_option maxRecDepth 8000 in
theorem test_ldx_scaled_index : ran (standMap [0xB4045051] (fun g => lanes 2 (sIs 5 0x8000 g))) (fun t _ => t.flight.length == 16 && (t.flight.map (fun a => a.loc)).getLast? == some (Loc.hbm (0x8000 + 60))) = true := by decide

/-- R90, R348. -/
theorem test_ldx_misaligned_traps : ran (standMap [0xB4045050] (fun g => lanes 2 (sIs 5 0x8000 g))) (fun _ g => (g.fault.map (fun f => (f.code, f.daddr))) == some (2, 0x8001) && g.stopped) = true := by decide

set_option maxRecDepth 8000 in
theorem test_stx_sign_extends_index : ran (standMap [0xB6045040] (fun g => vIs 2 0xFFFFFFFF (sIs 5 0x8000 g))) (fun t _ => (t.flight.map (fun a => a.loc)).head? == some (Loc.hbm 0x7FFF)) = true := by decide

theorem test_lds : ran (stand [0xB8045051] (fun g => lanes 2 (sIs 5 0x100 g))) (fun t _ => t.flight.length == 16 && (t.flight.map (fun a => match a.loc with | .scr _ o => o | _ => 0)).head? == some 0x100) = true := by decide

theorem test_sts_outside_the_share : ran (stand [0xBA045051] (fun g => lanes 2 (sIs 5 0x3FFF0 g))) (fun _ g => (g.fault.map (fun f => f.code)) == some 3) = true := by decide

set_option maxRecDepth 8000 in
theorem test_ldw_in_region : ran (standMap [0xBC045051] (fun g => lanes 2 (sIs 5 0x40 g))) (fun t _ => t.flight.length == 16 && (t.flight.map (fun a => a.loc)).head? == some (Loc.weight 0 0x40)) = true := by decide

set_option maxRecDepth 8000 in
theorem test_ldc : ran (standMap [0xBE045051] (fun g => vIs 2 0x0 (sIs 5 0x8000 g))) (fun t _ => t.flight.all (fun a => a.const) && 1 <= t.flight.length) = true := by decide

set_option maxRecDepth 8000 in
theorem test_atom_add_returns : ran (standMap [0xC0082000] (fun g => vIs 2 0x7 (vIs 5 0x0 (vTab 4 (fun p => 0x8000 + 4 * p) g)))) (fun t g => t.flight.length == 16 && g.vEmptyAt 2 3) = true := by decide

set_option maxRecDepth 8000 in
theorem test_red_add : ran (standMap [0xC2082000] (fun g => vIs 2 0x7 (vIs 5 0x0 (vTab 4 (fun p => 0x8000 + 4 * p) g)))) (fun t g => t.flight.length == 16 && !g.vEmptyAt 2 3) = true := by decide

theorem test_atoms_exch : ran (stand [0xC4082060] (fun g => vIs 2 0x7 (vTab 4 (fun p => 4 * p) g))) (fun t g => t.flight.length == 16 && g.vEmptyAt 2 3) = true := by decide

theorem test_fence_with_nothing_outstanding : ran (stand [0xC6000020] id) (fun _ g => (g.path? 0).map (fun q => (q.pc, q.fetched.isNone)) == some (8, true)) = true := by decide

theorem test_flushagg : ran (stand [0xC8000000] id) (fun _ g => (g.path? 0).map (fun q => (q.pc, q.fetched.isNone)) == some (8, true)) = true := by decide

theorem test_flushagg_wait : ran (stand [0xC8000020] id) (fun _ g => (g.path? 0).map (fun q => (q.pc, q.fetched.isNone)) == some (8, true)) = true := by decide

theorem test_qset_base : ran (stand [0xCA08C000] (fun g => sIs 6 0x8000 g)) (fun _ g => (fget Stream.reset g.q 1).q0 == 0x8000) = true := by decide

/-- R236. -/
theorem test_qset_shape_example_word : ran (stand [0xCA08C198] (fun g => kIs 3 0x1800000004 (sIs 6 0x1000000006000006 g))) (fun _ g => (fget Stream.reset g.q 1).q1 == 0x1000000006000006 && (fget Stream.reset g.q 1).q2 == 0x1800000004) = true := by decide

theorem test_qset_shape_of_zero_count : ran (stand [0xCA08C198] (fun g => kIs 3 4 (sIs 6 0x1000000000000006 g))) (fun _ g => (g.fault.map (fun f => f.code)) == some 0x15 && (fget Stream.reset g.q 1).q1 == 0) = true := by decide

/-- R237. -/
theorem test_qbind_example_word : ran (stand [0xCC0D0000] (fun g => qIs 1 g)) (fun _ g => (fget Stream.reset g.q 1).bind == some (0, 40)) = true := by decide

theorem test_qbind_off : ran (stand [0xCC080030] (fun g => qBound 1 g)) (fun _ g => (fget Stream.reset g.q 1).bind == none) = true := by decide

theorem test_qpos_rd_end : ran (stand [0xCE282000] (fun g => qAt 1 36 g)) (fun _ g => g.sreg 5 == 0x8000000000000024) = true := by decide

theorem test_qpos_wr_clips : ran (stand [0xCE08C010] (fun g => sIs 6 0x3E8 (qIs 1 g))) (fun _ g => (fget Stream.reset g.q 1).pos == 36) = true := by decide

theorem test_cpy_takes_a_place : ran (stand [0xD04A8C00] (fun g => sIs 24 0x0 (sIs 23 0x0 (sIs 22 0x400000000 (sIs 21 0x4000000000000200 (sIs 20 0x4000000000000100 g)))))) (fun t g =>  t.xfers.length == 1 && g.sEmptyAt 9) = true := by decide

theorem test_cpy_of_zero_rows_faults : ran (stand [0xD04A8C00] (fun g => sIs 24 0x0 (sIs 23 0x0 (sIs 22 0x0 (sIs 21 0x4000000000000200 (sIs 20 0x4000000000000100 g)))))) (fun t g => (g.fault.map (fun f => f.code)) == some 8 && t.xfers.length == 0) = true := by decide

theorem test_cpym : ran (stand [0xD24A8C00] (fun g => sIs 24 0x1 (sIs 23 0x0 (sIs 22 0x400000000 (sIs 21 0x4000000000000200 (sIs 20 0x4000000000000100 g)))))) (fun t g =>  t.xfers.length == 1 && g.sEmptyAt 9) = true := by decide

/-- R249: the example field of 6 by 6 cells. -/
theorem test_halo : ran (standMap [0xD44A8C00] (fun g => sIs 24 0x0 (sIs 23 0x400 (sIs 22 0x6000600000000 (sIs 21 0x1800060006 (sIs 20 0x5000000000008000 g)))))) (fun t g =>  t.xfers.length == 1 && g.sEmptyAt 9) = true := by decide

theorem test_halo_allm : ran (standMap [0xD44A8C01] (fun g => sIs 24 0x0 (sIs 23 0x400 (sIs 22 0x6000600000000 (sIs 21 0x1800060006 (sIs 20 0x5000000000008000 g)))))) (fun t g =>  t.xfers.length == 1 && g.sEmptyAt 9) = true := by decide

theorem test_kick : ran (stand [0xD64A8000] (fun g => sIs 21 0x1 (sIs 20 0x400 g))) (fun t g =>  t.xfers.length == 1 && g.sEmptyAt 9) = true := by decide

theorem test_migh_hot : ran (standMap [0xD84A8000] (fun g => sIs 21 0x1000 (sIs 20 0x1000 g))) (fun t g =>  t.xfers.length == 1 && g.sEmptyAt 9) = true := by decide

theorem test_migh_cold : ran (standMap [0xD84A8001] (fun g => sIs 21 0x1000 (sIs 20 0x1000 g))) (fun t g =>  t.xfers.length == 1 && g.sEmptyAt 9) = true := by decide

theorem test_migh_clr : ran (standMap [0xD84A8002] (fun g => sIs 21 0x1000 (sIs 20 0x1000 g))) (fun t g =>  t.xfers.length == 1 && g.sEmptyAt 9) = true := by decide

theorem test_rtsend_malformed_faults : ran (standMap [0xDA4A8000] (fun g => sIs 21 0x0 (sIs 20 0x8000 g))) (fun _ g => (g.fault.map (fun f => f.code)) == some 8) = true := by decide

theorem test_rtrecv_fill : ran (standRx [0xDC4BC000] (fun g => sIs 30 0x0 g)) (fun t g => g.sEmptyAt 9 && t.fills.length == 1) = true := by decide

theorem test_rtrecv_next : ran (standRx [0xDC4BC001] (fun g => sIs 30 0x0 g)) (fun t g => g.sEmptyAt 9 && t.fills.length == 1) = true := by decide

theorem test_rtrecv_land : ran (standRx [0xDC4BC002] (fun g => sIs 30 0x0 g)) (fun t g => g.sEmptyAt 9 && t.fills.length == 1) = true := by decide

set_option maxRecDepth 8000 in
theorem test_rtrecv_reset : ran (standRx [0xDC4BC003] (fun g => sIs 30 0x0 g)) (fun t g => g.sEmptyAt 9 && t.fills.length == 1) = true := by decide

theorem test_mma_queues : ran (stand [0xE0000410] (fun g => vIs 15 0x1010101 (vIs 14 0x1010101 (vIs 13 0x1010101 (vIs 12 0x1010101 (vIs 11 0x1010101 (vIs 10 0x1010101 (vIs 9 0x1010101 (vIs 8 0x1010101 (vIs 7 0x1010101 (vIs 6 0x1010101 (vIs 5 0x1010101 (vIs 4 0x1010101 (kIs 0 0x44 g)))))))))))))) (fun t _ => (t.part 0).ops.length == 1) = true := by decide

theorem test_mmag_needs_memory_b : ran (stand [0xFC002900, 0xE2000410] (fun g => vIs 20 0x0 (vIs 15 0x1010101 (vIs 14 0x1010101 (vIs 13 0x1010101 (vIs 12 0x1010101 (vIs 11 0x1010101 (vIs 10 0x1010101 (vIs 9 0x1010101 (vIs 8 0x1010101 (vIs 7 0x1010101 (vIs 6 0x1010101 (vIs 5 0x1010101 (vIs 4 0x1010101 (kIs 0 0x44 g))))))))))))))) (fun _ g => (g.fault.map (fun f => f.code)) == some 0x12) = true := by decide

theorem test_aclr_queues : ran (stand [0xE4000002] id) (fun t _ => (t.part 0).ops.length == 1) = true := by decide

set_option maxRecDepth 8000 in
theorem test_ard_of_reset_tile : ran (stand [0xE6000800] (fun g => kIs 0 0x44 g)) (fun _ g => (g.vEmptyAt 8 3) && g.vEmptyAt 15 3 && !g.vEmptyAt 16 3) = true := by decide

theorem test_ards_entry : ran (stand [0xE8001400] (fun g => sIs 21 0x20 (sIs 20 0x8000000000000100 (kIs 0 0x44 g)))) (fun t _ => t.readouts.length == 1) = true := by decide

set_option maxRecDepth 8000 in
/-- R276: the worked example. -/
theorem test_rqcvt_example : ran (stand [0xEA500000] (fun g => rqRow g)) (fun _ g => g.v1 20 3 == 0x5000FD06 && g.v1 21 3 == 0x80 && g.v1 22 3 == 0x0 && g.v1 23 3 == 0x0 && g.v1 24 3 == 0x7E) = true := by decide

/-- R283: the worked example, tarm s4, s12. -/
theorem test_tarm_example_word : ran (stand [0xEC008600] (fun g => sIs 13 0x0 (sIs 12 0xC000C00000000FC1 (sIs 4 0x800000000003F000 g)))) (fun t _ => scr8 t 0x3F020 == 0xE000C00000000FC1 && scr8 t 0x3F010 == 0) = true := by decide

theorem test_tarm_clr : ran (stand [0xEC008010] (fun g => sIs 4 0x8000000000000100 g)) (fun t _ => scr8 t 0x120 == 0) = true := by decide

theorem test_tarm_init : ran (stand [0xEC0082A0] (fun g => sIs 5 0xFFFFFFFFFFFFFFF9 (sIs 4 0x8000000000000100 g))) (fun t _ => scr8 t 0x100 == 0xFFFFFFFFFFFFFFF9) = true := by decide

theorem test_tadd : ran (stand [0xEE008280] (fun g => sIs 5 0xFFFFFFFFFFFFFFF9 (sIs 4 0x8000000000000100 g))) (fun t _ => scr8 t 0x100 == 0xFFFFFFFFFFFFFFF9) = true := by decide

/-- tadd.r s9, s4, k2. -/
theorem test_tadd_r_example_word : ran (stand [0xEE488118] (fun g => kIs 2 5 (sIs 4 0x8000000000000100 g))) (fun t g => scr8 t 0x100 == 5 && g.sreg 9 == 0x0) = true := by decide

/-- arrive s4. -/
theorem test_arrive_parks : ran (stand [0xF0008000] (fun g => sIs 4 0x8000000000000100 g)) (fun t g => g.park != Park.none && scr8 t 0x100 == 0xFFFFFFFFFFFFFFFF) = true := by decide

theorem test_arrive_add : ran (stand [0xF0008290] (fun g => sIs 5 0x3 (sIs 4 0x8000000000000100 g))) (fun t g => scr8 t 0x100 == 3 && g.park != Park.none) = true := by decide

theorem test_arrive_wait : ran (stand [0xF0008020] (fun g => sIs 4 0x8000000000000100 g)) (fun t g => g.park != Park.none && scr8 t 0x100 == 0) = true := by decide

/-- poll s10, s4, s11. -/
theorem test_poll_example_word : ran (standMap [0xF2508580] (fun g => sIs 11 0x0 (sIs 4 0x8000 g))) (fun _ g => g.polling.isSome && g.sEmptyAt 10) = true := by decide

theorem test_tspawn : ran (standMap [0xF8008000] (fun g => sIs 4 0x8000 g)) (fun t _ => (t.ctx 0).spawnq.length == 1) = true := by decide

theorem test_tspawn_misaligned : ran (standMap [0xF8008000] (fun g => sIs 4 0x8001 g)) (fun _ g => (g.fault.map (fun f => f.code)) == some 2) = true := by decide

set_option maxRecDepth 8000 in
/-- capenter s40, s32. -/
theorem test_capenter_acquires : ran (standCap [0xF5440000] (fun g => sIs 50 0x4D (sIs 32 0x9000 g))) (fun t g => hbm8 t 0x9000 == g.gid.toNat * 2 ^ 24 + 2 ^ 20 && hbm8 t 0x9020 == 77 && g.sreg 40 == 0 && g.cap.inMode) = true := by decide

/-- capstep s40, s32. -/
theorem test_capstep_outside_faults : ran (standCap [0xF5440010] (fun g => sIs 32 0x9000 g)) (fun _ g => (g.fault.map (fun f => (f.code, f.cause))) == some (0x22, 4)) = true := by decide

/-- capexit s40, s32. -/
theorem test_capexit_outside_faults : ran (standCap [0xF5440020] (fun g => sIs 32 0x9000 g)) (fun _ g => (g.fault.map (fun f => (f.code, f.cause))) == some (0x22, 4)) = true := by decide

/-- capres s40, s32. -/
theorem test_capres_without_state : ran (standCap [0xF5440030] (fun g => sIs 32 0x9000 g)) (fun _ g => g.sreg 40 == 1) = true := by decide

/-- regrel 56. -/
theorem test_regrel_example_word : ran (stand [0xF6000700] id) (fun _ g => g.vcur == 72) = true := by decide

/-- regclm 28 with 128 registers. -/
theorem test_regclm_past_the_limit : ran (stand [0xF6000384] id) (fun _ g => (g.fault.map (fun f => f.code)) == some 0x13) = true := by decide

theorem test_regclm_granted : ran (stand [0xF6000384] (fun g => fewer g)) (fun _ g => g.vcur == 128) = true := by decide

/-- sys.trap 5. -/
theorem test_sys_trap_example_word : ran (stand [0xFA0000A0] id) (fun _ g => (g.fault.map (fun f => (f.code, f.cause))) == some (0x30, 5) && g.stopped && (g.path? 0).map (fun q => (q.pc, q.fetched.isNone)) == some (8, true)) = true := by decide

theorem test_sys_brk : ran (stand [0xFA000124] id) (fun _ g => (g.fault.map (fun f => (f.code, f.cause))) == some (0x31, 9)) = true := by decide

theorem test_sys_halt : ran (stand [0xFA000008] id) (fun t g => (g.fault.map (fun f => f.code)) == some 0x32 && (t.ctx 0).st != CtxState.live) = true := by decide

theorem test_sys_pmrd_not_enabled : ran (stand [0xFA28002C] (fun g => sIs 5 0x9 g)) (fun _ g => g.sreg 5 == 0x0) = true := by decide

/-- sys.cyc s7. -/
theorem test_sys_cyc_example_word : ran (stand [0xFA380010] (fun g => flagsIs 0 g)) (fun _ g => !g.sEmptyAt 7) = true := by decide

theorem test_sys_evsig : ran (stand [0xFA00A0F4] (fun g => sIs 5 0xABC g)) (fun _ g => (g.path? 0).map (fun q => (q.pc, q.fetched.isNone)) == some (8, true)) = true := by decide

theorem test_illegal_word : ran (stand [0x3A000000] id) (fun _ g => (g.fault.map (fun f => f.code)) == some 0x11 && g.stopped) = true := by decide

/-! ### For every statement, states that meet its hypotheses -/

def now (s : State) : State := { s with agenda := [], cur := some 0 }

theorem witness_IntegerArithmetic : ∃ s x, Issues s x ∧ VecReady s x ((intShape 1 2 3 0 0 0).op x true (intAccept true 0) true (Cost.vector true)) :=
  ⟨now (stand [0] id), _, ⟨rfl, rfl, rfl⟩, rfl, rfl, rfl, rfl, rfl, rfl, rfl⟩

theorem witness_LogicAndMoves : ∃ s x, Issues s x ∧ VecReady s x
    ((intShape 1 2 3 0 0 0).op x (decide (x.pre.creg.toNat < 16)) { Accept.vec true true with cp := true, need := true } true (Cost.vector true)) :=
  ⟨now (stand [0xFC000500, 0] id), _, ⟨rfl, rfl, rfl⟩, rfl, rfl, rfl, rfl, rfl, rfl, rfl⟩

theorem witness_ShiftsAndFields : ∃ s x, Issues s x ∧ VecReady s x ((shiftShape 2 4 5 3 0).op x true (intAccept true 0) true (Cost.vector true))
    ∧ VecReady s x ((intShape 1 2 3 0 0 1).op x true (intAccept false 1) true (Cost.vector true)) :=
  ⟨now (stand [0] id), _, ⟨rfl, rfl, rfl⟩, ⟨rfl, rfl, rfl, rfl, rfl, rfl, rfl⟩, rfl, rfl, rfl, rfl, rfl, rfl, rfl⟩

theorem witness_CountsAndImmediates : ∃ s x, Issues s x ∧ VecReady s x ((countShape 1 2 2).op x true (Accept.vec true false) true (Cost.vector true))
    ∧ VecReady s x ((immShape 1 2 5 true).op x true { Accept.vec true false with sat := true } true (Cost.vector true)) :=
  ⟨now (stand [0] id), _, ⟨rfl, rfl, rfl⟩, ⟨rfl, rfl, rfl, rfl, rfl, rfl, rfl⟩, rfl, rfl, rfl, rfl, rfl, rfl, rfl⟩

theorem witness_Compares : ∃ s x, Issues s x
    ∧ VecReady s x { (cmpShape 2 3 false true false).op x (true && (1 : BitVec 4) != 0) (Accept.vec true true) false (Cost.vector false) with vd := [] }
    ∧ VecReady s x { (cmpShape 2 3 false true false).op x (true && (1 : BitVec 4) != 0) (Accept.vec true true) false (Cost.fp false false) with vd := [] } :=
  ⟨now (stand [0] id), _, ⟨rfl, rfl, rfl⟩, ⟨rfl, rfl, rfl, rfl, rfl, rfl, rfl⟩, rfl, rfl, rfl, rfl, rfl, rfl, rfl⟩

theorem witness_FloatingArithmetic : ∃ s x, Issues s x
    ∧ VecReady s x ((fpShape 2 4 6 1 0 true 2).op x true (fpAccept true true 2) true (Cost.fp true true)) :=
  ⟨now (stand [0] id), _, ⟨rfl, rfl, rfl⟩, rfl, rfl, rfl, rfl, rfl, rfl, rfl⟩

theorem witness_FloatingOther : ∃ s x, Issues s x ∧ VecReady s x ((sgnShape 1 2 3 2 0).op x true (Accept.vec true true) true (Cost.fp true false))
    ∧ cvtLegal 1 0 2 = true ∧ VecReady s x ((cvtShape 1 2 0 2).op x true (fpAccept true false 0) true (Cost.fp true false))
    ∧ VecReady s x ((classShape 1 2 0).op x true (Accept.vec true false) true (Cost.fp true false)) :=
  ⟨now (stand [0] id), _, ⟨rfl, rfl, rfl⟩, ⟨rfl, rfl, rfl, rfl, rfl, rfl, rfl⟩, rfl, ⟨rfl, rfl, rfl, rfl, rfl, rfl, rfl⟩, rfl, rfl, rfl, rfl, rfl, rfl, rfl⟩

/-- A long value and a term beside it; and the first term of a reset accumulator. -/
theorem witness_ExactSum : ∃ X S, (-2148 : Int) ≤ 0 ∧ (∀ a, Xa.reset.anchor = some a → (-2148 : Int) ≤ a) ∧ (Xa.reset.anchor = none → Xa.reset.int = 0)
    ∧ addTerm 0 [] Xa.reset (.fin 1 0) = .ok (X, S, false) :=
  ⟨_, _, by decide, by decide, by decide, rfl⟩

set_option exponentiation.threshold 5000 in
theorem witness_ExactSum_widening :
    (match addTerm 1 [] { xOne with int := 2 ^ 174 } (.fin 1 200) with | .ok r => r.2.2 && r.1.long.isSome | .error _ => false) = true := by decide

set_option maxRecDepth 8000 in
theorem witness_Accumulators : ∃ s x, Issues s x
    ∧ VecReady s x { (xSrc 2 0 false true false).op x true (Accept.vec true false) false (Cost.fp false false) with vd := [] }
    ∧ (overPositions 0 (fun g p => g.addX 0 p [(xTerm 0 0x3F800000).1] 0) (positions x.g.n x.act) x.g).isOk = true :=
  ⟨now (stand [0] id), _, ⟨rfl, rfl, rfl⟩, ⟨rfl, rfl, rfl, rfl, rfl, rfl, rfl⟩, rfl⟩

set_option maxRecDepth 8000 in
/-- A group without long slots takes XA-overflow when a term lies outside every window. -/
theorem witness_Accumulators_overflow : ∃ s x, Issues s x
    ∧ (overPositions 0 (fun g p => g.addX 0 p [(xTerm 1 0x7FE0000000000000).1] 0) (positions x.g.n x.act) x.g).isOk = false :=
  ⟨now (stand [0] (xIs 0 xOne)), _, ⟨rfl, rfl, rfl⟩, rfl⟩

set_option maxRecDepth 8000 in
theorem witness_AccumulatorTransfers : ∃ s x, Issues s x
    ∧ VecReady s x { acc := { Accept.vec true false with rnd := true }, legal := true, vs := [], vd := (List.range 2).map (4 + ·), cost := Cost.fp false false }
    ∧ VecReady s x { acc := Accept.vec true false, legal := true, vs := (List.range 6).map (fun i => (⟨4 + i, if i = 0 then 0 else 4, false⟩ : VSrc)), cost := Cost.fp false false }
    ∧ xaImageOk (xaImage xOne) = true ∧ xaImageOk (2 ^ 191) = false :=
  ⟨now (stand [0] id), _, ⟨rfl, rfl, rfl⟩, ⟨rfl, rfl, rfl, rfl, rfl, rfl, rfl⟩, ⟨rfl, rfl, rfl, rfl, rfl, rfl, rfl⟩, rfl, rfl⟩

theorem witness_CrossLane : ∃ s x, Issues s x
    ∧ VecReady s x { acc := Accept.vec true false, legal := true, vs := [⟨2, 0, false⟩], vd := [1], hlp := true, shadowSrc := true, cross := true, cost := Cost.vector true }
    ∧ VecReady s x { acc := Accept.vec true true, legal := true, vs := [⟨2, 0, true⟩], ss := [(5, 1)], vd := [4, 5], cross := true, cost := Cost.vector false }
    ∧ VecReady s x { acc := Accept.vec true false, legal := true, vs := [⟨2, 0, false⟩], sd := [63], cross := true, cost := Cost.vector false } :=
  ⟨now (standTwo [0] id), _, ⟨rfl, rfl, rfl⟩, ⟨rfl, rfl, rfl, rfl, rfl, rfl, rfl⟩, ⟨rfl, rfl, rfl, rfl, rfl, rfl, rfl⟩, rfl, rfl, rfl, rfl, rfl, rfl, rfl⟩

theorem witness_Reductions : ∃ s x, Issues s x ∧ VecReady s x (redOp 1 2 (.int (itype 0)) 0 true x) ∧ VecReady s x (redOpX 1 2 0 true)
    ∧ (x.reduceX 1 2 (fun x p => (positions x.g.n x.act).filter (fun q => q / x.g.w == p / x.g.w))).isOk = true :=
  ⟨now (standTwo [0] (xIs 2 xOne)), _, ⟨rfl, rfl, rfl⟩, ⟨rfl, rfl, rfl, rfl, rfl, rfl, rfl⟩, ⟨rfl, rfl, rfl, rfl, rfl, rfl, rfl⟩, rfl⟩

theorem witness_ReductionValues : (3 : Nat) < 4 ∧ [2, 1].Perm [1, 2] := ⟨by decide, List.Perm.swap 1 2 []⟩

theorem witness_ScalarArithmetic : ∃ s x, IssuesAny s x ∧ ScalarReady x { Accept.scalar true true with sat := true } ([6] ++ skRegs 0 7 ++ [5]) :=
  ⟨now (stand [0] id), _, ⟨rfl, rfl⟩, rfl, by decide⟩

theorem witness_SpecialRegisters : ∃ s x, Issues s x ∧ IssuesAny s x ∧ ScalarReady x (Accept.scalar true false) [6, 5] ∧ 8 < (9 : BitVec 8).toNat
    ∧ x.g.groupNo < 16 ∧ x.g.blockNo < 16 ∧ x.g.groups - 1 < 16 ∧ x.g.w < 256 ∧ x.g.e < 16 ∧ x.g.vcur < 256 ∧ x.g.vregs < 256 ∧ x.g.atiles < 32
    ∧ (s.die (dieOfCore (coreOf x.p))).window < 64 :=
  ⟨now (stand [0] id), _, ⟨rfl, rfl, rfl⟩, ⟨rfl, rfl⟩, ⟨rfl, by decide⟩, by decide, by decide, by decide, by decide, by decide, by decide, by decide, by decide, by decide, by decide⟩

/-- BRA on s41 and m2, taken and not; RET to a clause address, a misaligned and a too great one. -/
theorem witness_BranchesAndCalls : (∃ s x, IssuesAny s x ∧ braOk 2 5 = true ∧ ScalarReady x {} [41] ∧ x.inCapsule = false
      ∧ (x.g.sreg 41).toNat % 4 = 0 ∧ (x.g.sreg 41).toNat < 2 ^ 52 ∧ (x.g.sreg 42).toNat % 4 ≠ 0 ∧ 2 ^ 52 ≤ (x.g.sreg 43).toNat) :=
  ⟨now (stand [0] (fun g => sIs 41 0xFFFFFFFFFFFFC (sIs 42 2 (sIs 43 0x10000000000000 g)))), _, ⟨rfl, rfl⟩, rfl, ⟨rfl, by decide⟩, rfl,
    by decide, by decide, by decide, by decide⟩

/-- A path that splits with room on the divergence stack and without; sides that are empty; a bad reconvergence PC. -/
theorem witness_Divergence : ∃ s x, Issues s x ∧ ({ cp := true } : Accept).ok x.hasPre x.pre = true ∧ x.pre.creg.toNat < 64
    ∧ (x.pre.cp = true → x.g.sEmptyAt x.pre.creg.toNat = false) ∧ (∀ p ∈ x.g.paths, p.id < x.g.nextPath)
    ∧ x.path.mask &&& x.g.mreg 2 ≠ 0 ∧ x.path.mask &&& ~~~(x.g.mreg 2) ≠ 0 ∧ x.path.mask &&& x.g.mreg 3 = 0 ∧ x.path.mask &&& ~~~(x.g.mreg 4) = 0
    ∧ (x.g.split x.path 0xFF00 0xFF 16 8 16).stackUsed ≤ (x.g.split x.path 0xFF00 0xFF 16 8 16).dstack
    ∧ (∃ s x, Issues s x ∧ (x.g.split x.path 0xFF00 0xFF 16 8 16).dstack < (x.g.split x.path 0xFF00 0xFF 16 8 16).stackUsed)
    ∧ (∃ s x, Issues s x ∧ x.pre.cp = true ∧ (x.g.sreg x.pre.creg.toNat).toNat % 4 ≠ 0) :=
  ⟨now (standMs [0] (fun g => mIs 2 0xFF (mIs 4 0xFFFF (deep g)))), _, ⟨rfl, rfl, rfl⟩, rfl, by decide, by decide, by decide, by decide, by decide,
    by decide, by decide, by decide, ⟨now (standMs [0] id), _, ⟨rfl, rfl, rfl⟩, by decide⟩,
    ⟨now (standMs [0xFC000500, 0] (fun g => sIs 2 2 g)), _, ⟨rfl, rfl, rfl⟩, by decide, by decide⟩⟩

/-- The running path is path 2. -/
def onPath2 (s : State) : State := s.setPart 0 { s.part 0 with run := (s.part 0).run.map (fun r => { r with path := 2 }) }
def child (g : Group) : Group :=
  { g with paths := g.paths.map (fun p => { p with id := 2, parent := some 0, rpc := 0 }) ++ g.paths.map (fun p => { p with pending := 1 }) }

/-- A path without parent; one at its reconvergence PC, whose parent waits for it alone. -/
theorem witness_JoinExitNopYield : (∃ s x, Issues s x ∧ ScalarReady x {} [] ∧ x.path.parent = none ∧ x.g.paths = [x.path])
    ∧ ∃ s x Q, Issues s x ∧ x.path.parent = some 0 ∧ x.path.rpc = x.cl.base ∧ 0 ≠ x.path.id ∧ x.g.path? 0 = some Q ∧ Q.mask ≠ 0 ∧ Q.pending = 1 :=
  ⟨⟨now (standMs [0] id), _, ⟨rfl, rfl, rfl⟩, ⟨rfl, by decide⟩, rfl, rfl⟩,
    ⟨onPath2 (now (standMs [0] child)), _, _, ⟨rfl, rfl, rfl⟩, rfl, rfl, by decide, rfl, by decide, rfl⟩⟩

set_option maxRecDepth 8000 in
/-- A load and a store that reach memory, and one that is misaligned at its first position. -/
theorem witness_LoadsAndStores : ∃ s x, Issues s x
    ∧ MemReady x (loadOp 2 5 (some 1) 2 0 0 false).op ((loadOp 2 5 (some 1) 2 0 0 false).units s x (globalAt 1 5 1 4 false))
    ∧ MemReady x (storeOp 2 5 (some 1) 2).op ((storeOp 2 5 (some 1) 2).units s x (globalAt 1 5 1 4 true))
    ∧ MemChecks x (storeOp 2 6 none 2).op ∧ (firstFault ((storeOp 2 6 none 2).units s x (uniformAt 6 0 4 false true))).isSome = true :=
  ⟨now (standMap [0] (fun g => lanes 1 (sIs 5 0x8000 (sIs 6 1 g)))), _, ⟨rfl, rfl, rfl⟩, ⟨⟨rfl, rfl, rfl, rfl⟩, rfl, rfl⟩,
    ⟨⟨rfl, rfl, rfl, rfl⟩, rfl, rfl⟩, ⟨rfl, rfl, rfl, rfl⟩, rfl⟩

set_option maxRecDepth 8000 in
theorem witness_Atomics : ∃ s x, Issues s x
    ∧ MemReady x ((atomOp false false 2 4 true 0 0 0).vop x) ((atomOp false false 2 4 true 0 0 0).units s x (atomAt 4 4))
    ∧ MemReady x ((atomOp true false 2 4 true 0 0 0).vop x) ((atomOp true false 2 4 true 0 0 0).units s x (atomsAt 4 4)) :=
  ⟨now (standMap [0] (fun g => vTab 4 (fun p => 4 * p) g)), _, ⟨rfl, rfl, rfl⟩, ⟨⟨rfl, rfl, rfl, rfl⟩, rfl, rfl⟩, ⟨rfl, rfl, rfl, rfl⟩, rfl, rfl⟩

def nxt (s : State) : State := match step s with | .next t => t | _ => s
def after (i : Instr) (s : State) : State := match exec i s with | .next t => t | _ => s

def gOf (s : State) : Group := s.groups.headD ((placedLaunch State.reset).group 0 0 0 0 0 0 0 0)
def pOf (s : State) : Path := (gOf s).paths.headD (Path.root 0 0 0)

/-- An access of the first group, to place `l`. -/
def acc (id : Nat) (kind : AccKind) (l : Loc) (ops : List PosOp) (dest : Dest) (s : State) : Access :=
  { id := id, gid := (gOf s).gid, vf := 0, core := 0, kind := kind, loc := l, va := 0x8000, size := 4, ops := ops,
    dest := dest, addr := 4, const := false, line := [(pOf s).id] }
def flying (kind : AccKind) (l : Loc) (ops : List PosOp) (dest : Dest) (s : State) : State := { s with flight := [acc 70 kind l ops dest s], nextId := 80 }
def fenced (g : Group) : Group := g.onPath 0 (fun p => { p with wait := .fence [] 4 true })
def logged (g : Group) : Group := { g with aggLog := [⟨0, 0, 1⟩] }

/-- A buffer of the core's with an entry of the first group's. -/
def buffered (s : State) : State :=
  { s with agg := [{ id := 71, core := 0, dev := 1, cw := 0, entries := [{ e0 := 0, e1 := 0, gid := (gOf s).gid, line := [(pOf s).id] }], used := 0 }] }

/-- Nothing pending, a store pending, a store of another group observed, a buffer, entries in the fault log; a fence that waits for nothing more. -/
theorem witness_FencesAndFlush : (∃ s x, Issues s x ∧ ScalarReady x {} [] ∧ x.g.polling = none ∧ (4 : BitVec 3).toNat ≤ 4
      ∧ (∀ k ∈ (s.fenceStart x 4).2, (s.fenceStart x 4).1.pendingAt 4 k = false) ∧ x.g.aggLog = [] ∧ x.g.aggLost = 0)
    ∧ (∃ s x, Issues s x ∧ (∃ k ∈ (s.fenceStart x 0).2, (s.fenceStart x 0).1.pendingAt 0 k = true)
      ∧ ∃ a ∈ s.flight, a.gid = x.g.gid ∧ a.helper = false ∧ ∃ q ∈ x.g.lineage x.path.id, a.line.head? = some q)
    ∧ (∃ s x, Issues s x ∧ 2 ≤ x.g.fenceScope 3 ∧ ∃ a ∈ s.flight, a.id ∈ x.g.seen)
    ∧ (∃ s x, Issues s x ∧ ∃ b ∈ s.agg, b.core = coreOf x.p ∧ (∃ e ∈ b.entries, e.gid = x.g.gid))
    ∧ (∃ s x, Issues s x ∧ ¬(x.g.aggLog = [] ∧ x.g.aggLost = 0))
    ∧ (∃ (s : State) (g : Group) (path : Path) (x : Ix), s.manage.poweredDown = false ∧ s.group g.gid = some g ∧ g.path? path.id = some path
      ∧ path.wait = .fence [] 4 true ∧ ixOf g.part g path = some x ∧ g.stopped = false ∧ g.aggLog = [] ∧ g.aggLost = 0) :=
  ⟨⟨now (stand [0] id), _, ⟨rfl, rfl, rfl⟩, ⟨rfl, by decide⟩, rfl, by decide, by decide, rfl, rfl⟩,
   ⟨now (flying .store (.hbm 0x8000) [] .none (stand [0] id)), _, ⟨rfl, rfl, rfl⟩, by decide, _, .head _, rfl, rfl, by decide⟩,
   ⟨now (flying .store (.hbm 0x8000) [] .none (stand [0] (fun g => { g with seen := [70] }))), _, ⟨rfl, rfl, rfl⟩, by decide, _, .head _, by decide⟩,
   ⟨now (buffered (stand [0] id)), _, ⟨rfl, rfl, rfl⟩, _, .head _, rfl, _, .head _, rfl⟩,
   ⟨now (stand [0] logged), _, ⟨rfl, rfl, rfl⟩, by decide⟩,
   ⟨stand [0] fenced, gOf (stand [0] fenced), pOf (stand [0] fenced), _, rfl, rfl, rfl, rfl, rfl, rfl, rfl, rfl⟩⟩

/-- A legal shape and an illegal one, with a stride that is no multiple of the element size; a register below the partition's count and one at it. -/
theorem witness_StreamWords : ∃ s x, Issues s x ∧ ScalarReady x (Accept.scalar true false) [6] ∧ ScalarReady x (Accept.scalar true true) (6 :: skRegs 0 7)
    ∧ ScalarReady x (Accept.scalar false false) [] ∧ ScalarReady x (Accept.scalar false false) [5]
    ∧ dfield (x.g.sreg 6) 63 62 ≠ 3 ∧ dfield (x.g.sreg 6) 58 48 = 0 ∧ dfield (x.g.sreg 6) 23 0 ≠ 0 ∧ dfield (x.g.sreg 6) 47 24 ≠ 0
    ∧ dfield (x.g.sreg 7) 31 0 % 4 = 0 ∧ dfield (x.g.sreg 7) 63 32 % 4 = 0 ∧ dfield (x.g.sreg 8) 31 0 % 4 ≠ 0 ∧ 99 < x.g.vcur ∧ x.g.vcur ≤ 100 :=
  ⟨now (stand [0] (fun g => fewer <| sIs 6 0x1000000006000006 (sIs 7 0x1800000004 (sIs 8 2 g)))), _, ⟨rfl, rfl, rfl⟩, ⟨rfl, by decide⟩, ⟨rfl, by decide⟩,
    ⟨rfl, by decide⟩, ⟨rfl, by decide⟩, by decide, by decide, by decide, by decide, by decide, by decide, by decide, by decide, by decide⟩

def cpyRegs (len : Nat) (g : Group) : Group :=
  sIs 20 0x4000000000000100 (sIs 21 0x4000000000000200 (sIs 22 (len * 2 ^ 32) g))

/-- A request that may go, one that faults, and one that waits for an access; a full slot. -/
theorem witness_EngineRequests : (∃ s x, Issues s x ∧ (20 : BitVec 6).toNat ≤ 60 ∧ ScalarReady x {} (engReads 20 (some 24) 4 ++ [9])
      ∧ s.copyRoom x.g.gid = true ∧ s.outstanding x.g x.path.id = false ∧ x.g.polling = none ∧ copyCheck s x (x.engReq 9 20 (some 24) 0x68 0 4) = none)
    ∧ (∃ s x, Issues s x ∧ (copyCheck s x (x.engReq 9 20 (some 24) 0x68 0 4)).isSome = true)
    ∧ (∃ s x, Issues s x ∧ s.outstanding x.g x.path.id = true)
    ∧ (∃ s x, Issues s x ∧ s.copyRoom x.g.gid = false) :=
  ⟨⟨now (stand [0] (cpyRegs 4)), _, ⟨rfl, rfl, rfl⟩, by decide, ⟨rfl, by decide⟩, rfl, rfl, rfl, by decide⟩,
   ⟨now (stand [0] (cpyRegs 0)), _, ⟨rfl, rfl, rfl⟩, by decide⟩,
   ⟨now (flying .store (.hbm 0x8000) [] .none (stand [0] id)), _, ⟨rfl, rfl, rfl⟩, rfl⟩,
   ⟨now (let s := nxt (stand [0xD0128C00] (cpyRegs 4)); { s with xfers := s.xfers ++ s.xfers ++ s.xfers ++ s.xfers, parts := (stand [0] id).parts, groups := (stand [0] id).groups }), _,
     ⟨rfl, rfl, rfl⟩, by decide⟩⟩

def xf0 : Xfer :=
  { id := 0, gid := 0, vf := 0, core := 0, share := ⟨0, 0, 0, 0, 0⟩, e := 0, req := ⟨0, 0, 0, 0, 0, 0, 0, 0, 0⟩, st := .queued, bytes := 0, inbuf := [],
    kick := none, entry := 0, started := 0, completed := 0, totalBytes := 0, bad := none, tag := 0 }
/-- The first request; the state with every request changed. -/
def xf (s : State) : Xfer := s.xfers.headD xf0
def xmap (f : Xfer → Xfer) (s : State) : State := { s with xfers := s.xfers.map f }

/-- A request and its state: what every clause of the statement about engines asks for. -/
def isXfer (s : State) (t : Xfer) : Prop :=
  s.manage.poweredDown = false ∧ s.runs t.vf = true ∧ s.xfers.find? (fun e => e.id == t.id) = some t

/-- CPY of 4 bytes from scratchpad to scratchpad, queued, the cores' cycle counts at 0; the same with changed words; taken; landed. -/
def cpyS : State := { nxt (stand [0xD0128C00] (cpyRegs 4)) with cores := [] }
def cpyRun : State := after (.engineRequestAccept (xf cpyS).gid) cpyS
def cpyBig : State := xmap (fun t => { t with req := { t.req with r1 := 0x40000000FFFFFF00 } }) cpyRun
def cpyMiss : State := xmap (fun t => { t with req := { t.req with r0 := 0x8000 } })
  (let s := { cpyRun with hbm := writeBytes (writeBytes (writeBytes [] 0x1000 8 0x2001) 0x2000 8 0x3001) 0x3000 8 (2 ^ 52) }
   s.setCtx 0 { s.ctx 0 with root := 1 })
def cpyDone : State := after (.engineLineLand (xf cpyRun).id) cpyRun
/-- A list of one entry, taken; the same with the entry's words in place; ended; ended with a fault. -/
def kickS : State := xmap (fun t => { t with req := { t.req with opcode := 0x6B, r0 := 0x100, r1 := 1 } }) cpyRun
def kickGood : State := { kickS with blocks := kickS.blocks.map (fun b =>
  { b with data := writeBytes (writeBytes (writeBytes (writeBytes b.data 0x100 8 0x4000000000000100) 0x108 8 0x4000000000000200) 0x110 8 (4 * 2 ^ 32)) 0x118 8 0 }) }
def kickEnd : State := xmap (fun t => { t with started := 1, completed := 1, totalBytes := 4 }) kickS
def kickBad : State := xmap (fun t => { t with started := 1, bad := some (0, FaultInfo.of 0x08) }) kickS
def kickTwo : State := { cpyDone with xfers := cpyDone.xfers.map (fun t => { t with kick := some 99 }) ++ kickEnd.xfers.map (fun t => { t with id := 99 }) }

def hintS : State := xmap (fun t => { t with req := { t.req with opcode := 0x6C, fn := 1, r0 := 0x8000, r1 := 0x1000 } }) cpyS
def busyS : State :=
  let s := xmap (fun t => { t with req := { t.req with r1 := 0x8000000000000000 } }) cpyS
  { s with groups := s.groups ++ s.groups.map (fun g => { g with gid := g.gid + 1 }) }

/-- A hint, a copy into busy weight space, a copy that goes on. -/
theorem witness_EngineRequestAccept :
    (∃ s t, isXfer s t ∧ s.nextQueued t.gid = some t ∧ s.myTurn t = true ∧ t.req.opcode = 0x6C)
    ∧ (∃ s t, isXfer s t ∧ s.nextQueued t.gid = some t ∧ s.myTurn t = true ∧ t.req.opcode = 0x68 ∧ t.req.dsp = 2 ∧ s.weightBusy t = true)
    ∧ (∃ s t, isXfer s t ∧ s.nextQueued t.gid = some t ∧ s.myTurn t = true ∧ t.req.opcode = 0x68 ∧ t.req.dsp ≠ 2) :=
  ⟨⟨hintS, xf hintS, ⟨rfl, rfl, rfl⟩, rfl, by decide, rfl⟩, ⟨busyS, xf busyS, ⟨rfl, rfl, rfl⟩, rfl, by decide, rfl, by decide, by decide⟩,
   ⟨cpyS, xf cpyS, ⟨rfl, rfl, rfl⟩, rfl, by decide, rfl, by decide⟩⟩

/-- A line that lands from scratchpad to scratchpad, one that faults, one that misses. -/
theorem witness_EngineLineLand :
    (∃ s t, isXfer s t ∧ t.st = .running ∧ t.req.opcode ≠ 0x6B ∧ t.bytes < t.req.total t.e ∧ s.landOwed t = none ∧ t.req.opcode = 0x68 ∧ t.req.op = 0
      ∧ t.req.dsp = 1
      ∧ scrTarget t.share (t.req.piece t.bytes).dst = some (0, 0x200) ∧ t.share.access (t.req.piece t.bytes).dst 1 = .at_ (.scr 0 0x200) ∧ s.block 0 ≠ none
      ∧ (∃ f, s.readRuns t (t.req.piece t.bytes) (t.runs (t.req.piece t.bytes)) ⟨[], t.inbuf, []⟩ = .ok f)
      ∧ ∃ u, s.landPiece t = .done u ∧ ∃ k, u.xfers.find? (fun e => e.id == t.id) = some k ∧ k.st = .running)
    ∧ (∃ s t code cause a, isXfer s t ∧ t.st = .running ∧ t.req.opcode ≠ 0x6B ∧ t.bytes < t.req.total t.e ∧ s.landOwed t = none ∧ t.kick = none ∧ s.landPiece t = .fault code cause a)
    ∧ (∃ s t d a w, isXfer s t ∧ t.st = .running ∧ t.req.opcode ≠ 0x6B ∧ t.bytes < t.req.total t.e ∧ s.landOwed t = none ∧ s.landPiece t = .miss d a w) :=
  ⟨⟨cpyRun, xf cpyRun, ⟨rfl, rfl, rfl⟩, rfl, by decide, by decide, rfl, rfl, by decide, by decide, by decide, by decide, by decide, ⟨_, rfl⟩, _, rfl, _, rfl, rfl⟩,
   ⟨cpyBig, xf cpyBig, _, _, _, ⟨rfl, rfl, rfl⟩, rfl, by decide, by decide, rfl, rfl, rfl⟩,
   ⟨cpyMiss, xf cpyMiss, _, _, _, ⟨rfl, rfl, rfl⟩, rfl, by decide, by decide, rfl, rfl⟩⟩

/-- A whole copy, with a record and without; the entry of a list; a list that ended, well and with a fault. -/
theorem witness_EngineRequestComplete :
    (∃ s t r, isXfer s t ∧ t.st = .running ∧ t.req.opcode ≠ 0x6B ∧ t.req.opcode ≠ 0x6E ∧ t.req.opcode ≠ 0x69 ∧ t.kick = none ∧ t.whole = true ∧ t.bytes ≠ 0
      ∧ recordAt t.share t.vf t.req.task = .ok (some r))
    ∧ (∃ s t k l, isXfer s t ∧ t.st = .running ∧ t.req.opcode = 0x68 ∧ t.kick = some k ∧ t.whole = true ∧ k ≠ t.id
      ∧ s.xfers.find? (fun e => e.id == k) = some l)
    ∧ (∃ s t, isXfer s t ∧ t.st = .running ∧ t.req.opcode = 0x6B ∧ s.kickOver t = true ∧ t.bad = none)
    ∧ (∃ s t, isXfer s t ∧ t.st = .running ∧ t.req.opcode = 0x6B ∧ s.kickOver t = true ∧ t.bad.isSome = true) :=
  ⟨⟨xmap (fun t => { t with req := { t.req with task := 0x8040 } }) cpyDone, xf (xmap (fun t => { t with req := { t.req with task := 0x8040 } }) cpyDone),
      _, ⟨rfl, rfl, rfl⟩, rfl, by decide, by decide, by decide, rfl, by decide, by decide, rfl⟩,
   ⟨kickTwo, xf kickTwo, 99, _, ⟨rfl, rfl, rfl⟩, rfl, rfl, rfl, by decide, by decide, rfl⟩,
   ⟨kickEnd, xf kickEnd, ⟨rfl, rfl, rfl⟩, rfl, rfl, by decide, rfl⟩, ⟨kickBad, xf kickBad, ⟨rfl, rfl, rfl⟩, rfl, rfl, by decide, rfl⟩⟩

/-- The first entry of a list, well formed and malformed. -/
theorem witness_KickEntryStart : ∀ s b, (s = kickGood ∧ b = true ∨ s = kickS ∧ b = false) → let t := xf s
    isXfer s t ∧ t.st = .running ∧ t.req.opcode = 0x6B ∧ t.bad = none ∧ t.started < t.req.r1.toNat ∧ (s.kickEntries t.id).length < 8 ∧ s.nextId ≠ t.id
      ∧ s.xfers.find? (fun e => e.id == s.nextId) = none ∧ scrTarget t.share (dfield t.req.r0 31 0 + 32 * t.started) = some (0, 0x100) ∧ s.shareReady 0 = true
      ∧ s.lineHeld (.scr 0 0x100) = false ∧ (s.entryFault t (s.entryReq t (.scr 0 0x100))).isNone = b := by
  rintro s b (⟨rfl, rfl⟩ | ⟨rfl, rfl⟩) <;> exact ⟨⟨rfl, rfl, rfl⟩, rfl, rfl, rfl, by decide, by decide, by decide, rfl, by decide, rfl, rfl, by decide⟩

/-- The first group's scratchpad, with words written; a pointer to its record at 0x100 in s4. -/
def scrWith (ws : List (Nat × Nat)) (s : State) : State :=
  { s with blocks := s.blocks.map (fun b => { b with data := ws.foldl (fun m e => writeBytes m e.1 8 e.2) b.data }) }
def recAt (f : Group → Group) (ws : List (Nat × Nat)) : State := now (scrWith ws (stand [0] (fun g => sIs 4 0x8000000000000100 (f g))))
def recLoc : RecLoc := .scr 0 0x100
def rdy : Loc := .scr 0 0x100
theorem rdyHere : ∀ d p, rdy ≠ .peer d p := by intro _ _ h; cases h

/-- A stream of member 0's elements in scratchpad, none fetched. -/
theorem witness_StreamArrival : ∃ (s : State) (g : Group), s.manage.poweredDown = false ∧ s.group g.gid = some g ∧ g.e ≤ 8 ∧ s.streamOpen g (g.stream 0) = true
    ∧ ∃ n ∈ s.nextElems g 0, ∃ l, (∃ va, s.elemAccess g (g.stream 0) n.2.1 n.2.2 = (va, .at_ l)) ∧ (∀ d a, l ≠ .peer d a)
      ∧ s.lineHeld l = false ∧ s.seenAt g l (g.stream 0).esize = false ∧ (∀ b o, l = .scr b o → s.shareReady b = true)
      ∧ (∀ d a, l = .weight d a → a / 4096 % 64 ≠ (s.die d).window % 64) :=
  ⟨mapped 0 (stand [0] (qBound 0)), gOf (mapped 0 (stand [0] (qBound 0))), rfl, rfl, by decide, by decide, _, .head _, .hbm 0x8000, ⟨_, rfl⟩,
    (by intro _ _ h; cases h), by decide, rfl, (by intro _ _ h; cases h), (by intro _ _ h; cases h)⟩

/-- Counter 1, one armed make-ready action at threshold 0; updates by −1, by a number out of range, and of a malformed record. -/
theorem witness_TaskUpdates :
    Kept64 (recAt id []) rdy
    ∧ (let t := (recAt id [(0x100, 1), (0x120, 0x2000000000000000)]).taskRec rdy
       t.ok true = true ∧ FiresSlot t (-1) 0 ∧ ¬FiresSlot t (-1) 1 ∧ -(2 ^ 63 : Int) ≤ t.counter - 1 ∧ t.counter - 1 < 2 ^ 63)
    ∧ (let t := (recAt id [(0x100, 0x8000000000000000)]).taskRec rdy; t.counter + -1 < -(2 ^ 63 : Int))
    ∧ ((recAt id [(0x120, 2 ^ 61 + 2 ^ 59)]).taskRec rdy).ok true = false :=
  ⟨.inr ⟨0, 0x100, rfl, by decide⟩, ⟨by decide, by unfold FiresSlot; decide, by unfold FiresSlot; decide, by decide, by decide⟩, by decide, by decide⟩

def goodAct (s : State) (x : Ix) : Prop :=
  let w := (x.g.sreg 12).toNat
  let thr := toSigned 64 (x.g.sreg 13).toNat
  s.manage.poweredDown = false ∧ -(2 ^ 31 : Int) ≤ thr ∧ thr < 2 ^ 31 ∧ actArm w = false ∧ actOrd w = 0 ∧ actOk true w = true

/-- A good action with a free slot. -/
theorem witness_Arming : ∃ s x, Issues s x ∧ Kept64 s rdy ∧ RecReady s x true 4 [12, 13] recLoc rdy ∧ RecReady s x false 4 [] recLoc rdy
    ∧ RecReady s x true 4 (skRegs 0 12) recLoc rdy ∧ goodAct s x ∧ (s.taskRec rdy).act.countP actArm = 0 ∧ (s.taskRec rdy).wait = 0 :=
  ⟨recAt (sIs 12 0xC000C00000000FC1) [], _, ⟨rfl, rfl, rfl⟩, .inr ⟨0, 0x100, rfl, by decide⟩, ⟨⟨rfl, by decide⟩, rfl, rfl, rfl, rfl, rfl, rdyHere⟩, ⟨⟨rfl, by decide⟩, rfl, rfl, rfl, rfl, rfl, rdyHere⟩, ⟨⟨rfl, by decide⟩, rfl, rfl, rfl, rfl, rfl, rdyHere⟩,
    ⟨rfl, by decide, by decide, by decide, by decide, by decide⟩, by decide, by decide⟩

/-- A good action without a free slot. -/
theorem witness_Arming_full : ∃ s x, Issues s x ∧ RecReady s x true 4 [12, 13] recLoc rdy ∧ goodAct s x ∧ (s.taskRec rdy).act.all actArm = true :=
  ⟨recAt (sIs 12 0xC000C00000000FC1) [(0x120, 0x2000000000000000), (0x128, 0x2000000000000000), (0x130, 0x2000000000000000), (0x138, 0x2000000000000000)], _, ⟨rfl, rfl, rfl⟩, ⟨⟨rfl, by decide⟩, rfl, rfl, rfl, rfl, rfl, rdyHere⟩,
    ⟨rfl, by decide, by decide, by decide, by decide, by decide⟩, by decide⟩

/-- An action that is armed, and a threshold just too great. -/
theorem witness_Arming_bad : ∃ s x, Issues s x ∧ RecReady s x true 4 [12, 13] recLoc rdy ∧ actArm (x.g.sreg 12).toNat = true
    ∧ toSigned 64 (x.g.sreg 13).toNat = 2 ^ 31 :=
  ⟨recAt (fun g => sIs 12 (2 ^ 61) (sIs 13 (2 ^ 31) g)) [], _, ⟨rfl, rfl, rfl⟩, ⟨⟨rfl, by decide⟩, rfl, rfl, rfl, rfl, rfl, rdyHere⟩, by decide, by decide⟩

/-- A record for which a group waits. -/
theorem witness_Arming_waited : ∃ s x, Issues s x ∧ RecReady s x true 4 (skRegs 0 12) recLoc rdy ∧ (s.taskRec rdy).wait / 2 ^ 40 % 2 ^ 19 ≠ 0 :=
  ⟨recAt id [(0x108, 0x10000000000)], _, ⟨rfl, rfl, rfl⟩, ⟨⟨rfl, by decide⟩, rfl, rfl, rfl, rfl, rfl, rdyHere⟩, by decide⟩

/-- An update is one that applies; one that leaves its group unready; one that fails. -/
def upd (s : State) (x : Ix) (d : Int) (j : Option Gid) : UpdRes := s.update x.g.vf recLoc d j x.g.tag
def applies : UpdRes → Option Bool
  | .ok _ _ ready => some ready
  | _ => none

def hasMore (s : State) : State :=
  { s with groups := s.groups.map (fun g => g.onPath 0 (fun p => { p with fetched := p.fetched.map (fun c => { c with words := [0, 0] }) })) }

/-- Counter 1 with a make-ready action at 0. -/
theorem witness_Arrivals : ∃ s x, Issues s x ∧ RecReady s x true 4 (skRegs 0 5) recLoc rdy ∧ RecReady s x true 4 (skRegs 0 5 ++ [6]) recLoc rdy
    ∧ RecReady s x false 4 [] recLoc rdy ∧ applies (upd s x (x.g.sk 0 5).toInt none) = some true ∧ applies (upd s x (-1) (some x.g.gid)) = some true
    ∧ applies (upd s x 0 (some x.g.gid)) = some false ∧ x.cl.words.length ≤ x.next :=
  ⟨recAt (sIs 5 (2 ^ 64 - 1)) [(0x100, 1), (0x120, 0x2000000000000000)], _, ⟨rfl, rfl, rfl⟩, ⟨⟨rfl, by decide⟩, rfl, rfl, rfl, rfl, rfl, rdyHere⟩, ⟨⟨rfl, by decide⟩, rfl, rfl, rfl, rfl, rfl, rdyHere⟩, ⟨⟨rfl, by decide⟩, rfl, rfl, rfl, rfl, rfl, rdyHere⟩, by decide, by decide, by decide, by decide⟩

/-- A counter at its least. -/
theorem witness_Arrivals_fails : ∃ s x, Issues s x ∧ RecReady s x false 4 [] recLoc rdy ∧ ∃ c, upd s x (-1) (some x.g.gid) = .fail c :=
  ⟨recAt id [(0x100, 0x8000000000000000)], _, ⟨rfl, rfl, rfl⟩, ⟨⟨rfl, by decide⟩, rfl, rfl, rfl, rfl, rfl, rdyHere⟩, _, rfl⟩

/-- A clause with a further word. -/
theorem witness_Arrivals_early : ∃ s x, Issues s x ∧ RecReady s x false 4 [] recLoc rdy ∧ x.next < x.cl.words.length :=
  ⟨hasMore (recAt id []), _, ⟨rfl, rfl, rfl⟩, ⟨⟨rfl, by decide⟩, rfl, rfl, rfl, rfl, rfl, rdyHere⟩, by decide⟩

/-- A group with an access outstanding. -/
theorem witness_Arrivals_later : ∃ s x, Issues s x ∧ ScalarReady x (Accept.scalar true true) (4 :: skRegs 0 5) ∧ s.outstanding x.g x.path.id = true :=
  ⟨flying .store (.hbm 0x8000) [] .none (recAt id []), _, ⟨rfl, rfl, rfl⟩, ⟨rfl, by decide⟩, rfl⟩

def queueOf (n : Nat) (s : State) : State := s.setCtx 0 { s.ctx 0 with spawnq := List.replicate n 64 }
def heldSpawn (n : Nat) (s : State) : State := s.setCtx 0 { s.ctx 0 with spawnq := List.replicate n 64, heldSpawns := [128] }

/-- A POLL of scratchpad and of a mapped address, and a bad pointer; spawn queues with room and full, addresses misaligned and at 2^52. -/
theorem witness_PollAndSpawn :
    (∃ s x, Issues s x ∧ ScalarReady x (Accept.scalar true true) (4 :: skRegs 0 5 ++ [6]) ∧ x.g.polling = none
      ∧ pointerAt (s.share x.g) x.g.vf 8 (x.g.sreg 4) = .ok recLoc)
    ∧ (∃ s x, Issues s x ∧ ScalarReady x (Accept.scalar true true) (4 :: skRegs 0 5 ++ [6]) ∧ x.g.polling = none
      ∧ pointerAt (s.share x.g) x.g.vf 8 (x.g.sreg 4) = .ok (.glob x.g.vf 0x9000) ∧ s.access x.g.vf 0x9000 false 8 = .at_ (.hbm 0x9000))
    ∧ (∃ s x f, Issues s x ∧ ScalarReady x (Accept.scalar true true) (4 :: skRegs 0 5 ++ [6]) ∧ x.g.polling = none
      ∧ pointerAt (s.share x.g) x.g.vf 8 (x.g.sreg 4) = .error f)
    ∧ (∃ s x, Issues s x ∧ ScalarReady x (Accept.scalar true false) [5] ∧ (x.g.sreg 5).toNat % 64 = 0 ∧ (x.g.sreg 5).toNat < 2 ^ 52
      ∧ (x.g.sreg 5).toNat ≠ 0 ∧ (x.g.sreg 7).toNat % 64 ≠ 0 ∧ (x.g.sreg 8).toNat = 2 ^ 52 ∧ (x.g.sreg 9).toNat = 0 ∧ (s.ctx x.g.vf).spawnq.length = 63)
    ∧ (∃ s x, Issues s x ∧ ScalarReady x (Accept.scalar true false) [5] ∧ (s.ctx x.g.vf).spawnq.length = 64)
    ∧ ∃ s : State, s.manage.poweredDown = false ∧ (s.ctx 0).heldSpawns = 128 :: [] ∧ (s.ctx 0).spawnq.length < 64 :=
  ⟨⟨recAt id [], _, ⟨rfl, rfl, rfl⟩, ⟨rfl, by decide⟩, rfl, rfl⟩,
   ⟨now (standMap [0] (sIs 4 0x9000)), _, ⟨rfl, rfl, rfl⟩, ⟨rfl, by decide⟩, rfl, rfl, rfl⟩,
   ⟨now (stand [0] (sIs 4 0x9001)), _, _, ⟨rfl, rfl, rfl⟩, ⟨rfl, by decide⟩, rfl, rfl⟩,
   ⟨now (queueOf 63 (stand [0] (fun g => sIs 5 0xFFFFFFFFFFFC0 (sIs 7 32 (sIs 8 (2 ^ 52) g))))), _, ⟨rfl, rfl, rfl⟩, ⟨rfl, by decide⟩, by decide, by decide, by decide, by decide, by decide,
      by decide, by decide⟩,
   ⟨now (queueOf 64 (stand [0] id)), _, ⟨rfl, rfl, rfl⟩, ⟨rfl, by decide⟩, by decide⟩,
   heldSpawn 63 State.reset, rfl, rfl, by decide⟩

def capAt (lock : Nat) (c : CapState) : State :=
  let s := standCap [0] (fun g => sIs 32 0x9000 { g with cap := c })
  now { s with hbm := writeBytes s.hbm 0x9000 8 lock }
/-- The capsule state of a group that has acquired the record and stands at step `n`. -/
def holder (n : Nat) : CapState := { CapState.none with record := 0x9000, role := 1, inMode := true, stage := n }
def displaced (b : Bool) : CapState := { CapState.none with record := 0x9000, role := 3, delivered := b, result := List.replicate 8 7 }

/-- The common hypotheses of the statement about capsules, with s40 and s32, for a record in a capsule-home page. -/
def CapReady (s : State) (x : Ix) : Prop :=
  IssuesAny s x ∧ ScalarReady x (Accept.scalar true false) [32, 40] ∧ x.g.capEmpty = 0 ∧ s.outstanding x.g x.path.id = false ∧ x.g.polling = none
  ∧ (x.g.sreg 32).toNat = 0x9000 ∧ s.access x.g.vf 0x9000 true 8 = .at_ (.hbm 0x9000) ∧ (∃ e q, s.leafOf x.g.vf 0x9000 = some (e, q) ∧ dbit e 7 = true)
  ∧ s.capBad (.hbm 0x9000) = false ∧ s.lineHeld (.hbm 0x9000) = false ∧ s.storeHeld x.g.vf 0x9000 256 = false ∧ x.g.cap.vas = []
  ∧ x.g.cap.buffer = []
def capLock (s : State) (x : Ix) : Nat := (s.touch x.g.vf 0x9000 true (.hbm 0x9000)).readLoc (.hbm 0x9000) 8

/-- A free record, a stalled one, one that runs. -/
theorem witness_Capsules_enter : ∀ n, n < 4 → ∃ s x, CapReady s x ∧ x.inCapsule = false ∧ x.g.cap.role ≠ 3 ∧ capLock s x = n * 2 ^ 20 := by
  intro n h
  have h : n = 0 ∨ n = 1 ∨ n = 2 ∨ n = 3 := by omega
  rcases h with rfl | rfl | rfl | rfl
  · exact ⟨capAt 0 CapState.none, _, ⟨⟨rfl, rfl⟩, ⟨rfl, by decide⟩, rfl, rfl, rfl, rfl, rfl, ⟨_, _, rfl, by decide⟩, by decide, rfl, rfl, rfl, rfl⟩, rfl, by decide, by decide⟩
  · exact ⟨capAt 0x100000 CapState.none, _, ⟨⟨rfl, rfl⟩, ⟨rfl, by decide⟩, rfl, rfl, rfl, rfl, rfl, ⟨_, _, rfl, by decide⟩, by decide, rfl, rfl, rfl, rfl⟩, rfl, by decide, by decide⟩
  · exact ⟨capAt 0x200000 CapState.none, _, ⟨⟨rfl, rfl⟩, ⟨rfl, by decide⟩, rfl, rfl, rfl, rfl, rfl, ⟨_, _, rfl, by decide⟩, by decide, rfl, rfl, rfl, rfl⟩, rfl, by decide, by decide⟩
  · exact ⟨capAt 0x300000 CapState.none, _, ⟨⟨rfl, rfl⟩, ⟨rfl, by decide⟩, rfl, rfl, rfl, rfl, rfl, ⟨_, _, rfl, by decide⟩, by decide, rfl, rfl, rfl, rfl⟩, rfl, by decide, by decide⟩

/-- A record of an ordinary page, and one whose STAT is 4. -/
theorem witness_Capsules_bad : (∃ s x, IssuesAny s x ∧ ScalarReady x (Accept.scalar true false) [32, 40] ∧ s.access x.g.vf 0x9000 true 8 = .at_ (.hbm 0x9000)
      ∧ ¬∃ e q, s.leafOf x.g.vf 0x9000 = some (e, q) ∧ dbit e 7 = true)
    ∧ ∃ s x, IssuesAny s x ∧ ScalarReady x (Accept.scalar true false) [32, 40] ∧ x.inCapsule = false ∧ x.g.cap.role ≠ 3 ∧ s.capBad (.hbm 0x9000) = true := by
  refine ⟨⟨now (standMap [0] id), _, ⟨rfl, rfl⟩, ⟨rfl, by decide⟩, rfl, ?_⟩, ⟨capAt 0x400000 CapState.none, _, ⟨rfl, rfl⟩, ⟨rfl, by decide⟩, rfl, by decide, by decide⟩⟩
  rintro ⟨e, q, h, k⟩
  cases h
  exact absurd k (by decide)

/-- The holder of step 14 and of step 15, and one that another has displaced. -/
theorem witness_Capsules_inside : ∃ s x, CapReady s x ∧ x.inCapsule = true ∧ x.g.cap.record = 0x9000 ∧ x.g.cap.stage = 14 ∧ x.g.cap.seq < 4096
    ∧ capLock s x % 4096 = x.g.cap.seq ∧ capLock s x / 2 ^ 12 % 256 = x.g.cap.stage ∧ capLock s x / 2 ^ 20 % 16 ≠ 0
    ∧ capLock s x / 2 ^ 24 % 2 ^ 40 = x.g.cap.holder.toNat :=
  ⟨capAt 0x10E000 (holder 14), _, ⟨⟨rfl, rfl⟩, ⟨rfl, by decide⟩, rfl, rfl, rfl, rfl, rfl, ⟨_, _, rfl, by decide⟩, by decide, rfl, rfl, rfl, rfl⟩, rfl, rfl, rfl, by decide, by decide,
    by decide, by decide, by decide⟩

theorem witness_Capsules_stage : ∃ s x, CapReady s x ∧ x.inCapsule = true ∧ x.g.cap.record = 0x9000 ∧ x.g.cap.stage = 15 ∧ capLock s x = 0 :=
  ⟨capAt 0 (holder 15), _, ⟨⟨rfl, rfl⟩, ⟨rfl, by decide⟩, rfl, rfl, rfl, rfl, rfl, ⟨_, _, rfl, by decide⟩, by decide, rfl, rfl, rfl, rfl⟩, rfl, rfl, rfl, by decide⟩

/-- A displaced holder without its result and with it. -/
theorem witness_Capsules_result : ∀ b, ∃ s x, CapReady s x ∧ x.inCapsule = false ∧ x.g.cap.role = 3 ∧ x.g.cap.record = 0x9000 ∧ x.g.cap.delivered = b
    ∧ x.g.cap.result.length = 8 := by
  intro b
  cases b
  · exact ⟨capAt 0 (displaced false), _, ⟨⟨rfl, rfl⟩, ⟨rfl, by decide⟩, rfl, rfl, rfl, rfl, rfl, ⟨_, _, rfl, by decide⟩, by decide, rfl, rfl, rfl, rfl⟩, rfl, rfl, rfl, rfl, rfl⟩
  · exact ⟨capAt 0 (displaced true), _, ⟨⟨rfl, rfl⟩, ⟨rfl, by decide⟩, rfl, rfl, rfl, rfl, rfl, ⟨_, _, rfl, by decide⟩, by decide, rfl, rfl, rfl, rfl⟩, rfl, rfl, rfl, rfl, rfl⟩

def claimed (s : State) : State := s.setPart 0 { s.part 0 with claims := [(1, 0, 200)] }
theorem one_group : ∀ g ∈ (stand [0] id).groups, g.gid = (gOf (stand [0] id)).gid := by decide

/-- Releases down to 8 registers and claims up to 128, met; a claim behind another, with a group that runs and with none. -/
theorem witness_RegisterPool : (∃ s x, Issues s x ∧ ScalarReady x {} [] ∧ x.g.vcur = 100 ∧ s.poolMeets x.g 28 = true ∧ (s.part x.p).claims = [])
    ∧ (∃ s x, Issues s x ∧ (∀ c ∈ (s.part x.p).claims, c.1 ≠ x.g.gid) ∧ x.g.vcur = 128 ∧ x.g.vEmpty = [] ∧ x.g.shEmpty = [])
    ∧ (∃ s x, Issues s x ∧ (s.part x.p).claims ≠ [] ∧ (∀ c, (s.part x.p).claims.head? = some c → ¬∃ g, s.group c.1 = some g ∧ s.poolMeets g c.2.2 = true)
      ∧ (∀ g ∈ s.groups, g.part = x.p → g.gid = x.g.gid ∨ ∃ n q a w f, g.park = .regclm n q a w f)) :=
  ⟨⟨now (stand [0] fewer), _, ⟨rfl, rfl, rfl⟩, ⟨rfl, by decide⟩, rfl, by decide, rfl⟩,
   ⟨now (stand [0] id), _, ⟨rfl, rfl, rfl⟩, by decide, rfl, rfl, rfl⟩,
   ⟨now (claimed (stand [0] id)), _, ⟨rfl, rfl, rfl⟩, by decide, (by intro c h; cases h; rintro ⟨g, h, _⟩; exact absurd ((congrArg Option.isSome h).trans rfl : _ = true) (by decide)), (by intro g h _; left; simp only [now, claimed, State.setPart] at h; exact one_group g h)⟩⟩

def evRing (en : Bool) (pi : Word) (s : State) : State :=
  s.setRing 0 3 { Ring.reset with base := 0x10000, log2 := 4, en := en, pi := pi }

/-- An event ring with room, full, and out of service; a group with an access outstanding. -/
theorem witness_SystemWords : (∃ s x, Issues s x ∧ ScalarReady x {} [] ∧ ScalarReady x (Accept.scalar true false) [5] ∧ s.outstanding x.g x.path.id = false
      ∧ x.g.polling = none ∧ (s.ring x.g.vf 3).room = true)
    ∧ (∃ s x, Issues s x ∧ s.outstanding x.g x.path.id = false ∧ (s.ring x.g.vf 3).room = false ∧ (s.ring x.g.vf 3).en = true)
    ∧ (∃ s x, Issues s x ∧ s.outstanding x.g x.path.id = true) :=
  ⟨⟨now (evRing true 15 (stand [0] id)), _, ⟨rfl, rfl, rfl⟩, ⟨rfl, by decide⟩, ⟨rfl, by decide⟩, rfl, rfl, by decide⟩,
   ⟨now (evRing true 16 (stand [0] id)), _, ⟨rfl, rfl, rfl⟩, rfl, by decide, rfl⟩,
   ⟨now (flying .store (.hbm 0x8000) [] .none (stand [0] id)), _, ⟨rfl, rfl, rfl⟩, rfl⟩⟩

/-- k0 names the kinds 0x44; v4 to v15 hold four ones each. -/
def fb (g : Group) : Group := kIs 0 0x44 ((List.range 12).foldl (fun g i => vIs (4 + i) 0x01010101 g) g)
def mma : MmaOp := mmaOp false 0 0 4 8 0
def fullQueue (s : State) : State :=
  let t := after (.mma 0 0 4 8 0) (now s)
  let q := (t.part 0).queue
  now (s.setPart 0 { s.part 0 with queue := q ++ q ++ q ++ q })

/-- An MMA whose operands are ready and an ACLR of all tiles; one with an empty register; one in a format that is none; a full queue. -/
theorem witness_MatrixIssue : (∃ s x, Issues s x ∧ mma.early x = none ∧ (∃ r, mma.rows s x = .ok r) ∧ x.act ≠ 0 ∧ (s.part x.p).queue.length < 4
      ∧ x.g.polling = none ∧ s.operandWait x.g x.path.id [] = none ∧ ({ mask := true } : Accept).ok x.hasPre x.pre = true)
    ∧ (∃ s x f, Issues s x ∧ mma.early x = some (.inl f))
    ∧ (∃ s x w, Issues s x ∧ mma.early x = some (.inr w))
    ∧ (∃ s x, Issues s x ∧ ¬(s.part x.p).queue.length < 4) :=
  ⟨⟨now (stand [0] fb), _, ⟨rfl, rfl, rfl⟩, rfl, ⟨_, rfl⟩, by decide, by decide, rfl, rfl, rfl⟩,
   ⟨now (stand [0] (fun g => kIs 0 0xFF g)), _, _, ⟨rfl, rfl, rfl⟩, rfl⟩,
   ⟨now (stand [0] (fun g => { fb g with vEmpty := [(4, 0xFFFF)] })), _, _, ⟨rfl, rfl, rfl⟩, rfl⟩,
   ⟨now (fullQueue (stand [0] fb)), _, ⟨rfl, rfl, rfl⟩, by decide⟩⟩
def row0 : RoRow := { lane := 0, member := 0, addr := 0x100, bytes := List.replicate 32 1 }
/-- A readout entry of one row to scratchpad; one to an address. -/
def ro0 : Readout :=
  { id := 70, gid := (gOf (stand [0] id)).gid, vf := 0, part := 0, share := ⟨0, 0, 0, 0, 4⟩, scratch := true, target := 0, rows := [row0], reqs := [],
    parked := none, pinned := none, first := false, addr := 0, tag := 0 }
def roTo (a : Nat) : Readout := { ro0 with scratch := false, rows := [{ row0 with addr := a }] }
def ardsRegs (g : Group) : Group := fb (sIs 20 0x8000000000000100 (sIs 21 32 g))
/-- An MMA of position 0, which clears position 1. -/
def matOp : MatOp :=
  { gid := (gOf (stand [0] id)).gid, vf := 0, kind := .mma, word := 0, pre := 0, addr := 4, atb := 0, fbo := 0x44, act := 1, zeroed := 2, a := [(0, 0x01010101010101010101010101010101)],
    b := [0x01010101010101010101010101010101], asc := [], pairs := [], idx := [], fault := none }
def hasOps (s : State) : State := s.setPart 0 { s.part 0 with queue := [matOp] }

set_option maxRecDepth 16000 in
/-- ARD and ARDS of a tile that no operation names; RQCVT of full registers. -/
theorem witness_MatrixReadout : (∃ s x sc, Issues s x ∧ ardEarly x 0 0 8 0 = none ∧ s.ardsEarly x 0 0 20 0 = none ∧ s.tilesFree x.g 0 (setTiles x.g.w) = true
      ∧ s.readScales x (x.g.kreg 0) = .ok sc ∧ s.readoutRoom x.p = true ∧ x.act &&& lowMask x.g.n ≠ 0 ∧ s.sliceRoom x.p = true
      ∧ s.outstanding x.g x.path.id = false ∧ x.g.polling = none)
    ∧ (∃ s x, Issues s x ∧ VecReady s x (rqOp 20 0 0 0) ∧ s.sliceRoom x.p = true) :=
  ⟨⟨now (stand [0] ardsRegs), _, _, ⟨rfl, rfl, rfl⟩, rfl, rfl, by decide, rfl, by decide, by decide, by decide, rfl, rfl⟩,
   ⟨now (stand [0] rqRow), _, ⟨rfl, rfl, rfl⟩, ⟨rfl, rfl, rfl, rfl, rfl, rfl, rfl⟩, by decide⟩⟩

set_option maxRecDepth 16000 in
/-- A format that is none, an empty pair register; a tile with an operation queued, no free readout entry, a full slice queue, an access
outstanding. -/
theorem witness_MatrixReadout_stops : (∃ s x f, Issues s x ∧ ardEarly x 0 0 8 7 = some (.inl f))
    ∧ (∃ s x w, Issues s x ∧ s.ardsEarly x 0 0 20 0 = some (.inr w))
    ∧ (∃ s x, Issues s x ∧ s.tilesFree x.g 0 (setTiles x.g.w) = false)
    ∧ (∃ s x, Issues s x ∧ s.tilesFree x.g 0 (setTiles x.g.w) = true ∧ s.readoutRoom x.p = false)
    ∧ (∃ s x, Issues s x ∧ ardEarly x 0 0 8 0 = none ∧ s.ardsEarly x 0 0 20 0 = none ∧ s.sliceRoom x.p = false)
    ∧ (∃ s x, Issues s x ∧ s.ardsEarly x 0 0 20 0 = none ∧ s.sliceRoom x.p = true ∧ s.tilesFree x.g 0 (setTiles x.g.w) = true
      ∧ s.readoutRoom x.p = true ∧ s.outstanding x.g x.path.id = true) :=
  ⟨⟨now (stand [0] ardsRegs), _, _, ⟨rfl, rfl, rfl⟩, rfl⟩,
   ⟨now (stand [0] (fun g => (ardsRegs g).markS 20 true)), _, _, ⟨rfl, rfl, rfl⟩, rfl⟩,
   ⟨now (hasOps (stand [0] fb)), _, ⟨rfl, rfl, rfl⟩, by decide⟩,
   ⟨now { stand [0] ardsRegs with readouts := List.replicate 4 ro0 }, _,
     ⟨rfl, rfl, rfl⟩, by decide, by decide⟩,
   ⟨now (fullQueue (stand [0] ardsRegs)), _, ⟨rfl, rfl, rfl⟩, rfl, rfl, by decide⟩,
   ⟨now (flying .store (.hbm 0x8000) [] .none (stand [0] ardsRegs)), _, ⟨rfl, rfl, rfl⟩, rfl, by decide, by decide, by decide, rfl⟩⟩

set_option maxRecDepth 16000 in
/-- 64 products of the greatest codes; none. -/
theorem witness_ResidueDot : (List.replicate 64 ((127 : Int), (-127 : Int))).length ≤ 64
    ∧ (∀ e ∈ List.replicate 64 ((127 : Int), (-127 : Int)), -127 ≤ e.1 ∧ e.1 ≤ 127 ∧ -127 ≤ e.2 ∧ e.2 ≤ 127)
    ∧ rqDot (List.replicate 64 (127, -127)) = -1032256 ∧ rqDot [] = 0 :=
  ⟨by decide, by intro e h; rw [List.eq_of_mem_replicate h]; decide, by decide, by decide⟩

def mat0 : State := hasOps (stand [0] id)
def mat1 : State := let s := stand [0] id; s.setPart 0 { s.part 0 with busy := some matOp }
/-- The same where the first accumulator holds a value far greater than the terms. -/
def matFar : State := { mat1 with groups := mat1.groups.map (fun g => { g with tiles := [(g.accKey 0 0 0, { Xa.reset with anchor := some 900, int := 0x10000000000 })] }) }
theorem witness_MatrixSteps_queue : mat0.manage.poweredDown = false ∧ (mat0.part 0).queue = [matOp] ∧ (mat0.part 0).busy = none ∧ mat0.runs matOp.vf = true := by
  decide
theorem witness_MatrixSteps_busy : (mat1.part 0).busy = some matOp ∧ matOp.fault = none ∧ mat1.group matOp.gid = some (gOf mat1)
    ∧ matFar.group matOp.gid = some (gOf matFar) ∧ (gOf mat1).w = 16 ∧ (gOf mat1).e ≤ 8 ∧ matOp.kind = .mma := by
  decide
set_option exponentiation.threshold 5000 in
theorem witness_MatrixSteps_terms : ∃ H, matOp.perform (gOf mat1) = .ok H := ⟨_, rfl⟩
set_option exponentiation.threshold 5000 in
theorem witness_MatrixSteps_overflow : ∃ f, matOp.perform (gOf matFar) = .error f := ⟨_, rfl⟩
theorem witness_MatrixSteps_hang : ∃ g ∈ mat1.resident 0, mat1.liveTiles g = true ∧ g.fault = none ∧ mat1.group g.gid = some g :=
  ⟨gOf mat1, by decide, by decide, by decide, by decide⟩

def isRo (s : State) (r : Readout) : Prop :=
  s.manage.poweredDown = false ∧ s.readouts.find? (fun q => q.id == r.id) = some r ∧ s.drives r.vf = true ∧ r.parked = none ∧ r.pinned = none ∧ r.reqs = []
def roS (r : Readout) : State := mapped 0 { stand [0] id with readouts := [r] }

/-- A row to scratchpad; to a mapped address, to an address without table, to one beyond 2^52. -/
theorem witness_MatrixSteps_rows : (isRo (roS ro0) ro0 ∧ scrTarget ro0.share row0.addr = some (0, 0x100) ∧ (roS ro0).shareReady 0 = true
      ∧ (∀ l ∈ (roS ro0).rowDests ro0 row0, (roS ro0).lineHeldBefore ro0.id l = false) ∧ (roS ro0).block 0 ≠ none)
    ∧ (isRo (roS (roTo 0x9000)) (roTo 0x9000) ∧ (roS (roTo 0x9000)).rowRuns (roTo 0x9000) { row0 with addr := 0x9000 } = .ok [(0x9000, .hbm 0x9000, row0.bytes)]
      ∧ (roS (roTo 0x9000)).lineHeldBefore (roTo 0x9000).id (.hbm 0x9000) = false ∧ (roS (roTo 0x9000)).storeHeld 0 0x9000 32 = false)
    ∧ (isRo (roS (roTo 0x8000000000)) (roTo 0x8000000000) ∧ ∃ va m, (roS (roTo 0x8000000000)).rowRuns (roTo 0x8000000000) { row0 with addr := 0x8000000000 } = .error (va, .miss m)) :=
  ⟨⟨⟨rfl, rfl, rfl, rfl, rfl, rfl⟩, by decide, rfl, by decide, by decide⟩, ⟨⟨rfl, rfl, rfl, rfl, rfl, rfl⟩, rfl, rfl, rfl⟩,
   ⟨⟨rfl, rfl, rfl, rfl, rfl, rfl⟩, _, _, rfl⟩⟩

/-- Expert 0's entry at 0x8000: EN, slots of 48 bytes at 0x20000, CAP 1, FILL `fill`, LAND `land`, TAKE `take`. -/
def entryAt (en : Bool) (slot fill land take : Nat) (s : State) : State :=
  { s with hbm := writeBytes (writeBytes (writeBytes s.hbm 0x8000 8 ((if en then 0x8000000000000000 else 0) + 0x20000)) 0x8008 8
    (0x1000000000000 + slot * 0x100000000 + fill)) 0x8018 8 (take * 0x100000000 + land) }
def rt (fill land take : Nat) : State := now (entryAt true 3 fill land take (standRx [0] id))

/-- The receive table where nothing is mapped. -/
def awayRx (s : State) : State := s.setCtx 0 { s.ctx 0 with rxtab := 0x8000000000 }

/-- What the statement about RTRECV asks for, of expert s30. -/
def RtReady (s : State) (x : Ix) : Prop :=
  Issues s x ∧ ScalarReady x {} [30, 9] ∧ s.outstanding x.g x.path.id = false ∧ x.g.polling = none
  ∧ (x.g.sreg 30).toNat = 0 ∧ dfield (s.ctx x.g.vf).rxtab 51 0 ≠ 0 ∧ s.access x.g.vf (s.rtEntry x.g.vf 0) false 32 = .at_ (.hbm 0x8000)
  ∧ s.accessBoth x.g.vf (s.rtEntry x.g.vf 0) 32 = .at_ (.hbm 0x8000) ∧ s.lineHeld (.hbm 0x8000) = false
  ∧ s.storeHeld x.g.vf (s.rtEntry x.g.vf 0) 32 = false
def rtWord (s : State) (x : Ix) (o n : Nat) : Nat := readBytes (s.touch x.g.vf (s.rtEntry x.g.vf 0) true (.hbm 0x8000)).hbm (0x8000 + o) n

/-- FILL above TAKE and at TAKE, LAND below FILL and at FILL; no receive table, and expert 1024; a table that misses. -/
theorem witness_RouteReceive : (∃ s x, RtReady s x ∧ rtWord s x 28 4 < rtWord s x 8 4 ∧ rtWord s x 24 4 ≠ rtWord s x 8 4)
    ∧ (∃ s x, RtReady s x ∧ rtWord s x 8 4 = rtWord s x 28 4 ∧ rtWord s x 24 4 = rtWord s x 8 4)
    ∧ (∃ s x, Issues s x ∧ ScalarReady x {} [30, 9] ∧ dfield (s.ctx x.g.vf).rxtab 51 0 = 0 ∧ (x.g.sreg 30).toNat = 1024)
    ∧ (∃ s x d, Issues s x ∧ ScalarReady x {} [30, 9] ∧ s.outstanding x.g x.path.id = false ∧ x.g.polling = none ∧ (x.g.sreg 30).toNat = 0
      ∧ dfield (s.ctx x.g.vf).rxtab 51 0 ≠ 0 ∧ s.access x.g.vf (s.rtEntry x.g.vf 0) false 32 = .miss d) :=
  ⟨⟨rt 1 0 0, _, ⟨⟨rfl, rfl, rfl⟩, ⟨rfl, by decide⟩, rfl, rfl, rfl, by decide, rfl, rfl, rfl, rfl⟩, by decide, by decide⟩,
   ⟨rt 1 1 1, _, ⟨⟨rfl, rfl, rfl⟩, ⟨rfl, by decide⟩, rfl, rfl, rfl, by decide, rfl, rfl, rfl, rfl⟩, by decide, by decide⟩,
   ⟨now (stand [0] (sIs 30 1024)), _, ⟨rfl, rfl, rfl⟩, ⟨rfl, by decide⟩, rfl, rfl⟩,
   ⟨now (awayRx (standRx [0] id)), _, _, ⟨rfl, rfl, rfl⟩, ⟨rfl, by decide⟩, rfl, rfl, rfl, by decide, rfl⟩⟩

/-- The first packet of a token of 16 bytes for expert 0 of domain 1, from device 1. -/
def firstPkt : Packet :=
  mkPacket 0 1 8 0 1 0 0 0 ([0x0001100000000001, 0x0100000000000000, 0, 0].flatMap (fun w => bytesOf 8 w) ++ List.replicate 16 5)
def rxState (en : Bool) (slot fill : Nat) : State :=
  let s := entryAt en slot fill 0 0 (mapped 0 State.reset)
  { (s.setCtx 0 { s.ctx 0 with rxtab := 0x0100000000008000 }) with arrived := [(0, firstPkt)] }
/-- A token that has landed but for its header. -/
def land0 : Landing :=
  { id := 70, vf := 0, src := 1, cw := 0, pseq := 1, expert := 0, slot := 0, addr := 0x20000, header := [0x0001100000000001, 0x0100000000000000, 0, 0],
    bytes := List.replicate 16 5, need := 16, whole := true, headerDone := false, landed := false, upd := none, lost := none, parked := none }
def landS (k : Landing) : State := { rxState true 3 1 with landings := [k] }
def laterS : State := { rxState true 3 1 with landings := [{ land0 with bytes := [] }], arrived := [(0, mkPacket 0 1 8 0 1 0 0 0 (List.replicate 16 6))] }

def rxWord (s : State) (o n : Nat) : Nat := readBytes s.hbm (0x8000 + o) n
/-- What the clauses about a first packet ask for. -/
def FirstReady (s : State) : Prop :=
  s.manage.poweredDown = false ∧ s.domainVf (field (numOf ((firstPkt.payload.drop 8).take 8)) 63 56) = some 0 ∧ dfield (s.ctx 0).rxtab 51 0 ≠ 0
  ∧ s.accessBoth 0 (s.rtEntry 0 (dfield (dw (numOf (firstPkt.payload.take 8))) 43 34)) 32 = .at_ (.hbm 0x8000)
  ∧ 16 * dfield (dw (numOf (firstPkt.payload.take 8))) 11 0 = 16

/-- An entry out of service, a slot too short, a full entry, and one that takes the token. -/
theorem witness_RouteSteps_first : (FirstReady (rxState false 3 0) ∧ (rxWord (rxState false 3 0) 0 8).testBit 63 = false)
    ∧ (FirstReady (rxState true 2 0) ∧ (rxWord (rxState true 2 0) 0 8).testBit 63 = true ∧ 16 * (rxWord (rxState true 2 0) 12 4 % 2 ^ 12) < 32 + 16)
    ∧ (FirstReady (rxState true 3 1) ∧ 32 + 16 ≤ 16 * (rxWord (rxState true 3 1) 12 4 % 2 ^ 12) ∧ rxWord (rxState true 3 1) 14 2 ≤ rxWord (rxState true 3 1) 8 4)
    ∧ (FirstReady (rxState true 3 0) ∧ (rxWord (rxState true 3 0) 0 8).testBit 63 = true ∧ 32 + 16 ≤ 16 * (rxWord (rxState true 3 0) 12 4 % 2 ^ 12)
      ∧ rxWord (rxState true 3 0) 8 4 < rxWord (rxState true 3 0) 14 2) :=
  ⟨⟨⟨rfl, rfl, by decide, rfl, by decide⟩, by decide⟩, ⟨⟨rfl, rfl, by decide, rfl, by decide⟩, by decide, by decide⟩,
   ⟨⟨rfl, rfl, by decide, rfl, by decide⟩, by decide, by decide⟩, ⟨⟨rfl, rfl, by decide, rfl, by decide⟩, by decide, by decide, by decide⟩⟩

/-- Where no token lands, no packet is a later one. -/
theorem laterOf_none (s : State) (p : Packet) (h : s.landings = []) : s.laterOf p = none := by
  unfold State.laterOf State.continued; rw [h]; split <;> rfl

/-- A first packet, the same again, and a later packet, that have arrived. -/
theorem witness_RouteSteps_packets : (∃ t, (rxState true 3 0).takeArrived firstPkt = some t ∧ pktKind firstPkt = 8 ∧ pktVc firstPkt = vcOf 8 ∧ t.isNew firstPkt = true
      ∧ 32 ≤ firstPkt.payload.length ∧ (rxState true 3 0).tokenFree firstPkt = true ∧ (t.acceptSeq firstPkt).laterOf firstPkt = none)
    ∧ (∃ t, ({ (rxState true 3 0).acceptSeq firstPkt with arrived := [(0, firstPkt)] } : State).takeArrived firstPkt = some t ∧ t.isNew firstPkt = false)
    ∧ (∃ p t k, laterS.takeArrived p = some t ∧ pktKind p = 8 ∧ pktVc p = vcOf 8 ∧ t.isNew p = true ∧ (t.acceptSeq p).laterOf p = some k) :=
  ⟨⟨_, rfl, by decide, by decide, by decide, by decide, by decide, laterOf_none _ _ rfl⟩, ⟨_, rfl, by decide⟩,
   ⟨mkPacket 0 1 8 0 1 0 0 0 (List.replicate 16 6), _, _, rfl, by decide, by decide, by decide, rfl⟩⟩

/-- A token whose header is to be written, one whose LAND is to be counted, and one whose entry is no longer mapped. -/
theorem witness_RouteSteps_landing : (let s := landS land0
      s.landings.find? (fun j => j.id == 70) = some land0 ∧ land0.lost = none ∧ land0.parked = none ∧ land0.need ≤ land0.bytes.length ∧ land0.headerDone = false
      ∧ s.spanRuns 0 (0x20000 + 32) land0.bytes = .ok [(0x20020, .hbm 0x20020, land0.bytes)]
      ∧ (let head := (land0.header.take 3 ++ [dw 0]).flatMap (fun w => bytesOf 8 w.toNat); s.spanRuns 0 0x20000 head = .ok [(0x20000, .hbm 0x20000, head)])
      ∧ s.lineHeld (.hbm 0x20020) = false ∧ s.lineHeld (.hbm 0x20000) = false ∧ s.storeHeld 0 0x20020 16 = false ∧ s.storeHeld 0 0x20000 32 = false)
    ∧ (let s := landS { land0 with headerDone := true }
      s.landings.find? (fun j => j.id == 70) = some { land0 with headerDone := true } ∧ s.accessBoth 0 (s.rtEntry 0 0) 32 = .at_ (.hbm 0x8000)
      ∧ s.entryFree 0 (s.rtEntry 0 0) = true ∧ readBytes s.hbm 0x8010 8 = 0 ∧ s.xfers = [])
    ∧ (let s := awayRx (landS { land0 with headerDone := true })
      s.landings.find? (fun j => j.id == 70) = some { land0 with headerDone := true } ∧ ∃ d, s.accessBoth 0 (s.rtEntry 0 0) 32 = .miss d) :=
  ⟨⟨rfl, rfl, rfl, by decide, rfl, rfl, rfl, rfl, rfl, rfl, rfl⟩, ⟨rfl, rfl, rfl, by decide, rfl⟩, ⟨rfl, _, rfl⟩⟩

def tok0 (alt : Bool) (choice : Nat) : Token :=
  { id := 71, vf := 0, gid := 0, core := 0, req := { xf0.req with opcode := 0x6D, r2 := if alt then 0x8000000000000000 else 0, r3 := 1 }, choice := choice, lslot := 0,
    bytes := some (List.replicate 16 5), inbuf := [], reading := none, sent := true, left := [], causes := [], dropping := false, parked := none, tag := 0 }
def tokReq : FabReq :=
  { id := 72, vf := 0, dev := 1, cw := 0, pseq := 1, kind := 8, rw := 0, addr := 0, payload := [], body := .token 71 true, after := [], parked := none }
/-- A reply with word `w` for token 71. -/
def reply (w : Nat) : Packet := mkPacket 0 1 9 0 1 0 0 0 (bytesOf 8 w)
def replyS (w : Nat) (alt : Bool) (choice : Nat) : State :=
  let s := mapped 0 State.reset
  { (s.setCtx 0 { s.ctx 0 with dlbase := 0x9000 }) with tokens := [tok0 alt choice], reqs := [tokReq], arrived := [(0, reply w)] }
def ReplyReady (w : Nat) (alt : Bool) (choice : Nat) : Prop :=
  ∃ t, (replyS w alt choice).takeArrived (reply w) = some t ∧ pktKind (reply w) = 9 ∧ pktVc (reply w) = vcOf 9 ∧ t.requestOf (reply w) = some tokReq
    ∧ (t.answered 72).token 71 = some (tok0 alt choice) ∧ numOf ((reply w).payload.take 8) = w
    ∧ (t.answered 72).access 0 0x9000 true 8 = .at_ (.hbm 0x9000) ∧ (replyS w alt choice).lineHeld (.hbm 0x9000) = false
    ∧ (replyS w alt choice).storeHeld 0 0x9000 8 = false

/-- A reply that accepts, one that refuses a first choice with a second, one that refuses the last with the dead-letter ring full. -/
theorem witness_RouteSteps_reply : ReplyReady 1 false 1 ∧ ReplyReady 0x100 true 1 ∧ ReplyReady 0x100 true 2
    ∧ dfield ((replyS 0x100 true 2).ctx 0).dlcap 15 0 ≤ readBytes (replyS 0x100 true 2).hbm 0x9000 8 ∧ (tok0 true 1).req.rAltv = true
    ∧ (tok0 true 2).dropCount = none :=
  ⟨⟨_, rfl, by decide, by decide, rfl, rfl, by decide, rfl, rfl, rfl⟩, ⟨_, rfl, by decide, by decide, rfl, rfl, by decide, rfl, rfl, rfl⟩,
   ⟨_, rfl, by decide, by decide, rfl, rfl, by decide, rfl, rfl, rfl⟩, by decide, by decide, rfl⟩

/-- A request of a route engine with no token in hand. -/
def routeS : State := xmap (fun t => { t with req := { t.req with opcode := 0x6D } }) cpyS
theorem witness_RouteSteps_accept : routeS.manage.poweredDown = false
    ∧ routeS.xfers.find? (fun t => t.req.opcode == 0x6D && t.st == .queued && dieOfCore t.core == 0 && routeS.runs t.vf && routeS.myTurn t
        && decide ((routeS.tokens.filter (fun u => u.die == 0)).length < 256)) = some (xf routeS) :=
  ⟨rfl, rfl⟩

/-- Types 0 to 3; expected values by hand: 255 + 1, the least and greatest of −1 and 1, a swap on equal bits. -/
theorem witness_AtomicResults : (∀ type, type < 4 ↔ type ∈ [0, 1, 2, 3]) ∧ atomApply 0 1 0xFFFFFFFF 1 0 = 0 ∧ atomApply 1 0 0xFFFFFFFF 1 0 = 0xFFFFFFFF
    ∧ atomApply 1 1 0xFFFFFFFF 1 0 = 1 ∧ atomApply 2 2 0xFFFFFFFFFFFFFFFF 1 0 = 1 ∧ atomApply 7 0 5 6 5 = 6 ∧ atomApply 7 0 5 6 4 = 5 :=
  ⟨by simp; omega, by decide, by decide, by decide, by decide, by decide, by decide⟩

/-- One access in flight, to HBM and to scratchpad; the same behind an earlier store to the place. -/
def homeS (k : AccKind) (l : Loc) : State := flying k l [⟨0, 7, 0⟩] (.v 2 false false 0) (mapped 0 (stand [0] id))
def homeA (k : AccKind) (l : Loc) : Access := acc 70 k l [⟨0, 7, 0⟩] (.v 2 false false 0) (stand [0] id)
def behind (s : State) : State :=
  { s with flight := s.flight.map (fun a => { a with after := [60] }) ++ s.flight.map (fun a => { a with id := 60, kind := .store }) }
/-- A store that is in the L1 already. -/
def inL1S : State := let s := homeS .store (.hbm 0x9000); { s with flight := s.flight.map (fun a => { a with l1 := some 5 }) }

theorem witness_HomeSteps_hbm : ∀ k, (k = .load ∨ k = .store ∨ k = .atomic 0 0 true ∨ k = .atomic 0 0 false) →
    let a := homeA k (.hbm 0x9000)
    (homeS k (.hbm 0x9000)).manage.poweredDown = false ∧ (homeS k (.hbm 0x9000)).flight.find? (fun f => f.id == a.id) = some a ∧ a.loc = .hbm 0x9000
      ∧ (homeS k (.hbm 0x9000)).homeReady a = true ∧ a.size = 4 ∧ ((homeS k (.hbm 0x9000)).core a.core).line false (0x9000 / 128) = none := by
  rintro k (rfl | rfl | rfl | rfl) <;> exact ⟨rfl, rfl, rfl, rfl, rfl, rfl⟩

theorem witness_HomeSteps_again : (let a : Access := { homeA .store (.hbm 0x9000) with l1 := some 5 }
      inL1S.flight.find? (fun f => f.id == a.id) = some a ∧ inL1S.homeReady a = true ∧ inL1S.replay = none) := ⟨rfl, rfl, rfl⟩

theorem witness_HomeSteps_behind : (let a : Access := { homeA .load (.hbm 0x9000) with after := [60] }
      (behind (homeS .load (.hbm 0x9000))).flight.find? (fun f => f.id == a.id) = some a ∧ (behind (homeS .load (.hbm 0x9000))).homeReady a = false)
    ∧ (let a : Access := { homeA .load (.scr 0 0x100) with after := [60] }
      (behind (homeS .load (.scr 0 0x100))).flight.find? (fun f => f.id == a.id) = some a ∧ (behind (homeS .load (.scr 0 0x100))).blocked a = true) :=
  ⟨⟨rfl, rfl⟩, ⟨rfl, rfl⟩⟩

theorem witness_HomeSteps_scratch : ∀ k, (k = .load ∨ k = .store ∨ k = .atomic 0 0 true) →
    let a := homeA k (.scr 0 0x100)
    (homeS k (.scr 0 0x100)).flight.find? (fun f => f.id == a.id) = some a ∧ a.loc = .scr 0 0x100 ∧ (homeS k (.scr 0 0x100)).block 0 ≠ none
      ∧ (homeS k (.scr 0 0x100)).shareReady 0 = true ∧ (homeS k (.scr 0 0x100)).lineHeld a.loc = false ∧ (homeS k (.scr 0 0x100)).blocked a = false := by
  rintro k (rfl | rfl | rfl) <;> exact ⟨rfl, rfl, by decide, rfl, rfl, rfl⟩

def asleep (n : Nat) : State := { State.reset with manage := { Manage.reset with layers := [(15, n)] } }
/-- An access to a weight bank whose refresh is over; layers asleep and awake; a dirty line. -/
theorem witness_HomeSteps_dies : (State.reset.dieOn 0 = true ∧ State.reset.dieOn 3 = true)
    ∧ (let s := homeS .load (.weight 0 0x0); homeA .load (.weight 0 0x0) ∈ s.flight ∧ (0x0 / 4096 % 64 ≠ ((s.die 0).window + 1) % 64))
    ∧ (asleep 1).layer 15 = 1 ∧ (asleep 2).layer 15 = 2 ∧ State.reset.layer 15 = 0 ∧ (15 < 16 ∧ State.reset.dieOn (15 / 4) = true)
    ∧ (∃ d ∈ (mapped 0 State.reset).dirty, d.layer ≠ 15) :=
  ⟨by decide, ⟨.head _, by decide⟩, by decide, by decide, by decide, by decide, by decide⟩

/-- The group of `stand`, with no leg running; its path changed by `f`. -/
def idle (f : Path → Path) : State :=
  let s := stand [0] (fun g => g.onPath 0 f)
  { s.setPart 0 { s.part 0 with run := none } with agenda := [] }
def nextUp : State := let s := idle id; s.setPart 0 { s.part 0 with next := some ((gOf s).gid, 0) }
def backed (n : Nat) : State := let s := idle (fun p => { p with passed := 4 * n }); { s with groups := s.groups.map (fun g => { g with backoff := n }) }
def lateCore (n : Nat) : State := let s := idle id; s.setCore 0 { s.core 0 with cycles := n }

/-- A ready slot, none, and a dissolved pair's partner. -/
theorem witness_LegSteps : ((idle id).manage.poweredDown = false ∧ ((idle id).part 0).run = none ∧ ((idle id).part 0).next = none ∧ (idle id).readySlots 0 ≠ [])
    ∧ (let s := idle (fun p => { p with wait := .slice }); (s.part 0).run = none ∧ (s.part 0).next = none ∧ s.readySlots 0 = [])
    ∧ ((nextUp.part 0).run = none ∧ nextUp.nextRunner 0 = some ((gOf nextUp).gid, 0)) := by decide

/-- Slots passed over 4 and 28 times, a slot ready for 65,536 cycles, waits of a header, of YIELD and of a reply. -/
theorem witness_LegSteps_waits : (∀ n, (n = 1 ∨ n = 7) → (backed n).slotReady (gOf (backed n)) (pOf (backed n)) = true ∧ (pOf (backed n)).aged = false
      ∧ (gOf (backed n)).backoff ≠ 0 ∧ 4 * (gOf (backed n)).backoff ≤ (pOf (backed n)).passed)
    ∧ (let s := lateCore 65536; s.slotReady (gOf s) (pOf s) = true ∧ (pOf s).classAged = false ∧ (pOf s).readyAt + 65536 ≤ (s.core (coreOf (gOf s).part)).cycles)
    ∧ (let s := idle (fun p => { p with wait := .clause }); (pOf s).wait = .clause ∧ ∃ c, (pOf s).fetched = some c ∧ s.headerReady (gOf s) (pOf s).id c.hdr = true)
    ∧ (pOf (idle (fun p => { p with wait := .yield [] 0 }))).wait = .yield [] 0
    ∧ (let s := idle (fun p => { p with wait := .reply }); (pOf s).wait = .reply ∧ s.reqs ++ s.waitReqs = []) := by
  refine ⟨?_, by decide, ⟨rfl, _, rfl, rfl⟩, rfl, rfl, rfl⟩
  rintro n (rfl | rfl) <;> decide

/-- The group's path stands at `pc`, its clause not yet fetched; memory holds `ws` at 0x8000. -/
def fetchAt (pc : Nat) (ws : List Nat) (f : Group → Group) : State :=
  let s := mapped 0 (stand [0] (fun g => f (g.onPath 0 (fun p => { p with pc := pc, fetched := none, count := 0, widx := 0 }))))
  { s with hbm := writeBytes s.hbm 0x8000 (4 * ws.length) (numOf (ws.flatMap (bytesOf 4))), agenda := [] }
def fetches (s : State) (P : Group → Path → Bool) : Bool :=
  !s.manage.poweredDown && (match s.fetcher 0 with | some (g, t) => P g t | none => false)
def inCap (g : Group) : Group := { g with cap := { CapState.none with record := 0x9000, role := 1, inMode := true, code := 0x10000 } }

/-- A legal clause, one that waits for its header, an illegal one, a missing page, an address out of range, code outside a capsule's. -/
theorem witness_FetchAndFill : fetches (fetchAt 0x8000 [0x1E000000, 0xAE000000] id) (fun g t =>
      !g.outsideCapsule t 1 && !g.outsideCapsule t 2 && decide (t.resumeAt = 0)
      && (match (fetchAt 0x8000 [0x1E000000, 0xAE000000] id).clauseAt g t with | .words ws => decide (ws.length = 2) && (clauseFault t.pc t.count (t.count != 0) ws).isNone | _ => false))
    ∧ fetches (fetchAt 0x8000 [0x00000000] id) (fun g t =>
      match (fetchAt 0x8000 [0x00000000] id).clauseAt g t with | .words ws => (clauseFault t.pc t.count (t.count != 0) ws).isSome | _ => false)
    ∧ fetches (fetchAt 0x8000000000 [] id) (fun g t => match (fetchAt 0x8000000000 [] id).clauseAt g t with | .miss _ _ => true | _ => false)
    ∧ fetches (fetchAt 0x10000000000000 [] id) (fun g t => match (fetchAt 0x10000000000000 [] id).clauseAt g t with | .fault _ _ _ => true | _ => false)
    ∧ fetches (fetchAt 0x8000 [] inCap) (fun g t => g.outsideCapsule t 1)
    ∧ fetches (fetchAt 0x8000 [0x1E000000, 0xAE000000] id) (fun g t => t.code.isEmpty
        && (let s := fetchAt 0x8000 [0x1E000000, 0xAE000000] id
            s.access g.vf 0x8000 false 4 == .at_ (.hbm 0x8000) && s.access g.vf 0x8004 false 4 == .at_ (.hbm 0x8004))) := by decide

/-- A grid runs while a word of its code is written: its fetches may read the word as it was; a grid accepted later reads the new one. -/
def codeRun : State :=
  let s := fetchAt 0x8000 [0x1E000000, 0xAE000000] id
  s.acceptLaunch 0 false false 0x9000 { entry := 0x8000, ktab := 0, shape := 0, grid := 0, alloc := 0, doneRec := 0, tag := 0, restZero := true } []
theorem witness_FetchAndFill_old : (fetchAt 0x8000 [0x1E000000, 0xAE000000] id).codeOld = [] ∧ codeRun.replay = none
    ∧ codeRun.launches.any (fun l => decide (l.id < codeRun.nextId)) = true := by decide
theorem test_fetch_old_code :
    let s := codeRun.writeLoc (.hbm 0x8004) [1, 2, 3, 4] none noVf
    let l := (codeRun.nextId - 1)
    s.olderCode l (.hbm 0x8000) = [0xAE0000001E000000] ∧ s.olderCode (l + 1) (.hbm 0x8000) = [] ∧ s.olderCode l (.hbm 0x8008) = [] := by decide

/-- Values for a v register and a shadow, an s register, a POLL; the ends of the register ranges. -/
def fillS : State :=
  let s := stand [0] id
  { s with agenda := [], fills := [⟨50, (gOf s).gid, [.v false 127 15 9, .s 63 5]⟩, ⟨51, (gOf s).gid, [.poll 0 7 7]⟩], unacked := [homeA .store (.hbm 0x9000)] }
theorem witness_FetchAndFill_fills : fillS.manage.poweredDown = false
    ∧ (∃ f, fillS.fills.find? (fun k => k.id == 50) = some f ∧ (∃ g, fillS.group f.gid = some g ∧ 127 < g.vcur ∧ 15 < g.n)
      ∧ f.items = [] ++ [.v false 127 15 9] ++ [.s 63 5] ∧ f.items = [.v false 127 15 9] ++ [.s 63 5] ++ [])
    ∧ (∃ f, fillS.fills.find? (fun k => k.id == 51) = some f ∧ f.items = [.poll 0 7 7]) ∧ (∃ a ∈ fillS.unacked, a.id = 70) :=
  ⟨rfl, ⟨_, rfl, ⟨_, rfl, by decide, by decide⟩, rfl, rfl⟩, ⟨_, rfl, rfl⟩, by decide⟩

/-- A launch ring of function 0 in host memory at 0x10000 with one record; its ENTRY, KTAB and KCOUNT given. -/
def ringRec (entry ktab kcount : Nat) : State :=
  let s := mapped 0 State.reset
  let w (i v : Nat) (m : FMap Byte) : FMap Byte := writeBytes m (0x10000 + 8 * i) 8 v
  { (s.setRing 0 0 { Ring.reset with base := 0x10000, log2 := 4, en := true, pi := 1 }) with
    host := w 0 entry (w 1 ktab (w 2 ((placedLaunch s).shape.toNat + kcount * 0x2000000000) (w 3 0x100010001 (w 4 1000 s.host)))) }
def recOf (s : State) : LaunchRec := match s.nextRecord 0 false with | some (_, .ok ws) => launchOf ws | _ => launchOf []
def kOf (s : State) : Except ReadStop (List Dword) := s.launchWords 0 false (shKcount (recOf s).shape) (recOf s).ktab.toNat
def LaunchReady (s : State) : Prop :=
  s.manage.poweredDown = false ∧ s.queueOpen 0 false = true ∧ ∃ a ws, s.nextRecord 0 false = some (a, .ok ws)

set_option maxRecDepth 8000 in
/-- Records accepted with no word and one word of table, rejected, with a table out of range and unmapped. -/
theorem witness_LaunchSteps_accept : (LaunchReady (ringRec 0x8000 0 0) ∧ (ringRec 0x8000 0 0).launchCause (recOf (ringRec 0x8000 0 0)) = 0)
    ∧ (LaunchReady (ringRec 0x8002 0 0) ∧ (ringRec 0x8002 0 0).launchCause (recOf (ringRec 0x8002 0 0)) = 4) :=
  ⟨⟨⟨rfl, rfl, _, _, rfl⟩, by decide⟩, ⟨⟨rfl, rfl, _, _, rfl⟩, by decide⟩⟩
set_option maxRecDepth 8000 in
theorem witness_LaunchSteps_table : (∃ k, kOf (ringRec 0x8000 0x9000 1) = .ok k) ∧ (∃ d va, kOf (ringRec 0x8000 0x8000000000 1) = .error (.miss d va))
    ∧ (∃ c va, kOf (ringRec 0x8000 0x10000000000000 1) = .error (.fault c va)) ∧ (ringRec 0x8000 0x8000000000 1).launchCause (recOf (ringRec 0x8000 0x8000000000 1)) = 0
    ∧ (ringRec 0x8000 0x10000000000000 1).launchCause (recOf (ringRec 0x8000 0x10000000000000 1)) = 0 :=
  ⟨⟨_, rfl⟩, ⟨_, _, rfl⟩, ⟨_, _, rfl⟩, by decide, by decide⟩

/-- An accepted launch of one block; the same with its grid done. -/
def accepted0 : State := { mapped 0 State.reset with launches := [{ placedLaunch State.reset with nextCluster := 0, gids := [], cores := [] }] }
def front : Launch := accepted0.launches.headD (placedLaunch State.reset)
def doneL (d : Dword) : Launch := { placedLaunch State.reset with blocksLeft := 0, doneRec := d }
def oldDie (n : Nat) : State := accepted0.setDie 0 { accepted0.die 0 with cycles := n }

theorem witness_LaunchSteps_place : accepted0.manage.poweredDown = false ∧ accepted0.frontLaunch 0 false = some front ∧ (accepted0.roomOn front 0).isSome = true
    ∧ accepted0.placeable 0 front 0 = true ∧ (front.vf, front.spawn) = (0, false) ∧ front.progress = [] ∧ front.nextCluster < gridClusters front.grid
    ∧ (oldDie 65536).frontLaunch 0 false = some front ∧ (oldDie 65536).dieOn 0 = true ∧ 0 ∈ (oldDie 65536).launchDies front.shape
    ∧ (oldDie 65536).agedQueue 0 = some (0, false) ∧ ((oldDie 65536).die 0).agedFor = none ∧ fget 0 front.waitSince 0 + 65536 ≤ ((oldDie 65536).die 0).cycles := by decide
/-- A cluster of two blocks in progress, its first on core 0; another queue's in progress; another queue aged; a table in a line that an engine owns. -/
def inProgress (sp : Bool) : State :=
  { accepted0 with launches := accepted0.launches ++ [{ front with id := 99, spawn := sp, progress := [{ die := 0, cluster := 0, next := 1, cores := [0] }] }] }
theorem witness_LaunchSteps_refused : (∃ l ∈ (inProgress true).launches, ∃ q, l.progress.find? (fun q => q.die == 0) = some q ∧ 0 ∈ q.cores)
    ∧ (∃ k ∈ (inProgress true).launches, ((inProgress true).ctx k.vf).st = .live ∧ ∃ q ∈ k.progress, q.die = 0)
    ∧ front.progress.find? (fun q => q.die == 0) = none
    ∧ (accepted0.setDie 0 { accepted0.die 0 with agedFor := some (5, true) }).agedQueue 0 = some (5, true)
    ∧ gridClusters front.grid ≤ ({ front with nextCluster := 1 } : Launch).nextCluster :=
  ⟨⟨_, .tail _ (.head _), _, rfl, by decide⟩, ⟨_, .tail _ (.head _), rfl, _, .head _, rfl⟩, rfl, rfl, by decide⟩

theorem witness_LaunchSteps_done : ∀ d, (d = 0 ∨ d = 0x8000) → let s : State := { State.reset with launches := [doneL d] }
    s.launches.find? (fun k => k.id == (doneL d).id) = some (doneL d) ∧ (s.ctx (doneL d).vf).st = .live ∧ s.gridDone (doneL d) = true ∧ (doneL d).doneRec = d := by
  rintro d (rfl | rfl) <;> exact ⟨rfl, rfl, rfl, rfl⟩

/-! Queues. -/

def updOf (src : UpdSrc) (r : RecLoc) (d : Int) : Update := { id := 60, vf := 0, target := r, d := d, src := src, tag := 0, after := [], parked := none }
def updS (src : UpdSrc) (r : RecLoc) (d : Int) : State := { mapped 0 (stand [0] id) with updates := [updOf src r d] }
/-- The update of the state, without it. -/
def restOf (s : State) (d : Int) (r : RecLoc) : UpdRes := ({ s with updates := s.updates.filter (fun k => k.id != 60) } : State).update 0 r d none 0

/-- Updates that apply, fail and miss; an event entry. -/
theorem witness_QueueSteps_updates : (∀ src r d, let s := updS src r d
      s.manage.poweredDown = false ∧ s.updates.find? (fun k => k.id == 60) = some (updOf src r d) ∧ (updOf src r d).parked = none ∧ (updOf src r d).after = [])
    ∧ (∃ u o b, restOf (updS .engine (.glob 0 0x9000) (-1)) (-1) (.glob 0 0x9000) = .ok u o b)
    ∧ (∃ c, restOf (updS .engine (.glob 0 0x9000) 0x8000000000000000) 0x8000000000000000 (.glob 0 0x9000) = .fail c)
    ∧ (∃ d, restOf (updS .engine (.glob 0 0x8000000000) 1) 1 (.glob 0 0x8000000000) = .miss d)
    ∧ (updS .engine (.glob 0 0x9000) 1).recFree (.glob 0 0x9000) = true ∧ (updS .ring (.glob 0 0x9000) 1).runs 0 = true :=
  ⟨fun _ _ _ => ⟨rfl, rfl, rfl, rfl⟩, ⟨_, _, _, rfl⟩, ⟨_, rfl⟩, ⟨_, rfl⟩, rfl, rfl⟩

def park0 (w : Parked) (b : Bool) : ParkEntry := { token := 3, words := [0x1000000000000003, 0x9000, 0, 0], written := b, work := w }
/-- A parking entry of `w`, and a resume entry with first word `e` in function 0's resume ring. -/
def resumeS (w : Parked) (b : Bool) (e : Nat) (st : CtxState) : State :=
  let s := stand [0] id
  let t : State := { s with host := writeBytes s.host 0x10000 8 e, groups := s.groups.map (fun g => { g with park := .miss, tokens := [3] }), agenda := [] }
  let u := t.setCtx 0 { t.ctx 0 with parks := [park0 w b], st := st, heldLaunch := [(true, 3)] }
  (u.setRing 0 2 { Ring.reset with base := 0x10000, log2 := 4, en := true, pi := 1 }).setRing 0 1 { Ring.reset with base := 0x20000, log2 := 4, en := true }

/-- A parking entry not yet written; a ring with a resume entry, its parking entry outstanding, in each state of the context. -/
theorem witness_QueueSteps_rings : (let s := resumeS (.update 60) false 3 .live
      park0 (.update 60) false ∈ (s.ctx 0).parks ∧ (∀ f ∈ (s.ctx 0).parks, f.written = false → f = park0 (.update 60) false) ∧ (s.ring 0 1).room = true)
    ∧ (∀ w, (w = .update 60 ∨ w = .launch true) → let s := resumeS w true 3 .live
        (s.ring 0 2).en = true ∧ (s.ring 0 2).used ≠ 0 ∧ (s.ctx 0).parks.find? (fun p => p.token == 3) = some (park0 w true))
    ∧ ((resumeS (.update 60) true 3 .halted).ctx 0).st = .halted ∧ ((resumeS (.update 60) true 3 .halted).ring 0 2).en = true :=
  ⟨by decide, by rintro w (rfl | rfl) <;> exact ⟨by decide, by decide, by decide⟩, by decide, by decide⟩

/-- A group parked on a miss, for which an entry names address-error; an entry of CODE 2. -/
theorem witness_QueueSteps_resume : (let s := resumeS (.group (gOf (stand [0] id)).gid) true 0x1001000000000003 .live
      (∃ g, s.group (gOf (stand [0] id)).gid = some g ∧ g.park = .miss ∧ g.tokens.filter (· != 3) = [])
        ∧ readBytes s.host 0x10000 8 / 2 ^ 60 % 2 ^ 4 = 1 ∧ readBytes s.host 0x10000 8 / 2 ^ 48 % 2 ^ 8 = 1 ∧ readBytes s.host 0x10000 8 % 2 ^ 32 = 3)
    ∧ readBytes (resumeS (.update 60) true 0x1002000000000003 .live).host 0x10000 8 / 2 ^ 48 % 2 ^ 8 = 2
    ∧ readBytes (resumeS (.launch true) true 3 .live).host 0x10000 8 / 2 ^ 60 = 0 :=
  ⟨⟨⟨_, rfl, rfl, rfl⟩, by decide, by decide, by decide⟩, by decide, by decide⟩

def buf0 : AggBuf := { id := 65, core := 0, dev := 1, cw := 3, entries := [{ e0 := 0, e1 := 0, gid := 0 }], used := 0 }
def move0 : Move :=
  { id := 66, vf := 0, die := 0, va := 0x9000, size := 4096, pteAddr := 0x3048, tier := 1, frame := 0x99, poolWord := 0 }

def moveS : State := { flying .load (.hbm 0x9000) [] .none (mapped 0 (stand [0] id)) with agg := [buf0], moves := [move0] }
/-- An aged buffer; a die whose migration period is over, without policy and hints; a move of a page of HBM to host memory with a stalled
access. -/
theorem witness_QueueSteps_moves : moveS.agg.find? (fun k => k.id == 65) = some buf0 ∧ buf0.cw ∉ moveS.heldCw ∧ moveS.waitReqs = []
    ∧ (moveS.dieOn 0 = true ∧ (moveS.ctx 0).migPolicy = 0 ∧ (let s := moveS.setDie 0 { moveS.die 0 with cycles := 65536 }; fget 0 (s.ctx 0).periods 0 + 65536 ≤ (s.die 0).cycles)
      ∧ (moveS.ctx 0).hints = [])
    ∧ moveS.moves.find? (fun k => k.id == 66) = some move0 ∧ (moveS.ctx 0).poolCount = 0
    ∧ (let s := { moveS with hbm := writeBytes moveS.hbm 0x3048 8 0x931B }; readBytes s.hbm 0x3048 8 / 2 ^ 5 % 4 = 0 ∧ readBytes s.hbm 0x3048 8 / 2 ^ 12 % 2 ^ 40 = 9) := by
  refine ⟨rfl, by decide, rfl, ⟨by decide, rfl, by decide, rfl⟩, rfl, rfl, by decide⟩

/-- Function 0 stopping, with one group; the same with its units' acknowledgements. -/
def stopS (acks : List StopUnit) : State :=
  let s := stand [0] id
  let t : State := { s with agenda := [], parts := [] }
  t.setCtx 0 { t.ctx 0 with st := .stopping false, acked := acks, saveBase := 0x100000 }
def stopUnits : List StopUnit := [.group (gOf (stopS [])).gid, .block 0]
def isCmd (st : CtxState) (w0 : Dword) : State :=
  let s := State.reset.setCtx 0 { Ctx.reset with st := st }
  { s with cmd := some ⟨w0, 0, 0, 0, 0, 0, 0, 0⟩ }

/-- A group at its stop point; a context not stopping; all units acknowledged and driven, and one that has not. -/
theorem witness_StopSteps : (stopS []).manage.poweredDown = false ∧ (stopS []).stopping 0 = true
    ∧ (∃ u ∈ (stopS []).unitsOf 0, u ∉ ((stopS []).ctx 0).acked ∧ (stopS []).atStop 0 u = true)
    ∧ (stand [0] id).stopping 0 = false
    ∧ ((stopS ((stopS []).unitsOf 0)).ctx 0).st = .stopping false ∧ (∀ u ∈ (stopS ((stopS []).unitsOf 0)).unitsOf 0, u ∈ ((stopS ((stopS []).unitsOf 0)).ctx 0).acked)
    ∧ (stopS ((stopS []).unitsOf 0)).driven 0 = true ∧ (stopS ((stopS []).unitsOf 0)).parts = [] := by decide

/-- A group with a fault whose fields are at the ends of their ranges. -/
theorem witness_StopSteps_record : ∃ (g : Group) (f : FaultInfo), g.fault = some f ∧ f.code < 2 ^ 8 ∧ f.cause < 2 ^ 8 ∧ ∀ l e, f.pos = some (l, e) → l < 64 ∧ e < 8 :=
  ⟨{ gOf (stopS []) with fault := some { code := 255, cause := 255, pos := some (63, 7), shd := false, faddr := 8, daddr := 0 } }, _, rfl, by decide, by decide,
    by intro l e h; cases h; decide⟩

def okResume : Except Nat State → Bool | .ok _ => true | _ => false
/-- Commands with and without a reserved bit set, of a function whose context is live, stopping, halted, switched out. -/
theorem witness_StopSteps_commands : (∀ st w0, (isCmd st w0).cmd = some ⟨w0, 0, 0, 0, 0, 0, 0, 0⟩) ∧ ((isCmd .halted 0).ctx 0).keptResume = []
    ∧ (isCmd .live 0x0000000100000000).cmdBad ⟨0x0000000100000000, 0, 0, 0, 0, 0, 0, 0⟩ = true ∧ (isCmd .live 0).cmdBad ⟨0, 0, 0, 0, 0, 0, 0, 0⟩ = false
    ∧ (∀ st, (st = .live ∨ st = .stopping true ∨ st = .halted ∨ st = .switched) → ((isCmd st 0).ctx 0).st = st)
    ∧ okResume (State.resumeCtx { isCmd .halted 0 with cmd := none } 0) = true
    ∧ (let s : State := { stand [0] id with cmd := some ⟨0, 0, 0, 0, 0, 0, 0, 0⟩ }; (s.ctx 0).st = .live ∧ s.resides 0 = true) :=
  ⟨fun _ _ => rfl, rfl, by decide, by decide, by rintro st (rfl | rfl | rfl | rfl) <;> rfl, by decide, by decide⟩

/-! Errors. -/

def errS : State := homeS .load (.hbm 0x10000)
def withRing4 (s : State) : State := s.setRing 0 4 { Ring.reset with base := 0x10000, log2 := 4, en := true }
def aged (n : Nat) (s : State) : State := let t := s.setCore 1023 { s.core 1023 with retiring := true }; { t with manage := { t.manage with badSlots := (List.range n).map (fun i => (3, 256 + i)) } }

/-- An access to a clean line; a dirty line; a group, a block; sources and units at the ends of their ranges; a core retiring, with a block
and without, with 15 and 16 spare slots used; layers with a dirty line. -/
theorem witness_ErrorSteps : (errS.manage.poweredDown = false ∧ errS.flight.find? (fun f => f.id == 70) = some (homeA .load (.hbm 0x10000))
      ∧ (∀ d ∈ errS.dirty, d.line ≠ 0x10000 / 128) ∧ (errS.ctx 0).parks = [] ∧ ((withRing4 errS).ring 0 4).room = true)
    ∧ (State.reset.inHbm 0 1 = true ∧ (0 : Nat) < 64 ∧ (State.reset.ctx 63).st = .live)
    ∧ (errS.group (gOf errS).gid = some (gOf errS) ∧ (gOf errS).fault = none ∧ errS.block 0 ≠ none)
    ∧ ((4 : BitVec 8).toNat ≤ 11 ∧ (11 : BitVec 8).toNat ≤ 11 ∧ State.reset.dieOn (3 : BitVec 2).toNat = true)
    ∧ (((aged 15 State.reset).core 1023).retiring = true ∧ (aged 15 State.reset).blocks = [] ∧ (aged 15 State.reset).manage.badSlots.length = 15 ∧ (3, 270) ∈ (aged 15 State.reset).manage.badSlots
      ∧ (3, 271) ∉ (aged 15 State.reset).manage.badSlots ∧ (aged 15 State.reset).manage.repair = []
      ∧ ∀ q ∈ List.range 16, (3, 256 + q) ∈ (aged 16 State.reset).manage.badSlots)
    ∧ (let s := errS.setCore 0 { errS.core 0 with retiring := true }; (s.core 0).retiring = true ∧ ∃ b ∈ s.blocks, b.core = 0)
    ∧ (errS.dieOn (0 / 4) = true ∧ errS.layer 0 = 0 ∧ ∃ d ∈ errS.dirty, d.layer = 0)
    ∧ errS.dirty.find? (fun d => d.is false (0x8000 / 128)) = some ⟨0, false, 256⟩
    ∧ errorUnitOk 3 3 17 = true ∧ errorUnitOk 4 0 255 = true := by decide
theorem witness_ErrorSteps_access : ∃ a, errS.access 0 0x9000 false 4 = .at_ (.hbm a) := ⟨0x9000, rfl⟩

/-! Cooling and starts. -/

def coolS (f : Manage → Manage) : State := { State.reset with manage := f Manage.reset }
def coolM (f : Manage → Manage) : Manage := f Manage.reset

theorem witness_LoopsAndStarts : (coolM (fun m => { m with poweredDown := true })).poweredDown = true ∧ Manage.reset.poweredDown = false
    ∧ (Manage.reset.topOk = true ∧ Manage.reset.tableNext = none)
    ∧ (let m := coolM (fun m => { m with botOk := false }); (m.topOk || m.topHeld) = true ∧ m.botOk = false ∧ m.botHeld = false ∧ m.tableNext ≠ some 3)
    ∧ (let m := coolM (fun m => { m with botOk := false, botHeld := true }); m.botHeld = true ∧ m.tableNext ≠ some 3)
    ∧ (coolM (fun m => { m with tableNext := some 3 })).tableNext = some 3
    ∧ (let s := coolS (fun m => { m with tableNext := some 1 }); s.manage.tableNext = some 1 ∧ ∀ e ∈ s.parts, e.2.run = none ∧ e.2.next = none)
    ∧ (let s := { stand [0] id with manage := coolM (fun m => { m with tableNext := some 1 }) }; ∃ e ∈ s.parts, e.2.run ≠ none ∨ e.2.next ≠ none)
    ∧ (let m := coolM (fun m => { m with mode := 0, stage := 5 }); m.mode = 0 ∧ m.stage = 5)
    ∧ (State.reset.dieOn (383 / 96) = true ∧ (isCmd .live 0).cmdBad ⟨0, 0, 0, 0, 0, 0, 0, 0⟩ = false)
    ∧ (2 < 3 ∧ (coolM (fun m => { m with attempt := 3 })).attempt = 3)
    ∧ (Manage.reset.testFailure false (Manage.reset.selfTest ((List.range 16).map (fun i => (0, 256 + i)) ++ [(0, 255)])).2 = some (3, 3)
      ∧ ({ Manage.reset with badBanks := [(3, 0), (3, 64)] } : Manage).testFailure false [] = some (3, 4)
      ∧ ((Manage.reset.selfTest [(0, 255)]).1.repair, (Manage.reset.selfTest [(0, 255)]).2) = ([(0, 255, 256)], []) ∧ Manage.reset.thermal = false)
    ∧ (let m := coolM (fun m => { m with table := 2 }); m.table = 2 ∧ (0xFFBF : Half).toNat / 64 % 4 = 2 ∧ (0xFF3F : Half).toNat / 64 % 4 = 0)
    ∧ (∀ d ∈ List.range 4, (Manage.reset.badBanks.filter (fun b => b.1 == d)).length ≤ 1) := by decide

def portS (f : Port → Port) : State := State.reset.setPort 17 (f Port.reset)
/-- A flit of a packet alone in it: an acknowledgement from device 1. -/
def flit0 (seq : Nat) (ok : Bool) : Flit :=
  { vc := 1, seq := seq, crcOk := ok, data := (let p := mkPacket 0 1 6 3 1 0 0 0 []; bytesOf 8 p.w0.toNat ++ bytesOf 8 p.w1.toNat ++ List.replicate 48 0) }

/-- The last port: with lanes to lose, widths waiting and turning, idle, a flit in place, out of place and doubled, flits to resend, retraining. -/
theorem witness_LinkSteps_lanes : State.reset.manage.poweredDown = false ∧ (17 : Nat) < 18
    ∧ (let P := State.reset.port 17; P.dead = false ∧ P.training = false ∧ 2 < P.good ∧ 0 < P.out ∧ 0 < P.inn ∧ P.newIn = none ∧ P.idleIn = false)
    ∧ (let P := (portS (fun k => { k with good := 3 })).port 17; 2 < P.good)
    ∧ (let P := (portS (fun k => { k with newOut := some 7 })).port 17; P.dead = false ∧ P.turns = false ∧ P.newOut = some 7 ∧ P.prog = [])
    ∧ (let P := (portS (fun k => { k with newIn := some 7 })).port 17; P.dead = false ∧ P.turns = false ∧ P.newIn = some 7 ∧ P.held = [])
    ∧ (let P := (portS (fun k => { k with newOut := some 7, newIn := some 9, held := [(1, [])] })).port 17; P.dead = false ∧ P.turns = true ∧ P.held ≠ [])
    ∧ (let P := (portS (fun k => { k with idleOut := true, idleIn := true })).port 17; P.dead = false ∧ P.idleOut = true ∧ P.idleIn = true) := by decide
set_option maxRecDepth 8000 in
theorem witness_LinkSteps_flits : (let P := State.reset.port 17
      (flit0 0 true).data.length = 64 ∧ fget 0 P.occ 1 < 256 ∧ (flit0 0 true).crcOk = true ∧ P.missing = [] ∧ (flit0 0 true).seq = P.recvSeq ∧ P.held = []
      ∧ pktVc (packetOf (flit0 0 true).data) = 1 ∧ pktLen (packetOf (flit0 0 true).data) ≤ 48 ∧ pktKind (packetOf (flit0 0 true).data) ≠ 10)
    ∧ (let P := (portS (fun k => { k with recvSeq := 5 })).port 17; (flit0 4 true).seq < P.recvSeq ∧ P.recvSeq < (flit0 6 true).seq ∧ P.missing = [])
    ∧ (let P := (portS (fun k => { k with replay := [flit0 3 true], sendSeq := 4 })).port 17; (∃ f ∈ P.replay, f.seq = 3) ∧ P.resendAt = none ∧ P.cut = false)
    ∧ (let P := (portS (fun k => { k with fails := 8 })).port 17; 8 ≤ P.fails) ∧ (let P := (portS (fun k => { k with fails := 7, sentFails := 7 })).port 17; P.fails < 8 ∧ P.sentFails < 8)
    ∧ (let P := (portS (fun k => { k with training := true })).port 17; P.training = true ∧ P.dead = false ∧ 8 ≤ P.out ∧ 0 ≤ P.inn)
    ∧ (let K : Port := { Port.reset with pausedTx := 2 }; K.pausedTx.getLsbD (pktVc (packetOf (flit0 0 true).data)) = true) := by decide
/-- Carriageway 3 held by its dead link, with every other link live, and with none. -/
def deadCw : State := { (State.reset.setPort 3 { Port.reset with dead := true }) with heldCw := [3] }
theorem witness_LinkSteps_death : (3 ∈ deadCw.heldCw ∧ (deadCw.port (deadCw.linkOf 3)).dead = true ∧ deadCw.arrived = []
      ∧ ∃ l ∈ List.range 18, 16 ≤ l ∧ (deadCw.port l).dead = false ∧ (deadCw.port l).farDead = false ∧ ∀ c ∈ List.range 16, deadCw.linkOf c ≠ l)
    ∧ (let s : State := { (State.reset.setPort 3 { Port.reset with farDead := true }) with heldCw := [3] }
       3 ∈ s.heldCw ∧ (s.port (s.linkOf 3)).farDead = true ∧ (s.port 0).farDead = false)
    ∧ (let s : State := { State.reset with ports := (List.range 18).map (fun i => (i, { Port.reset with dead := true })), heldCw := [3] }
       (s.port (s.linkOf 3)).dead = true ∧ ∀ l ∈ List.range 18, (s.port l).dead = true) := by decide

/-! Packets. -/

/-- An import window of all of the first die's first GiB for device requests, with its rights; a packet of kind `k` has arrived from device 1. -/
def reqS (rights : Nat) (p : Packet) : State :=
  { mapped 0 State.reset with iwin := [(0, BitVec.ofNat 64 (0x8000000000000000 + rights * 0x2000000000000000)), (1, 0x40000000)], arrived := [(0, p)] }
def rdPkt : Packet := mkPacket 0 1 0 0 1 0 31 0x9000 []
def wrPkt : Packet := mkPacket 0 1 2 0 1 0 0 0x9000 (List.replicate 16 255 ++ List.replicate 128 7)
/-- An entry: a store of 4 bytes at 0x9000; an atomic add there; a task update of the record there. -/
def ent (e0 e1 : Nat) : List Byte := bytesOf 8 e0 ++ bytesOf 8 e1
def agPkt : Packet := mkPacket 0 1 3 0 1 0 0 0 (ent 0x2400 5)
def atPkt (op : Nat) : Packet := mkPacket 0 1 4 0 1 0 0 0 (ent (op * 0x1000000000000000 + 0x2400) 5)
/-- What has arrived: its state without it, and that no line of it is held. -/
def Arrives (s : State) (p : Packet) (k : Nat) (new : Bool) : Prop :=
  s.manage.poweredDown = false ∧ pktKind p = k ∧ pktVc p = vcOf k ∧ (s.takeArrived p).map (fun u => u.isNew p) = some new
/-- The same state when the packet has been accepted before, its response logged. -/
def again (s : State) (p : Packet) : State :=
  { s.acceptSeq p with rlog := [{ src := 1, cw := 0, pseq := 1, pkt := mkPacket 1 0 5 0 1 0 0 0 (bytesOf 8 0), area := 0 }] }

/-- A read of 128 bytes with the right and without, new and again. -/
theorem witness_PacketRequests_read : Arrives (reqS 3 rdPkt) rdPkt 0 true ∧ Arrives (again (reqS 3 rdPkt) rdPkt) rdPkt 0 false
    ∧ (reqS 3 rdPkt).linesFree 0x9000 128 = true ∧ (reqS 3 rdPkt).importFault (pktAddr rdPkt) (4 * (pktRw rdPkt + 1)) false = none
    ∧ (reqS 1 rdPkt).importFault (pktAddr rdPkt) (4 * (pktRw rdPkt + 1)) false = some 7 :=
  ⟨⟨rfl, by decide, by decide, by decide⟩, ⟨rfl, by decide, by decide, by decide⟩, by decide, by decide, by decide⟩
set_option maxRecDepth 16000 in
theorem witness_PacketRequests_write : Arrives (reqS 3 wrPkt) wrPkt 2 true ∧ Arrives (again (reqS 3 wrPkt) wrPkt) wrPkt 2 false
    ∧ (reqS 3 wrPkt).linesFree 0x9000 128 = true ∧ (reqS 3 wrPkt).importFault 0x9000 128 true = none ∧ (reqS 2 wrPkt).importFault 0x9000 128 true = some 7
    ∧ (reqS 3 wrPkt).replay = none ∧ (reqS 3 wrPkt).frameMoving 0x9000 128 = false :=
  ⟨⟨rfl, by decide, by decide, by decide⟩, ⟨rfl, by decide, by decide, by decide⟩, by decide, by decide, by decide, rfl, rfl⟩
theorem witness_PacketRequests_aggregated : Arrives (reqS 3 agPkt) agPkt 3 true ∧ Arrives (again (reqS 3 agPkt) agPkt) agPkt 3 false
    ∧ (reqS 3 agPkt).opsReady (opsOf agPkt.payload) false = true ∧ opsOf agPkt.payload ≠ []
    ∧ (∀ o ∈ opsOf agPkt.payload, (reqS 3 agPkt).importFault o.pa o.size true = none) ∧ (∀ o ∈ opsOf agPkt.payload, (reqS 2 agPkt).importFault o.pa o.size true = some 7) :=
  ⟨⟨rfl, by decide, by decide, by decide⟩, ⟨rfl, by decide, by decide, by decide⟩, by decide, by decide, by decide, by decide⟩
/-- An atomic and a task update, admitted and not, a duplicate; a record that cannot take the update. -/
theorem witness_PacketRequests_atomic : ∀ op, (op = 1 ∨ op = 9) → Arrives (reqS 3 (atPkt op)) (atPkt op) 4 true
    ∧ (reqS 3 (atPkt op)).opsReady (opsOf (atPkt op).payload) true = true
    ∧ ∃ o, opsOf (atPkt op).payload = [o] ∧ e0Op o.e0 = op ∧ (reqS 3 (atPkt op)).importFault o.pa o.size true = none
      ∧ (reqS 2 (atPkt op)).importFault o.pa o.size true = some 7 := by
  rintro op (rfl | rfl) <;> exact ⟨⟨rfl, by decide, by decide, by decide⟩, by decide, _, rfl, by decide, by decide, by decide⟩
theorem witness_PacketRequests_again : ∃ e, (again (reqS 3 (atPkt 1)) (atPkt 1)).rlog.find? (fun e => e.src == 1 && e.cw == 0 && e.pseq == 1) = some e := ⟨_, rfl⟩

/-- No window; a packet of kind 12, and one on another channel than its kind's; an answer that leaves at once. -/
def oddPkt : Packet := { rdPkt with w0 := rdPkt.w0 + 0xC00000000000 }
def chanPkt : Packet := { rdPkt with w0 := rdPkt.w0 + 0x40000000000 }
theorem witness_PacketRequests_other : (∀ i, i < 16 → dbit (State.reset.iwLo i) 63 = false) ∧ 12 ≤ pktKind oddPkt ∧ pktVc chanPkt ≠ vcOf (pktKind chanPkt)
    ∧ (0, oddPkt) ∈ (reqS 3 oddPkt).arrived ∧ (0, chanPkt) ∈ (reqS 3 chanPkt).arrived ∧ pktSrc rdPkt ≠ State.reset.dev ∧ State.reset.dev < 256
    ∧ (State.reset.setPort 0 { Port.reset with pausedTx := 15 }).port 0 ≠ Port.reset := by decide
theorem witness_PacketRequests_discard : (∃ u, (reqS 3 oddPkt).takeArrived oddPkt = some u) ∧ ∃ u, (reqS 3 chanPkt).takeArrived chanPkt = some u := ⟨⟨_, rfl⟩, _, rfl⟩

/-- A request of kind `k` to device 1 with `body`, and its answer of kind `a`. -/
def req0 (k : Nat) (body : ReqBody) : FabReq := { id := 72, vf := 0, dev := 1, cw := 0, pseq := 1, kind := k, rw := 0, addr := 0x9000, payload := [], body := body, after := [], parked := none }
def ansPkt (a : Nat) (bs : List Byte) : Packet := mkPacket 0 1 a 0 1 0 0 0 bs
def ansBase : State := { stand [0] id with xfers := [{ xf0 with id := 1, st := .running }] }
def ansS (k : Nat) (body : ReqBody) (p : Packet) : State := { ansBase with agenda := [], reqs := [req0 k body], arrived := [(0, p)] }
def peerA (k : AccKind) : Access := { homeA k (.peer 1 0x9000) with gid := (gOf (stand [0] id)).gid }
def Answers (k : Nat) (body : ReqBody) (a : Nat) (bs : List Byte) : Prop :=
  (ansS k body (ansPkt a bs)).manage.poweredDown = false ∧ pktKind (ansPkt a bs) = a ∧ pktVc (ansPkt a bs) = vcOf a
  ∧ ((ansS k body (ansPkt a bs)).takeArrived (ansPkt a bs)).any (fun u => u.requestOf (ansPkt a bs) == some (req0 k body)) = true

theorem witness_PacketAnswers_data : Answers 0 (.access [peerA .load]) 1 [1, 2, 3, 4] ∧ Answers 0 (.lineRead 1 0) 1 [1] ∧ Answers 4 (.access [peerA (.atomic 0 0 true)]) 5 [1] :=
  ⟨⟨rfl, by decide, by decide, by decide⟩, ⟨rfl, by decide, by decide, by decide⟩, ⟨rfl, by decide, by decide, by decide⟩⟩
theorem witness_PacketAnswers_old : Answers 4 (.task (gOf (stand [0] id)).gid 0 (some 9) 0 0) 5 (bytesOf 8 7) := ⟨rfl, by decide, by decide, by decide⟩
theorem witness_PacketAnswers_acks : Answers 3 (.agg [{ e0 := 0, e1 := 0, gid := 0 }]) 6 [] ∧ Answers 2 (.line 1 64) 6 [] := ⟨⟨rfl, by decide, by decide, by decide⟩, ⟨rfl, by decide, by decide, by decide⟩⟩
theorem witness_PacketAnswers_faults : Answers 3 (.agg [{ e0 := 0, e1 := 0, gid := (gOf (stand [0] id)).gid }]) 7 (List.replicate 8 0 ++ [0, 7] ++ List.replicate 6 0) := ⟨rfl, by decide, by decide, by decide⟩
/-- A load of position 0 for a helper. -/
def helperA : Access := { peerA .load with dest := .v 2 false false 1 }
theorem witness_PacketAnswers_status : Answers 0 (.access [peerA .load]) 11 [10] ∧ Answers 0 (.access [peerA .load]) 11 [11] ∧ Answers 2 (.access [peerA .store]) 11 [7]
    ∧ (peerA .load).helperOps = [] ∧ (peerA .store).helperOps = [] ∧ Answers 0 (.access [helperA]) 11 [7] ∧ helperA.ops ≠ [] ∧ helperA.helperOps = helperA.ops :=
  ⟨⟨rfl, by decide, by decide, by decide⟩, ⟨rfl, by decide, by decide, by decide⟩, ⟨rfl, by decide, by decide, by decide⟩, by decide, by decide,
    ⟨rfl, by decide, by decide, by decide⟩, by decide, by decide⟩
theorem witness_PacketAnswers_group : (∃ g, ansBase.group (gOf (stand [0] id)).gid = some g ∧ g.aggLog.length < 8) ∧ (∃ q, ansBase.xfers.find? (fun k => k.id == 1) = some q)
    ∧ (ansS 0 (.access [peerA .load]) rdPkt).reqs.find? (fun q => q.id == 72) = some (req0 0 (.access [peerA .load])) ∧ (72 : Nat) < 2 ^ 60 ∧ ansBase.heldCw = [] :=
  ⟨⟨_, rfl, by decide⟩, ⟨_, rfl⟩, rfl, by decide, by decide⟩

/-- Region 0: EN, ALL as given, OP 0, TYPE 2, RND 1, one point of one value a chunk, NPTS 1, at 0x9000, results at 0xA000, its record at 0xB000; LEN, POS. -/
def regW (len pos : Nat) (all : Bool) : List (Nat × Dword) :=
  [(0, BitVec.ofNat 64 ((if all then 0xA080000000000000 else 0x8080000000000000) + 0x2000000000000)), (1, 0x9000),
   (2, BitVec.ofNat 64 (0x100000000 + pos * 0x1000000 + (len - 1) * 0x10000)), (4, 0xA000), (5, 0xB000)]
def ringS (len pos : Nat) (all : Bool) (ready : List Nat) : State :=
  let s := mapped 0 State.reset
  s.setCtx 0 { s.ctx 0 with regions := regW len pos all, ready := ready }
def msg (len pos visited : Nat) (w : Bool) : RingMsg :=
  { vf := 0, region := 0, chunk := 0, op := 0, type := 2, pv := 1, cpts := 1, npts := 1, len := len, pos := pos, visited := visited, writing := w, items := [.bits 5] }
/-- What the statement's clauses about a message ask for. -/
def RingReady (s : State) (m : RingMsg) : Prop :=
  s.manage.poweredDown = false ∧ s.runs m.vf = true ∧ (s.ctx m.vf).rrEn m.region = true ∧ s.ringHeld m.vf m.region m.chunk = false
  ∧ (s.ctx m.vf).ringAgrees m = true ∧ (s.ctx m.vf).ringHere m = true ∧ (s.ctx m.vf).rrLoop m.region = false
def readsRing (s : State) (m : RingMsg) : Bool :=
  match s.ringRead m.vf ((s.ctx m.vf).ringSpot m).2 ((s.ctx m.vf).rrBytes m.region m.chunk) with | .ok _ => true | _ => false

/-- The second of three members, the last of two without ALL and with it, the only one; a chunk not ready; the round that writes; a message that differs; EN 0. -/
theorem witness_RingSteps : (RingReady (ringS 3 1 false [0]) (msg 3 1 1 false) ∧ ((ringS 3 1 false [0]).ctx 0).ringSpot (msg 3 1 1 false) = (0, 0x9000)
      ∧ readsRing (ringS 3 1 false [0]) (msg 3 1 1 false) = true ∧ 1 + 1 < ((ringS 3 1 false [0]).ctx 0).rrLen 0)
    ∧ (RingReady (ringS 2 1 false [0]) (msg 2 1 1 false) ∧ ((ringS 2 1 false [0]).ctx 0).rrLen 0 ≤ 1 + 1 ∧ ((ringS 2 1 false [0]).ctx 0).rrAll 0 = false)
    ∧ (RingReady (ringS 2 0 false [0]) (msg 2 0 1 false) ∧ readsRing (ringS 2 0 false [0]) (msg 2 0 1 false) = true ∧ ((ringS 2 0 false [0]).ctx 0).rrOp 0 ≠ 7)
    ∧ (RingReady (ringS 1 0 false [0]) (msg 1 0 0 false) ∧ ((ringS 1 0 false [0]).ctx 0).rrLen 0 = 1)
    ∧ (RingReady (ringS 2 1 true [0]) (msg 2 1 1 false) ∧ ((ringS 2 1 true [0]).ctx 0).rrAll 0 = true)
    ∧ (RingReady (ringS 2 1 true []) (msg 2 1 1 false) ∧ ((ringS 2 1 true []).ctx 0).ready = [])
    ∧ RingReady (ringS 2 0 true []) (msg 2 0 0 true)
    ∧ ((ringS 2 0 true []).ctx 0).ringAgrees { msg 2 0 1 false with pv := 2 } = false
    ∧ ((mapped 0 State.reset).ctx 0).rrEn 0 = false := by
  unfold RingReady; decide
/-- Messages that come over the fabric: a partial, one that writes, one that differs; a chunk of the first member's own. -/
theorem witness_RingSteps_comes : (ringS 3 1 false [0]).ringComes (msg 3 1 1 false) = true ∧ (ringS 2 0 true []).ringComes (msg 2 0 0 true) = true
    ∧ (ringS 2 0 true []).ringComes { msg 2 0 1 false with pv := 2 } = true
    ∧ (ringS 3 1 false [0]).ringBlocked (msg 3 1 1 false) = false ∧ (ringS 2 1 false [0]).ringBlocked (msg 2 1 1 false) = false
    ∧ (ringS 1 0 false [0]).ringBlocked (msg 1 0 0 false) = false ∧ (({ ringS 1 0 false [0] with chunks := [msg 1 0 0 false] } : State).chunks).contains (msg 1 0 0 false) = true := by decide
set_option exponentiation.threshold 5000 in
theorem witness_RingSteps_sum : inLong ((5 : Int) + (-7)) = true := by
  unfold inLong; norm_num

def result0 (bs : List Byte) (a : Nat) : RingResult := { vf := 0, region := 0, chunk := 0, addr := a, bytes := bs, size := 4, reqs := [], parked := none }
def resS (r : RingResult) : State := { ringS 1 0 false [] with results := [r] }
/-- A result with bytes to write at a mapped address, at one without table, at one out of range; one all written. -/
theorem witness_RingSteps_result : (∀ r, (r = result0 [1, 2, 3, 4] 0xA000 ∨ r = result0 [] 0xA000 ∨ r = result0 [1] 0x8000000000 ∨ r = result0 [1] 0x10000000000000) →
      (resS r).results.find? (fun k => k.vf == r.vf && k.region == r.region && k.chunk == r.chunk) = some r ∧ (resS r).drives r.vf = true ∧ r.parked = none ∧ r.reqs = [])
    ∧ (resS (result0 [1, 2, 3, 4] 0xA000)).spanRuns 0 0xA000 [1, 2, 3, 4] = .ok [(0xA000, .hbm 0xA000, [1, 2, 3, 4])]
    ∧ (resS (result0 [1, 2, 3, 4] 0xA000)).lineHeld (.hbm 0xA000) = false ∧ (resS (result0 [1, 2, 3, 4] 0xA000)).moving 0 0xA000 = false
    ∧ (∃ d, (resS (result0 [1] 0x8000000000)).spanRuns 0 0x8000000000 [1] = .error (.miss d))
    ∧ (∃ c u, (resS (result0 [1] 0x10000000000000)).spanRuns 0 0x10000000000000 [1] = .error (.fault c u))
    ∧ ∃ w, recordAt ⟨0, 0, 0, 0, 0⟩ 0 (((ringS 1 0 false []).ctx 0).rr 0 5) = .ok (some w) := by
  refine ⟨?_, rfl, rfl, rfl, ⟨_, rfl⟩, ⟨_, _, rfl⟩, _, rfl⟩
  rintro r (rfl | rfl | rfl | rfl) <;> exact ⟨rfl, rfl, rfl, rfl⟩

/-- Rings that the host fills and that it empties, in service and out of it; a PI at the ring's size and past it; the whole line of a write. -/
theorem witness_HostWrites : (let s := evRing true 0 State.reset
      (s.ring 0 3).en = true ∧ (16 - (s.ring 0 3).ci).toNat ≤ 2 ^ (s.ring 0 3).log2 ∧ 2 ^ (s.ring 0 3).log2 < (17 - (s.ring 0 3).ci).toNat)
    ∧ (0 < 63 ∧ 63 < 64 ∧ 3 < 4 ∧ State.reset.manage.mode ≠ 2) ∧ (State.reset.ring 63 3).en = false ∧ 0 % 128 + 128 ≤ 128
    ∧ State.reset.lineHeld (.host 0) = false ∧ State.reset.manage.cxl = true ∧ State.reset.hostOld = [] := by decide

/-! Commands. -/

def cmd8 (ws : List Dword) : Cmd := ⟨ws.getD 0 0, ws.getD 1 0, ws.getD 2 0, ws.getD 3 0, ws.getD 4 0, ws.getD 5 0, ws.getD 6 0, ws.getD 7 0⟩
def cmdS (ws : List Dword) : State := { mapped 0 State.reset with cmd := some (cmd8 ws) }
def cmdAt (ws : List Dword) : State := { mapped 0 (stand [0] id) with cmd := some (cmd8 ws) }
def zeroIn (c : Cmd) (n : Nat) : Bool := decide (c.w1.toNat < 256) && (List.range 8).all (fun j => decide (j < n + 2) || cmdWord c j == 0)

/-- A SETCTX of each field with values at the ends of their ranges, of a function with no work and with some; values that are refused. -/
theorem witness_ContextCommands : (∀ ws : List Dword, (cmdS ws).cmd = some (cmd8 ws)) ∧ (cmdS [0, 0, 1]).cmdBad (cmd8 [0, 0, 1]) = false
    ∧ (zeroIn (cmd8 [0, 0, 1]) 1 = true ∧ State.reset.inHbm (1 * 4096) 4096 = true) ∧ zeroIn (cmd8 [0, 0, 1, 1]) 1 = false ∧ zeroIn (cmd8 [0, 256, 1]) 1 = false
    ∧ zeroIn (cmd8 [0, 2, 1, 1, 1]) 3 = true ∧ (0xFFFF < 2 ^ 16 ∧ ¬0x10000 < 2 ^ 16) ∧ (0x8000 % 32 = 0 ∧ 0x9000 % 64 = 0)
    ∧ ((2047 + 1 ≤ 2048) ∧ ¬(2048 + 1 ≤ 2048) ∧ State.reset.weightClash 0 0 2047 1 = false) ∧ (0xFFFFFFFFFF < 2 ^ 40)
    ∧ (State.reset.inHbm 0 8 = true) ∧ (cmdS []).resides 0 = false ∧ (cmdAt []).resides 0 = true :=
  ⟨fun _ => rfl, by decide, by decide, by decide, by decide, by decide, by decide, by decide, by decide, by decide, by decide, by decide, by decide⟩
/-- A region entry that is legal and one that is not. -/
theorem witness_ContextCommands_region : (let c := cmd8 [0, 7, 0x8082000000000000, 0x9000, 0x100000000, 0x9000, 0xA000, 0]
      (((cmdS []).ctx 0).withRegion 0 (regionWords c)).rrLegal 0 = true ∧ (cmdS []).listOk 0 (((cmdS []).ctx 0).withRegion 0 (regionWords c)) 0 = true)
    ∧ (let c := cmd8 [0, 7, 0x8000000000000000, 0x9000, 0x100000000, 0x9000, 0xA000, 0]; (((cmdS []).ctx 0).withRegion 0 (regionWords c)).rrLegal 0 = false) := by decide
theorem witness_ContextCommands_log : (0x9000 % 4096 = 0 ∧ 65536 ≤ 65536 ∧ State.reset.inHbm 0x9000 65536 = true) ∧ State.reset.inHbm 0x2000000000000 65536 = false := by
  decide

/-- A command of function 0 while its halted context ran a block on core 0. -/
def haltS (ws : List Dword) : State :=
  let s := cmdS ws
  s.setCtx 0 { s.ctx 0 with st := .halted, saved := { Saved.none with blocks := (stand [0] id).blocks } }
def readsDbg (s : State) (va n : Nat) : Nat := match s.dbgRead 0 va n with | .data _ => 0 | .withheld => 1 | .bad => 2
def lostLine (s : State) : State := { s with lost := [(false, 0x9000 / 128)] }

/-- INVAL past 2^52 and up to it, with an access in range and with none; LSPLIT of the last port and one more; DBGRD of a resident context and of
a halted one, of mapped, unmapped and withheld bytes. -/
theorem witness_OtherCommands : 2 ^ 52 < 0xFFFFFFFFFF000 + 0x2000 ∧ 0xFFFFFFFFFF000 + 0x1000 ≤ 2 ^ 52
    ∧ (cmdS []).flight ++ (cmdS []).unacked = [] ∧ (cmdS []).reqs ++ (cmdS []).waitReqs = []
    ∧ (∃ f ∈ (homeS .load (.hbm 0x9000)).flight ++ (homeS .load (.hbm 0x9000)).unacked, f.inRange 0 0x8000 0x1000 = true)
    ∧ (17 < 18 ∧ 2 ≤ ((cmdS []).port 17).good) ∧ ((cmdS []).ctx 0).st ≠ .halted ∧ ((haltS []).ctx 0).st = .halted
    ∧ (∃ k ∈ ((haltS []).ctx 0).saved.blocks, k.core = 3 / 4) ∧ (∀ k ∈ ((haltS []).ctx 0).saved.blocks, k.core ≠ 4 / 4)
    ∧ readsDbg (haltS []) 0x9000 4096 = 0 ∧ readsDbg (haltS []) 0x8000000000 1 = 2 ∧ readsDbg (lostLine (haltS [])) 0x9000 1 = 1 := by decide

def replayS (ws : List Dword) : State := let s := ringRec 0x8000 0 0; { s with cmd := some (cmd8 ws), hbm := writeBytes (writeBytes s.hbm 0x9010 8 (placedLaunch s).shape.toNat) 0x9018 8 0x100010001 }
/-- A REPLAY with operands that are in range, with its function free, and with one pass; a launch record that is accepted. -/
theorem witness_OtherCommands_replay : (replayS [0, 0x9000, 0x40000, 0x1000, 0x100000, 2]).replayOk (cmd8 [0, 0x9000, 0x40000, 0x1000, 0x100000, 2]) = true
    ∧ (replayS []).replayOk (cmd8 [0, 0x9000, 0x40000, 0x1000, 0x100000, 1]) = false ∧ (replayS []).working 0 = false ∧ (stand [0] id).working 0 = true
    ∧ (replayS []).replay = none ∧ ((replayS []).ctx 0).st = .live
    ∧ (match (replayS []).launchWords 0 false 32 0x9000 with | .ok ws => (replayS []).launchCause (launchOf ws) == 0 | _ => false) = true := by decide

def pass0 (pass : Nat) (full : Bool) : Replay :=
  { cmd := cmd8 [0, 0x9000, 0x40000, 0x1000, 0x100000, 2], pass := pass, captured := [(.hbm 0xA000, [1, 2])], sels := [], psig1 := 7, psig := 8, startCycle := 0, full := full }
/-- The first of two passes has ended, and the second; a shadow area found full and the context halted. -/
theorem witness_OtherCommands_passes : (let s : State := { mapped 0 State.reset with replay := some (pass0 1 false) }
      s.replay = some (pass0 1 false) ∧ s.working 0 = false ∧ (pass0 1 false).pass < (pass0 1 false).cmd.w5.toNat % 16)
    ∧ ((pass0 2 false).cmd.w5.toNat % 16 ≤ (pass0 2 false).pass) ∧ (pass0 1 true).full = true ∧ ((haltS []).ctx (cmdOf (pass0 1 true).cmd)).st = .halted := by decide

/-- A group of a live context; one of a halted context; faults that clear the log and the claim. -/
theorem witness_FaultEntryAndReturn : (∃ g, (stand [0] id).group (gOf (stand [0] id)).gid = some g ∧ g.cap.inMode = false ∧ ((stand [0] id).ctx g.vf).st = .live)
    ∧ ((stopS []).ctx (gOf (stopS [])).vf).st ≠ .live
    ∧ (∃ g k, (stand [0] (fun g => { g with fault := some (FaultInfo.of 0x20) })).group (gOf (stand [0] id)).gid = some g ∧ g.fault = some k ∧ k.code = 0x20) :=
  ⟨⟨_, rfl, rfl, rfl⟩, by decide, _, _, rfl, rfl, rfl⟩

theorem witness_EncodeDecode : wellFormed (.vadd 127 127 63 0 1) = true ∧ (encode (.vadd 127 127 63 0 1)).isSome = true ∧ decode 0x00041020 = .ok (.vadd 1 2 2 0 0) := by
  refine ⟨by decide, by decide, rfl⟩
theorem witness_MemoryFormKept : MemoryForm (stand [0xAE000000] id) ∧ ∃ t, step (stand [0xAE000000] id) = .next t := ⟨⟨rfl, rfl, rfl⟩, _, rfl⟩

/-- An agenda with a word, a word that is none, a command, a step; an empty agenda with nothing due, and with something. -/
theorem witness_StepRuns : (∃ s rest x i, s = stand [0xAE000000] id ∧ s.agenda = .issue 0 :: rest ∧ State.issuer { s with agenda := rest, cur := some 0 } = some x
      ∧ decode x.word = .ok i)
    ∧ (∃ s rest x e, s = stand [0xA4000001] id ∧ s.agenda = .issue 0 :: rest ∧ State.issuer { s with agenda := rest, cur := some 0 } = some x ∧ decode x.word = .error e)
    ∧ (∃ c v, ((State.reset.setRing 0 5 { Ring.reset with base := 0x10000, log2 := 4, en := true, pi := 1 }).setRing 0 6 { Ring.reset with base := 0x20000, log2 := 4, en := true }).takeCommand = some (c, v))
    ∧ State.reset.dueActs = [] ∧ ({ stand [0] id with agenda := [] } : State).dueActs ≠ [] :=
  ⟨⟨_, _, _, _, rfl, rfl, rfl, rfl⟩, ⟨_, _, _, _, rfl, rfl, rfl, rfl⟩, ⟨_, _, rfl⟩, by decide, by decide⟩

/-! ### Ill-formed terms, one for each check -/

def ill (l : List Instr) : Bool := l.all (fun i => !wellFormed i)
def bigPkt : Packet := { w0 := 0, w1 := 0, payload := List.replicate 257 0 }

theorem test_ill_integer : ill [.vadd 1 2 3 6 0, .vadd 1 2 4 2 0, .vadd 2 1 4 2 0, .vadd 2 4 1 2 0, .vadd 1 2 64 0 1, .vshl 1 2 3 2 0, .vpopc 1 1 2, .vcmp 0 0 1 2 0 0,
    .vcmp 0 1 1 2 6 0, .vsel 1 2 4 2 0, .vmov 1 2 2 0, .vmov 1 64 0 1, .vaddi 1 2 0 2, .vshli 1 2 0 6, .vcmpi 0 0 1 0 0, .vmovi 1 0 2] = true := by decide
theorem test_ill_float : ill [.fadd 1 2 4 1 0, .fsgn 1 2 3 6 0, .fcmp 0 0 1 2 0 0, .fcvt 1 2 0 0 0, .fcvt 1 2 0 4 5, .fcvt 1 2 1 0 1, .fclass 1 1 1, .fsfn 1 2 7, .fsqrt 1 2 1,
    .fldexp 1 2 3 1 0, .fdot2 1 2 64 0 1] = true := by decide
theorem test_ill_accumulators : ill [.xadd 0 1 1, .xadd 0 2 6, .xfma 0 2 3 1, .xrd 1 0 4, .xst 1 0, .xld 0 1] = true := by decide
theorem test_ill_lanes : ill [.qswz 1 2 7, .qdiff 1 2 4, .shfl 1 2 3 4 0, .vred 1 2 6 0, .vred 1 2 3 4, .vred 4 0 0 6, .vred 1 2 0 7, .vballot 0 1, .vmatch 1 2 0, .vmatch 2 3 1,
    .mxchBc 1 2 8 0 0, .mxchBc 1 2 64 0 1, .mxchRed 1 2 0 0 1, .mxchRed 1 2 1 0 2] = true := by decide
theorem test_ill_scalar : ill [.scmp 0 1 2 6 0, .srd 1 0 9, .srd 1 1 0, .bra 1 0 0, .bra 16 5 0] = true := by decide
theorem test_ill_memory : ill [.ld 1 2 0 3 0 0, .ld 2 2 0 2 1 0, .atom 2 3 0 0 0 0, .atom 2 4 0 0 3 4, .atom 2 4 0 0 0 6, .red 2 4 0 6 0, .atoms 1 3 0 0 0 2, .fence 0 5, .qbind 1 2 3,
    .cpy 1 61 0, .rtsend 1 61] = true := by decide
theorem test_ill_rest : ill [.ard 0 0 1 1, .ards 0 0 1 0, .ards 0 0 64 0, .rqcvt 1 2 3 0, .rqcvt 1 2 0 3, .tarm 1 3, .regrel 0, .regclm 0] = true := by decide
theorem test_ill_steps : ill [.clauseFetch 4096, .resumeEntry 64, .layerWake 16, .layerGate 0 3, .weightRefreshWindow 4, .hbmRefresh 24 0, .migrationPeriod 4 0,
    .streamElementArrival 0 8, .blockPlacement 0 0 false 1024, .unitStop 0 (.copy 1024), .uncorrectableError (.dirtyLine false 0 64), .coreRetirement 1024, .startStepTimeout 0,
    .startStepTimeout 6, .hbmtRefresh 384 0, .linkDeath 36, .flitReceive 0 ⟨0, 0, true, []⟩, .hostSnoop 127 [0, 0], .ringPiWrite 64 0 0, .ringPiWrite 0 7 0,
    .registerWriteOther 0 0 2 0, .linkTrainingEnd 0 9 8] = true := by decide
set_option maxRecDepth 8000 in
theorem test_ill_packet : ill [.read bigPkt, .status bigPkt] = true := by decide

/-! ### The host's two questions -/

theorem test_decodeTableWord : decodeTableWord 32 0x00041020 = some (.vadd 1 2 2 0 0) ∧ decodeTableWord 32 0x3A000000 = none := ⟨rfl, rfl⟩
/-- NOP runs as the next step and its path goes past it. -/
theorem test_withFetchWord : (match step (State.reset.withFetchWord 32 0xAE000000) with | .next t => (pOf t).fetched.isNone && (pOf t).pc == 8 | _ => false) = true := by decide
theorem test_reset_idles : (match step State.reset with | .next t => t == State.reset | _ => false) = true := by decide

/-! ### Worked examples of the spec -/

/-- R303: LOCK at the steps of the trace, of holder 0x1_5180_0002 with SEQ 7. -/
theorem test_lock_words : mkLock 0x151800002 1 0 7 = 0x0151800002100007 ∧ mkLock 0x151800002 1 1 7 = 0x0151800002101007 ∧ mkLock 0x151800002 2 1 7 = 0x0151800002201007
    ∧ mkLock 0x151800002 3 1 7 = 0x0151800002301007 := by decide
/-- R313: PA 0x35_0012_3480 travels carriageway 8. -/
theorem test_carriageway : carriageway 0x3500123480 = 8 := by decide
/-- R315: serial numbers follow one another across the wrap. -/
theorem test_follows : follows 0 4095 = true ∧ follows 2047 0 = true ∧ follows 2048 0 = false ∧ follows 5 5 = false := by decide

/-! ### Steps -/

/-- The step goes on, and `f` holds of its next state. -/
def does (o : Host.Outcome State Fault Refusal) (f : State → Bool) : Bool := match o with | .next t => f t | _ => false
def notDueStep (o : Host.Outcome State Fault Refusal) : Bool := match o with | .fault .notDue => true | _ => false

theorem test_clauseFetch : does (exec (.clauseFetch 0) (fetchAt 0x8000 [0x1E000000, 0xAE000000] id)) (fun t => (pOf t).fetched.map (·.words) == some [0xAE000000]) = true := by decide
theorem test_clauseFetch_illegal : does (exec (.clauseFetch 0) (fetchAt 0x8000 [0] id)) (fun t => (gOf t).fault.map (·.code) == some 0x10) = true := by decide
theorem test_clauseWaitRelease : does (exec (.clauseWaitRelease (gOf (idle id)).gid 0) (idle (fun p => { p with wait := .clause }))) (fun t => (pOf t).wait == .none) = true := by decide
theorem test_legIssue : does (exec (.legIssue 0) (idle id)) (fun t => (t.part 0).run.map (·.gid) == some (gOf t).gid) = true := by decide
theorem test_backOffAgeing : does (exec (.backOffAgeing (gOf (backed 1)).gid 0) (backed 1)) (fun t => (pOf t).aged) = true := by decide
theorem test_classAgeing : does (exec (.classAgeing (gOf (lateCore 65536)).gid 0) (lateCore 65536)) (fun t => (pOf t).classAged) = true
    ∧ notDueStep (exec (.classAgeing (gOf (lateCore 65535)).gid 0) (lateCore 65535)) = true := by decide
theorem test_yieldRelease : does (exec (.yieldRelease (gOf (idle id)).gid 0) (idle (fun p => { p with wait := .yield [] 0 }))) (fun t => (pOf t).wait == .none) = true := by decide
theorem test_homeReply : does (exec (.homeReply (gOf (idle id)).gid 0) (idle (fun p => { p with wait := .reply }))) (fun t => (pOf t).wait == .none) = true := by decide
theorem test_registerFill : does (exec (.registerFill 50) fillS) (fun t => (gOf t).v1 127 15 == 9 && (gOf t).sreg 63 == 5 && (gOf t).v1 127 14 == 0) = true := by decide
theorem test_registerFill_poll : does (exec (.registerFill 51) fillS) (fun t => (gOf t).sreg 0 == 7 && (gOf t).backoff == 1) = true := by decide
theorem test_storeAcknowledge : does (exec (.storeAcknowledge 70) fillS) (fun t => t.unacked == []) = true := by decide
/-- First into the L1, then into memory. -/
theorem test_globalAccessAtHome_store : does (exec (.globalAccessAtHome 70) (homeS .store (.hbm 0x9000))) (fun t => readBytes t.hbm 0x9000 8 == 0 && t.flight.length == 1) = true
    ∧ does (exec (.globalAccessAtHome 70) inL1S) (fun t => readBytes t.hbm 0x9000 8 == 7 && t.unacked.length == 1) = true := by decide
/-- 5 plus 7 in memory, the old 5 on its way. -/
theorem test_globalAccessAtHome_atomic : does (exec (.globalAccessAtHome 70) (let s := homeS (.atomic 0 0 true) (.hbm 0x9000); { s with hbm := writeBytes s.hbm 0x9000 4 5 }))
    (fun t => readBytes t.hbm 0x9000 4 == 12 && t.fills.map (·.items) == [[.v false 2 0 5]]) = true := by decide
theorem test_scratchpadRemoteAccess : does (exec (.scratchpadRemoteAccess 70) (homeS .store (.scr 0 0x100))) (fun t => scr8 t 0x100 == 7) = true
    ∧ notDueStep (exec (.scratchpadRemoteAccess 70) (behind (homeS .load (.scr 0 0x100)))) = true := by decide
theorem test_faultQueueEntryWrite : does (exec (.faultQueueEntryWrite 0) (resumeS (.update 60) false 3 .live)) (fun t => (t.ring 0 1).pi == 1 && readBytes t.host 0x20008 8 == 0x9000) = true := by
  decide
theorem test_resumeEntry : does (exec (.resumeEntry 0) (resumeS (.group (gOf (stand [0] id)).gid) true 0x1001000000000003 .live))
    (fun t => (gOf t).fault.map (fun f => (f.code, f.daddr)) == some (1, 0x9000) && (t.ctx 0).parks == []) = true := by decide
theorem test_layerWake : does (exec (.layerWake 15) (asleep 2)) (fun t => t.layer 15 == 0) = true := by decide
theorem test_layerGate : does (exec (.layerGate 15 2) (asleep 0)) (fun t => t.layer 15 == 2) = true := by decide
theorem test_weightRefreshWindow : does (exec (.weightRefreshWindow 3) State.reset) (fun t => (t.die 3).window == 1) = true := by decide
theorem test_hbmRefresh : does (exec (.hbmRefresh 23 15) State.reset) (fun t => t.hbm == [] && t.layer 15 == 0) = true := by decide
theorem test_aggBufferAgeExpiry : does (exec (.aggBufferAgeExpiry 65) moveS) (fun t => t.agg == [] && (t.reqs ++ t.waitReqs).map (·.kind) == [3]) = true := by decide
theorem test_fenceComplete : does (exec (.fenceComplete (gOf (stand [0] fenced)).gid 0) (stand [0] fenced)) (fun t => (pOf t).wait != .fence [] 4 true) = true := by decide
theorem test_engineRequestAccept : does (exec (.engineRequestAccept (xf cpyS).gid) cpyS) (fun t => (xf t).st == .running) = true := by decide
theorem test_engineLineLand : does (exec (.engineLineLand (xf cpyRun).id) (scrWith [(0x100, 0x0807060504030201)] cpyRun)) (fun t => scr8 t 0x200 == 0x0807060504030201 % 0x100000000 + scr8 t 0x204 * 0x100000000) = true := by
  decide
theorem test_engineRequestComplete : does (exec (.engineRequestComplete (xf cpyDone).id) cpyDone) (fun t => t.xfers == [] && !(gOf t).sEmptyAt 9) = true := by decide
theorem test_kickEntryStart : does (exec (.kickEntryStart (xf kickGood).id) kickGood) (fun t => (xf t).started == 1 && t.xfers.length == 2) = true := by decide
theorem test_streamElementArrival : does (exec (.streamElementArrival (gOf (mapped 0 (stand [0] (qBound 0)))).gid 0) (mapped 0 (stand [0] (qBound 0))))
    (fun t => ((gOf t).stream 0).fetched.length != 0) = true := by decide
theorem test_matrixOperation : does (exec (.matrixOperation 0) mat0) (fun t => (t.part 0).busy == some matOp && (t.part 0).queue == []) = true := by decide
theorem test_sliceHang : does (exec (.sliceHang 0) mat1) (fun t => (gOf t).fault.map (·.code) == some 0x40) = true := by decide
theorem test_readoutEntryWrite : does (exec (.readoutEntryWrite 70) (roS ro0)) (fun t => scr8 t 0x100 == 0x0101010101010101 && t.readouts == []) = true := by decide
theorem test_taskUpdate : does (exec (.taskUpdate 60) (updS .engine (.glob 0 0x9000) (-1))) (fun t => hbm8 t 0x9000 == 0xFFFFFFFFFFFFFFFF && t.updates == []) = true := by decide
theorem test_spawnQueueEntry : does (exec (.spawnQueueEntry 0) (heldSpawn 63 State.reset)) (fun t => (t.ctx 0).spawnq.length == 64 && (t.ctx 0).heldSpawns == []) = true := by decide
theorem test_dispatchAgeing : does (exec (.dispatchAgeing 0 0 false) (oldDie 65536)) (fun t => (t.die 0).agedFor == some (0, false)) = true := by decide
theorem test_gridCompletion : does (exec (.gridCompletion (doneL 0x8000).id) { State.reset with launches := [doneL 0x8000] })
    (fun t => t.launches == [] && t.updates.map (fun u => (u.d, u.target)) == [(-1, .glob 0 0x8000)]) = true := by decide
theorem test_blockPlacement : does (exec (.blockPlacement 0 0 false 0) accepted0) (fun t => t.blocks.length == 1 && (gOf t).v == [] && (t.core 0).accepted == 1) = true := by decide
theorem test_unitStop : does (exec (.unitStop 0 (.group (gOf (stopS [])).gid)) (stopS [])) (fun t => (gOf t).stopped && (t.ctx 0).acked.length == 1) = true := by decide
theorem test_coreRetirement : does (exec (.coreRetirement 1023) (aged 15 State.reset)) (fun t => t.manage.repair == [(3, 255, 271)]) = true
    ∧ does (exec (.coreRetirement 1023) (aged 16 State.reset)) (fun t => t.manage.repair == []) = true := by decide
theorem test_layerThermalLoss : does (exec (.layerThermalLoss 0) errS) (fun t => t.layer 0 == 4 && t.lost.length == 3 && t.dirty == []) = true := by decide
theorem test_loopLoss : does (exec (.loopLoss true) State.reset) (fun t => t.manage.tableNext == some 1) = true ∧ does (exec (.loopLoss false) State.reset) (fun t => t.manage.tableNext == some 2) = true := by
  decide
theorem test_coldStart : does (exec (.coldStart ⟨some (3, 5), [], []⟩) (coolS (fun m => { m with poweredDown := true }))) (fun t => t.manage.cause2 == 5 && t.manage.failStep == 3) = true
    ∧ notDueStep (exec (.coldStart ⟨none, [], []⟩) State.reset) = true := by decide
theorem test_startStepTimeout : does (exec (.startStepTimeout 5) (coolS (fun m => { m with mode := 0, stage := 5 }))) (fun t => t.manage.cause2 == 0x0A) = true := by decide
theorem test_hbmtRefresh : does (exec (.hbmtRefresh 383 0xFFBF) State.reset) (fun t => fget 0 t.manage.hbmt 383 == 0xFF80) = true := by decide
/-- R307: 15 good lanes at LSPLIT 8 leave 7 out. -/
theorem test_laneFailure : does (exec (.laneFailure 17 true) State.reset) (fun t => (t.port 17).good == 15 && (t.port 17).newOut == some 7) = true := by decide
theorem test_laneWidthChange : does (exec (.laneWidthChange 17 true) (portS (fun k => { k with newOut := some 7 }))) (fun t => (t.port 17).out == 7 && (t.port 17).idleOut) = true := by decide
theorem test_widthChangeIdleEnd : does (exec (.widthChangeIdleEnd 17 false) (portS (fun k => { k with idleIn := true }))) (fun t => !(t.port 17).idleIn) = true := by decide
theorem test_flitReceive : does (exec (.flitReceive 17 (flit0 1 true)) State.reset) (fun t => (t.port 17).askedReplay.isSome && t.arrived == []) = true := by decide
theorem test_linkRetrain : does (exec (.linkRetrain 17) (portS (fun k => { k with fails := 8 }))) (fun t => (t.port 17).training) = true
    ∧ notDueStep (exec (.linkRetrain 17) (portS (fun k => { k with fails := 7 }))) = true := by decide
theorem test_linkPause : does (exec (.linkPause 17 2) State.reset) (fun t => (t.port 17).pausedTx == 4) = true := by decide
theorem test_linkResume : does (exec (.linkResume 17 2) (portS (fun k => { k with pausedTx := 15 }))) (fun t => (t.port 17).pausedTx == 11) = true := by decide
theorem test_linkDeath : does (exec (.linkDeath 3) State.reset) (fun t => t.heldCw == [3]) = true := by decide
theorem test_ringPiWrite : does (exec (.ringPiWrite 0 0 17) (evRing true 0 (State.reset.setRing 0 0 { Ring.reset with log2 := 4, en := true }))) (fun t => (t.ring 0 0).pi == 0 && (t.ring 0 0).ovf == 1) = true := by
  decide
theorem test_ringCiWrite : does (exec (.ringCiWrite 0 6 3) State.reset) (fun t => (t.ring 0 6).ci == 3) = true := by decide
theorem test_ringControlWrite : does (exec (.ringControlWrite 0 0 0x61) State.reset) (fun t => (t.ring 0 0).log2 == 6 && (t.ring 0 0).en) = true := by decide
theorem test_registerWriteOther : does (exec (.registerWriteOther 0 0x100 8 0x12345) State.reset) (fun t => (t.ring 0 0).base == 0x12000) = true := by decide
theorem test_hostSnoop : does (exec (.hostSnoop 0x80 [1, 2]) State.reset) (fun t => readBytes t.host 0x80 2 == 0x201) = true := by decide
theorem test_powerLoss : does (exec .powerLoss errS) (fun t => t.manage.poweredDown && t.hbm == []) = true := by decide
theorem test_discarded : does (exec (.discardedPacket 0 oddPkt) (reqS 3 oddPkt)) (fun t => (t.port 0).errors == 1 && t.arrived == []) = true := by decide
theorem test_write_packet : does (exec (.aggregated agPkt) (reqS 3 agPkt)) (fun t => hbm8 t 0x9000 == 5) = true := by decide
theorem test_atomic_packet : does (exec (.atomic (atPkt 1)) (reqS 3 (atPkt 1))) (fun t => hbm8 t 0x9000 == 5) = true := by decide
theorem test_inval : does (exec .inval { cmdS [0, 0, 0x1000] with tlb := [⟨0, 0, 0, 0, 4096⟩, ⟨0, 1, 0, 0, 4096⟩] }) (fun t => t.tlb.map (·.page) == [1]) = true := by decide
theorem test_lsplit : does (exec .lsplit (cmdS [0, 17, 12])) (fun t => (t.port 17).newOut == some 12 && (t.port 17).newIn == some 4) = true := by decide
theorem test_setctx_root : does (exec .setctxRoot (cmdS [0, 0, 0x123])) (fun t => (t.ctx 0).root == 0x123) = true := by decide
theorem test_setctx_agel : does (exec .setctxAgel (cmdS [0, 5, 1])) (fun t => (t.ctx 0).agel == 64) = true := by decide
theorem test_preempt : does (exec .preempt (cmdS [0])) (fun t => (t.ctx 0).st == .stopping true) = true := by decide
theorem test_routeTokenHeaderWrite : does (exec (.routeTokenHeaderWrite 70) { landS land0 with dirty := [⟨0, false, 1024⟩] }) (fun t => hbm8 t 0x20020 == 0x0505050505050505 && hbm8 t 0x20008 == 0x0100000000000000) = true := by
  decide
theorem test_routeTokenLand : does (exec (.routeTokenLand 70) (landS { land0 with headerDone := true })) (fun t => readBytes t.hbm 0x8018 4 == 1 && t.landings == []) = true := by decide
theorem test_routeReply : does (exec (.routeReply (reply 1)) (replyS 1 false 1)) (fun t => t.tokens == []) = true := by decide
theorem test_ringResultWrite : does (exec (.ringResultWrite 0 0 0) { resS (result0 [1, 2, 3, 4] 0xA000) with dirty := [⟨0, false, 320⟩] }) (fun t => readBytes t.hbm 0xA000 4 == 0x04030201 && t.results == []
    && t.updates.map (·.d) == [-4]) = true := by decide

set_option maxRecDepth 16000 in
set_option exponentiation.threshold 5000 in
/-- A's row is of ones and two rows of the B fragment are: column 0 sums to 2, whose short image has anchor -39 and 2^40. -/
theorem test_matrixOperationComplete : does (exec (.matrixOperationComplete 0) mat1)
    (fun t => (gOf t).tile ((gOf t).accKey 0 0 0) == { Xa.reset with anchor := some (-39), int := 0x10000000000 } && (gOf t).tile ((gOf t).accKey 0 1 0) == Xa.reset) = true := by
  decide

end Sys2Proof.Tests
end

/-! PROOFS. Device rules: memory errors (O46), cooling loops, operating tables, starts and power loss (O47). -/

namespace Sys2Proof.Machine

/-! ### A line that takes a place in a full L2 (R114) -/

/-- Writing back keeps no line that was not dirty. -/
theorem mem_of_mem_writeBack {layer : Nat} {e : DirtyLine} (n : Nat) (ds : List DirtyLine) (h : e ∈ writeBack layer n ds) : e ∈ ds := by
  induction ds generalizing n with
  | nil => cases n <;> exact h
  | cons d ds ih =>
    cases n with
    | zero => exact h
    | succ n =>
      simp only [writeBack] at h
      split at h
      · exact List.mem_cons_of_mem d (ih n h)
      · rcases List.mem_cons.mp h with rfl | h
        · exact List.mem_cons_self
        · exact List.mem_cons_of_mem d (ih (n + 1) h)

/-- Nor is the oldest of the dirty lines kept, if it is written back and listed once. -/
theorem not_mem_writeBack_oldest {d : DirtyLine} {ds : List DirtyLine} (n : Nat) (h : d ∉ ds) : d ∉ writeBack d.layer (n + 1) (d :: ds) := by
  intro hd
  rw [writeBack, if_pos rfl] at hd
  exact h (mem_of_mem_writeBack n ds hd)

/-- A new line whose die has no stacked layer in service goes to the base half, which writes back its oldest lines first when it is full. -/
theorem State.markDirty_base_full (s : State) (host : Bool) (line die : Nat) (hdie : homeDie host (line * 128) = die)
    (hnew : s.dirty.find? (fun d => d.is host line) = none) (hheld : ∀ j, j < 4 → s.layer (4 * die + j) ≠ 0)
    (hfull : Config.l2BaseLines ≤ s.dirty.countP (fun d => d.layer == 16 + die)) :
    ∃ n, (s.markDirty host line).dirty = writeBack (16 + die) (n + 1) s.dirty ++ [⟨16 + die, host, line⟩] := by
  subst hdie
  unfold State.markDirty
  rw [hnew]
  dsimp only
  generalize homeDie host (line * 128) = die at hheld hfull ⊢
  have hlayer : (s.choice % 5 = 0 || fget 0 s.manage.layers (4 * die + (s.choice % 5 - 1)) != 0) = true := by
    have h : fget 0 s.manage.layers (4 * die + (s.choice % 5 - 1)) ≠ 0 := hheld _ (by omega)
    simpa using Or.inr h
  rw [if_pos hlayer, if_neg (by omega)]
  obtain ⟨n, hn⟩ := Nat.exists_eq_succ_of_ne_zero (n := max (s.dirty.countP (fun d => d.layer == 16 + die) + 1 - Config.l2BaseLines)
    (s.choice / 5 % (s.dirty.countP (fun d => d.layer == 16 + die) + 1))) (by omega)
  exact ⟨n, by rw [hn]; rfl⟩

/-! ### A ring entry marks a line of host memory dirty (R374) -/

/-- A write of host memory within one line, with no replay to capture it, marks that line dirty. -/
theorem State.writeLoc_host_dirty (s : State) (a line : Nat) (bs : List Byte) (core : Option Nat) (vf : Nat)
    (hr : s.replay = none) (hl : linesOf a bs.length = [line]) :
    ∃ u : State, u.dirty = s.dirty ∧ u.manage = s.manage ∧ (s.writeLoc (.host a) bs core vf).dirty = (u.markDirty true line).dirty := by
  have hcap : s.capture (.host a) bs.length vf = s := by unfold State.capture; rw [hr]
  refine ⟨State.dropL1 { s with host := writeList s.host a bs, hostOld := oldWrite s.hostOld a bs, codeOld := s.oldCode true a bs.length }
    (fun c => match core with | none => true | some k => c != k) true line, rfl, rfl, ?_⟩
  unfold State.writeLoc
  rw [hcap]
  dsimp only
  rw [hl]
  rfl

/-- A ring with room takes the entry. -/
theorem State.pushOrDrop_room (s : State) (fn r : Nat) (ws : List Dword) (h : (s.ring fn r).room = true) :
    s.pushOrDrop fn r ws = (s.writeLoc (.host ((s.ring fn r).entryAt r (s.ring fn r).pi.toNat)) (ws.flatMap (fun w => bytesOf 8 w.toNat)) none noVf).setRing
      fn r { s.ring fn r with pi := (s.ring fn r).pi + 1 } := by
  simp only [State.pushOrDrop, State.push, h, if_true]

/-- So an error record whose entry lies in one line marks that line dirty, if the error queue has room. -/
theorem State.reportError_dirty (s : State) (src cause die unit pa vf owner action line : Nat) (hr : s.replay = none)
    (hroom : (s.ring 0 4).room = true) (hl : linesOf ((s.ring 0 4).entryAt 4 (s.ring 0 4).pi.toNat) 32 = [line]) :
    ∃ u : State, u.dirty = s.dirty ∧ u.manage.layers = s.manage.layers
      ∧ (s.reportError src cause die unit pa vf owner action).dirty = (u.markDirty true line).dirty := by
  unfold State.reportError State.postError
  dsimp only
  rw [State.pushOrDrop_room (s.countError src (die * 1024 + unit)).2 0 4 _ hroom]
  obtain ⟨u, hd, hm, hu⟩ := State.writeLoc_host_dirty (s.countError src (die * 1024 + unit)).2
    ((s.ring 0 4).entryAt 4 (s.ring 0 4).pi.toNat) line
    ([dw (at' src 56 + at' cause 48 + at' die 46 + at' unit 36 + (s.countError src (die * 1024 + unit)).1 % 2 ^ 32), dw pa,
      dw (at' vf 58 + owner), dw action].flatMap (fun w => bytesOf 8 w.toNat)) none noVf hr
    (by simpa [bytesOf_length] using hl)
  exact ⟨u, hd, by rw [hm]; rfl, hu⟩

@[simp] theorem State.raiseHalt_dirty (s : State) (vf : Nat) (u : Option StopUnit) (f : FaultInfo) : (s.raiseHalt vf u f).dirty = s.dirty := by
  simp only [State.raiseHalt]; split <;> rfl

/-! ### Entries of rings leave the management state (R374) -/

theorem State.captureOne_manage (s : State) (r : Replay) (k : Loc) : (s.captureOne r k).manage = s.manage := by
  simp only [State.captureOne]
  repeat' split
  all_goals rfl

theorem State.capture_manage (s : State) (l : Loc) (n vf : Nat) : (s.capture l n vf).manage = s.manage := by
  unfold State.capture
  split
  · rfl
  · split
    · rfl
    · refine foldl_keep _ (fun s t => t.manage = s.manage) (fun _ => rfl) (fun _ _ _ a b => b.trans a) (fun s k => ?_) _ s
      split
      · exact State.captureOne_manage _ _ _
      · rfl

theorem State.markDirty_manage (s : State) (host : Bool) (line : Nat) : (s.markDirty host line).manage = s.manage := by
  simp only [State.markDirty]
  repeat' split
  all_goals rfl

/-- A write of memory leaves the management state. -/
theorem State.writeLoc_manage (s : State) (l : Loc) (bs : List Byte) (core : Option Nat) (vf : Nat) : (s.writeLoc l bs core vf).manage = s.manage := by
  have hc := State.capture_manage s l bs.length vf
  have hlines (f : State → Nat → State) (hf : ∀ s k, (f s k).manage = s.manage) (ls : List Nat) (t : State) : (ls.foldl f t).manage = t.manage :=
    foldl_keep f (fun s t => t.manage = s.manage) (fun _ => rfl) (fun _ _ _ a b => b.trans a) hf ls t
  unfold State.writeLoc
  cases l with
  | hbm a => exact (hlines (fun s k => (s.dropL1 _ false k).markDirty false k) (fun _ k => State.markDirty_manage _ false k) _ _).trans hc
  | host a => exact (hlines (fun s k => (s.dropL1 _ true k).markDirty true k) (fun _ k => State.markDirty_manage _ true k) _ _).trans hc
  | peer d a => exact hc
  | scr b o => exact hc
  | weight d a => exact hc

theorem State.pushOrDrop_manage (s : State) (fn r : Nat) (ws : List Dword) : (s.pushOrDrop fn r ws).manage = s.manage := by
  by_cases h : (s.ring fn r).room = true
  · rw [State.pushOrDrop_room s fn r ws h]
    exact State.writeLoc_manage _ _ _ _ _
  · simp only [State.pushOrDrop, State.push, if_neg h]
    split <;> rfl

theorem State.answerCmd_manage (s : State) (c : Cmd) (status : Nat) : (s.answerCmd c status).manage = s.manage :=
  State.pushOrDrop_manage _ _ _ _

/-! ### Steps without a word -/

/-- A step of the part that is not due does not happen. -/
theorem event_notDue {s t : State} {due : Bool} (h : s.manage.poweredDown = false) (hd : due = false) : s.event due t = .fault .notDue := by
  simp [State.event, h, hd]

/-- With nothing resident there is nothing to wake. -/
theorem State.wake_no_groups {s : State} (h : s.groups = []) : s.wake = s := by
  unfold State.wake
  rw [h, List.map_nil, ← h]

theorem exec_coldStart (env : StartEnv) (s : State) : exec (.coldStart env) s = execColdStart env s := rfl

/-! ### The halt line of every function (R21, R346) -/

/-- Raising a halt line changes contexts only. -/
theorem State.raiseHalt_shape (s : State) (vf : Nat) (u : Option StopUnit) (f : FaultInfo) : ∃ cs, s.raiseHalt vf u f = { s with ctxs := cs } := by
  simp only [State.raiseHalt]
  split
  · exact ⟨_, rfl⟩
  · exact ⟨_, rfl⟩
  · exact ⟨s.ctxs, rfl⟩

/-- It makes no context live. -/
theorem State.raiseHalt_keeps_notLive (s : State) (vf v : Nat) (u : Option StopUnit) (f : FaultInfo) (h : (s.ctx v).st ≠ .live) :
    ((s.raiseHalt vf u f).ctx v).st ≠ .live := by
  by_cases hv : vf = v
  · subst hv; exact State.raiseHalt_notLive s vf u f
  · have hset (c : Ctx) : (s.setCtx vf c).ctx v = s.ctx v := by
      unfold State.ctx State.setCtx
      simp only [fget_fset, if_neg hv]
    simp only [State.raiseHalt]
    split
    · rwa [hset]
    · rwa [hset]
    · exact h

/-- The halt lines of the functions of a list, raised one after another. -/
def State.haltAll (s : State) (f : FaultInfo) (vfs : List Nat) : State := vfs.foldl (fun t vf => t.raiseHalt vf none f) s

theorem State.haltAll_shape (s : State) (f : FaultInfo) (vfs : List Nat) : ∃ cs, s.haltAll f vfs = { s with ctxs := cs } :=
  foldl_keep (fun t vf => t.raiseHalt vf none f) (fun s t => ∃ cs, t = { s with ctxs := cs }) (fun s => ⟨s.ctxs, rfl⟩)
    (by rintro s _ _ ⟨_, rfl⟩ ⟨cs, rfl⟩; exact ⟨cs, rfl⟩) (fun s vf => s.raiseHalt_shape vf none f) vfs s

/-- None of the functions has a live context then. -/
theorem State.haltAll_notLive (s : State) (f : FaultInfo) (vfs : List Nat) (v : Nat) (h : v ∈ vfs ∨ (s.ctx v).st ≠ .live) :
    ((s.haltAll f vfs).ctx v).st ≠ .live := by
  induction vfs generalizing s with
  | nil => exact h.resolve_left List.not_mem_nil
  | cons vf vfs ih =>
    refine ih (s.raiseHalt vf none f) ?_
    rcases h with h | h
    · rcases List.mem_cons.mp h with rfl | h
      · exact .inr (s.raiseHalt_notLive v none f)
      · exact .inl h
    · exact .inr (s.raiseHalt_keeps_notLive vf v none f h)

/-! ### The state of the layers under a table (R21, R382) -/

/-- What a table makes of a layer's state. -/
def heldLayer (table v : Nat) : Nat :=
  match table with
  | 1 => if v = 4 then 4 else 3
  | 0 => if 3 ≤ v then 0 else v
  | _ => if v = 3 then 0 else v

/-- One layer's part of `holdLayers`. -/
def State.holdLayer (table : Nat) (s : State) (k : Nat) : State :=
  match table with
  | 1 => (s.flushLayer k).setLayer k (if s.layer k = 4 then 4 else 3)
  | 0 => if 3 ≤ s.layer k then s.setLayer k 0 else s
  | _ => if s.layer k = 3 then s.setLayer k 0 else s

theorem State.holdLayers_eq (s : State) (table : Nat) : s.holdLayers table = (List.range 16).foldl (State.holdLayer table) s := by
  refine congrArg (fun f => (List.range 16).foldl f s) (funext fun s => funext fun k => ?_)
  match table with
  | 0 => rfl
  | 1 => rfl
  | _ + 2 => rfl

theorem State.layer_setLayer (s : State) (k v j : Nat) : (s.setLayer k v).layer j = if k = j then v else s.layer j := by
  unfold State.layer State.setLayer
  exact fget_fset 0 s.manage.layers k j v

/-- A layer's part changes the states of layers and the dirty lines only. -/
theorem State.holdLayer_shape (table : Nat) (s : State) (k : Nat) :
    ∃ ls ds, State.holdLayer table s k = { s with manage := { s.manage with layers := ls }, dirty := ds } := by
  unfold State.holdLayer
  split
  · exact ⟨_, _, rfl⟩
  · split
    · exact ⟨_, s.dirty, rfl⟩
    · exact ⟨s.manage.layers, s.dirty, rfl⟩
  · split
    · exact ⟨_, s.dirty, rfl⟩
    · exact ⟨s.manage.layers, s.dirty, rfl⟩

theorem State.holdLayer_layer (table : Nat) (s : State) (k j : Nat) :
    (State.holdLayer table s k).layer j = if k = j then heldLayer table (s.layer k) else s.layer j := by
  unfold State.holdLayer heldLayer
  split
  · exact State.layer_setLayer _ _ _ _
  · split
    · exact State.layer_setLayer _ _ _ _
    · split
      · next h => rw [h]
      · rfl
  · split
    · exact State.layer_setLayer _ _ _ _
    · split
      · next h => rw [h]
      · rfl

/-- Table T1 flushes the layer; another table leaves the dirty lines as they are. -/
theorem State.holdLayer_dirty (table : Nat) (s : State) (k : Nat) :
    (State.holdLayer table s k).dirty = if table = 1 then s.dirty.filter (fun d => d.layer != k) else s.dirty := by
  unfold State.holdLayer
  split
  · rfl
  · rw [if_neg Nat.zero_ne_one]; split <;> rfl
  · next h _ => rw [if_neg h]; split <;> rfl

theorem State.holdLayers_shape (s : State) (table : Nat) :
    ∃ ls ds, s.holdLayers table = { s with manage := { s.manage with layers := ls }, dirty := ds } := by
  rw [State.holdLayers_eq]
  exact foldl_keep (State.holdLayer table) (fun s t => ∃ ls ds, t = { s with manage := { s.manage with layers := ls }, dirty := ds })
    (fun s => ⟨s.manage.layers, s.dirty, rfl⟩) (by rintro s _ _ ⟨_, _, rfl⟩ ⟨ls, ds, rfl⟩; exact ⟨ls, ds, rfl⟩)
    (State.holdLayer_shape table) _ s

theorem State.foldl_holdLayer_layer (table : Nat) (ks : List Nat) (hks : ks.Nodup) (s : State) (j : Nat) :
    (ks.foldl (State.holdLayer table) s).layer j = if j ∈ ks then heldLayer table (s.layer j) else s.layer j := by
  induction ks generalizing s with
  | nil => simp
  | cons k ks ih =>
    obtain ⟨hk, hks⟩ := List.nodup_cons.mp hks
    rw [List.foldl_cons, ih hks, State.holdLayer_layer]
    by_cases h : k = j
    · subst h; simp [hk]
    · simp [h, Ne.symm h]

theorem State.foldl_holdLayer_dirty (table : Nat) (ks : List Nat) (s : State) :
    (ks.foldl (State.holdLayer table) s).dirty = if table = 1 then s.dirty.filter (fun d => decide (d.layer ∉ ks)) else s.dirty := by
  induction ks generalizing s with
  | nil => simp
  | cons k ks ih =>
    rw [List.foldl_cons, ih, State.holdLayer_dirty]
    split
    · rw [List.filter_filter]
      congr 1
      funext d
      by_cases h : d.layer = k <;> simp [h]
    · rfl

/-- Every layer is as the table asks. -/
theorem State.holdLayers_layer (s : State) (table k : Nat) (hk : k < 16) : (s.holdLayers table).layer k = heldLayer table (s.layer k) := by
  rw [State.holdLayers_eq, State.foldl_holdLayer_layer table _ List.nodup_range, if_pos (List.mem_range.mpr hk)]

theorem State.holdLayers_one_dirty (s : State) (k : Nat) (hk : k < 16) : ∀ d ∈ (s.holdLayers 1).dirty, d.layer ≠ k := by
  rw [State.holdLayers_eq, State.foldl_holdLayer_dirty, if_pos rfl]
  intro d hd hdk
  have h := (List.mem_filter.mp hd).2
  simp [hdk] at h
  omega

theorem State.holdLayers_dirty (s : State) (table : Nat) (h : table ≠ 1) : (s.holdLayers table).dirty = s.dirty := by
  rw [State.holdLayers_eq, State.foldl_holdLayer_dirty, if_neg h]

/-! ### The refresh rate of the dies (R21) -/

/-- The next refresh rate of the dies of a list is hot or not. -/
def State.setHot (s : State) (hot : Bool) (ds : List Nat) : State := ds.foldl (fun s d => s.setDie d { s.die d with hotNext := hot }) s

theorem State.setHot_shape (s : State) (hot : Bool) (ds : List Nat) : ∃ k, s.setHot hot ds = { s with dies := k } :=
  foldl_keep (fun s d => s.setDie d { s.die d with hotNext := hot }) (fun s t => ∃ k, t = { s with dies := k }) (fun s => ⟨s.dies, rfl⟩)
    (by rintro s _ _ ⟨_, rfl⟩ ⟨k, rfl⟩; exact ⟨k, rfl⟩) (fun _ _ => ⟨_, rfl⟩) ds s

theorem State.setHot_hotNext (s : State) (hot : Bool) (ds : List Nat) (d : Nat) (h : d ∈ ds ∨ (s.die d).hotNext = hot) :
    ((s.setHot hot ds).die d).hotNext = hot := by
  induction ds generalizing s with
  | nil => exact h.resolve_left List.not_mem_nil
  | cons e ds ih =>
    refine ih (s.setDie e { s.die e with hotNext := hot }) ?_
    have hset : (s.setDie e { s.die e with hotNext := hot }).die d = if e = d then { s.die e with hotNext := hot } else s.die d := by
      unfold State.die State.setDie
      exact fget_fset _ _ _ _ _
    rw [hset]
    by_cases hed : e = d
    · right; rw [if_pos hed]
    · rw [if_neg hed]
      exact h.imp_left (fun h => (List.mem_cons.mp h).resolve_left (Ne.symm hed))

/-! ### The change of the table (R22) -/

/-- A table other than the thermal stop is in force, and counted; its layers and refresh rates are still to follow. -/
def State.tabled (s : State) (n : Nat) : State :=
  { s with manage := { s.manage with table := n, tableNext := none, changes := if s.manage.changes < 255 then s.manage.changes + 1 else 255 } }

/-- The state that a new table other than the thermal stop gives. -/
def State.withTable (s : State) (n : Nat) : State := ((s.tabled n).holdLayers n).setHot (n == 2) (List.range 4)

theorem execTableChange_none {s : State} (h : s.manage.tableNext = none) : execTableChange s = .fault .notDue := by
  unfold execTableChange
  simp only [h]

theorem execTableChange_stop {s : State} (h : s.manage.tableNext = some 3) : execTableChange s = s.event true (s.powerOff true) := by
  unfold execTableChange
  simp only [h]

theorem execTableChange_some {s : State} {n : Nat} (h : s.manage.tableNext = some n) (hn : n ≠ 3) :
    execTableChange s = s.event (s.parts.all (fun e => e.2.run.isNone && e.2.next.isNone)) (s.withTable n) := by
  unfold execTableChange
  dsimp only
  rw [h]
  match n, hn with
  | 0, _ => rfl
  | 1, _ => rfl
  | 2, _ => rfl
  | _ + 4, _ => rfl

/-- The new table is in force, and memory and blocks are as they were. -/
theorem State.withTable_frame (s : State) (n : Nat) :
    (s.withTable n).manage.table = n ∧ (s.withTable n).manage.tableNext = none
    ∧ (s.withTable n).manage.changes = min (s.manage.changes + 1) 255 ∧ (s.withTable n).hbm = s.hbm ∧ (s.withTable n).blocks = s.blocks := by
  have hchanges : (s.tabled n).manage.changes = min (s.manage.changes + 1) 255 := by
    show (if s.manage.changes < 255 then s.manage.changes + 1 else 255) = _
    split <;> omega
  obtain ⟨ls, ds, h⟩ := (s.tabled n).holdLayers_shape n
  obtain ⟨k, hk⟩ := ((s.tabled n).holdLayers n).setHot_shape (n == 2) (List.range 4)
  rw [State.withTable, hk, h]
  exact ⟨rfl, rfl, hchanges, rfl, rfl⟩

theorem State.withTable_hotNext (s : State) (n d : Nat) (hd : d < 4) : ((s.withTable n).die d).hotNext = (n == 2) :=
  State.setHot_hotNext _ _ _ _ (.inl (List.mem_range.mpr hd))

/-- The layers and dirty lines are those that `holdLayers` leaves. -/
theorem State.withTable_layer (s : State) (n k : Nat) (hk : k < 16) : (s.withTable n).layer k = heldLayer n (s.layer k) := by
  obtain ⟨ds, hds⟩ := ((s.tabled n).holdLayers n).setHot_shape (n == 2) (List.range 4)
  rw [State.withTable, hds]
  exact (s.tabled n).holdLayers_layer n k hk

theorem State.withTable_dirty (s : State) (n : Nat) : (s.withTable n).dirty = ((s.tabled n).holdLayers n).dirty := by
  obtain ⟨ds, hds⟩ := ((s.tabled n).holdLayers n).setHot_shape (n == 2) (List.range 4)
  rw [State.withTable, hds]

/-! ### Self-test (R13, R16) -/

/-- Slots found bad in a start are none: self-test changes nothing. -/
@[simp] theorem Manage.selfTest_nil (m : Manage) : m.selfTest [] = (m, []) := by
  simp [Manage.selfTest]

/-- In a die whose map is empty a logical core's own slot gives way to the first spare, slot 256. -/
theorem Manage.retire_first (m : Manage) (d i : Nat) (hi : i < 256) (hr : m.repair = []) (hb : m.badSlots = []) :
    m.retire d i = ({ m with badSlots := [(d, i)], repair := [(d, i, 256)] }, none) := by
  have hserved : m.servedBy d i = some i := by simp [Manage.servedBy, hr, hi]
  have hslot : m.slotOf d i = i := by simp [Manage.slotOf, hr]
  have hspare : m.freeSlot d = some 256 := by simp [Manage.freeSlot, hr, hb, List.range_succ]
  simp [Manage.retire, Manage.rebind, hserved, hslot, hspare, hr, hb]

/-- So it does when self-test finds it bad. -/
theorem Manage.selfTest_first (m : Manage) (d i : Nat) (hi : i < 256) (hr : m.repair = []) (hb : m.badSlots = []) :
    m.selfTest [(d, i)] = ({ m with badSlots := [(d, i)], repair := [(d, i, 256)] }, []) := by
  have hserved : m.servedBy d i = some i := by simp [Manage.servedBy, hr, hi]
  have hnew : [(d, i)].filter (fun b => !m.badSlots.contains b) = [(d, i)] := by simp [hb]
  have hidle : [(d, i)].filter (fun b => (m.servedBy b.1 b.2).isNone) = [] := by simp [hserved]
  have hused : [(d, i)].filter (fun b => (m.servedBy b.1 b.2).isSome) = [(d, i)] := by simp [hserved]
  unfold Manage.selfTest
  simp only [hnew, hidle, hused, List.append_nil, List.foldl_cons, List.foldl_nil, m.retire_first d i hi hr hb]
  rfl

/-- Self-test fails in step 3, with cause 3 or 4. -/
theorem Manage.testFailure_some {m : Manage} {minimal : Bool} {left : List (Nat × Nat)} {k : Nat} {c : BitVec 8}
    (h : m.testFailure minimal left = some (k, c)) : k = 3 ∧ (c = 3 ∨ c = 4) := by
  unfold Manage.testFailure at h
  split at h
  · cases h; exact ⟨rfl, .inl rfl⟩
  · split at h
    · cases h; exact ⟨rfl, .inr rfl⟩
    · cases h

/-- It passes when every core has a slot and no die lacks a second bank. -/
theorem Manage.testFailure_none {m : Manage} (minimal : Bool) (h : ∀ d, d < 4 → m.banksShort d = false) :
    m.testFailure minimal [] = none := by
  have hbanks : (List.range 4).any (fun d => m.banksShort d && (!minimal || d == 0)) = false :=
    List.any_eq_false.mpr (fun d hd => by simp [h d (List.mem_range.mp hd)])
  simp only [Manage.testFailure, List.any_nil, hbanks, Bool.false_eq_true, if_false]

theorem Manage.banksShort_nil {m : Manage} (h : m.badBanks = []) (d : Nat) : m.banksShort d = false := by
  simp [Manage.banksShort, h]

theorem eq_of_mem_of_length_le_one {α : Type} {l : List α} (h : l.length ≤ 1) {a b : α} (ha : a ∈ l) (hb : b ∈ l) : a = b := by
  match l, h with
  | [c], _ => rw [List.mem_singleton.mp ha, List.mem_singleton.mp hb]

/-- A list without two different elements has at most one when its duplicates are erased. -/
theorem length_eraseDups_le_one {l : List (Nat × Nat)} (h : ∀ a ∈ l, ∀ b ∈ l, a = b) : l.eraseDups.length ≤ 1 := by
  cases l with
  | nil => simp
  | cons a l =>
    have hrest : l.filter (fun b => !b == a) = [] :=
      List.filter_eq_nil_iff.mpr (fun b hb => by simp [h b (List.mem_cons_of_mem a hb) a List.mem_cons_self])
    rw [List.eraseDups_cons, hrest]
    simp

/-- One bad bank of a die is not too many, however often it was listed. -/
theorem Manage.banksShort_of_le_one {m : Manage} {banks : List (Nat × Nat)} (hm : m.badBanks = banks.eraseDups) (d : Nat)
    (h : (banks.filter (fun b => b.1 == d)).length ≤ 1) : m.banksShort d = false := by
  unfold Manage.banksShort
  rw [hm]
  refine decide_eq_false (Nat.not_lt.mpr (length_eraseDups_le_one (fun a ha b hb => ?_)))
  have mem {c : Nat × Nat} (hc : c ∈ banks.eraseDups.filter (fun b => b.1 == d)) : c ∈ banks.filter (fun b => b.1 == d) := by
    obtain ⟨hc, hd⟩ := List.mem_filter.mp hc
    exact List.mem_filter.mpr ⟨List.mem_eraseDups.mp hc, hd⟩
  exact eq_of_mem_of_length_le_one h (mem ha) (mem hb)

/-! ### A start (R377) -/

/-- The map that self-test goes by: a cold start's is empty. -/
def Manage.startMap (m : Manage) (cold : Bool) : Manage := if cold then { m with repair := [], badSlots := [], badBanks := [] } else m

/-- What self-test makes of the map, and the logical cores it leaves without a slot. -/
def Manage.tested (m : Manage) (env : StartEnv) (cold : Bool) : Manage × List (Nat × Nat) :=
  ({ m.startMap cold with badBanks := ((m.startMap cold).badBanks ++ env.badBanks).eraseDups } : Manage).selfTest env.badSlots

/-- A start that has entered step 1, with the repair map `map`: the attempt is counted, a thermal stop recorded as cause 9. -/
def Manage.entered (m map : Manage) : Manage :=
  let base : Manage :=
    { Manage.reset with
      mode := 0, stage := 1, cause0 := m.cause0, cause1 := m.cause1, cause2 := m.cause2, failStep := m.failStep,
      attempt := if m.attempt < 15 then m.attempt + 1 else 15, repair := map.repair, badSlots := map.badSlots, badBanks := map.badBanks,
      firmware := if m.fwNext.isEmpty then m.firmware else m.fwNext, fwNext := m.fwNext }
  if m.thermal then { base.fail m.failStep 9 with stage := 1 } else base

/-- How a start that has entered step 1 ends: with a failed step, a step that hangs, or ready. -/
def Manage.outcome (base : Manage) (minimal : Bool) (fails : Option (Nat × BitVec 8)) : Manage :=
  match fails with
  | some (step, cause) => if cause = 0 then { base with stage := step } else base.fail step cause
  | none =>
    if minimal then { base with mode := 2, stage := 6 }
    else { base with mode := 1, stage := 6, attempt := 0, cause0 := 0, cause1 := 0, cause2 := 0 }

/-- A start that fails before self-test keeps the map. -/
theorem State.start_manage_early (s : State) {env : StartEnv} (cold : Bool) {k : Nat} {c : BitVec 8} (hf : env.failure = some (k, c)) (hk : k < 3) :
    (s.start env cold).manage
      = { (s.manage.entered s.manage).outcome (decide (3 ≤ s.manage.attempt)) (some (k, c)) with cxl := s.choice % 2 == 0 } := by
  obtain ⟨failure, badSlots, badBanks⟩ := env
  subst hf
  simp only [State.start, hk, decide_true, Bool.not_true, Bool.and_false, Bool.false_eq_true, if_false, if_true]
  rfl

/-- Any other start goes on with the map that self-test leaves, and fails as the surroundings or self-test make it. -/
theorem State.start_manage_tested (s : State) {env : StartEnv} (cold : Bool) (hf : ∀ k c, env.failure = some (k, c) → 3 ≤ k) :
    (s.start env cold).manage
      = { (s.manage.entered (s.manage.tested env cold).1).outcome (decide (3 ≤ s.manage.attempt))
            (StartEnv.fails env ((s.manage.tested env cold).1.testFailure (decide (3 ≤ s.manage.attempt)) (s.manage.tested env cold).2))
          with cxl := s.choice % 2 == 0 } := by
  obtain ⟨failure, badSlots, badBanks⟩ := env
  cases failure with
  | none =>
    simp only [State.start, Bool.not_false, Bool.and_true, Bool.false_eq_true, if_false]
    rfl
  | some f =>
    have hk : ¬ f.1 < 3 := Nat.not_lt.mpr (hf f.1 f.2 rfl)
    simp only [State.start, hk, decide_false, Bool.not_false, Bool.and_true, Bool.false_eq_true, if_false]
    rfl

theorem Manage.entered_map (m map : Manage) :
    (m.entered map).repair = map.repair ∧ (m.entered map).badSlots = map.badSlots ∧ (m.entered map).badBanks = map.badBanks
    ∧ (m.entered map).poweredDown = false ∧ (m.entered map).attempt = min (m.attempt + 1) 15 := by
  have hattempt : (if m.attempt < 15 then m.attempt + 1 else 15) = min (m.attempt + 1) 15 := by split <;> omega
  unfold Manage.entered
  dsimp only
  split <;> exact ⟨rfl, rfl, rfl, rfl, hattempt⟩

/-- The causes are those of the starts before unless a thermal stop came between. -/
theorem Manage.entered_causes (m map : Manage) (h : m.thermal = false) : (m.entered map).cause1 = m.cause1 ∧ (m.entered map).cause2 = m.cause2 := by
  unfold Manage.entered
  rw [h]
  exact ⟨rfl, rfl⟩

/-- No end of a start changes the map. -/
theorem Manage.outcome_map (base : Manage) (minimal : Bool) (fails : Option (Nat × BitVec 8)) :
    (base.outcome minimal fails).repair = base.repair ∧ (base.outcome minimal fails).badSlots = base.badSlots
    ∧ (base.outcome minimal fails).badBanks = base.badBanks ∧ (base.outcome minimal fails).poweredDown = base.poweredDown := by
  unfold Manage.outcome
  split
  · split <;> exact ⟨rfl, rfl, rfl, rfl⟩
  · split <;> exact ⟨rfl, rfl, rfl, rfl⟩

theorem Manage.outcome_failed (base : Manage) (minimal : Bool) {k : Nat} {c : BitVec 8} (hc : c ≠ 0) :
    base.outcome minimal (some (k, c)) = base.fail k c := if_neg hc

/-- The failure that self-test finds in a start. -/
def Manage.ownFailure (m : Manage) (env : StartEnv) (cold : Bool) : Option (Nat × BitVec 8) :=
  (m.tested env cold).1.testFailure (decide (3 ≤ m.attempt)) (m.tested env cold).2

/-- The map after a start that gets as far as self-test. -/
theorem State.start_map_tested (s : State) {env : StartEnv} (cold : Bool) (hf : ∀ k c, env.failure = some (k, c) → 3 ≤ k) :
    (s.start env cold).manage.repair = (s.manage.tested env cold).1.repair
    ∧ (s.start env cold).manage.badSlots = (s.manage.tested env cold).1.badSlots
    ∧ (s.start env cold).manage.badBanks = (s.manage.tested env cold).1.badBanks := by
  rw [s.start_manage_tested cold hf]
  obtain ⟨hr, hs, hb, _⟩ := Manage.outcome_map (s.manage.entered (s.manage.tested env cold).1) (decide (3 ≤ s.manage.attempt))
    (StartEnv.fails env (s.manage.ownFailure env cold))
  obtain ⟨hr', hs', hb', _⟩ := s.manage.entered_map (s.manage.tested env cold).1
  exact ⟨hr.trans hr', hs.trans hs', hb.trans hb'⟩

/-- The map after a start that does not. -/
theorem State.start_map_early (s : State) {env : StartEnv} (cold : Bool) {k : Nat} {c : BitVec 8} (hf : env.failure = some (k, c)) (hk : k < 3) :
    (s.start env cold).manage.repair = s.manage.repair ∧ (s.start env cold).manage.badSlots = s.manage.badSlots
    ∧ (s.start env cold).manage.badBanks = s.manage.badBanks := by
  rw [s.start_manage_early cold hf hk]
  obtain ⟨hr, hs, hb, _⟩ := Manage.outcome_map (s.manage.entered s.manage) (decide (3 ≤ s.manage.attempt)) (some (k, c))
  obtain ⟨hr', hs', hb', _⟩ := s.manage.entered_map s.manage
  exact ⟨hr.trans hr', hs.trans hs', hb.trans hb'⟩

/-- A start gives the module power. -/
theorem State.start_powered (s : State) (env : StartEnv) (cold : Bool) : (s.start env cold).manage.poweredDown = false := by
  have hpower (map : Manage) (fails : Option (Nat × BitVec 8)) :
      ((s.manage.entered map).outcome (decide (3 ≤ s.manage.attempt)) fails).poweredDown = false := by
    obtain ⟨_, _, _, h⟩ := Manage.outcome_map (s.manage.entered map) (decide (3 ≤ s.manage.attempt)) fails
    obtain ⟨_, _, _, h', _⟩ := s.manage.entered_map map
    exact h.trans h'
  by_cases hf : ∀ k c, env.failure = some (k, c) → 3 ≤ k
  · rw [s.start_manage_tested cold hf]
    exact hpower _ _
  · push Not at hf
    obtain ⟨k, c, hf, hk⟩ := hf
    rw [s.start_manage_early cold hf hk]
    exact hpower _ _

/-- Which failure a start records: the surroundings' of step 3 at the latest or without one of self-test, or self-test's own. -/
def Manage.failsWith (m : Manage) (env : StartEnv) (cold : Bool) (k : Nat) (c : BitVec 8) : Prop :=
  (env.failure = some (k, c) ∧ (k ≤ 3 ∨ m.ownFailure env cold = none)) ∨ (env.failure = none ∧ m.ownFailure env cold = some (k, c))

theorem State.start_manage_failed (s : State) {env : StartEnv} {cold : Bool} {k : Nat} {c : BitVec 8}
    (h : s.manage.failsWith env cold k c) (hc : c ≠ 0) :
    ∃ map cxl, (s.start env cold).manage = { (s.manage.entered map).fail k c with cxl := cxl } := by
  by_cases hk : k < 3 ∧ env.failure = some (k, c)
  · exact ⟨s.manage, _, by rw [s.start_manage_early cold hk.2 hk.1, Manage.outcome_failed _ _ hc]⟩
  · have hlate : ∀ j b, env.failure = some (j, b) → 3 ≤ j := by
      rintro j b hj
      rcases h with ⟨hf, _⟩ | ⟨hf, _⟩
      · cases hf.symm.trans hj
        exact Nat.le_of_not_lt fun hlt => hk ⟨hlt, hf⟩
      · cases hf.symm.trans hj
    have hfails : StartEnv.fails env (s.manage.ownFailure env cold) = some (k, c) := by
      unfold StartEnv.fails
      rcases h with ⟨hf, h3 | hown⟩ | ⟨hf, hown⟩
      · rw [hf]
        cases s.manage.ownFailure env cold with
        | none => rfl
        | some d => exact if_pos h3
      · rw [hf, hown]
      · rw [hf, hown]
    refine ⟨(s.manage.tested env cold).1, s.choice % 2 == 0, ?_⟩
    rw [s.start_manage_tested cold hlate, ← Manage.ownFailure, hfails, Manage.outcome_failed _ _ hc]

/-- A failed step is recorded as the latest cause, and the attempt counted (R377). -/
theorem State.start_failed (s : State) {env : StartEnv} {cold : Bool} {k : Nat} {c : BitVec 8}
    (h : s.manage.failsWith env cold k c) (hc : c ≠ 0) (hth : s.manage.thermal = false) :
    (s.start env cold).manage.mode = 0 ∧ (s.start env cold).manage.failStep = k ∧ (s.start env cold).manage.cause2 = c
    ∧ (s.start env cold).manage.cause1 = s.manage.cause2 ∧ (s.start env cold).manage.cause0 = s.manage.cause1
    ∧ (s.start env cold).manage.attempt = min (s.manage.attempt + 1) 15 := by
  obtain ⟨map, cxl, hm⟩ := s.start_manage_failed h hc
  obtain ⟨h1, h2⟩ := s.manage.entered_causes map hth
  obtain ⟨_, _, _, _, hattempt⟩ := s.manage.entered_map map
  rw [hm]
  exact ⟨rfl, rfl, rfl, h2, h1, hattempt⟩

/-- A start in which every step passes is ready with the map of self-test. -/
theorem State.start_manage_passed (s : State) {env : StartEnv} {cold : Bool} (hf : env.failure = none) (hown : s.manage.ownFailure env cold = none) :
    (s.start env cold).manage
      = { (s.manage.entered (s.manage.tested env cold).1).outcome (decide (3 ≤ s.manage.attempt)) none with cxl := s.choice % 2 == 0 } := by
  have hfails : StartEnv.fails env none = none := by unfold StartEnv.fails; rw [hf]
  rw [s.start_manage_tested cold (by simp [hf]), ← Manage.ownFailure, hown, hfails]

/-- Before the third attempt the mode is full, and counter and causes are cleared. -/
theorem State.start_full (s : State) {env : StartEnv} {cold : Bool} (hf : env.failure = none) (hown : s.manage.ownFailure env cold = none)
    (ha : s.manage.attempt < 3) :
    (s.start env cold).manage.mode = 1 ∧ (s.start env cold).manage.stage = 6 ∧ (s.start env cold).manage.attempt = 0
    ∧ (s.start env cold).manage.cause0 = 0 ∧ (s.start env cold).manage.cause1 = 0 ∧ (s.start env cold).manage.cause2 = 0 := by
  rw [s.start_manage_passed hf hown, decide_eq_false (Nat.not_le.mpr ha)]
  exact ⟨rfl, rfl, rfl, rfl, rfl, rfl⟩

/-- After three attempts it is minimal. -/
theorem State.start_minimal (s : State) {env : StartEnv} {cold : Bool} (hf : env.failure = none) (hown : s.manage.ownFailure env cold = none)
    (ha : 3 ≤ s.manage.attempt) :
    (s.start env cold).manage.mode = 2 ∧ (s.start env cold).manage.attempt = min (s.manage.attempt + 1) 15 := by
  obtain ⟨_, _, _, _, hattempt⟩ := s.manage.entered_map (s.manage.tested env cold).1
  rw [s.start_manage_passed hf hown, decide_eq_true ha]
  exact ⟨rfl, hattempt⟩

/-- The 18 ports are dead then. -/
theorem State.start_minimal_ports (s : State) (env : StartEnv) (cold : Bool) (ha : 3 ≤ s.manage.attempt) (p : Nat) (hp : p < 18) :
    ((s.start env cold).port p).dead = true := by
  have hports : (s.start env cold).ports = tab 18 (fun i => (i, { Port.reset with dead := true })) := if_pos (decide_eq_true ha)
  have hdead : ∀ p, p < 18 → (fget Port.reset (tab 18 (fun i => (i, { Port.reset with dead := true }))) p).dead = true := by decide
  unfold State.port
  rw [hports]
  exact hdead p hp

/-! ### Dies in service (R377) -/

theorem State.dieOn_full {s : State} (h : s.manage.mode = 1) (d : Nat) (hd : d < 4) : s.dieOn d = true := by
  simp [State.dieOn, h, hd]

theorem State.dieOn_minimal {s : State} (h : s.manage.mode = 2) (d : Nat) : s.dieOn d = true ↔ d = 0 := by
  simp only [State.dieOn, h, bne_self_eq_false, Bool.false_or, Bool.and_eq_true, decide_eq_true_eq, beq_iff_eq]
  omega

/-! ### Self-test of a cold start, and of a start that finds nothing (R13, R377) -/

theorem Manage.cold_finds_nothing (m : Manage) {env : StartEnv} (hs : env.badSlots = []) (hb : env.badBanks = []) :
    m.ownFailure env true = none ∧ (m.tested env true).1.repair = [] := by
  have ht : m.tested env true = ({ m with repair := [], badSlots := [], badBanks := [] }, []) := by
    unfold Manage.tested
    rw [hs, hb, Manage.selfTest_nil]
    rfl
  unfold Manage.ownFailure
  rw [ht]
  exact ⟨Manage.testFailure_none _ (fun d _ => Manage.banksShort_nil rfl d), rfl⟩

theorem Manage.cold_replaces_slot (m : Manage) {env : StartEnv} (hb : env.badBanks = []) {d i : Nat} (hi : i < 256) (hs : env.badSlots = [(d, i)]) :
    m.ownFailure env true = none ∧ (m.tested env true).1.repair = [(d, i, 256)] := by
  have ht : m.tested env true = ({ m with repair := [(d, i, 256)], badSlots := [(d, i)], badBanks := [] }, []) := by
    unfold Manage.tested
    rw [hs, hb, Manage.selfTest_first _ d i hi rfl rfl]
    rfl
  unfold Manage.ownFailure
  rw [ht]
  exact ⟨Manage.testFailure_none _ (fun d _ => Manage.banksShort_nil rfl d), rfl⟩

/-- A warm restart that finds nothing new keeps the map, and passes unless a die lacks two banks. -/
theorem Manage.warm_finds_nothing (m : Manage) (h : ∀ d, d < 4 → (m.badBanks.filter (fun b => b.1 == d)).length ≤ 1) :
    m.ownFailure ⟨none, [], []⟩ false = none ∧ (m.tested ⟨none, [], []⟩ false).1.repair = m.repair := by
  have ht : m.tested ⟨none, [], []⟩ false = ({ m with badBanks := m.badBanks.eraseDups }, []) := by
    unfold Manage.tested
    rw [Manage.selfTest_nil, List.append_nil]
    rfl
  unfold Manage.ownFailure
  rw [ht]
  exact ⟨Manage.testFailure_none _ (fun d hd => Manage.banksShort_of_le_one rfl d (h d hd)), rfl⟩

/-! ### Every step (R21, R22, R377, R378) -/

/-- What a loss of a loop leaves of the management state. -/
def Manage.loseLoop (m : Manage) (top : Bool) : Manage :=
  if top then { m with topOk := false, topHeld := false } else { m with botOk := false, botHeld := false }

/-- What a loop that has held normal flow for its time leaves. -/
def Manage.restoreLoop (m : Manage) (top : Bool) : Manage :=
  if top then { m with topOk := true, topHeld := false } else { m with botOk := true, botHeld := false }

/-- The table that the loops call for waits, unless it is in force. -/
def Manage.choose (m : Manage) : Manage := { m with tableNext := if m.wants = m.table then none else some m.wants }

theorem Manage.loseLoop_wants (m : Manage) (top : Bool) :
    (m.loseLoop top).wants = if top then (if m.botOk then 1 else 3) else (if m.topOk then 2 else 3) := by
  unfold Manage.loseLoop Manage.wants
  cases top
  · cases m.topOk <;> rfl
  · cases m.botOk <;> rfl

theorem Manage.restoreLoop_wants (m : Manage) (top : Bool) :
    (m.restoreLoop top).wants = if top then (if m.botOk then 0 else 2) else (if m.topOk then 0 else 1) := by
  unfold Manage.restoreLoop Manage.wants
  cases top
  · cases m.topOk <;> rfl
  · cases m.botOk <;> rfl

theorem Manage.loseLoop_table (m : Manage) (top : Bool) : (m.loseLoop top).table = m.table := by cases top <;> rfl
theorem Manage.restoreLoop_table (m : Manage) (top : Bool) : (m.restoreLoop top).table = m.table := by cases top <;> rfl

theorem execLoopLoss_eq (top : Bool) (s : State) :
    execLoopLoss top s = s.event (if top then s.manage.topOk || s.manage.topHeld else s.manage.botOk || s.manage.botHeld)
      (if (s.manage.loseLoop top).wants = 3
        then ({ s with manage := (s.manage.loseLoop top).choose } : State).haltAll (FaultInfo.of 0x41) s.functions
        else { s with manage := (s.manage.loseLoop top).choose }) := by
  have hw : (s.manage.loseLoop top).choose.wants = (s.manage.loseLoop top).wants := rfl
  rw [← hw]
  rfl

theorem execLoopRestored_eq (top : Bool) (s : State) :
    execLoopRestored top s = s.event ((if top then s.manage.topHeld else s.manage.botHeld) && s.manage.tableNext != some 3)
      { s with manage := (s.manage.restoreLoop top).choose } := by
  cases top <;> rfl

/-- A lost loop chooses its table; memory and the table in force are as they were. Both lost halt every function. -/
theorem loopLoss_happens {s : State} (hp : s.manage.poweredDown = false) (top : Bool)
    (hflow : (if top then s.manage.topOk || s.manage.topHeld else s.manage.botOk || s.manage.botHeld) = true) :
    ∃ t, execLoopLoss top s = .next t ∧ t.manage = (s.manage.loseLoop top).choose ∧ t.hbm = s.hbm
      ∧ ((s.manage.loseLoop top).wants = 3 → ∀ vf ∈ s.functions, (t.ctx vf).st ≠ .live)
      ∧ ((s.manage.loseLoop top).wants ≠ 3 → t.ctxs = s.ctxs) := by
  rw [execLoopLoss_eq]
  refine ⟨_, event_due hp hflow, ?_⟩
  by_cases hw : (s.manage.loseLoop top).wants = 3
  · rw [if_pos hw]
    obtain ⟨cs, hcs⟩ := State.haltAll_shape { s with manage := (s.manage.loseLoop top).choose } (FaultInfo.of 0x41) s.functions
    refine ⟨?_, ?_, fun _ vf hvf => ?_, fun h => absurd hw h⟩
    · rw [State.wake_manage, hcs]
    · rw [State.wake_hbm, hcs]
    · exact State.haltAll_notLive _ _ _ _ (.inl hvf)
  · rw [if_neg hw]
    exact ⟨rfl, rfl, fun h => absurd h hw, fun _ => rfl⟩

/-- A loop that has held normal flow chooses its table, unless the thermal stop waits. -/
theorem loopRestored_happens {s : State} (hp : s.manage.poweredDown = false) (top : Bool)
    (hheld : (if top then s.manage.topHeld else s.manage.botHeld) = true) (hnext : s.manage.tableNext ≠ some 3) :
    execLoopRestored top s = .next ({ s with manage := (s.manage.restoreLoop top).choose } : State).wake := by
  rw [execLoopRestored_eq]
  refine event_due hp ?_
  rw [hheld, Bool.true_and]
  exact bne_iff_ne.mpr hnext

/-- A lost loop that flows again begins its time of normal flow. -/
theorem normalFlowReturn_happens {s : State} (hp : s.manage.poweredDown = false) (top : Bool)
    (hlost : if top then s.manage.topOk = false ∧ s.manage.topHeld = false else s.manage.botOk = false ∧ s.manage.botHeld = false)
    (hnext : s.manage.tableNext ≠ some 3) :
    execNormalFlowReturn top s
      = .next ({ s with manage := if top then { s.manage with topHeld := true } else { s.manage with botHeld := true } } : State).wake := by
  refine event_due hp ?_
  cases top
  · obtain ⟨hok, hheld⟩ := hlost
    simp [hok, hheld, hnext]
  · obtain ⟨hok, hheld⟩ := hlost
    simp [hok, hheld, hnext]

/-- A table changes at a leg boundary. -/
theorem tableChange_happens {s : State} (hp : s.manage.poweredDown = false) {n : Nat} (hn : s.manage.tableNext = some n) (h3 : n ≠ 3)
    (hidle : ∀ e ∈ s.parts, e.2.run = none ∧ e.2.next = none) :
    ∃ gs, execTableChange s = .next { s.withTable n with groups := gs } := by
  obtain ⟨gs, hgs⟩ := (s.withTable n).wake_shape
  refine ⟨gs, ?_⟩
  rw [execTableChange_some hn h3, ← hgs]
  refine event_due hp (List.all_eq_true.mpr fun e he => ?_)
  obtain ⟨hrun, hnext⟩ := hidle e he
  rw [hrun, hnext]
  rfl

/-- Within a leg it waits. -/
theorem tableChange_waits {s : State} (hp : s.manage.poweredDown = false) {n : Nat} (hn : s.manage.tableNext = some n) (h3 : n ≠ 3)
    (hbusy : ∃ e ∈ s.parts, e.2.run ≠ none ∨ e.2.next ≠ none) : execTableChange s = .fault .notDue := by
  obtain ⟨e, he, hrun⟩ := hbusy
  rw [execTableChange_some hn h3]
  refine event_notDue hp (List.all_eq_false.mpr ⟨e, he, ?_⟩)
  simpa only [Bool.and_eq_true, Option.isNone_iff_eq_none, not_and_or] using hrun

/-- A step of the start that hangs fails with cause 0x0A. -/
theorem startStepTimeout_happens {s : State} (hp : s.manage.poweredDown = false) {k : Nat} (hmode : s.manage.mode = 0)
    (hstage : s.manage.stage = k) (h1 : 1 ≤ k) (h5 : k ≤ 5) :
    execStartStepTimeout k s = .next ({ s with manage := s.manage.fail k 0x0A } : State).wake :=
  event_due hp (by simp [hmode, hstage, h1, h5])

/-- The word of a layer's sensors is stored, its low bits zero, when its rate is one of the table in force. -/
theorem hbmtRefresh_happens {s : State} (hp : s.manage.poweredDown = false) {i : Nat} {v : Half} (hi : i < 384) (hd : s.dieOn (i / 96) = true)
    (hrate : v.toNat / 64 % 4 < 3) (hhot : s.manage.table = 2 → 0 < v.toNat / 64 % 4) :
    ∃ t, execHbmtRefresh i v s = .next t ∧ t.manage.hbmt = fset 0 s.manage.hbmt i (v &&& 0xFFC0) ∧ t.hbm = s.hbm := by
  refine ⟨_, event_due hp ?_, rfl, rfl⟩
  by_cases h2 : s.manage.table = 2
  · simp [hi, hd, hrate, hhot h2]
  · simp [hi, hd, hrate, h2]

/-- Table T2 takes no rate of 0. -/
theorem hbmtRefresh_hot {s : State} (hp : s.manage.poweredDown = false) (i : Nat) {v : Half} (h2 : s.manage.table = 2)
    (hrate : v.toNat / 64 % 4 = 0) : execHbmtRefresh i v s = .fault .notDue :=
  event_notDue hp (by simp [h2, hrate])

/-- FULLSTART: a start of a module whose attempts are cleared, with nothing new found bad. -/
theorem fullstart_happens {s : State} (hp : s.manage.poweredDown = false) {c : Cmd} (hc : s.cmd = some c) (hok : s.cmdBad c = false)
    (hbanks : ∀ d, d < 4 → (s.manage.badBanks.filter (fun b => b.1 == d)).length ≤ 1) :
    ∃ u : State, u.manage = { s.manage with attempt := 0 } ∧ u.manage.ownFailure ⟨none, [], []⟩ false = none
      ∧ execFullstart s = .next (u.start ⟨none, [], []⟩ false) ∧ (u.start ⟨none, [], []⟩ false).manage.repair = s.manage.repair := by
  have hm : (State.answerCmd { s with cmd := none } c 0).manage = s.manage := State.answerCmd_manage _ _ _
  obtain ⟨u, hu⟩ : ∃ u : State, u = { State.answerCmd { s with cmd := none } c 0 with
    manage := { (State.answerCmd { s with cmd := none } c 0).manage with attempt := 0 } } := ⟨_, rfl⟩
  have hum : u.manage = { s.manage with attempt := 0 } := by rw [hu]; dsimp only; rw [hm]
  obtain ⟨hown, hrepair⟩ := u.manage.warm_finds_nothing (by rw [hum]; exact hbanks)
  refine ⟨u, hum, hown, ?_, ?_⟩
  · unfold execFullstart
    rw [hc]
    simp only [hok, Bool.false_eq_true, if_false]
    rw [← hu, event_due hp rfl, State.wake_no_groups rfl]
  · obtain ⟨hr, _, _⟩ := u.start_map_tested (env := ⟨none, [], []⟩) false (by simp)
    rw [hr, hrepair, hum]

end Sys2Proof.Machine

namespace Sys2Proof.Proofs.DeviceRules
open Sys2Proof.Machine

/-! ### The state that refutes the frame of the dirty lines -/

/-- `n` lines of HBM from line 2 on, dirty in the base half of die 0. -/
def hbmLines (n : Nat) : List DirtyLine := (List.range n).map (fun i => ⟨16, false, i + 2⟩)

/-- Table T1 holds every stacked layer; the lines 0 and 1 of HBM and `rest` are dirty, the first two in the base half of die 0; the error
queue has room. -/
def baseHalfHolds (rest : List DirtyLine) : State :=
  let s := State.reset.setRing 0 4 { Ring.reset with base := 0x10000, log2 := 4, en := true }
  { s with manage := { s.manage with table := 1, layers := tab 16 (fun k => (k, 3)) },
           dirty := ⟨16, false, 0⟩ :: ⟨16, false, 1⟩ :: rest }

theorem hbmLines_host {n : Nat} {d : DirtyLine} (h : d ∈ hbmLines n) : d.host = false := by
  obtain ⟨i, _, rfl⟩ := List.mem_map.mp h
  rfl

theorem line_zero_not_mem_hbmLines (n : Nat) : (⟨16, false, 0⟩ : DirtyLine) ∉ hbmLines n := by
  intro h
  obtain ⟨i, _, hi⟩ := List.mem_map.mp h
  cases hi

theorem hbmLines_count (n : Nat) : (hbmLines n).countP (fun d => d.layer == 16) = n := by
  have h : ∀ d ∈ hbmLines n, (d.layer == 16) = true := by
    intro d h
    obtain ⟨i, _, rfl⟩ := List.mem_map.mp h
    rfl
  rw [List.countP_eq_length.mpr h, hbmLines, List.length_map, List.length_range]

/-- With a full base half the record of an error takes a place there, and line 0 is no longer dirty. -/
theorem baseHalfHolds_report_drops (rest : List DirtyLine) (hhost : ∀ d ∈ rest, d.host = false)
    (hfull : Config.l2BaseLines ≤ rest.countP (fun d => d.layer == 16) + 2) (honce : (⟨16, false, 0⟩ : DirtyLine) ∉ rest)
    (src cause die unit pa vf owner action : Nat) :
    (⟨16, false, 0⟩ : DirtyLine) ∉ ((baseHalfHolds rest).reportError src cause die unit pa vf owner action).dirty := by
  have hring : (baseHalfHolds rest).ring 0 4 = { Ring.reset with base := 0x10000, log2 := 4, en := true } := rfl
  obtain ⟨u, hd, hm, hu⟩ := State.reportError_dirty (baseHalfHolds rest) src cause die unit pa vf owner action 512 rfl
    (by rw [hring]; decide) (by rw [hring]; decide)
  have hdirty : u.dirty = ⟨16, false, 0⟩ :: ⟨16, false, 1⟩ :: rest := hd
  have hnew : u.dirty.find? (fun d => d.is true 512) = none := by
    rw [hdirty]
    refine List.find?_eq_none.mpr (fun d h => ?_)
    have hd : d.host = false := by
      rcases List.mem_cons.mp h with rfl | h
      · rfl
      · rcases List.mem_cons.mp h with rfl | h
        · rfl
        · exact hhost d h
    simp [DirtyLine.is, hd]
  have hheld : ∀ j, j < 4 → u.layer (4 * 0 + j) ≠ 0 := by
    unfold State.layer
    rw [hm]
    show ∀ j, j < 4 → fget 0 (tab 16 (fun k => (k, 3))) (4 * 0 + j) ≠ 0
    decide
  have hcount : Config.l2BaseLines ≤ u.dirty.countP (fun d => d.layer == 16 + 0) := by
    rw [hdirty]
    simpa using hfull
  obtain ⟨n, hn⟩ := u.markDirty_base_full true 512 0 rfl hnew hheld hcount
  rw [hu, hn, hdirty]
  intro h
  rcases List.mem_append.mp h with h | h
  · exact not_mem_writeBack_oldest (d := ⟨16, false, 0⟩) n (by simp [honce]) h
  · simp at h

/-- Refutes O46: the error record of a dirty line is itself written to host memory, through the L2. Where the base half is full and no
stacked layer is in service (table T1), its line takes the place of the oldest dirty line, which is written back (R114) and is dirty no
longer, although the error did not touch it. -/
theorem not_errorSteps : ¬ Obligations.ErrorSteps := by
  unfold Obligations.ErrorSteps
  intro h
  have hdrops := baseHalfHolds_report_drops (hbmLines (Config.l2BaseLines - 2)) (fun _ => hbmLines_host)
    (by rw [hbmLines_count]; decide) (line_zero_not_mem_hbmLines _)
  generalize hbmLines (Config.l2BaseLines - 2) = rest at hdrops
  obtain ⟨_, hdirty, _⟩ := h (baseHalfHolds rest) rfl
  obtain ⟨t, hstep, _, _, _, _, _, _, hkept, _⟩ := hdirty false 128 0 ⟨16, false, 1⟩ rfl (by decide)
  have hmem : (⟨16, false, 0⟩ : DirtyLine) ∈ t.dirty := hkept _ List.mem_cons_self rfl
  cases hstep
  rw [State.wake_dirty, State.raiseHalt_dirty] at hmem
  exact hdrops _ _ _ _ _ _ _ _ (List.mem_filter.mp hmem).1

/-! ### Cooling loops, operating tables, starts and power loss -/

/-- Settles O47: every step is taken apart by the lemma that says what it leaves; the start's clauses come from what self-test makes of the
map and from the one failure, if any, that the start records. -/
theorem loopsAndStarts : Obligations.LoopsAndStarts := by
  unfold Obligations.LoopsAndStarts
  intro s m causes fresh started
  have hstarted (env : StartEnv) (cold : Bool) : started (s.start env cold) env cold := by
    refine ⟨⟨rfl, rfl, rfl, rfl, rfl, rfl, rfl, rfl, rfl⟩, s.start_powered env cold, s.start_map_tested cold,
      fun k c hf hk => s.start_map_early cold hf hk, ?_, ?_, ?_, ?_, ?_, ?_⟩
    · rintro rfl hs hb
      exact m.cold_finds_nothing hs hb
    · rintro rfl hb d i _ hi hs
      exact m.cold_replaces_slot hb hi hs
    · intro hf k c hown hth
      obtain ⟨hk, hcause⟩ := Manage.testFailure_some hown
      have hc : c ≠ 0 := by rcases hcause with rfl | rfl <;> decide
      obtain ⟨h1, h2, h3⟩ := s.start_failed (env := env) (cold := cold) (.inr ⟨hf, hown⟩) hc hth
      exact ⟨hk, hcause, h1, h2.trans hk, h3⟩
    · intro hf hown ha
      obtain ⟨hmode, hstage, hattempt, h0, h1, h2⟩ := s.start_full hf hown ha
      exact ⟨hmode, hstage, hattempt, h0, h1, h2, State.dieOn_full hmode⟩
    · intro hf hown ha
      obtain ⟨hmode, hattempt⟩ := s.start_minimal hf hown ha
      exact ⟨hmode, hattempt, State.dieOn_minimal hmode, s.start_minimal_ports env cold ha⟩
    · intro k c hf hfirst hc hth
      exact s.start_failed (.inl ⟨hf, hfirst⟩) hc hth
  refine ⟨fun env => ⟨fun hoff => ⟨_, ?_, hstarted env true⟩, fun hon => ⟨?_, _, ?_, hstarted env false⟩⟩, fun hp =>
    ⟨?_, ?_, ?_, ?_, ?_, ?_, ?_, ?_, ?_, ?_, ?_⟩⟩
  · exact if_pos hoff
  · rw [exec_coldStart, execColdStart, hon]
    rfl
  · exact (event_due hon rfl).trans (by rw [State.wake_no_groups rfl])
  · intro top hflow w
    have hw : (m.loseLoop top).wants = w := m.loseLoop_wants top
    obtain ⟨t, ht, hm, hhbm, hhalt, hctxs⟩ := loopLoss_happens hp top hflow
    rw [hw] at hhalt hctxs
    refine ⟨t, ht, ?_, ?_, hhbm, ?_, hhalt, hctxs⟩
    · rw [hm]
      cases top <;> exact ⟨rfl, rfl⟩
    · rw [hm, Manage.choose, hw, m.loseLoop_table top]
    · rw [hm]
      exact m.loseLoop_table top
  · intro top hlost hnext
    refine ⟨_, normalFlowReturn_happens hp top hlost hnext, ?_, ?_⟩
    · cases top <;> exact ⟨rfl, hlost.1⟩
    · cases top <;> rfl
  · intro top hheld hnext w
    have hw : (m.restoreLoop top).wants = w := m.restoreLoop_wants top
    refine ⟨_, loopRestored_happens hp top hheld hnext, ?_, ?_⟩
    · cases top <;> rfl
    · rw [State.wake_manage, Manage.choose, hw, m.restoreLoop_table top]
  · exact execTableChange_none
  · intro hnext
    exact ⟨_, (execTableChange_stop hnext).trans (event_due hp rfl), rfl, rfl, ⟨rfl, rfl, rfl, rfl, rfl, rfl, rfl, rfl, rfl⟩, rfl, rfl, rfl⟩
  · intro n hnext h3
    refine ⟨tableChange_waits hp hnext h3, fun hidle => ?_⟩
    obtain ⟨gs, ht⟩ := tableChange_happens hp hnext h3 hidle
    obtain ⟨htable, htableNext, hchanges, hhbm, hblocks⟩ := s.withTable_frame n
    have hhot := s.withTable_hotNext n
    have hlayer := s.withTable_layer n
    have hheld : n = 1 → ∀ k, k < 16 → ∀ d ∈ (s.withTable n).dirty, d.layer ≠ k := by
      rintro rfl k hk
      rw [s.withTable_dirty 1]
      exact State.holdLayers_one_dirty _ k hk
    have hdirty : n ≠ 1 → (s.withTable n).dirty = s.dirty := fun h1 => (s.withTable_dirty n).trans (State.holdLayers_dirty _ n h1)
    generalize s.withTable n = u at *
    refine ⟨_, ht, htable, htableNext, fun _ => hchanges, hhbm, hblocks, hhot, ?_, ?_, ?_⟩
    · rintro rfl k hk
      exact ⟨hlayer k hk, hheld rfl k hk⟩
    · rintro rfl
      exact ⟨hdirty Nat.zero_ne_one, hlayer⟩
    · rintro rfl
      exact ⟨hdirty (by decide), hlayer⟩
  · intro k hmode hstage h1 h5
    exact ⟨_, startStepTimeout_happens hp hmode hstage h1 h5, rfl, rfl, rfl, rfl, rfl⟩
  · exact ⟨_, event_due hp rfl, rfl, ⟨rfl, rfl, rfl, rfl, rfl, rfl, rfl, rfl, rfl⟩, ⟨rfl, rfl, rfl⟩, rfl⟩
  · exact fun i v h2 hrate => hbmtRefresh_hot hp i h2 hrate
  · intro i v hi hd hrate hhot
    obtain ⟨t, ht, hhbmt, hhbm⟩ := hbmtRefresh_happens hp hi hd hrate hhot
    refine ⟨t, ht, fun j => ?_, hhbm⟩
    rw [hhbmt, fget_fset]
    exact if_congr eq_comm rfl rfl
  · intro c hc hok hbanks
    obtain ⟨u, hum, hown, ht, hrepair⟩ := fullstart_happens hp hc hok hbanks
    obtain ⟨hmode, _, hattempt, _, _, h2⟩ := u.start_full rfl hown (by rw [hum]; exact Nat.succ_pos 2)
    exact ⟨_, ht, hmode, hattempt, h2, hrepair, rfl, rfl, rfl⟩

end Sys2Proof.Proofs.DeviceRules

/-! PROOFS. Numbers: exact accumulators (O8, O9, O10), matrix readouts (O34), the dot product in residues (O35). -/

namespace Sys2Proof.Machine

/-! ### Values in units of 2^-2148 (R81, R82) -/

/-- The value `v.1 * 2 ^ v.2` in units of 2^-2148. -/
def exactUnits (v : Int × Int) : Int := v.1 * 2 ^ (v.2 + 2148).toNat

theorem longUnits_eq {e : Int} (i : Int) (he : -2148 ≤ e) : longUnits i e = exactUnits (i, e) := by
  rw [longUnits, if_pos (by omega)]
  rfl

theorem two_pow_lowBit_dvd (fuel n : Nat) : 2 ^ lowBit fuel n ∣ n := by
  induction fuel generalizing n with
  | zero => exact one_dvd n
  | succ fuel ih =>
    rw [lowBit]
    split
    · exact one_dvd n
    · rw [pow_succ']
      exact (Nat.mul_dvd_mul_left 2 (ih (n / 2))).trans (dvd_of_eq (by omega))

/-- The units of a value do not change with its exponent: `2 ^ (e - a)` goes into the integer. -/
theorem exactUnits_shift {a e : Int} (i : Int) (ha : -2148 ≤ a) (h : a ≤ e) : exactUnits (i * 2 ^ (e - a).toNat, a) = exactUnits (i, e) := by
  simp only [exactUnits]
  rw [mul_assoc, ← pow_add]
  congr 2
  omega

/-- A short accumulator that stays short holds the sum exactly: the term has no set bit below the anchor. -/
theorem shortSum_exact {a int i e v : Int} (ha : -2148 ≤ a) (he : -2148 ≤ e) (h : shortSum a int i e = some v) :
    exactUnits (v, a) = exactUnits (int, a) + exactUnits (i, e) := by
  have hadd (t : Int) : exactUnits (int + t, a) = exactUnits (int, a) + exactUnits (t, a) := add_mul _ _ _
  simp only [shortSum, Option.ite_none_right_eq_some] at h
  obtain ⟨⟨hlo, -⟩, -, hv⟩ := h
  rw [← Option.some.inj hv, hadd]
  congr 1
  split
  · next hae => exact exactUnits_shift i ha hae
  · next hae =>
    have hdvd : (2 : Int) ^ (a - e).toNat ∣ i := by
      rw [← Int.dvd_natAbs]
      exact_mod_cast (pow_dvd_pow 2 (by omega)).trans (two_pow_lowBit_dvd (bitLen i.natAbs) i.natAbs)
    rw [← exactUnits_shift _ he (by omega : e ≤ a), Int.ediv_mul_cancel hdvd]

/-- The anchor at which R82 first tries to keep a short accumulator: its own, or that of its first term. -/
def Xa.anchorFor (x : Xa) (i e : Int) : Option Int :=
  match x.anchor with
  | some a => some a
  | none =>
    if -2047 ≤ e + lowBit (bitLen i.natAbs) i.natAbs - 40 ∧ e + lowBit (bitLen i.natAbs) i.natAbs - 40 ≤ 2047
    then some (e + lowBit (bitLen i.natAbs) i.natAbs - 40) else none

/-- What a short accumulator holds when it becomes long, as a long integer. -/
def Xa.longAt (x : Xa) (anchor : Option Int) : Int := match anchor with | some a => longUnits x.int a | none => 0

/-- Is the anchor at least 2^-2148, and INT 0 without one? -/
def Xa.Anchored (x : Xa) : Prop := (∀ a, x.anchor = some a → -2148 ≤ a) ∧ (x.anchor = none → x.int = 0)

theorem Xa.anchorFor_ge {x : Xa} (h : x.Anchored) {i e a : Int} (ha : x.anchorFor i e = some a) : -2148 ≤ a := by
  unfold Xa.anchorFor at ha
  split at ha
  · next hx => exact h.1 a (hx.trans ha)
  · split at ha
    · cases ha; omega
    · cases ha

/-- A short accumulator's value, read at the anchor at which a term is tried. -/
theorem Xa.exactUnits_short {slots : FMap LongRec} {x : Xa} (h : x.Anchored) (hl : x.long = none) {i e : Int} :
    exactUnits (xaValue slots x) = x.longAt (x.anchorFor i e)
    ∧ ∀ a, x.anchorFor i e = some a → exactUnits (xaValue slots x) = exactUnits (x.int, a) := by
  have hzero (a : Int) : exactUnits (0, a) = 0 := zero_mul _
  have hval : ∀ a, x.anchorFor i e = some a → exactUnits (xaValue slots x) = exactUnits (x.int, a) := by
    intro a ha
    simp only [xaValue, hl]
    cases hx : x.anchor with
    | some b => simp only [Xa.anchorFor, hx] at ha; cases ha; rfl
    | none => rw [h.2 hx]; exact (hzero 0).trans (hzero a).symm
  refine ⟨?_, hval⟩
  cases ha : x.anchorFor i e with
  | some a => exact (hval a ha).trans (longUnits_eq x.int (x.anchorFor_ge h ha)).symm
  | none =>
    have hx : x.anchor = none := by
      cases hx : x.anchor with
      | some b => simp [Xa.anchorFor, hx] at ha
      | none => rfl
    simp only [xaValue, hl, hx]
    exact hzero 0

/-- A result under a check that has passed. -/
theorem eq_of_ite_error_eq_ok {ε α : Type} {c : Prop} [Decidable c] {a b : α} {r : ε} (h : (if c then .ok a else .error r) = Except.ok b) :
    c ∧ a = b := by
  split at h
  · next hc => exact ⟨hc, Except.ok.inj h⟩
  · cases h

/-- How a finite nonzero term is added (R82): to a long accumulator; to a short one that stays short; to a short one that takes a slot. -/
theorem addFinTerm_cases {xext : Nat} {slots slots' : FMap LongRec} {x x' : Xa} {i e : Int} {w : Bool}
    (h : addFinTerm xext slots x i e = .ok (x', slots', w)) :
    (∃ k, x.long = some k ∧ x' = x ∧ slots' = finsert k ⟨(fget ⟨0⟩ slots k).val + longUnits i e⟩ slots ∧ w = false)
    ∨ (∃ a v, x.long = none ∧ x.anchorFor i e = some a ∧ shortSum a x.int i e = some v ∧ x' = { x with anchor := some a, int := v }
        ∧ slots' = slots ∧ w = false)
    ∨ (∃ k, x.long = none ∧ x' = { x with long := some k, anchor := none, int := 0 }
        ∧ slots' = finsert k ⟨x.longAt (x.anchorFor i e) + longUnits i e⟩ slots ∧ w = true) := by
  unfold addFinTerm at h
  split at h
  · next k hk =>
    obtain ⟨-, h⟩ := eq_of_ite_error_eq_ok h
    cases h
    exact .inl ⟨k, hk, rfl, rfl, rfl⟩
  · next hl =>
    dsimp only at h
    split at h
    · next v hv =>
      obtain ⟨a, ha, hs⟩ := Option.bind_eq_some_iff.mp hv
      have ha : x.anchorFor i e = some a := ha
      cases h
      exact .inr (.inl ⟨a, v, hl, ha, hs, by rw [← ha]; rfl, rfl, rfl⟩)
    · split at h
      · cases h
      · next k _ =>
        obtain ⟨-, h⟩ := eq_of_ite_error_eq_ok h
        cases h
        exact .inr (.inr ⟨k, hl, rfl, rfl, rfl⟩)

/-- A long accumulator's value is its slot's. -/
theorem exactUnits_long (slots : FMap LongRec) (x : Xa) (k : Nat) (l : Int) (hk : x.long = some k) :
    exactUnits (xaValue (finsert k ⟨l⟩ slots) x) = l := by
  simp [xaValue, hk, fget_finsert, exactUnits]

/-- A finite nonzero term is added exactly. -/
theorem addFinTerm_exact {xext : Nat} {slots slots' : FMap LongRec} {x x' : Xa} {i e : Int} {w : Bool} (he : -2148 ≤ e) (hx : x.Anchored)
    (h : addFinTerm xext slots x i e = .ok (x', slots', w)) :
    exactUnits (xaValue slots' x') = exactUnits (xaValue slots x) + exactUnits (i, e) := by
  rcases addFinTerm_cases h with ⟨k, hk, rfl, rfl, -⟩ | ⟨a, v, hl, ha, hs, rfl, rfl, -⟩ | ⟨k, hl, rfl, rfl, -⟩
  · rw [exactUnits_long _ _ _ _ hk, longUnits_eq i he]
    simp [xaValue, hk, exactUnits]
  · rw [(Xa.exactUnits_short hx hl).2 a ha, ← shortSum_exact (x.anchorFor_ge hx ha) he hs]
    simp [xaValue, hl]
  · rw [exactUnits_long _ _ _ _ rfl, (Xa.exactUnits_short hx hl (i := i) (e := e)).1, longUnits_eq i he]

/-- A slot is taken exactly when the accumulator becomes long, and no slot but the accumulator's own changes. -/
theorem addFinTerm_slots {xext : Nat} {slots slots' : FMap LongRec} {x x' : Xa} {i e : Int} {w : Bool}
    (h : addFinTerm xext slots x i e = .ok (x', slots', w)) :
    (w = true ↔ x.long = none ∧ x'.long ≠ none) ∧ (∀ k, x'.long ≠ some k → fget ⟨0⟩ slots' k = fget ⟨0⟩ slots k)
    ∧ (x'.nan = x.nan ∧ x'.pinf = x.pinf ∧ x'.ninf = x.ninf) := by
  have hother (k : Nat) (r : LongRec) (j : Nat) (hj : some k ≠ some j) : fget ⟨0⟩ (finsert k r slots) j = fget ⟨0⟩ slots j := by
    rw [fget_finsert, if_neg (fun h => hj (congrArg some h))]
  rcases addFinTerm_cases h with ⟨k, hk, rfl, rfl, rfl⟩ | ⟨a, v, hl, -, -, rfl, rfl, rfl⟩ | ⟨k, hl, rfl, rfl, rfl⟩
  · exact ⟨by simp [hk], fun j hj => hother k _ j (hk ▸ hj), rfl, rfl, rfl⟩
  · exact ⟨by simp [hl], fun _ _ => rfl, rfl, rfl, rfl⟩
  · exact ⟨by simp [hl], fun j hj => hother k _ j hj, rfl, rfl, rfl⟩

/-! ### Residue channels (R68, R69) -/

/-- A channel of a K-block: the sum of the products of the residues, modulo `m`. -/
def residueChannel (m : Int) (ab : List (Int × Int)) : Int := ab.foldl (fun acc p => (acc + p.1 % m * (p.2 % m)) % m) 0

/-- The exact dot product of a K-block. -/
def exactDot (ab : List (Int × Int)) : Int := (ab.map (fun e => e.1 * e.2)).sum

/-- A channel holds the dot product's residue. -/
theorem residueChannel_eq (m : Int) (ab : List (Int × Int)) : residueChannel m ab = exactDot ab % m := by
  have hacc (acc : Int) : ab.foldl (fun acc p => (acc + p.1 % m * (p.2 % m)) % m) (acc % m) = (acc + exactDot ab) % m := by
    induction ab generalizing acc with
    | nil => simp [exactDot]
    | cons p ab ih =>
      have hp : (acc % m + p.1 % m * (p.2 % m)) % m = (acc + p.1 * p.2) % m := by simp [Int.add_emod, Int.mul_emod]
      rw [List.foldl_cons, hp, ih, exactDot, exactDot, List.map_cons, List.sum_cons, add_assoc]
  simpa [residueChannel] using hacc 0

/-- The codes' products bound the dot product of a K-block. -/
theorem exactDot_bounds (ab : List (Int × Int)) (h : ∀ e ∈ ab, -127 ≤ e.1 ∧ e.1 ≤ 127 ∧ -127 ≤ e.2 ∧ e.2 ≤ 127) :
    |exactDot ab| ≤ ab.length * 16129 := by
  induction ab with
  | nil => simp [exactDot]
  | cons p ab ih =>
    obtain ⟨h1, h2, h3, h4⟩ := h p List.mem_cons_self
    have hp : |p.1 * p.2| ≤ 127 * 127 := by
      rw [abs_mul]
      exact mul_le_mul (abs_le.mpr ⟨h1, h2⟩) (abs_le.mpr ⟨h3, h4⟩) (abs_nonneg _) (by norm_num)
    have hab := ih (fun e he => h e (List.mem_cons_of_mem p he))
    rw [exactDot, List.map_cons, List.sum_cons, List.length_cons]
    refine (abs_add_le _ _).trans ?_
    rw [← exactDot]
    push_cast
    linarith

/-- The reconstruction of R69 from the three channels, modulo 127 * 128 * 129. -/
def reconstructed (a b c : Int) : Int := (a * 1056768 + b * 2080641 + c * 1056640) % 2097024

/-- The residues of a number reconstruct it. -/
theorem reconstructed_residues (i : Int) : reconstructed (i % 127) (i % 128) (i % 129) = i % 2097024 := by
  unfold reconstructed
  omega

/-- A number modulo 127 * 128 * 129 as a signed number (R69). -/
def centred (p : Int) : Int := if 1048512 ≤ p then p - 2097024 else p

theorem centred_emod {i : Int} (h : |i| < 1048512) : centred (i % 2097024) = i := by
  obtain ⟨hlo, hhi⟩ := abs_lt.mp h
  unfold centred
  split <;> omega

/-- The value of a K-block is reconstructed from the residues of the dot product. -/
theorem rqDot_eq (ab : List (Int × Int)) :
    rqDot ab = centred (reconstructed (exactDot ab % 127) (exactDot ab % 128) (exactDot ab % 129)) := by
  rw [← residueChannel_eq 127, ← residueChannel_eq 128, ← residueChannel_eq 129]
  rfl

/-! ### Accumulators in x registers (R80, R83, R199) -/

theorem Group.xreg_setX (g : Group) {i d : Nat} (hi : i < 4) (hd : d < 4) (p q : Nat) (v : Xa) :
    (g.setX d q v).xreg i p = if i = d ∧ p = q then v else g.xreg i p := by
  simp only [Group.xreg, Group.setX, fget_fset]
  exact if_congr (by omega) rfl rfl

theorem Group.xreg_clearX (g : Group) {i d : Nat} (hi : i < 4) (hd : d < 4) (p q : Nat) :
    (g.clearX d q).xreg i p = if i = d ∧ p = q then Xa.reset else g.xreg i p := g.xreg_setX hi hd p q Xa.reset

/-- A group with other x registers, slots and flags, in which every x register but `d` at the positions `ps` is as it was. -/
def Group.XChanged (d : Nat) (ps : List Nat) (g h : Group) : Prop :=
  (∃ xs sl fl, h = { g with x := xs, slots := sl, fstat := fl }) ∧ ∀ i p, i < 4 → (i ≠ d ∨ p ∉ ps) → h.xreg i p = g.xreg i p

namespace Group.XChanged

variable {d : Nat} {ps qs : List Nat} {g h k : Group}

theorem refl (d : Nat) (g : Group) : XChanged d [] g g := ⟨⟨g.x, g.slots, g.fstat, rfl⟩, fun _ _ _ _ => rfl⟩

theorem trans (a : XChanged d ps g h) (b : XChanged d qs h k) : XChanged d (ps ++ qs) g k := by
  obtain ⟨⟨xs, sl, fl, rfl⟩, ha⟩ := a
  obtain ⟨⟨xs', sl', fl', rfl⟩, hb⟩ := b
  refine ⟨⟨xs', sl', fl', rfl⟩, fun i p hi hp => (hb i p hi ?_).trans (ha i p hi ?_)⟩
  · exact hp.imp_right (fun h hq => h (List.mem_append_right ps hq))
  · exact hp.imp_right (fun h hq => h (List.mem_append_left qs hq))

theorem gid (a : XChanged d ps g h) : h.gid = g.gid := by obtain ⟨⟨xs, sl, fl, rfl⟩, -⟩ := a; rfl
theorem paths (a : XChanged d ps g h) : h.paths = g.paths := by obtain ⟨⟨xs, sl, fl, rfl⟩, -⟩ := a; rfl

theorem raiseFlags (a : XChanged d ps g h) (e : Nat) (f : Half) : XChanged d ps g (h.raiseFlags e f) := by
  obtain ⟨⟨xs, sl, fl, rfl⟩, ha⟩ := a
  exact ⟨⟨xs, sl, _, rfl⟩, ha⟩

theorem setX (hd : d < 4) (g : Group) (q : Nat) (v : Xa) (sl : FMap LongRec) : XChanged d [q] g { g.setX d q v with slots := sl } := by
  refine ⟨⟨_, sl, g.fstat, rfl⟩, fun i p hi hp => (g.xreg_setX hi hd p q v).trans (if_neg ?_)⟩
  rintro ⟨rfl, rfl⟩
  exact hp.elim (absurd rfl) (fun h => h List.mem_cons_self)

theorem clearX (hd : d < 4) (g : Group) (q : Nat) : XChanged d [q] g (g.clearX d q) := setX hd g q _ _

theorem putX (hd : d < 4) (g : Group) (q : Nat) (r : Xa × FMap LongRec × Bool) : XChanged d [q] g (g.putX d q r) := by
  unfold Group.putX
  dsimp only
  split
  · exact (setX hd g q r.1 r.2.1).raiseFlags _ _
  · exact setX hd g q r.1 r.2.1

theorem addX (hd : d < 4) {q : Nat} {ts : List Term} {fl : Half} (h : g.addX d q ts fl = .ok k) : XChanged d [q] g k := by
  unfold Group.addX at h
  split at h
  · cases h
  · cases h
    exact (putX hd g q _).raiseFlags _ _

/-- A change of one position at a time, at each of a list. -/
theorem foldl {f : Group → Nat → Group} (hf : ∀ g q, XChanged d [q] g (f g q)) (ps : List Nat) (g : Group) : XChanged d ps g (ps.foldl f g) := by
  induction ps generalizing g with
  | nil => exact refl d g
  | cons q ps ih => exact (hf g q).trans (ih (f g q))

theorem overPositions {f : Group → Nat → Except XaErr Group} (hf : ∀ g q k, f g q = .ok k → XChanged d [q] g k) {a : Nat} (ps : List Nat)
    (g : Group) (h : Machine.overPositions a f ps g = .ok k) : XChanged d ps g k := by
  induction ps generalizing g with
  | nil => cases h; exact refl d _
  | cons q ps ih =>
    rw [Machine.overPositions] at h
    split at h
    · cases h
    · next k' hk => exact (hf g q k' hk).trans (ih k' h)

/-- Registers of positions that execute or that ZERO clears are those that a word of accumulator `d` may change. -/
theorem leaves {x : Ix} (a : XChanged d (positions x.g.n x.off ++ positions x.g.n x.act) x.g h) (ts : List Path) (q : FMap Stream) :
    XLeaves x d { h with paths := ts, q := q } := by
  obtain ⟨⟨xs, sl, fl, rfl⟩, ha⟩ := a
  refine ⟨⟨xs, sl, fl, q, ts, rfl⟩, fun i p hi hp => ha i p hi (hp.imp_right ?_)⟩
  rintro ⟨hact, hoff⟩ hmem
  simp [mem_positions, hact, hoff] at hmem

end Group.XChanged

/-- Registers set one after another read what was set. -/
theorem Group.xreg_foldl {d i : Nat} {f : Group → Nat → Group} {v : Nat → Xa}
    (hf : ∀ g q p, (f g q).xreg i p = if i = d ∧ p = q then v q else g.xreg i p) (ps : List Nat) (g : Group) (p : Nat) :
    (ps.foldl f g).xreg i p = if i = d ∧ p ∈ ps then v p else g.xreg i p := by
  induction ps generalizing g with
  | nil => simp
  | cons q ps ih =>
    rw [List.foldl_cons, ih, hf]
    by_cases hd : i = d
    · by_cases hq : p = q
      · subst hq; simp [hd]
      · simp [hd, hq]
    · simp [hd]

theorem overPositions_ok (a : Nat) (f : Group → Nat → Group) (ps : List Nat) (g : Group) :
    overPositions a (fun g p => .ok (f g p)) ps g = .ok (ps.foldl f g) := by
  induction ps generalizing g with
  | nil => rfl
  | cons q ps ih => rw [overPositions]; exact ih (f g q)

/-- The only fault of a word on accumulators is XA-overflow (R83). -/
theorem overPositions_error_code {a : Nat} {f : Group → Nat → Except XaErr Group} {e : FaultInfo} (ps : List Nat) (g : Group)
    (h : overPositions a f ps g = .error e) : e.code = 0x17 := by
  induction ps generalizing g with
  | nil => cases h
  | cons q ps ih =>
    rw [overPositions] at h
    split at h
    · cases h; rfl
    · next k _ => exact ih k h

/-! ### Vector words that replace their group, or fault -/

/-- Putting a group back is a change of it alone. -/
theorem State.setGroup_eq_onGroup (s : State) (G : Group) : s.setGroup G = s.onGroup G.gid (fun g => { G with gid := g.gid }) := by
  unfold State.setGroup State.onGroup
  rw [updWhere_eq_map, updWhere_eq_map]
  congr 1
  refine List.map_congr_left (fun g _ => ?_)
  split
  · next h => rw [beq_iff_eq.mp h]
  · rfl

/-- What a completed vector word that puts the group `G` back leaves: `G`, but for paths and streams. -/
theorem vec_completes_setGroup {s : State} {x : Ix} {o : VOp} {P : Group → Prop} (hi : Issues s x) (hr : VecReady s x o) {G : Group}
    (hgid : G.gid = x.g.gid) (hpaths : G.paths = x.g.paths) (hP : ∀ ps q, P { G with paths := ps, q := q })
    (f : State → Ix → VVals → Except FaultInfo State)
    (hf : ∀ n, f { Read s x o with free := n } x (opVals s x o) = .ok (({ Read s x o with free := n } : State).setGroup G)) :
    Completes (.next (s.finish x (s.vecWord x o f))) x (fun t g => Kept (Read s x o) t x.g.gid ∧ P g) := by
  refine vec_completes hi hr (fun g => { G with gid := g.gid }) (fun _ => rfl) hpaths (fun ps q => ?_) f (fun n => ?_)
  · have h := hP ps q
    rwa [← hgid]
  · rw [hf n, State.setGroup_eq_onGroup, hgid]

/-- What a faulting word leaves of its group: everything but capsule state and paths; it keeps the fault and is stopped (R346, R348). -/
theorem trap_group {s t : State} {x : Ix} {f : FaultInfo} {g : Group} (hs : s.issuer = some x)
    (ht : Host.Outcome.next (s.finish x (.trap f)) = (.next t : Host.Outcome State Fault Refusal)) (hg : t.group x.g.gid = some g) :
    ∃ c, g.sameBut { x.g with cap := c, fault := some { f with faddr := if f.faddr = 0 then x.addr else f.faddr }, stopped := true } := by
  obtain ⟨_, h2, h3, _, _, _⟩ := State.issuer_spec hs
  have h2' : (s.reportPois x.g.vf x.g.gid.toNat f).group x.g.gid = some x.g :=
    (State.group_congr (State.reportPois_groups s x.g.vf x.g.gid.toNat f) x.g.gid).trans h2
  obtain ⟨⟨c, hc⟩, -⟩ := State.takeFault_spec _ { f with faddr := if f.faddr = 0 then x.addr else f.faddr } h2'
  obtain ⟨k, u, hk, hbut, _⟩ := State.endLeg_group _ x.p x.g.gid x.path.id .none hc (t := x.path) h3
  cases ht
  cases hk.symm.trans hg
  exact ⟨c, hbut⟩

/-- A vector word whose function fails faults, and leaves its group as a fault does. -/
theorem vec_faults {s : State} {x : Ix} {o : VOp} (hi : Issues s x) (hr : VecReady s x o) {e : FaultInfo}
    (f : State → Ix → VVals → Except FaultInfo State) (hf : ∀ n, f { Read s x o with free := n } x (opVals s x o) = .error e) :
    FaultsWith (.next (s.finish x (s.vecWord x o f))) x e
    ∧ ∀ t g, Host.Outcome.next (s.finish x (s.vecWord x o f)) = (.next t : Host.Outcome State Fault Refusal) → t.group x.g.gid = some g →
      ∃ c, g.sameBut { x.g with cap := c, fault := some { e with faddr := if e.faddr = 0 then x.addr else e.faddr }, stopped := true } := by
  obtain ⟨_, _, _, _, hmiss, _⟩ := State.issuer_spec hi.2.1
  obtain ⟨n, hv⟩ := vecWord_ready hmiss hr f
  rw [hv, hf n]
  exact ⟨trap_faults hi.2.1 e, fun t g ht hg => trap_group hi.2.1 ht hg⟩

/-- A word that consumes no stream marks no page. -/
theorem Read_of_no_sources (s : State) (x : Ix) (o : VOp) (h : o.vs = []) : Read s x o = s := by
  have hneed : s.elemNeeds x o = { fault := none, misses := [], absent := [], read := [] } := by
    have hc : x.consumed o = [] := by rw [Ix.consumed, h]; rfl
    unfold State.elemNeeds
    simp only [hc, List.foldl_nil]
    exact List.foldl_fixed _
  rw [Read, hneed]
  rfl

/-! ### Words that add to, merge or clear accumulators (R199, R201) -/

/-- What a word of shape `v` on the accumulators `d` reads. -/
def accOp (x : Ix) (v : V3) (acc : Accept) (cost : Cost) : VOp := { v.op x true acc false cost with vd := [] }

/-- The group in which the accumulators `d` of the positions that ZERO clears are reset. -/
def Ix.cleared (x : Ix) (d : Nat) : Group := (positions x.g.n x.off).foldl (fun g p => g.clearX d p) x.g

/-- The word `w` works through its positions by `step`: all of them, or XA-overflow and nothing. -/
def AccRuns (w : Instr) (v : V3) (acc : Accept) (cost : Cost) (d : Nat) (step : VVals → Group → Nat → Except XaErr Group) : Prop :=
  ∀ s x, Issues s x → VecReady s x (accOp x v acc cost) →
    (∀ G, overPositions d (step (opVals s x (accOp x v acc cost))) (positions x.g.n x.act) (x.cleared d) = .ok G →
      Completes (exec w s) x (fun t g => Kept (Read s x (accOp x v acc cost)) t x.g.gid ∧ XLeaves x d g
        ∧ g.x = G.x ∧ g.slots = G.slots ∧ g.fstat = G.fstat))
    ∧ (∀ e, overPositions d (step (opVals s x (accOp x v acc cost))) (positions x.g.n x.act) (x.cleared d) = .error e →
      FaultsWith (exec w s) x e ∧ e.code = 0x17 ∧ ∀ t g, exec w s = .next t → t.group x.g.gid = some g → g.x = x.g.x ∧ g.slots = x.g.slots)

theorem accRuns_of_xWord {w : Instr} {v : V3} {d : Nat} {wide readsX : Bool} {step : VVals → Group → Nat → Except XaErr Group} (hd : d < 4)
    (hw : ∀ s, exec w s = s.xWord v true false (some d) [] wide readsX (fun _ => step))
    (hstep : ∀ vals g q k, step vals g q = .ok k → Group.XChanged d [q] g k) :
    AccRuns w v (Accept.vec (v.hasA || readsX) v.hasB) (Cost.fp false wide) d step := by
  intro s x hi hr
  rw [hw, State.xWord, word_run hi]
  refine ⟨fun G hG => ?_, fun e he => ?_⟩
  · have hchanged : Group.XChanged d (positions x.g.n x.off ++ positions x.g.n x.act) x.g G :=
      (Group.XChanged.foldl (Group.XChanged.clearX hd) _ x.g).trans (Group.XChanged.overPositions (hstep _) _ _ hG)
    refine vec_completes_setGroup hi hr hchanged.gid hchanged.paths (fun ps q => ⟨hchanged.leaves ps q, rfl, rfl, rfl⟩) _ (fun n => ?_)
    show (match overPositions d _ _ (x.cleared d) with | .error e => _ | .ok g => _) = _
    rw [hG]
  · refine And.imp_right (fun hkept => ⟨overPositions_error_code _ _ he, fun t g ht hg => ?_⟩) (vec_faults hi hr (e := e) _ (fun n => ?_))
    · obtain ⟨c, hbut⟩ := hkept t g ht hg
      rw [hbut]
      exact ⟨rfl, rfl⟩
    · show (match overPositions d _ _ (x.cleared d) with | .error e => _ | .ok g => _) = _
      rw [he]

section
variable (d a : BitVec 2) (va vb : BitVec 7) (f : BitVec 3)

theorem xadd_runs (hf : f.toNat ≤ 5) :
    AccRuns (.xadd d va f) (xSrc va.toNat 0 (f.toNat == 1 || decide (4 ≤ f.toNat)) true false) (Accept.vec true false) (Cost.fp false (f == 1))
      d.toNat (fun vals g p => g.addX d.toNat p [(xTerm f.toNat (vals.at' 0 p)).1] (xTerm f.toNat (vals.at' 0 p)).2) :=
  accRuns_of_xWord (readsX := false) d.isLt
    (fun s => by show execXadd d va f s = _; rw [execXadd, decide_eq_true hf]) (fun _ _ _ _ h => Group.XChanged.addX d.isLt h)

theorem xsub_runs (hf : f.toNat ≤ 5) :
    AccRuns (.xsub d va f) (xSrc va.toNat 0 (f.toNat == 1 || decide (4 ≤ f.toNat)) true false) (Accept.vec true false) (Cost.fp false (f == 1))
      d.toNat (fun vals g p => g.addX d.toNat p [negTerm (xTerm f.toNat (vals.at' 0 p)).1] (xTerm f.toNat (vals.at' 0 p)).2) :=
  accRuns_of_xWord (readsX := false) d.isLt
    (fun s => by show execXsub d va f s = _; rw [execXsub, decide_eq_true hf]) (fun _ _ _ _ h => Group.XChanged.addX d.isLt h)

theorem xfma_runs (hf : f.toNat ≤ 5) :
    AccRuns (.xfma d va vb f) (xSrc va.toNat vb.toNat (f.toNat == 1) true true) (Accept.vec true true) (Cost.fp false (f == 1)) d.toNat
      (fun vals g p => g.addX d.toNat p (xProds f.toNat (vals.at' 0 p) (vals.at' 1 p)).1 (xProds f.toNat (vals.at' 0 p) (vals.at' 1 p)).2) :=
  accRuns_of_xWord (readsX := false) d.isLt
    (fun s => by show execXfma d va vb f s = _; rw [execXfma, decide_eq_true hf]) (fun _ _ _ _ h => Group.XChanged.addX d.isLt h)

theorem xmrg_runs :
    AccRuns (.xmrg d a) (xSrc 0 0 false false false) (Accept.vec true false) (Cost.fp false false) d.toNat
      (fun _ g p => (mergeXa g.xext g.slots (g.xreg d.toNat p) (g.xreg a.toNat p)).map (g.putX d.toNat p)) := by
  refine accRuns_of_xWord (readsX := true) d.isLt (fun s => ?_) (fun _ g q k h => ?_)
  · show execXmrg d a s = _
    unfold execXmrg
    congr
    funext _ _ g p
    cases mergeXa g.xext g.slots (g.xreg d.toNat p) (g.xreg a.toNat p) <;> rfl
  · cases hm : mergeXa g.xext g.slots (g.xreg d.toNat q) (g.xreg a.toNat q) with
    | error e => rw [hm] at h; cases h
    | ok r => rw [hm] at h; cases h; exact Group.XChanged.putX d.isLt g q r

/-- XCLR works like the others, by a step that cannot fail. -/
theorem xclr_runs :
    AccRuns (.xclr d) (xSrc 0 0 false false false) (Accept.vec false false) (Cost.fp false false) d.toNat (fun _ g p => .ok (g.clearX d.toNat p)) :=
  accRuns_of_xWord (readsX := false) d.isLt (fun _ => rfl) (fun _ g q k h => by cases h; exact Group.XChanged.clearX d.isLt g q)

theorem xclr_resets {s : State} {x : Ix} (hi : Issues s x)
    (hr : VecReady s x (accOp x (xSrc 0 0 false false false) (Accept.vec false false) (Cost.fp false false))) :
    Completes (exec (.xclr d) s) x (fun t g => Kept s t x.g.gid ∧ XLeaves x d.toNat g
      ∧ ∀ p, p < x.g.n → has x.act p = true → g.xreg d.toNat p = Xa.reset) := by
  obtain ⟨t, g, path, ht, hg, hpath, hpast, hkept, hleaves, hx, -⟩ := (xclr_runs d s x hi hr).1 _ (overPositions_ok _ _ _ _)
  rw [Read_of_no_sources _ _ _ rfl] at hkept
  refine ⟨t, g, path, ht, hg, hpath, hpast, hkept, hleaves, fun p hp hact => ?_⟩
  have hG := Group.xreg_foldl (v := fun _ => Xa.reset) (fun g q p => g.xreg_clearX d.isLt d.isLt p q) (positions x.g.n x.act)
    (x.cleared d.toNat) p
  rw [if_pos ⟨rfl, (mem_positions _ _ _).mpr ⟨hp, hact⟩⟩] at hG
  rw [← hG]
  unfold Group.xreg
  rw [hx]

end

/-! ### Words that write several registers (R178, R199, R200, R275) -/

/-- Register `i` of a result of several registers: its 32 bits, with the flags of the whole. -/
def wordOf (r : Nat → Nat × Half) (i p : Nat) : Nat × Half := ((r p).1 / 2 ^ (32 * i) % 2 ^ 32, (r p).2)

/-- The results `r`, written to `n` registers from `d` on. -/
def Ix.writeWords (x : Ix) (d n : Nat) (r : Nat → Nat × Half) (g : Group) : Group :=
  (List.range n).foldl (fun g i => x.writeResult false false (d + i) (wordOf r i) g) g

section
variable (x : Ix) (d n : Nat) (r : Nat → Nat × Half) (g : Group)

theorem Ix.writeWords_succ : x.writeWords d (n + 1) r g = x.writeResult false false (d + n) (wordOf r n) (x.writeWords d n r g) := by
  rw [Ix.writeWords, List.range_succ, List.foldl_append]
  rfl

theorem Ix.writeWords_regs : (x.writeWords d n r g).RegsOf g := by
  induction n with
  | zero => exact g.regsOf_refl
  | succ n ih => rw [Ix.writeWords_succ]; exact Group.regsOf_trans (writeResult_regs _ _ _ _ _ _) ih

/-- Registers that are none of those written are as before. -/
theorem Ix.writeWords_other {q p : Nat} (hp : p < g.n) (hq : q < d ∨ d + n ≤ q) : (x.writeWords d n r g).v1 q p = g.v1 q p := by
  induction n with
  | zero => rfl
  | succ n ih =>
    rw [Ix.writeWords_succ, writeResult_other _ _ _ _ _ _ _ _ (by rwa [(x.writeWords_regs d n r g).n]) (by omega) (by simp)]
    exact ih (by omega)

/-- A register written holds its 32 bits of the result where the position is active, zero where ZERO clears it, else what it held. -/
theorem Ix.writeWords_val {i p : Nat} (hp : p < g.n) (hi : i < n) :
    ((x.writeWords d n r g).v1 (d + i) p).toNat
      = if has x.act p then (r p).1 / 2 ^ (32 * i) % 2 ^ 32 else if has x.off p then 0 else (g.v1 (d + i) p).toNat := by
  induction n with
  | zero => omega
  | succ n ih =>
    have hn : p < (x.writeWords d n r g).n := by rwa [(x.writeWords_regs d n r g).n]
    rw [Ix.writeWords_succ]
    by_cases h : i = n
    · subst h
      have hval := writeResult_val x false false (d + i) (wordOf r i) (x.writeWords d i r g) p hn
      simp only [Group.vval, Bool.false_eq_true, if_false, Nat.add_zero, x.writeWords_other d i r g hp (.inr (le_refl _))] at hval
      rw [hval, wordOf, Nat.mod_mod]
    · rw [writeResult_other _ _ _ _ _ _ _ _ hn (by omega) (by simp)]
      exact ih (by omega)

theorem flagsOf_congr {r r' : Nat → Nat × Half} (h : ∀ p, (r p).2 = (r' p).2) (e : Nat) (ps : List Nat) : flagsOf x r e ps = flagsOf x r' e ps := by
  induction ps with
  | nil => rfl
  | cons p ps ih => rw [flagsOf, flagsOf, h, ih]

/-- The flags of the result are raised, however many registers are written. -/
theorem Ix.writeWords_flags (hn : 0 < n) (e : Nat) :
    (x.writeWords d n r x.g).flags e = x.g.flags e ||| flagsOf x r e (positions x.g.n x.act) := by
  have hsucc (m : Nat) : (x.writeWords d (m + 1) r x.g).flags e
      = (x.writeWords d m r x.g).flags e ||| flagsOf x r e (positions x.g.n x.act) := by
    have hregs := x.writeWords_regs d m r x.g
    rw [Ix.writeWords_succ, writeResult_flags _ _ _ _ _ _ hregs.w hregs.n, flagsOf_congr x (r := wordOf r m) (r' := r) (fun _ => rfl)]
  induction n with
  | zero => omega
  | succ n ih =>
    rw [hsucc]
    cases n with
    | zero => rfl
    | succ n => rw [ih (by omega), BitVec.or_assoc, BitVec.or_self]

end

/-- A group whose registers alone have changed keeps the rest, whatever its streams and paths. -/
theorem Group.RegsOf.kept {g h : Group} (a : h.RegsOf g) (ps : List Path) (q : FMap Stream) : RegsKept g { h with paths := ps, q := q } := by
  obtain ⟨v, e, sh, se, sl, so, fl, rfl⟩ := a
  exact ⟨v, e, sh, se, sl, so, fl, q, ps, rfl⟩

/-- A completed vector word without sources leaves the rest of the state as it was. -/
theorem vec_completes_no_sources {s : State} {x : Ix} {o : VOp} {P : Group → Prop} (hvs : o.vs = []) (hi : Issues s x) (hr : VecReady s x o)
    (F : Group → Group) (hF : ∀ g, (F g).gid = g.gid) (hFp : (F x.g).paths = x.g.paths) (hP : ∀ ps q, P { F x.g with paths := ps, q := q })
    (f : State → Ix → VVals → Except FaultInfo State)
    (hf : ∀ n, f { s with free := n } x (opVals s x o) = .ok (({ s with free := n } : State).onGroup x.g.gid F)) :
    Completes (.next (s.finish x (s.vecWord x o f))) x (fun t g => Kept s t x.g.gid ∧ P g) := by
  have hread := Read_of_no_sources s x o hvs
  have h := vec_completes hi hr F hF hFp hP f (by rwa [hread])
  rwa [hread] at h

/-! ### Readouts and images of accumulators (R85, R199, R200) -/

/-- What a word that writes `n` registers from accumulators reads and writes. -/
def outOp (d n : Nat) (rnd : Bool) : VOp :=
  { acc := { Accept.vec true false with rnd := rnd }, legal := n == 1 || d % 2 == 0, vs := [], vd := (List.range n).map (d + ·),
    cost := Cost.fp false false }

/-- The word `w` writes `n` registers from `d` on with the results `r`, and changes nothing else but flags. -/
def OutRuns (w : Instr) (d n : Nat) (rnd : Bool) (r : Ix → Nat → Nat × Half) : Prop :=
  ∀ s x, Issues s x → VecReady s x (outOp d n rnd) →
    Completes (exec w s) x (fun t g => Kept s t x.g.gid ∧ RegsKept x.g g
      ∧ (∀ i p, i < n → p < x.g.n → has x.act p = true → (g.v1 (d + i) p).toNat = (r x p).1 / 2 ^ (32 * i) % 2 ^ 32)
      ∧ (∀ q p, p < x.g.n → (q < d ∨ d + n ≤ q) → g.v1 q p = x.g.v1 q p)
      ∧ (∀ e, g.flags e = x.g.flags e ||| flagsOf x (r x) e (positions x.g.n x.act)))

theorem outRuns_of_xOut {w : Instr} {d n : Nat} {rnd : Bool} {r : Ix → Nat → Nat × Half} (hn : 0 < n)
    (hw : ∀ s, exec w s = s.xOut d n true rnd false r) : OutRuns w d n rnd r := by
  intro s x hi hr
  have hregs := x.writeWords_regs d n (r x)
  rw [hw, State.xOut, word_run hi]
  refine vec_completes_no_sources rfl hi hr (x.writeWords d n (r x)) (fun g => (hregs g).gid) (hregs x.g).paths
    (fun ps q => ⟨(hregs x.g).kept ps q, fun i p hin hp hact => ?_, fun q p hp hq => ?_, fun e => ?_⟩) _ (fun _ => rfl)
  · exact (x.writeWords_val d n (r x) x.g hp hin).trans (if_pos hact)
  · exact x.writeWords_other d n (r x) x.g hp hq
  · exact x.writeWords_flags d n (r x) hn e

theorem xrd_runs (d : BitVec 7) (a : BitVec 2) (f : BitVec 3) (hf : f.toNat ≤ 5) :
    OutRuns (.xrd d a f) d.toNat (if f.toNat = 1 || 4 ≤ f.toNat then 2 else 1) true
      (fun x p => xRead x.g.slots f.toNat x.mode (x.g.xreg a.toNat p)) :=
  outRuns_of_xOut (by split <;> decide) (fun s => by show execXrd d a f s = _; rw [execXrd, decide_eq_true hf])

theorem xst_runs (d : BitVec 7) (a : BitVec 2) : OutRuns (.xst d a) d.toNat 6 false (fun x p => (xaImage (x.g.xreg a.toNat p), 0)) :=
  outRuns_of_xOut (by decide) (fun _ => rfl)

/-- What XLD reads. -/
def xldOp (d : Nat) : VOp :=
  { acc := Accept.vec true false, legal := d % 2 == 0, vs := (List.range 6).map (fun i => (⟨d + i, if i = 0 then 0 else 4, false⟩ : VSrc)),
    cost := Cost.fp false false }

/-- The image that six registers hold at a position. -/
def VVals.image (vals : VVals) (p : Nat) : Nat := (List.range 6).foldl (fun acc i => acc + vals.at' i p * 2 ^ (32 * i)) 0

/-- The group after XLD: the accumulators of positions that execute or are cleared freed, then those of the images. -/
def Ix.loadImages (x : Ix) (d : Nat) (img : Nat → Nat) : Group :=
  (positions x.g.n x.act).foldl (fun g p => g.setX d p (xaOfImage (img p)))
    ((positions x.g.n (x.off ||| x.act)).foldl (fun g p => g.clearX d p) x.g)

theorem Ix.loadImages_changed (x : Ix) {d : Nat} (hd : d < 4) (img : Nat → Nat) :
    Group.XChanged d (positions x.g.n x.off ++ positions x.g.n x.act) x.g (x.loadImages d img) := by
  obtain ⟨hshape, hkeep⟩ := (Group.XChanged.foldl (Group.XChanged.clearX hd) (positions x.g.n (x.off ||| x.act)) x.g).trans
    (Group.XChanged.foldl (fun g q => Group.XChanged.setX hd g q (xaOfImage (img q)) g.slots) (positions x.g.n x.act) _)
  refine ⟨hshape, fun i p hi hp => hkeep i p hi (hp.imp_right (fun hnot hmem => hnot ?_))⟩
  simp only [List.mem_append, mem_positions, has_or, Bool.or_eq_true] at hmem ⊢
  tauto

theorem Ix.loadImages_xreg (x : Ix) {d p : Nat} (hd : d < 4) (img : Nat → Nat) (hp : p < x.g.n) (hact : has x.act p = true) :
    (x.loadImages d img).xreg d p = xaOfImage (img p) := by
  refine (Group.xreg_foldl (i := d) (v := fun q => xaOfImage (img q)) (fun g q p => g.xreg_setX hd hd p q _) _ _ p).trans (if_pos ?_)
  exact ⟨rfl, (mem_positions _ _ _).mpr ⟨hp, hact⟩⟩

/-- What XLD does with the values of its sources: a fault where an image stands for no short accumulator (R200), else the accumulators. -/
def xldResult (d : Nat) (s : State) (x : Ix) (vals : VVals) : Except FaultInfo State :=
  if (positions x.g.n x.act).any (fun p => !xaImageOk (vals.image p)) then .error (FaultInfo.of 0x12)
  else .ok (s.setGroup (x.loadImages d vals.image))

theorem exec_xld (a : BitVec 2) (d : BitVec 7) (s : State) :
    exec (.xld a d) s = s.word .never (fun s x => s.vecWord x (xldOp d.toNat) (xldResult a.toNat)) := rfl

section
variable (a : BitVec 2) (d : BitVec 7) {s : State} {x : Ix}

/-- XLD of images that stand for short accumulators. -/
theorem xld_completes (hi : Issues s x) (hr : VecReady s x (xldOp d.toNat))
    (hok : ∀ p, p < x.g.n → has x.act p = true → xaImageOk ((opVals s x (xldOp d.toNat)).image p) = true) :
    Completes (exec (.xld a d) s) x (fun t g => Kept (Read s x (xldOp d.toNat)) t x.g.gid ∧ XLeaves x a.toNat g
      ∧ ∀ p, p < x.g.n → has x.act p = true → g.xreg a.toNat p = xaOfImage ((opVals s x (xldOp d.toNat)).image p)) := by
  have hchanged := x.loadImages_changed a.isLt (opVals s x (xldOp d.toNat)).image
  have hall : (positions x.g.n x.act).any (fun p => !xaImageOk ((opVals s x (xldOp d.toNat)).image p)) = false := by
    rw [List.any_eq_false]
    intro p hp
    obtain ⟨hpn, hact⟩ := (mem_positions _ _ _).mp hp
    simp [hok p hpn hact]
  rw [exec_xld, word_run hi]
  refine vec_completes_setGroup hi hr hchanged.gid hchanged.paths
    (fun ps q => ⟨hchanged.leaves ps q, fun p hp hact => x.loadImages_xreg a.isLt _ hp hact⟩) _ (fun n => ?_)
  rw [xldResult, hall]
  rfl

/-- XLD of an image that stands for no short accumulator. -/
theorem xld_faults (hi : Issues s x) (hr : VecReady s x (xldOp d.toNat))
    (hbad : ∃ p, p < x.g.n ∧ has x.act p = true ∧ xaImageOk ((opVals s x (xldOp d.toNat)).image p) = false) :
    FaultsWith (exec (.xld a d) s) x (FaultInfo.of 0x12) := by
  obtain ⟨p, hp, hact, hno⟩ := hbad
  have hany : (positions x.g.n x.act).any (fun p => !xaImageOk ((opVals s x (xldOp d.toNat)).image p)) = true :=
    List.any_eq_true.mpr ⟨p, (mem_positions _ _ _).mpr ⟨hp, hact⟩, by simp [hno]⟩
  rw [exec_xld, word_run hi]
  refine (vec_faults hi hr _ (fun n => ?_)).1
  rw [xldResult, hany]
  rfl

end

/-! ### Words that wait; what a word leaves aside (R37, R166) -/

/-- A word that does not execute leaves its group as it was, its path at it with the wait. -/
theorem wait_waits {s : State} {x : Ix} (hs : s.issuer = some x) (w : Wait) : Waits (.next (s.finish x (.wait s w))) x w := by
  obtain ⟨_, hg, hpath, _, _, _⟩ := State.issuer_spec hs
  have hgroup : (s.enterClause x).group x.g.gid = some (x.g.onPath x.path.id (fun t => { t with entered := t.fetched.isSome })) :=
    State.group_onGroup_same s x.g.gid (fun g => g.onPath x.path.id (fun t => { t with entered := t.fetched.isSome })) (fun _ => rfl) hg
  have hentered := Group.path?_onPath x.g x.path.id (fun t => { t with entered := t.fetched.isSome }) (fun _ => rfl) hpath
  obtain ⟨k, u, hk, hbut, hu, hpc, hwidx, hfetched, hwait⟩ := State.endLeg_group _ x.p x.g.gid x.path.id w hgroup hentered
  exact ⟨_, k, u, rfl, hk, hbut, hu, hwait, hpc, hwidx, hfetched⟩

/-- Completing a word leaves memory and the other groups as its effect left them. -/
theorem aside_finish {s T : State} {x : Ix} (hmem : SameMem s T) (hgroups : ∀ h, h ≠ x.g.gid → T.group h = s.group h) (c : Cost) (w : Option Wait) :
    Aside s ((T.spendCycles x c).retire x w) x.g.gid := by
  obtain ⟨hhbm, hhost, hweights, hblocks⟩ := hmem
  refine ⟨by simp [hhbm], by simp [hhost], by simp [hweights], by simp [hblocks], fun h hh => ?_⟩
  rw [State.retire_other _ x w hh, State.group_congr (State.spendCycles_groups T x c), hgroups h hh]

/-- A word whose effect changes its group by `F`, and no memory, completes. -/
theorem completes_of_group {s T : State} {x : Ix} {c : Cost} {P : State → Group → Prop} (hs : s.issuer = some x) (F : Group → Group)
    (hF : ∀ g, (F g).gid = g.gid) (hpaths : (F x.g).paths = x.g.paths) (hmem : SameMem s T) (hT : T.groups = (s.onGroup x.g.gid F).groups)
    (hP : ∀ y g, g.sameBut (F x.g) → y.fills = T.fills → y.readouts = T.readouts → Aside s y x.g.gid → P y g) :
    Completes (.next (s.finish x (.done T c))) x P := by
  obtain ⟨_, hg, _⟩ := State.issuer_spec hs
  refine completes_done hs ((State.group_congr hT _).trans (State.group_onGroup_same s x.g.gid F hF hg)) hpaths (fun g hbut => ?_)
  refine hP _ g hbut (by simp) (by simp) (aside_finish hmem (fun h hh => ?_) c none)
  rw [State.group_congr hT, State.group_onGroup_other s F hF hh]

/-! ### Flags of a readout (R64, R74, R272) -/

theorem Group.flags_raiseFlags (g : Group) (e d : Nat) (f : Half) : (g.raiseFlags e f).flags d = g.flags d ||| (if e = d then f else 0) := by
  simp only [Group.flags, Group.raiseFlags, fget_fset]
  split
  · next h => subst h; rfl
  · simp

theorem or_and_of_left {a f : Half} (b : Half) (h : a &&& f = f) : (a ||| b) &&& f = f := by
  ext i hi
  have hbit : (a[i] && f[i]) = f[i] := by rw [← BitVec.getElem_and, h]
  rw [BitVec.getElem_and, BitVec.getElem_or, Bool.and_or_distrib_right, hbit, Bool.or_eq_left_iff_imp]
  exact fun hb => (Bool.and_eq_true_iff.mp hb).2

theorem or_and_of_right (a : Half) {b f : Half} (h : b &&& f = f) : (a ||| b) &&& f = f := by
  rw [BitVec.or_comm]
  exact or_and_of_left a h

/-- The flags of a list, together, hold those of each element. -/
theorem foldl_or_and {α : Type} (f : α → Half) {a : α} {l : List α} (h : a ∈ l) (z : Half) : l.foldl (fun z a => z ||| f a) z &&& f a = f a := by
  have hkeep (l : List α) (z : Half) (hz : z &&& f a = f a) : l.foldl (fun z a => z ||| f a) z &&& f a = f a := by
    induction l generalizing z with
    | nil => exact hz
    | cons b l ih => exact ih _ (or_and_of_left _ hz)
  induction l generalizing z with
  | nil => cases h
  | cons b l ih =>
    rcases List.mem_cons.mp h with rfl | h
    · exact hkeep l _ (or_and_of_right z (BitVec.and_self))
    · exact ih h _

section
variable {α : Type} (m : Group → α → Nat) (f : α → Half)

/-- Raising flags one after another changes flags alone. -/
theorem raiseFlags_foldl_shape (l : List α) (g : Group) : ∃ fl, l.foldl (fun g a => g.raiseFlags (m g a) (f a)) g = { g with fstat := fl } := by
  induction l generalizing g with
  | nil => exact ⟨g.fstat, rfl⟩
  | cons a l ih => obtain ⟨fl, h⟩ := ih (g.raiseFlags (m g a) (f a)); exact ⟨fl, h⟩

/-- Flags raised stay raised. -/
theorem raiseFlags_foldl_keeps (l : List α) (g : Group) {e : Nat} {c : Half} (h : g.flags e &&& c = c) :
    (l.foldl (fun g a => g.raiseFlags (m g a) (f a)) g).flags e &&& c = c := by
  induction l generalizing g with
  | nil => exact h
  | cons a l ih => exact ih _ (by rw [Group.flags_raiseFlags]; exact or_and_of_left _ h)

/-- Every element's flags are raised for the member it names, if the name does not depend on flags. -/
theorem raiseFlags_foldl_raises {l : List α} {g : Group} {a : α} {e : Nat} (hm : ∀ fl, m { g with fstat := fl } a = e) (ha : a ∈ l) :
    (l.foldl (fun g a => g.raiseFlags (m g a) (f a)) g).flags e &&& f a = f a := by
  induction l generalizing g with
  | nil => cases ha
  | cons b l ih =>
    rcases List.mem_cons.mp ha with rfl | ha
    · refine raiseFlags_foldl_keeps m f l _ ?_
      rw [Group.flags_raiseFlags, if_pos (hm g.fstat)]
      exact or_and_of_right _ BitVec.and_self
    · exact ih (fun fl => hm fl) ha

end

theorem Ix.readFlags_shape (x : Ix) (f : Nat → Half) (g : Group) : ∃ fl, x.readFlags f g = { g with fstat := fl } := by
  obtain ⟨fl, h⟩ := raiseFlags_foldl_shape (fun g p => g.member p) f (positions x.g.n x.act) g
  unfold Ix.readFlags
  dsimp only
  rw [h]
  split
  · obtain ⟨fl', h'⟩ := raiseFlags_foldl_shape (fun _ e => e) (fun _ => fVSB) (x.g.members x.act) { g with fstat := fl }
    exact ⟨fl', h'⟩
  · exact ⟨fl, rfl⟩

/-- A readout raises the flags of each of its positions for the position's member. -/
theorem Ix.readFlags_raises (x : Ix) (f : Nat → Half) (g : Group) (hw : g.w = x.g.w) {p : Nat} (hp : p < x.g.n) (hact : has x.act p = true) :
    (x.readFlags f g).flags (x.g.member p) &&& f p = f p := by
  have hown := raiseFlags_foldl_raises (fun g p => g.member p) f (g := g) (e := x.g.member p) (fun _ => by simp [Group.member, hw])
    ((mem_positions _ _ _).mpr ⟨hp, hact⟩)
  unfold Ix.readFlags
  dsimp only
  split
  · exact raiseFlags_foldl_keeps (fun _ e => e) (fun _ => fVSB) _ _ hown
  · exact hown

/-! ### Registers emptied for values to come (R166, R270) -/

/-- `n` registers from `d` on: zero where ZERO clears the position, empty where it is active. -/
def Ix.emptied (x : Ix) (d n : Nat) (g : Group) : Group :=
  (List.range n).foldl (fun g r => (g.writeV (d + r) (fun p => if has x.off p then some 0 else none)).markEmpty x.path.id false (d + r) x.act 0) g

/-- One of these registers. -/
def Ix.emptiedOne (x : Ix) (r : Nat) (g : Group) : Group :=
  (g.writeV r (fun p => if has x.off p then some 0 else none)).markEmpty x.path.id false r x.act 0

section
variable (x : Ix) (d n r : Nat) (g : Group)

theorem Ix.emptiedOne_regs : (x.emptiedOne r g).RegsOf g := ⟨_, _, _, _, _, _, _, rfl⟩

theorem Ix.emptiedOne_v1 (q : Nat) {p : Nat} (hp : p < g.n) :
    (x.emptiedOne r g).v1 q p = if r = q then (if has x.off p then 0 else g.v1 q p) else g.v1 q p := by
  refine (Group.v1_congr (g := g.writeV r (fun p => if has x.off p then some 0 else none)) rfl q p).trans ?_
  rw [Group.v1_writeV _ _ _ _ _ hp]
  refine if_ctx_congr Iff.rfl (fun h => ?_) (fun _ => rfl)
  subst h
  split <;> rfl

theorem Ix.emptiedOne_vEmptyAt_own {p : Nat} (hact : has x.act p = true) : (x.emptiedOne r g).vEmptyAt r p = true := by
  simp only [Ix.emptiedOne, Group.markEmpty, Group.vEmptyAt, Bool.false_eq_true, if_false, fget_fset, if_true, has_or, hact, Bool.or_true]

theorem Ix.emptiedOne_vEmptyAt_other {q : Nat} (h : r ≠ q) (p : Nat) : (x.emptiedOne r g).vEmptyAt q p = g.vEmptyAt q p := by
  simp only [Ix.emptiedOne, Group.markEmpty, Group.vEmptyAt, Bool.false_eq_true, if_false, fget_fset, if_neg h, Group.writeV_vEmpty]

theorem Ix.emptied_succ : x.emptied d (n + 1) g = x.emptiedOne (d + n) (x.emptied d n g) := by
  rw [Ix.emptied, List.range_succ, List.foldl_append]
  rfl

theorem Ix.emptied_regs : (x.emptied d n g).RegsOf g := by
  induction n with
  | zero => exact g.regsOf_refl
  | succ n ih => rw [Ix.emptied_succ]; exact Group.regsOf_trans (x.emptiedOne_regs _ _) ih

theorem Ix.emptied_other {q p : Nat} (hp : p < g.n) (hq : q < d ∨ d + n ≤ q) :
    (x.emptied d n g).v1 q p = g.v1 q p ∧ (x.emptied d n g).vEmptyAt q p = g.vEmptyAt q p := by
  induction n with
  | zero => exact ⟨rfl, rfl⟩
  | succ n ih =>
    obtain ⟨hv, he⟩ := ih (by omega)
    rw [Ix.emptied_succ, Ix.emptiedOne_v1 _ _ _ _ (by rwa [(x.emptied_regs d n g).n]), if_neg (by omega),
      Ix.emptiedOne_vEmptyAt_other _ _ _ (by omega)]
    exact ⟨hv, he⟩

theorem Ix.emptied_own {i p : Nat} (hp : p < g.n) (hi : i < n) :
    (has x.act p = true → (x.emptied d n g).vEmptyAt (d + i) p = true) ∧ (has x.off p = true → (x.emptied d n g).v1 (d + i) p = 0) := by
  induction n with
  | zero => omega
  | succ n ih =>
    have hn : p < (x.emptied d n g).n := by rwa [(x.emptied_regs d n g).n]
    rw [Ix.emptied_succ, Ix.emptiedOne_v1 _ _ _ _ hn]
    by_cases h : i = n
    · subst h
      exact ⟨fun hact => x.emptiedOne_vEmptyAt_own _ _ hact, fun hoff => by rw [if_pos rfl, if_pos hoff]⟩
    · rw [if_neg (by omega), Ix.emptiedOne_vEmptyAt_other _ _ _ (by omega)]
      exact ih (by omega)

end

/-! ### Words that read tiles (R255) -/

/-- The course of a word that reads tiles: its early trap or wait, a place in the slice's queue, its tiles free, then `r`. -/
def State.tileRes (s : State) (x : Ix) (e : Option (FaultInfo ⊕ Wait)) (lo hi : Nat) (r : Res) : Res :=
  s.need e (if !s.sliceRoom x.p then .wait s .slice else if !s.tilesFree x.g lo hi then .wait s (.tiles lo hi) else r)

theorem State.tileRes_go {s : State} {x : Ix} {lo hi : Nat} (r : Res) (hroom : s.sliceRoom x.p = true) (hfree : s.tilesFree x.g lo hi = true) :
    s.tileRes x none lo hi r = r := by
  simp [State.tileRes, State.need, hroom, hfree]

/-- The word `i` traps or waits early as `e` says, waits for the slice, waits for its tiles. -/
def EarlyEnds (i : Instr) (s : State) (x : Ix) (lo hi : Nat) (e : Option (FaultInfo ⊕ Wait)) : Prop :=
  (∀ f, e = some (.inl f) → FaultsWith (exec i s) x f) ∧ (∀ w, e = some (.inr w) → Waits (exec i s) x w)
  ∧ (e = none → s.sliceRoom x.p = false → Waits (exec i s) x .slice)
  ∧ (e = none → s.sliceRoom x.p = true → s.tilesFree x.g lo hi = false → Waits (exec i s) x (.tiles lo hi))

theorem earlyEnds_of_tileRes {i : Instr} {s : State} {x : Ix} {lo hi : Nat} {e : Option (FaultInfo ⊕ Wait)} {r : Res} (his : Issues s x)
    (hw : exec i s = .next (s.finish x (s.tileRes x e lo hi r))) : EarlyEnds i s x lo hi e := by
  unfold EarlyEnds
  rw [hw]
  refine ⟨fun f he => ?_, fun w he => ?_, fun he hroom => ?_, fun he hroom hfree => ?_⟩
  · subst he; exact trap_faults his.2.1 f
  · subst he; exact wait_waits his.2.1 w
  · subst he
    rw [State.tileRes, State.need, hroom]
    exact wait_waits his.2.1 .slice
  · subst he
    rw [State.tileRes, State.need, hroom, hfree]
    exact wait_waits his.2.1 (.tiles lo hi)

/-! ### ARD (R270) -/

/-- The group after an ARD: destinations emptied, flags raised, the latch dropped (R261). -/
def Ix.ardGroup (x : Ix) (d n : Nat) (fl : Nat → Half) (g : Group) : Group := { x.readFlags fl (x.emptied d n g) with latch := none }

theorem Ix.ardGroup_shape (x : Ix) (d n : Nat) (fl : Nat → Half) (g : Group) :
    ∃ v e sh se sl so fs, x.ardGroup d n fl g
      = { g with v := v, vEmpty := e, sh := sh, shEmpty := se, shLive := sl, shOwner := so, fstat := fs, latch := none } := by
  obtain ⟨fs, h⟩ := x.readFlags_shape fl (x.emptied d n g)
  obtain ⟨v, e, sh, se, sl, so, _, h'⟩ := x.emptied_regs d n g
  exact ⟨v, e, sh, se, sl, so, fs, by rw [Ix.ardGroup, h, h']; rfl⟩

theorem Ix.ardGroup_v1 (x : Ix) (d n : Nat) (fl : Nat → Half) (g : Group) (q p : Nat) :
    (x.ardGroup d n fl g).v1 q p = (x.emptied d n g).v1 q p ∧ (x.ardGroup d n fl g).vEmptyAt q p = (x.emptied d n g).vEmptyAt q p := by
  obtain ⟨fs, h⟩ := x.readFlags_shape fl (x.emptied d n g)
  rw [Ix.ardGroup, h]
  exact ⟨rfl, rfl⟩

/-- The flags that ARD raises at a position: those of its eight columns. -/
def Ix.ardFlags (x : Ix) (t tg : Nat) (sc : List (Nat × Nat)) (p : Nat) : Half :=
  (List.range 8).foldl (fun f j => f ||| (x.ardOne t tg sc p j).2) 0

theorem Ix.ardGroup_flags (x : Ix) (d n t tg : Nat) (sc : List (Nat × Nat)) {p c : Nat} (hp : p < x.g.n) (hact : has x.act p = true) (hc : c < 8) :
    (x.ardGroup d n (x.ardFlags t tg sc) x.g).flags (x.g.member p) &&& (x.ardOne t tg sc p c).2 = (x.ardOne t tg sc p c).2 := by
  have hraised : (x.ardGroup d n (x.ardFlags t tg sc) x.g).flags (x.g.member p) &&& x.ardFlags t tg sc p = x.ardFlags t tg sc p :=
    x.readFlags_raises _ _ (x.emptied_regs d n x.g).w hp hact
  have hcol : x.ardFlags t tg sc p &&& (x.ardOne t tg sc p c).2 = (x.ardOne t tg sc p c).2 :=
    foldl_or_and (fun j => (x.ardOne t tg sc p j).2) (List.mem_range.mpr hc) 0
  rw [← hcol, ← BitVec.and_assoc, hraised]

/-- All the values that ARD sends. -/
def Ix.ardAll (x : Ix) (t tg d : Nat) (sc : List (Nat × Nat)) : List FillItem := (positions x.g.n x.act).flatMap (x.ardItems t tg d sc)

theorem Ix.ardItems_ne_nil (x : Ix) (t tg d : Nat) (sc : List (Nat × Nat)) (p : Nat) : x.ardItems t tg d sc p ≠ [] := by
  have hpack (ys : List Nat) : 0 < (ardPack tg ys).length := by unfold ardPack; dsimp only; split <;> simp
  have hregs : 0 < ardRegs tg := by unfold ardRegs; split <;> decide
  refine List.ne_nil_of_length_pos ?_
  rw [Ix.ardItems, List.length_map, List.length_zip, List.length_range]
  exact lt_min (hpack _) hregs

theorem exists_active {x : Ix} (h : x.act &&& lowMask x.g.n ≠ 0) : ∃ p, p < x.g.n ∧ has x.act p = true := by
  by_contra hno
  refine h (BitVec.eq_of_getLsbD_eq (fun p hp => ?_))
  have hb : has (x.act &&& lowMask x.g.n) p = false := by
    rw [has_and, has_lowMask_lt _ _ hp]
    by_contra hb
    simp only [Bool.not_eq_false, Bool.and_eq_true, decide_eq_true_eq] at hb
    exact hno ⟨p, hb.2, hb.1⟩
  exact hb.trans (has_zero p).symm

/-- In format f32 the eight registers hold the eight columns. -/
theorem Ix.ardItems_f32 (x : Ix) (t d : Nat) (sc : List (Nat × Nat)) (p : Nat) {c : Nat} (hc : c < 8) :
    FillItem.v false (d + c) p (BitVec.ofNat 32 (x.ardOne t 0 sc p c).1) ∈ x.ardItems t 0 d sc p := by
  refine List.mem_map.mpr ⟨(BitVec.ofNat 32 (x.ardOne t 0 sc p c).1, c), List.mem_iff_getElem?.mpr ⟨c, ?_⟩, rfl⟩
  simp [ardPack, ardRegs, tab, hc]

/-- What ARD does once its scales may be read. -/
def State.ardDone (s : State) (x : Ix) (t tg d : Nat) (sc : List (Nat × Nat)) : Res :=
  let u := s.onGroup x.g.gid (x.ardGroup d (ardRegs tg) (x.ardFlags t tg sc))
  .done (if (x.ardAll t tg d sc).isEmpty then u else u.fill x.g.gid (x.ardAll t tg d sc)) Cost.matrix

/-- What a readout does as its scales stand. -/
def State.withScales (s : State) (x : Ix) (k : Nat) (r : List (Nat × Nat) → Res) : Res :=
  match s.readScales x (x.g.kreg k) with
  | .error (.inl f) => .trap f
  | .error (.inr w) => .wait s w
  | .ok sc => r sc

theorem exec_ard (t : BitVec 4) (k : BitVec 6) (d : BitVec 7) (tg : BitVec 3) (s : State) :
    exec (.ard t k d tg) s = s.word .never (fun s x => s.tileRes x (ardEarly x t.toNat k.toNat d.toNat tg.toNat) t.toNat (t.toNat + setTiles x.g.w)
      (s.withScales x k.toNat (s.ardDone x t.toNat tg.toNat d.toNat))) := rfl

/-- ARD with its scales read completes: destinations emptied, values on their way, flags raised, nothing else changed. -/
theorem ard_completes {s : State} {x : Ix} (his : Issues s x) (t tg d : Nat) (sc : List (Nat × Nat)) :
    Completes (.next (s.finish x (s.ardDone x t tg d sc))) x (fun y g =>
      (∃ v e sh se sl so fl ps, g = { x.g with v := v, vEmpty := e, sh := sh, shEmpty := se, shLive := sl, shOwner := so, fstat := fl,
                                                latch := none, paths := ps })
      ∧ (∀ i p, i < ardRegs tg → p < x.g.n → (has x.act p = true → g.vEmptyAt (d + i) p = true) ∧ (has x.off p = true → g.v1 (d + i) p = 0))
      ∧ (∀ q p, p < x.g.n → (q < d ∨ d + ardRegs tg ≤ q) → g.v1 q p = x.g.v1 q p ∧ g.vEmptyAt q p = x.g.vEmptyAt q p)
      ∧ (x.act &&& lowMask x.g.n ≠ 0 → ∃ w ∈ y.fills, w.gid = x.g.gid
          ∧ ∀ p, p < x.g.n → has x.act p = true → ∀ it ∈ x.ardItems t tg d sc p, it ∈ w.items)
      ∧ (∀ p c, p < x.g.n → has x.act p = true → c < 8 → g.flags (x.g.member p) &&& (x.ardOne t tg sc p c).2 = (x.ardOne t tg sc p c).2)
      ∧ Aside s y x.g.gid) := by
  have hshape (g : Group) := x.ardGroup_shape d (ardRegs tg) (x.ardFlags t tg sc) g
  unfold State.ardDone
  dsimp only
  refine completes_of_group his.2.1 (x.ardGroup d (ardRegs tg) (x.ardFlags t tg sc)) (fun g => ?_) ?_ ?_ ?_ (fun y g hbut hfills _ haside => ?_)
  · obtain ⟨v, e, sh, se, sl, so, fs, h⟩ := hshape g; rw [h]
  · obtain ⟨v, e, sh, se, sl, so, fs, h⟩ := hshape x.g; rw [h]
  · split <;> exact ⟨rfl, rfl, rfl, rfl⟩
  · split <;> rfl
  have hv (q p : Nat) : g.v1 q p = (x.emptied d (ardRegs tg) x.g).v1 q p ∧ g.vEmptyAt q p = (x.emptied d (ardRegs tg) x.g).vEmptyAt q p := by
    rw [hbut]
    exact x.ardGroup_v1 d (ardRegs tg) (x.ardFlags t tg sc) x.g q p
  refine ⟨?_, fun i p hi hp => ?_, fun q p hp hq => ?_, fun hact => ?_, fun p c hp hact hc => ?_, haside⟩
  · obtain ⟨v, e, sh, se, sl, so, fs, h⟩ := hshape x.g
    exact ⟨v, e, sh, se, sl, so, fs, g.paths, by rw [hbut, h]⟩
  · rw [(hv _ _).1, (hv _ _).2]
    exact x.emptied_own d (ardRegs tg) x.g hp hi
  · rw [(hv _ _).1, (hv _ _).2]
    exact x.emptied_other d (ardRegs tg) x.g hp hq
  · obtain ⟨p, hp, hpact⟩ := exists_active hact
    have hmem (q : Nat) (hq : q < x.g.n) (hqact : has x.act q = true) : ∀ it ∈ x.ardItems t tg d sc q, it ∈ x.ardAll t tg d sc :=
      fun it hit => List.mem_flatMap.mpr ⟨q, (mem_positions _ _ _).mpr ⟨hq, hqact⟩, hit⟩
    obtain ⟨it, hit⟩ := List.exists_mem_of_ne_nil _ (x.ardItems_ne_nil t tg d sc p)
    have hsome : (x.ardAll t tg d sc).isEmpty = false := List.isEmpty_eq_false_iff_exists_mem.mpr ⟨it, hmem p hp hpact it hit⟩
    rw [hfills, hsome]
    exact ⟨_, List.mem_append_right _ List.mem_cons_self, rfl, hmem⟩
  · rw [hbut]
    exact x.ardGroup_flags d (ardRegs tg) t tg sc hp hact hc

/-! ### ARDS (R271-R273) -/

/-- Taking lines into ownership changes L1s only (R134). -/
theorem State.ownLines_shape (s : State) (ls : List Loc) : ∃ cs, s.ownLines ls = { s with cores := cs } := by
  refine foldl_keep _ (fun s t => ∃ cs, t = { s with cores := cs }) (fun s => ⟨s.cores, rfl⟩)
    (by rintro s _ _ ⟨_, rfl⟩ ⟨cs, rfl⟩; exact ⟨cs, rfl⟩) (fun s l => ?_) ls s
  split
  · exact ⟨_, rfl⟩
  · exact ⟨_, rfl⟩
  · exact ⟨s.cores, rfl⟩

theorem State.ownRows_shape (s : State) (r : Readout) : ∃ cs, s.ownRows r = { s with cores := cs } :=
  foldl_keep (fun s w => s.ownLines (s.rowDests r w)) (fun s t => ∃ cs, t = { s with cores := cs }) (fun s => ⟨s.cores, rfl⟩)
    (by rintro s _ _ ⟨_, rfl⟩ ⟨cs, rfl⟩; exact ⟨cs, rfl⟩) (fun s w => s.ownLines_shape _) r.rows s

/-- The flags that ARDS raises at a position: those of its eight columns. -/
def Ix.ardsFlags (x : Ix) (t p b : Nat) (sc : List (Nat × Nat)) (q : Nat) : Half :=
  (List.range 8).foldl (fun f j => f ||| (x.ardsOne t p b sc q j).2) 0

/-- The readout entry that ARDS makes. -/
def State.ardsEntry (s : State) (x : Ix) (t p b : Nat) (sc : List (Nat × Nat)) : Readout :=
  { id := s.nextId, gid := x.g.gid, vf := x.g.vf, part := x.p, share := s.share x.g, scratch := (x.storePair p).sp,
    target := (x.storePair p).tgt, rows := x.ardsRows t p b sc, reqs := [], parked := none, pinned := none, first := false,
    addr := x.addr, tag := x.g.tag, line := x.g.lineage x.path.id }

/-- The group after a readout that writes no register. -/
def Ix.ardsGroup (x : Ix) (fl : Nat → Half) (g : Group) : Group := { x.readFlags fl g with latch := none }

theorem Ix.ardsGroup_shape (x : Ix) (fl : Nat → Half) (g : Group) : ∃ fs, x.ardsGroup fl g = { g with fstat := fs, latch := none } := by
  obtain ⟨fs, h⟩ := x.readFlags_shape fl g
  exact ⟨fs, by rw [Ix.ardsGroup, h]⟩

/-- What ARDS does once its scales may be read. -/
def State.ardsDone (s : State) (x : Ix) (t p b : Nat) (sc : List (Nat × Nat)) : Res :=
  let e := s.ardsEntry x t p b sc
  let u := s.onGroup x.g.gid (x.ardsGroup (x.ardsFlags t p b sc))
  .done (if (x.ardsRows t p b sc).isEmpty then u else State.named { u.ownRows e with readouts := u.readouts ++ [e] }) Cost.matrix

theorem exec_ards (t : BitVec 4) (k : BitVec 6) (p b : BitVec 7) (s : State) :
    exec (.ards t k p b) s = s.word .never (fun s x => s.tileRes x (s.ardsEarly x t.toNat k.toNat p.toNat b.toNat) t.toNat (t.toNat + setTiles x.g.w)
      (if !s.readoutRoom x.p then .wait s .readout
       else if s.outstanding x.g x.path.id || x.g.polling.isSome then .wait s (.order true)
       else s.withScales x k.toNat (s.ardsDone x t.toNat p.toNat b.toNat))) := rfl

/-- ARDS with its scales read completes: its rows stand in a readout entry, flags are raised, nothing else has changed. -/
theorem ards_completes {s : State} {x : Ix} (his : Issues s x) (t p b : Nat) (sc : List (Nat × Nat)) :
    Completes (.next (s.finish x (s.ardsDone x t p b sc))) x (fun y g =>
      g = { x.g with fstat := g.fstat, latch := none, paths := g.paths }
      ∧ (x.ardsRows t p b sc = [] → y.readouts = s.readouts)
      ∧ (x.ardsRows t p b sc ≠ [] → y.readouts = s.readouts ++ [s.ardsEntry x t p b sc])
      ∧ Aside s y x.g.gid) := by
  have hshape (g : Group) := x.ardsGroup_shape (x.ardsFlags t p b sc) g
  obtain ⟨cs, hown⟩ := (s.onGroup x.g.gid (x.ardsGroup (x.ardsFlags t p b sc))).ownRows_shape (s.ardsEntry x t p b sc)
  unfold State.ardsDone
  dsimp only
  rw [hown]
  refine completes_of_group his.2.1 (x.ardsGroup (x.ardsFlags t p b sc)) (fun g => ?_) ?_ ?_ ?_
    (fun y g hbut _ hreadouts haside => ⟨?_, fun hnil => ?_, fun hcons => ?_, haside⟩)
  · obtain ⟨fs, h⟩ := hshape g; rw [h]
  · obtain ⟨fs, h⟩ := hshape x.g; rw [h]
  · split <;> exact ⟨rfl, rfl, rfl, rfl⟩
  · split <;> rfl
  · obtain ⟨fs, h⟩ := hshape x.g
    rw [hbut, h]
  · rw [hreadouts, hnil]
    rfl
  · rw [hreadouts, List.isEmpty_eq_false_iff.mpr hcons]
    rfl

/-! ### RQCVT (R275, R276) -/

/-- The codes and scale of a row, by position. -/
def rqResult (x : Ix) (kind kk : Nat) (vals : VVals) (p : Nat) : Nat × Half := rqRow kind x.mode ((List.range kk).map (fun i => vals.at' i p))

/-- The group after an RQCVT. -/
def Ix.rqGroup (x : Ix) (d n : Nat) (r : Nat → Nat × Half) (g : Group) : Group := { x.writeWords d n r g with latch := none }

theorem exec_rqcvt (d a : BitVec 7) (k : BitVec 2) (f : BitVec 3) (s : State) :
    exec (.rqcvt d a k f) s = s.word .never (fun s x =>
      if (x.vecFault (rqOp d a k f)).isNone && !s.sliceRoom x.p then .wait s .slice
      else s.vecWord x (rqOp d a k f) (fun s y vals => .ok (s.onGroup y.g.gid
        (y.rqGroup d.toNat (16 * 2 ^ k.toNat * rqBits f.toNat / 32 + 1) (rqResult y f.toNat (16 * 2 ^ k.toNat) vals))))) := rfl

section
variable {s : State} {x : Ix} (d a : BitVec 7) (k : BitVec 2) (f : BitVec 3)

/-- RQCVT waits for room in the slice's queue. -/
theorem rqcvt_waits (his : Issues s x) (hr : VecReady s x (rqOp d a k f)) (hroom : s.sliceRoom x.p = false) :
    Waits (exec (.rqcvt d a k f) s) x .slice := by
  rw [exec_rqcvt, word_run his, hr.1, hroom]
  exact wait_waits his.2.1 .slice

/-- RQCVT completes with its codes and scale written. -/
theorem rqcvt_completes (his : Issues s x) (hr : VecReady s x (rqOp d a k f)) (hroom : s.sliceRoom x.p = true) {n : Nat}
    (hn : n = 16 * 2 ^ k.toNat * rqBits f.toNat / 32) {r : Nat → Nat × Half}
    (hres : r = rqResult x f.toNat (16 * 2 ^ k.toNat) (opVals s x (rqOp d a k f))) :
    Completes (exec (.rqcvt d a k f) s) x (fun y g => Kept (Read s x (rqOp d a k f)) y x.g.gid
      ∧ (∃ v e sh se sl so fl q ps, g = { x.g with v := v, vEmpty := e, sh := sh, shEmpty := se, shLive := sl, shOwner := so, fstat := fl,
                                                    q := q, latch := none, paths := ps })
      ∧ (∀ i p, i ≤ n → p < x.g.n → (has x.act p = true → (g.v1 (d.toNat + i) p).toNat = (r p).1 / 2 ^ (32 * i) % 2 ^ 32)
          ∧ (has x.act p = false → has x.off p = true → g.v1 (d.toNat + i) p = 0))
      ∧ (∀ q p, p < x.g.n → (q < d.toNat ∨ d.toNat + n < q) → g.v1 q p = x.g.v1 q p)
      ∧ (∀ e, g.flags e = x.g.flags e ||| flagsOf x r e (positions x.g.n x.act))) := by
  subst hn hres
  generalize hn : 16 * 2 ^ k.toNat * rqBits f.toNat / 32 = n
  generalize hres : rqResult x f.toNat (16 * 2 ^ k.toNat) (opVals s x (rqOp d a k f)) = r
  have hregs := x.writeWords_regs d.toNat (n + 1) r
  rw [exec_rqcvt, word_run his, hroom, Bool.not_true, Bool.and_false, if_neg Bool.false_ne_true]
  refine vec_completes his hr (x.rqGroup d.toNat (n + 1) r) (fun g => (hregs g).gid) (hregs x.g).paths
    (fun ps q => ⟨?_, fun i p hi hp => ?_, fun q p hp hq => ?_, fun e => ?_⟩) _ (fun _ => by rw [hn, hres])
  · obtain ⟨v, e, sh, se, sl, so, fl, h⟩ := hregs x.g
    exact ⟨v, e, sh, se, sl, so, fl, q, ps, by rw [Ix.rqGroup, h]; rfl⟩
  · have hval := x.writeWords_val d.toNat (n + 1) r x.g hp (Nat.lt_succ_of_le hi)
    refine ⟨fun hact => hval.trans (if_pos hact), fun hact hoff => BitVec.eq_of_toNat_eq ?_⟩
    exact hval.trans ((if_neg (by simp [hact])).trans (if_pos hoff))
  · exact x.writeWords_other d.toNat (n + 1) r x.g hp (hq.imp_right (fun h => h))
  · exact x.writeWords_flags d.toNat (n + 1) r (Nat.succ_pos n) e

end

end Sys2Proof.Machine

namespace Sys2Proof.Proofs.Numbers
open Sys2Proof.Machine

/-- Settles O8: a zero term changes nothing; another is added as R82 says, in each of its three ways exactly. -/
theorem exactSum : Obligations.ExactSum := by
  unfold Obligations.ExactSum
  intro xext slots slots' x x' i e w he ha h0 h
  rw [addTerm] at h
  split at h
  · next hi =>
    cases h
    subst hi
    exact ⟨by simp, by simp, fun _ _ => rfl, rfl, rfl, rfl⟩
  · exact ⟨addFinTerm_exact he ⟨ha, h0⟩ h, addFinTerm_slots h⟩

/-- Settles O35: each channel holds the dot product's residue, the reconstruction gives the dot product modulo 127 * 128 * 129, and 64 products
of codes lie within half of that range. -/
theorem residueDot : Obligations.ResidueDot := by
  unfold Obligations.ResidueDot
  intro ab hlen hcodes
  have hbound : |exactDot ab| < 1048512 := by
    have := exactDot_bounds ab hcodes
    omega
  refine ⟨rqDot_eq ab, ?_⟩
  rw [rqDot_eq, reconstructed_residues, centred_emod hbound]
  rfl

/-- Settles O9: every one of the words works through its positions by a step that changes one position's accumulator, or stops at the first
XA-overflow with nothing put back. -/
theorem accumulators : Obligations.Accumulators := by
  unfold Obligations.Accumulators
  intro d a va vb f hf
  exact ⟨xadd_runs d va f hf, xsub_runs d va f hf, xfma_runs d va vb f hf, xmrg_runs d a, fun s x hi hr => xclr_resets d hi hr⟩

/-- Settles O10: XRD and XST write the registers of their result one after another; XLD replaces the accumulators, or faults at an image that
is none. -/
theorem accumulatorTransfers : Obligations.AccumulatorTransfers := by
  unfold Obligations.AccumulatorTransfers
  intro d a f hf
  exact ⟨xrd_runs d a f hf, xst_runs d a, fun s x hi hr =>
    ⟨fun hok => xld_completes a d hi hr hok, fun hbad => ⟨FaultInfo.of 0x12, rfl, xld_faults a d hi hr hbad⟩⟩⟩



/-- Settles O34: ARD and ARDS take the one course of words that read tiles, and then empty or enter what they send; RQCVT is a vector word that
finds room in the slice first. -/
theorem matrixReadout : Obligations.MatrixReadout := by
  unfold Obligations.MatrixReadout
  intro t k d a tg f j s x his
  have hard := (exec_ard t k d tg s).trans (word_run his _ _)
  have hards := (exec_ards t k d a s).trans (word_run his _ _)
  refine ⟨earlyEnds_of_tileRes his hard, fun sc he hroom hfree hsc => ?_, ?_, earlyEnds_of_tileRes his hards, ?_, ?_, ?_, ?_, ?_⟩
  · rw [hard, he, State.tileRes_go _ hroom hfree, State.withScales, hsc]
    exact ard_completes his _ _ _ sc
  · rintro rfl sc p c hc
    exact x.ardItems_f32 t.toNat d.toNat sc p hc
  · intro he hroom hfree hreadout
    rw [hards, he, State.tileRes_go _ hroom hfree, hreadout]
    exact wait_waits his.2.1 .readout
  · intro he hroom hfree hreadout hearlier
    have hwait : (s.outstanding x.g x.path.id || x.g.polling.isSome) = true := by
      rw [Bool.or_eq_true, Option.isSome_iff_ne_none]
      exact hearlier
    rw [hards, he, State.tileRes_go _ hroom hfree, hreadout, hwait]
    exact wait_waits his.2.1 (.order true)
  · intro sc he hroom hfree hreadout hdone hpoll hsc
    rw [hards, he, State.tileRes_go _ hroom hfree, hreadout, hdone, hpoll, State.withScales, hsc]
    obtain ⟨y, g, path, hy, hg, hpath, hpast, hgroup, hnil, hcons, haside⟩ := ards_completes his t.toNat d.toNat a.toNat sc
    exact ⟨y, g, path, hy, hg, hpath, hpast, hgroup, hnil, fun h => ⟨_, hcons h, rfl, rfl, rfl, rfl, rfl, rfl, rfl⟩, haside⟩
  · exact fun hr hroom => rqcvt_waits d a j f his hr hroom
  · exact fun hr hroom => rqcvt_completes d a j f his hr hroom rfl rfl

end Sys2Proof.Proofs.Numbers

/-! PROOFS. Memory rules: the engines' steps (O24), accesses at their performing points (O40), SETCTX and FABCFG (O53), the other commands (O54). -/

namespace Sys2Proof.Machine

/-! ### Writes of memory, field by field (R120, R386) -/

/-- A replay captures nothing of a write by no function: the part's own writes, the memory manager's and the host's. -/
theorem State.capture_noVf (s : State) (l : Loc) (n : Nat) : s.capture l n noVf = s := by
  unfold State.capture
  split
  · rfl
  · next r _ =>
    have hvf : r.cmd.vf ≠ noVf := by unfold Cmd.vf noVf; omega
    rw [if_pos hvf]

theorem State.capture_idle {s : State} (h : s.replay = none) (l : Loc) (n vf : Nat) : s.capture l n vf = s := by
  unfold State.capture
  rw [h]

/-- Scratchpad is not captured. -/
theorem State.capture_scr (s : State) (b o n vf : Nat) : s.capture (.scr b o) n vf = s := by
  unfold State.capture
  split
  · rfl
  · split <;> rfl

/-- What a capture may change: HBM with the shadow area, the replay, the context that a full area stops. -/
def Captured (s t : State) : Prop := ∃ h co r xs, t = { s with hbm := h, codeOld := co, replay := r, ctxs := xs }

theorem captured_refl (s : State) : Captured s s := ⟨s.hbm, s.codeOld, s.replay, s.ctxs, rfl⟩

theorem captured_trans (s t u : State) (a : Captured s t) (b : Captured t u) : Captured s u := by
  obtain ⟨_, _, _, _, rfl⟩ := a
  obtain ⟨h, co, r, xs, rfl⟩ := b
  exact ⟨h, co, r, xs, rfl⟩

theorem State.captureOne_captured (s : State) (r : Replay) (k : Loc) : Captured s (s.captureOne r k) := by
  unfold State.captureOne
  split
  · exact captured_refl s
  · dsimp only
    split
    · split
      · exact ⟨s.hbm, s.codeOld, _, _, rfl⟩
      · exact ⟨s.hbm, s.codeOld, _, s.ctxs, rfl⟩
    · exact ⟨_, _, _, s.ctxs, rfl⟩

theorem State.capture_captured (s : State) (l : Loc) (n vf : Nat) : Captured s (s.capture l n vf) := by
  unfold State.capture
  split
  · exact captured_refl s
  · split
    · exact captured_refl s
    · refine foldl_keep _ Captured captured_refl captured_trans (fun s k => ?_) _ s
      split
      · exact State.captureOne_captured _ _ _
      · exact captured_refl s

/-- What the caches may change when a line is written: L1s that drop it, the dirty lines, an open choice. -/
def Cached (s t : State) : Prop := ∃ cs ds n, t = { s with cores := cs, dirty := ds, free := n }

theorem cached_refl (s : State) : Cached s s := ⟨s.cores, s.dirty, s.free, rfl⟩

theorem cached_trans (s t u : State) (a : Cached s t) (b : Cached t u) : Cached s u := by
  obtain ⟨_, _, _, rfl⟩ := a
  obtain ⟨cs, ds, n, rfl⟩ := b
  exact ⟨cs, ds, n, rfl⟩

theorem State.markDirty_cached (s : State) (host : Bool) (line : Nat) : Cached s (s.markDirty host line) := by
  unfold State.markDirty
  split
  · exact ⟨s.cores, _, s.free, rfl⟩
  · exact ⟨s.cores, _, _, rfl⟩

theorem State.markLines_cached (s : State) (p : Nat → Bool) (host : Bool) (ls : List Nat) :
    Cached s (ls.foldl (fun s line => (s.dropL1 p host line).markDirty host line) s) := by
  refine foldl_keep _ Cached cached_refl cached_trans (fun s k => ?_) ls s
  obtain ⟨cs, ds, n, h⟩ := (s.dropL1 p host k).markDirty_cached host k
  exact ⟨cs, ds, n, h⟩

/-- A write of HBM: what is captured first, then the bytes. -/
theorem State.writeLoc_hbm (s : State) (a : Nat) (bs : List Byte) (core : Option Nat) (vf : Nat) :
    ∃ co cs ds n, s.writeLoc (.hbm a) bs core vf
      = { s.capture (.hbm a) bs.length vf with hbm := writeList (s.capture (.hbm a) bs.length vf).hbm a bs, codeOld := co, cores := cs, dirty := ds, free := n } := by
  obtain ⟨cs, ds, n, h⟩ := State.markLines_cached
    { s.capture (.hbm a) bs.length vf with hbm := writeList (s.capture (.hbm a) bs.length vf).hbm a bs,
                                           codeOld := (s.capture (.hbm a) bs.length vf).oldCode false a bs.length }
    (fun c => match core with | none => true | some k => c != k) false (linesOf a bs.length)
  exact ⟨_, cs, ds, n, h⟩

/-- A write of HBM by the part itself. -/
theorem State.writeLoc_hbm_noVf (s : State) (a : Nat) (bs : List Byte) (core : Option Nat) :
    ∃ co cs ds n, s.writeLoc (.hbm a) bs core noVf = { s with hbm := writeList s.hbm a bs, codeOld := co, cores := cs, dirty := ds, free := n } := by
  obtain ⟨co, cs, ds, n, h⟩ := s.writeLoc_hbm a bs core noVf
  rw [State.capture_noVf] at h
  exact ⟨co, cs, ds, n, h⟩

/-- A write of host memory. -/
theorem State.writeLoc_host (s : State) (a : Nat) (bs : List Byte) (core : Option Nat) (vf : Nat) :
    ∃ ho co cs ds n, s.writeLoc (.host a) bs core vf
      = { s.capture (.host a) bs.length vf with host := writeList (s.capture (.host a) bs.length vf).host a bs, hostOld := ho, codeOld := co, cores := cs, dirty := ds, free := n } := by
  obtain ⟨cs, ds, n, h⟩ := State.markLines_cached
    { s.capture (.host a) bs.length vf with host := writeList (s.capture (.host a) bs.length vf).host a bs,
                                            hostOld := oldWrite (s.capture (.host a) bs.length vf).hostOld a bs,
                                            codeOld := (s.capture (.host a) bs.length vf).oldCode true a bs.length }
    (fun c => match core with | none => true | some k => c != k) true (linesOf a bs.length)
  exact ⟨_, _, cs, ds, n, h⟩

/-- A write of host memory by the part itself. -/
theorem State.writeLoc_host_noVf (s : State) (a : Nat) (bs : List Byte) (core : Option Nat) :
    ∃ ho co cs ds n, s.writeLoc (.host a) bs core noVf
      = { s with host := writeList s.host a bs, hostOld := ho, codeOld := co, cores := cs, dirty := ds, free := n } := by
  obtain ⟨ho, co, cs, ds, n, h⟩ := s.writeLoc_host a bs core noVf
  rw [State.capture_noVf] at h
  exact ⟨ho, co, cs, ds, n, h⟩

/-- A write of a share of scratchpad. -/
theorem State.writeLoc_scr (s : State) (b o : Nat) (bs : List Byte) (core : Option Nat) (vf : Nat) :
    s.writeLoc (.scr b o) bs core vf
      = { s with blocks := updWhere (fun k => k.uid == b) (fun k => { k with data := writeList k.data o bs }) s.blocks } := by
  unfold State.writeLoc
  rw [State.capture_scr]

/-- Where a write of the part itself may go, and what else it may change. -/
def MemWritten (s t : State) : Prop :=
  ∃ h g ho co w bl cs ds n, t = { s with hbm := h, host := g, hostOld := ho, codeOld := co, weights := w, blocks := bl, cores := cs, dirty := ds, free := n }

theorem memWritten_refl (s : State) : MemWritten s s := ⟨s.hbm, s.host, s.hostOld, s.codeOld, s.weights, s.blocks, s.cores, s.dirty, s.free, rfl⟩

theorem memWritten_trans (s t u : State) (a : MemWritten s t) (b : MemWritten t u) : MemWritten s u := by
  obtain ⟨_, _, _, _, _, _, _, _, _, rfl⟩ := a
  obtain ⟨h, g, ho, co, w, bl, cs, ds, n, rfl⟩ := b
  exact ⟨h, g, ho, co, w, bl, cs, ds, n, rfl⟩

theorem State.writeLoc_written (s : State) (l : Loc) (bs : List Byte) (core : Option Nat) : MemWritten s (s.writeLoc l bs core noVf) := by
  cases l with
  | hbm a =>
    obtain ⟨co, cs, ds, n, h⟩ := s.writeLoc_hbm_noVf a bs core
    exact ⟨_, s.host, s.hostOld, co, s.weights, s.blocks, cs, ds, n, h⟩
  | host a =>
    obtain ⟨ho, co, cs, ds, n, h⟩ := s.writeLoc_host_noVf a bs core
    exact ⟨s.hbm, _, ho, co, s.weights, s.blocks, cs, ds, n, h⟩
  | peer d a =>
    unfold State.writeLoc
    rw [State.capture_noVf]
    exact memWritten_refl s
  | scr b o =>
    rw [State.writeLoc_scr]
    exact ⟨s.hbm, s.host, s.hostOld, s.codeOld, s.weights, _, s.cores, s.dirty, s.free, rfl⟩
  | weight d a =>
    unfold State.writeLoc
    rw [State.capture_noVf]
    exact ⟨s.hbm, s.host, s.hostOld, s.codeOld, _, s.blocks, s.cores, s.dirty, s.free, rfl⟩

/-! ### The performance counters of the cores -/

/-- Reading a map whose values are changed by a function that keeps the default. -/
theorem fget_map {α : Type} (d : α) (f : Nat → α → α) (hd : ∀ k, f k d = d) (m : FMap α) (k : Nat) :
    fget d (m.map (fun e => (e.1, f e.1 e.2))) k = f k (fget d m k) := by
  induction m with
  | nil => exact (hd k).symm
  | cons e m ih =>
    simp only [List.map_cons, fget]
    split
    · next h => rw [h]
    · exact ih

theorem State.dropL1_pm (s : State) (p : Nat → Bool) (host : Bool) (line k : Nat) : ((s.dropL1 p host line).core k).pm = (s.core k).pm := by
  have h : (s.dropL1 p host line).core k
      = if p k then { s.core k with l1 := (s.core k).l1.filter (fun l => !(l.host == host && l.line == line)) } else s.core k := by
    have hmap : (s.dropL1 p host line).cores = s.cores.map (fun e =>
        (e.1, if p e.1 then { e.2 with l1 := e.2.l1.filter (fun l => !(l.host == host && l.line == line)) } else e.2)) := by
      unfold State.dropL1
      refine List.map_congr_left (fun e _ => ?_)
      split <;> rfl
    unfold State.core
    rw [hmap]
    refine fget_map Core.reset (fun k c => if p k then { c with l1 := c.l1.filter (fun l => !(l.host == host && l.line == line)) } else c) (fun k => ?_) _ _
    split <;> rfl
  rw [h]
  split <;> rfl

theorem State.markDirty_core (s : State) (host : Bool) (line k : Nat) : (s.markDirty host line).core k = s.core k := by
  unfold State.markDirty
  split <;> rfl

/-- A write of host memory leaves every core's counters. -/
theorem State.writeLoc_host_pm (s : State) (a : Nat) (bs : List Byte) (core : Option Nat) (k : Nat) :
    ((s.writeLoc (.host a) bs core noVf).core k).pm = (s.core k).pm := by
  unfold State.writeLoc
  rw [State.capture_noVf]
  refine (foldl_keep _ (fun s t => (t.core k).pm = (s.core k).pm) (fun _ => rfl) (fun _ _ _ a b => b.trans a) (fun s l => ?_) _ _)
  rw [State.markDirty_core]
  exact State.dropL1_pm _ _ _ _ _

/-! ### Entries of rings (R371-R374) -/

theorem State.ctx_setCtx (s : State) (vf v : Nat) (c : Ctx) : (s.setCtx vf c).ctx v = if vf = v then c else s.ctx v := by
  unfold State.ctx State.setCtx
  exact fget_fset _ _ _ _ _

theorem State.ctx_setRing (s : State) (fn r v : Nat) (k : Ring) :
    (s.setRing fn r k).ctx v = if fn = v then { s.ctx fn with rings := fset Ring.reset (s.ctx fn).rings r k } else s.ctx v :=
  State.ctx_setCtx _ _ _ _

@[simp] theorem State.ring_setRing (s : State) (fn r : Nat) (k : Ring) : (s.setRing fn r k).ring fn r = k := by
  unfold State.ring
  rw [State.ctx_setRing, if_pos rfl]
  simp only [fget_fset, if_true]

/-- What an entry put into a ring may change. -/
def Entered (s t : State) : Prop :=
  ∃ h ho co cs ds n xs, t = { s with host := h, hostOld := ho, codeOld := co, cores := cs, dirty := ds, free := n, ctxs := xs }

theorem entered_refl (s : State) : Entered s s := ⟨s.host, s.hostOld, s.codeOld, s.cores, s.dirty, s.free, s.ctxs, rfl⟩

theorem entered_trans {s t u : State} (a : Entered s t) (b : Entered t u) : Entered s u := by
  obtain ⟨_, _, _, _, _, _, _, rfl⟩ := a
  obtain ⟨h, ho, co, cs, ds, n, xs, rfl⟩ := b
  exact ⟨h, ho, co, cs, ds, n, xs, rfl⟩

theorem State.pushOrDrop_full (s : State) (fn r : Nat) (ws : List Dword) (h : (s.ring fn r).room = false) :
    s.pushOrDrop fn r ws = if (s.ring fn r).en then s.setRing fn r (s.ring fn r).drop else s := by
  simp only [State.pushOrDrop, State.push, h, Bool.false_eq_true, if_false]

theorem State.pushOrDrop_entered (s : State) (fn r : Nat) (ws : List Dword) : Entered s (s.pushOrDrop fn r ws) := by
  by_cases h : (s.ring fn r).room = true
  · rw [State.pushOrDrop_room s fn r ws h]
    obtain ⟨ho, co, cs, ds, n, hw⟩ := s.writeLoc_host_noVf ((s.ring fn r).entryAt r (s.ring fn r).pi.toNat) (ws.flatMap (fun w => bytesOf 8 w.toNat)) none
    rw [hw]
    exact ⟨_, ho, co, cs, ds, n, _, rfl⟩
  · rw [State.pushOrDrop_full s fn r ws (Bool.eq_false_of_not_eq_true h)]
    split
    · exact ⟨s.host, s.hostOld, s.codeOld, s.cores, s.dirty, s.free, _, rfl⟩
    · exact entered_refl s

theorem State.writeLoc_noVf_ctxs (s : State) (l : Loc) (bs : List Byte) (core : Option Nat) : (s.writeLoc l bs core noVf).ctxs = s.ctxs := by
  obtain ⟨_, _, _, _, _, _, _, _, _, h⟩ := s.writeLoc_written l bs core
  rw [h]

/-- Contexts with the rings of another. -/
theorem State.pushOrDrop_ctx (s : State) (fn r : Nat) (ws : List Dword) (v : Nat) :
    (∃ rs, (s.pushOrDrop fn r ws).ctx v = { s.ctx v with rings := rs }) ∧ (v ≠ fn → (s.pushOrDrop fn r ws).ctx v = s.ctx v) := by
  have hring (t : State) (k : Ring) (ht : t.ctxs = s.ctxs) :
      (∃ rs, (t.setRing fn r k).ctx v = { s.ctx v with rings := rs }) ∧ (v ≠ fn → (t.setRing fn r k).ctx v = s.ctx v) := by
    have hc (w : Nat) : t.ctx w = s.ctx w := congrArg (fun m => fget Ctx.reset m w) ht
    rw [State.ctx_setRing]
    by_cases hv : fn = v
    · subst hv
      rw [if_pos rfl, hc]
      exact ⟨⟨_, rfl⟩, fun h => absurd rfl h⟩
    · rw [if_neg hv, hc]
      exact ⟨⟨_, rfl⟩, fun _ => rfl⟩
  by_cases h : (s.ring fn r).room = true
  · rw [State.pushOrDrop_room s fn r ws h]
    exact hring _ _ (s.writeLoc_noVf_ctxs _ _ _)
  · rw [State.pushOrDrop_full s fn r ws (Bool.eq_false_of_not_eq_true h)]
    split
    · exact hring s _ rfl
    · exact ⟨⟨_, rfl⟩, fun _ => rfl⟩

theorem length_flatMap_bytesOf (ws : List Dword) : (ws.flatMap (fun w => bytesOf 8 w.toNat)).length = 8 * ws.length := by
  induction ws with
  | nil => rfl
  | cons w ws ih => simp only [List.flatMap_cons, List.length_append, bytesOf_length, ih, List.length_cons]; omega

/-- The entry's bytes in host memory, and no others, change. -/
theorem State.pushOrDrop_host (s : State) (fn r : Nat) (ws : List Dword) :
    (s.pushOrDrop fn r ws).host = if (s.ring fn r).room
      then writeList s.host ((s.ring fn r).entryAt r (s.ring fn r).pi.toNat) (ws.flatMap (fun w => bytesOf 8 w.toNat)) else s.host := by
  by_cases h : (s.ring fn r).room = true
  · rw [State.pushOrDrop_room s fn r ws h, if_pos h]
    obtain ⟨_, _, _, _, _, hw⟩ := s.writeLoc_host_noVf ((s.ring fn r).entryAt r (s.ring fn r).pi.toNat) (ws.flatMap (fun w => bytesOf 8 w.toNat)) none
    rw [hw]
    rfl
  · rw [State.pushOrDrop_full s fn r ws (Bool.eq_false_of_not_eq_true h), if_neg h]
    split <;> rfl

/-- An entry is posted. -/
theorem State.pushOrDrop_posted (s : State) (fn r : Nat) (ws : List Dword) : Posted s (s.pushOrDrop fn r ws) fn r ws := by
  refine ⟨fun h => ⟨?_, ?_⟩, fun hen h => ?_, fun hen => ?_⟩
  · rw [State.pushOrDrop_room s fn r ws h]
    exact State.ring_setRing _ _ _ _
  · rw [State.pushOrDrop_host, if_pos h, ← length_flatMap_bytesOf]
    exact readBytes_writeList _ _ _
  · rw [State.pushOrDrop_full s fn r ws h, if_pos hen]
    exact State.ring_setRing _ _ _ _
  · have h : (s.ring fn r).room = false := by unfold Ring.room; rw [hen, Bool.false_and]
    rw [State.pushOrDrop_full s fn r ws h, if_neg (by rw [hen]; exact Bool.false_ne_true)]

theorem State.pushOrDrop_pm (s : State) (fn r : Nat) (ws : List Dword) (k : Nat) : ((s.pushOrDrop fn r ws).core k).pm = (s.core k).pm := by
  by_cases h : (s.ring fn r).room = true
  · rw [State.pushOrDrop_room s fn r ws h]
    exact s.writeLoc_host_pm _ _ _ _
  · rw [State.pushOrDrop_full s fn r ws (Bool.eq_false_of_not_eq_true h)]
    split <;> rfl


/-! ### Commands that complete in one step (R375) -/

section
variable {s : State} {c : Cmd}

theorem State.command_eq (hp : s.manage.poweredDown = false) (hc : s.cmd = some c) (hb : s.cmdBad c = false) (f : State → Cmd → State × Nat) :
    s.command f = .next ((f { s with cmd := none } c).1.answerCmd c (f { s with cmd := none } c).2).wake := by
  have hb' : State.cmdBad { s with cmd := none } c = false := hb
  unfold State.command
  rw [hc]
  simp only [hb', Bool.false_eq_true, if_false]
  exact event_due hp rfl

theorem State.answerCmd_entered (u : State) (c : Cmd) (status : Nat) : Entered u (u.answerCmd c status) :=
  entered_trans (t := u.spend) ⟨u.host, u.hostOld, u.codeOld, u.cores, u.dirty, u.free + 1, u.ctxs, rfl⟩ (State.pushOrDrop_entered _ _ _ _)

/-- An answer changes only the rings of the management function. -/
theorem State.answerCmd_ctx (u : State) (c : Cmd) (status v : Nat) :
    (∃ rs, (u.answerCmd c status).ctx v = { u.ctx v with rings := rs }) ∧ (v ≠ 0 → (u.answerCmd c status).ctx v = u.ctx v) :=
  u.spend.pushOrDrop_ctx 0 6 _ v

theorem cmdTag_eq (c : Cmd) : cmdTag c = c.w0.toNat % 2 ^ 32 := by simp [cmdTag, dfield, field]

/-- What a command leaves to be posted depends on its ring alone. -/
theorem Posted.of_ring {u t : State} {fn r : Nat} {ws : List Dword} (h : Posted u t fn r ws) (hring : u.ring fn r = s.ring fn r) : Posted s t fn r ws := by
  unfold Posted at *
  rwa [hring] at h

theorem State.answerCmd_posted {u : State} (status : Nat) (hring : u.ring 0 6 = s.ring 0 6) :
    ∃ v, Posted s (u.answerCmd c status).wake 0 6 [dw (status * 2 ^ 56 + c.w0.toNat % 2 ^ 32), v] := by
  rw [← cmdTag_eq]
  exact ⟨_, Posted.of_ring (u.spend.pushOrDrop_posted 0 6 _) hring⟩

theorem State.answerCmd_answered {u : State} (status : Nat) (hcmd : u.cmd = none) (hring : u.ring 0 6 = s.ring 0 6) :
    Answered s (u.answerCmd c status).wake c status := by
  refine ⟨?_, State.answerCmd_posted status hring⟩
  obtain ⟨_, _, _, _, _, _, _, h⟩ := u.answerCmd_entered c status
  rw [h]
  exact hcmd

end

/-! ### What a command on a context leaves (R375) -/

/-- Memory, groups, launches and the contexts of other functions are as they were. -/
def CmdKept (s t : State) (vf : Nat) : Prop :=
  t.hbm = s.hbm ∧ t.groups.length = s.groups.length ∧ t.launches = s.launches ∧ ∀ v, v ≠ vf → v ≠ 0 → t.ctx v = s.ctx v

/-- The command is answered with `status` and changes nothing. -/
def Turned (s : State) (c : Cmd) (i : Instr) (status : Nat) : Prop :=
  ∃ t, exec i s = .next t ∧ Answered s t c status ∧ CmdKept s t (cmdOf c)
    ∧ t.ctx (cmdOf c) = { s.ctx (cmdOf c) with rings := (t.ctx (cmdOf c)).rings }

/-- The command sets something of its context, where its operands are as `ok` asks and, if it must be `away`, the function is. -/
def SetsCtx (s : State) (c : Cmd) (i : Instr) (away : Bool) (ok : Prop) (P : Ctx → Prop) : Prop :=
  (¬ok → Turned s c i 2) ∧ (ok → away = true → s.resides (cmdOf c) = true → Turned s c i 1)
  ∧ (ok → (away = true → s.resides (cmdOf c) = false) →
      ∃ t, exec i s = .next t ∧ Answered s t c 0 ∧ CmdKept s t (cmdOf c) ∧ P (t.ctx (cmdOf c)))

section
variable {s : State} {c : Cmd} (hp : s.manage.poweredDown = false) (hc : s.cmd = some c) (hb : s.cmdBad c = false)
include hp hc hb

/-- A command whose effect is `u` is answered, and nothing else changes. -/
theorem command_happens {i : Instr} {f : State → Cmd → State × Nat} (hi : exec i s = s.command f) {u : State} {status : Nat}
    (hf : f { s with cmd := none } c = (u, status)) (hcmd : u.cmd = none) (hring : u.ring 0 6 = s.ring 0 6) :
    ∃ t, exec i s = .next t ∧ Answered s t c status ∧ ∃ v, Entered u v ∧ t = v.wake
      ∧ ∀ w, (∃ rs, t.ctx w = { u.ctx w with rings := rs }) ∧ (w ≠ 0 → t.ctx w = u.ctx w) := by
  refine ⟨(u.answerCmd c status).wake, ?_, State.answerCmd_answered status hcmd hring, _, u.answerCmd_entered c status, rfl, u.answerCmd_ctx c status⟩
  rw [hi, State.command_eq hp hc hb, hf]

/-- One that changes at most the context it names and lists of the fabric. -/
theorem command_sets {i : Instr} {f : State → Cmd → State × Nat} (hi : exec i s = s.command f) {u : State} {status : Nat} {k : Ctx}
    (hf : f { s with cmd := none } c = (u, status)) (hcmd : u.cmd = none) (hhbm : u.hbm = s.hbm) (hgroups : u.groups = s.groups)
    (hlaunches : u.launches = s.launches) (hctx : u.ctx (cmdOf c) = k) (hrings : k.rings = (s.ctx (cmdOf c)).rings)
    (hother : ∀ v, v ≠ cmdOf c → u.ctx v = s.ctx v) :
    ∃ t, exec i s = .next t ∧ Answered s t c status ∧ CmdKept s t (cmdOf c) ∧ ∃ rs, t.ctx (cmdOf c) = { k with rings := rs } := by
  have hring : u.ring 0 6 = s.ring 0 6 := by
    unfold State.ring
    by_cases h0 : cmdOf c = 0
    · rw [← h0, hctx, hrings]
    · rw [hother 0 (Ne.symm h0)]
  obtain ⟨t, ht, hans, v, ⟨_, _, _, _, _, _, _, rfl⟩, rfl, hctxs⟩ := command_happens hp hc hb hi hf hcmd hring
  refine ⟨_, ht, hans, ⟨hhbm, ?_, hlaunches, fun w hw h0 => ((hctxs w).2 h0).trans (hother w hw)⟩, ?_⟩
  · rw [← hgroups]
    exact List.length_map _
  · rw [← hctx]
    exact (hctxs _).1

theorem command_turned {i : Instr} {f : State → Cmd → State × Nat} (hi : exec i s = s.command f) {status : Nat}
    (hf : f { s with cmd := none } c = ({ s with cmd := none }, status)) : Turned s c i status := by
  obtain ⟨t, ht, hans, hkept, rs, hctx⟩ := command_sets hp hc hb hi (k := s.ctx (cmdOf c)) hf rfl rfl rfl rfl rfl rfl (fun _ _ => rfl)
  exact ⟨t, ht, hans, hkept, by rw [hctx]⟩

/-- A SETCTX: what it checks stands for `ok`, and the context that it makes, whatever its rings, is as `P` says. -/
theorem setctx_sets {i : Instr} {away : Bool} {okb : State → Cmd → Bool} {f : State → Cmd → Ctx → Ctx} (hi : exec i s = s.setctx away okb f)
    {ok : Prop} (hok : okb { s with cmd := none } c = true ↔ ok) {P : Ctx → Prop} {k : Ctx}
    (hk : f { s with cmd := none } c (s.ctx (cmdOf c)) = k) (hrings : k.rings = (s.ctx (cmdOf c)).rings) (hP : ∀ rs, P { k with rings := rs }) :
    SetsCtx s c i away ok P := by
  refine ⟨fun hno => ?_, fun h haway hres => ?_, fun h haway => ?_⟩
  · exact command_turned hp hc hb hi (if_pos (by simpa using fun h => hno (hok.mp h)))
  · have hres' : (away && State.resides { s with cmd := none } (cmdVf c)) = true := by rw [haway]; exact hres
    exact command_turned hp hc hb hi ((if_neg (by simp [hok.mpr h])).trans (if_pos hres'))
  · have hres' : ¬(away && State.resides { s with cmd := none } (cmdVf c)) = true := by
      cases away
      · simp
      · exact Bool.eq_false_iff.mp (haway rfl)
    obtain ⟨t, ht, hans, hkept, rs, hctx⟩ := command_sets hp hc hb hi (k := k)
      ((if_neg (by simp [hok.mpr h])).trans (if_neg hres')) rfl rfl rfl rfl
      (by rw [← hk]; exact (State.ctx_setCtx _ _ _ _).trans (if_pos rfl)) hrings
      (fun v hv => (State.ctx_setCtx _ _ _ _).trans (if_neg (Ne.symm hv)))
    exact ⟨t, ht, hans, hkept, by rw [hctx]; exact hP rs⟩

end


/-! ### The operands of a SETCTX (R5, R375) -/

theorem dfield_high (w : Dword) {lo : Nat} (h : lo ≤ 63) : dfield w 63 lo = w.toNat / 2 ^ lo := by
  have hw : w.toNat / 2 ^ lo < 2 ^ (63 + 1 - lo) := by
    rw [Nat.div_lt_iff_lt_mul (by positivity), ← Nat.pow_add, show 63 + 1 - lo + lo = 64 by omega]
    exact w.isLt
  exact Nat.mod_eq_of_lt hw

theorem dfield_low (w : Dword) (hi : Nat) : dfield w hi 0 = w.toNat % 2 ^ (hi + 1) := by simp [dfield, field]

theorem keepBits_high (w : Dword) {lo : Nat} (h : lo ≤ 63) : keepBits w 63 lo = dw (w.toNat / 2 ^ lo * 2 ^ lo) := by
  unfold keepBits
  rw [dfield_high w h]
  rfl

theorem keepBits_low (w : Dword) (hi : Nat) : keepBits w hi 0 = dw (w.toNat % 2 ^ (hi + 1)) := by
  unfold keepBits
  rw [dfield_low, at', pow_zero, mul_one]

/-- Two fields that do not meet. -/
theorem dw_or_add (x k : Nat) {y : Nat} (hy : y < 2 ^ k) : dw (x * 2 ^ k) ||| dw y = dw (x * 2 ^ k + y) := by
  unfold dw
  rw [← BitVec.ofNat_or, Nat.mul_comm, ← Nat.two_pow_add_eq_or_of_lt hy]

theorem cmdField_eq (c : Cmd) : cmdField c = c.w1.toNat % 256 := dfield_low c.w1 7

/-- Zeros are required above the field in W1 and in the words after the `n` values. -/
def ZeroAfter (c : Cmd) (n : Nat) : Prop := c.w1.toNat < 256 ∧ ∀ j, n + 2 ≤ j → j ≤ 7 → cmdWord c j = 0

theorem setctxZero_iff (c : Cmd) (n : Nat) : setctxZero c n = true ↔ ZeroAfter c n := by
  have hfield : (dfield c.w1 63 8 == 0) = true ↔ c.w1.toNat < 256 := by
    rw [dfield_high _ (by decide), beq_iff_eq, Nat.div_eq_zero_iff]
    simp
  unfold setctxZero
  rw [Bool.and_eq_true, hfield, List.all_eq_true]
  refine and_congr_right fun _ => ⟨fun h j hj h7 => ?_, fun h i hi => ?_⟩
  · have := h (j - 1) (List.mem_range.mpr (by omega))
    rw [show j - 1 + 1 = j by omega] at this
    simpa [show ¬ j - 1 < n + 1 by omega] using this
  · by_cases hin : i < n + 1
    · simp [hin]
    · simp [h (i + 1) (by omega) (by have := List.mem_range.mp hi; omega)]

theorem fget_foldl_fset {α : Type} [DecidableEq α] (d : α) (b : Nat) (ws : List α) (i : Nat) (m : FMap α) (j : Nat) :
    fget d ((ws.zipIdx i).foldl (fun m e => fset d m (b + e.2) e.1) m) j
      = if b + i ≤ j ∧ j < b + i + ws.length then ws.getD (j - (b + i)) d else fget d m j := by
  induction ws generalizing i m with
  | nil => simp
  | cons w ws ih =>
    rw [List.zipIdx_cons, List.foldl_cons, ih, fget_fset]
    by_cases hj : b + i = j
    · subst hj
      simp
    · by_cases hin : b + i ≤ j ∧ j < b + i + (w :: ws).length
      · have hlen : (w :: ws).length = ws.length + 1 := rfl
        rw [if_pos (by omega), if_pos hin, show j - (b + i) = (j - (b + (i + 1))) + 1 by omega, List.getD_cons_succ]
      · have hlen : (w :: ws).length = ws.length + 1 := rfl
        rw [if_neg (by omega), if_neg hin, if_neg hj]

/-- The words of an entry that is written, and those of the others. -/
theorem Ctx.rr_withRegion (k : Ctx) (n : Nat) {ws : List Dword} (hws : ws.length = 8) (q i : Nat) (hi : i < 8) :
    (k.withRegion n ws).rr q i = if q = n then ws.getD i 0 else k.rr q i := by
  have h := fget_foldl_fset (0 : Dword) (8 * n) ws 0 k.regions (8 * q + i)
  refine h.trans ?_
  by_cases hq : q = n
  · subst hq
    rw [if_pos (by omega), if_pos rfl, show 8 * q + i - (8 * q + 0) = i by omega]
  · rw [if_neg (by omega), if_neg hq]
    rfl

theorem dbit_63_iff (w : Dword) : dbit w 63 = true ↔ 2 ^ 63 ≤ w.toNat := by
  have h : w.toNat < 2 ^ 63 * 2 := w.isLt
  unfold dbit
  rw [Nat.testBit_eq_decide_div_mod_eq, decide_eq_true_iff, Nat.mod_eq_of_lt ((Nat.div_lt_iff_lt_mul (by positivity)).mpr (by rwa [Nat.mul_comm] at h))]
  constructor
  · intro h1
    exact (Nat.one_le_div_iff (by positivity)).mp h1.ge
  · intro h1
    exact le_antisymm (Nat.lt_succ_iff.mp ((Nat.div_lt_iff_lt_mul (by positivity)).mpr (by rwa [Nat.mul_comm] at h))) ((Nat.one_le_div_iff (by positivity)).mpr h1)

theorem dw_toNat {n : Nat} (h : n < 2 ^ 64) : (dw n).toNat = n := by
  unfold dw
  rw [BitVec.toNat_ofNat, Nat.mod_eq_of_lt h]

/-- EN of an entry written (R333). -/
theorem Ctx.rrEn_withRegion (k : Ctx) (n : Nat) (c : Cmd) : (k.withRegion n (regionWords c)).rrEn n = true ↔ 2 ^ 63 ≤ c.w2.toNat := by
  have h64 : c.w2.toNat < 2 ^ 64 := c.w2.isLt
  unfold Ctx.rrEn
  rw [Ctx.rr_withRegion k n rfl n 0 (by decide), if_pos rfl, dbit_63_iff]
  change 2 ^ 63 ≤ (keepBits c.w2 63 23).toNat ↔ _
  rw [keepBits_high _ (by decide), dw_toNat (lt_of_le_of_lt (Nat.div_mul_le_self _ _) h64)]
  constructor
  · exact fun h => h.trans (Nat.div_mul_le_self _ _)
  · intro h
    calc 2 ^ 63 = 2 ^ 40 * 2 ^ 23 := by norm_num
      _ ≤ c.w2.toNat / 2 ^ 23 * 2 ^ 23 := Nat.mul_le_mul_right _ ((Nat.le_div_iff_mul_le (by positivity)).mpr h)

/-! ### The fields of a context (R375) -/

section
variable {s : State} {c : Cmd} (hp : s.manage.poweredDown = false) (hc : s.cmd = some c) (hb : s.cmdBad c = false)
include hp hc hb

theorem setctxRoot_sets :
    SetsCtx s c .setctxRoot true (ZeroAfter c 1 ∧ s.inHbm (c.w2.toNat * 4096) 4096 = true)
      (fun k => k = { s.ctx (cmdOf c) with root := c.w2.toNat, rings := k.rings }) := by
  refine setctx_sets hp hc hb (show _ = execSetctxRoot s from rfl) ?_ rfl rfl (fun _ => rfl)
  rw [Bool.and_eq_true, setctxZero_iff]
  rfl

theorem setctxWindow_sets :
    SetsCtx s c .setctxWindow true (ZeroAfter c 3) (fun k => k = { s.ctx (cmdOf c) with windows := k.windows, rings := k.rings }
      ∧ fget 0 k.windows (3 * (c.w1.toNat % 256 - 2)) = dw (c.w2.toNat / 2 ^ 12 % 2 ^ 40 * 2 ^ 12 + c.w2.toNat % 2)
      ∧ fget 0 k.windows (3 * (c.w1.toNat % 256 - 2) + 1) = dw (c.w3.toNat / 2 ^ 12 % 2 ^ 40 * 2 ^ 12)
      ∧ fget 0 k.windows (3 * (c.w1.toNat % 256 - 2) + 2) = dw (c.w4.toNat / 2 ^ 12 % 2 ^ 40 * 2 ^ 12)
      ∧ ∀ j, j / 3 ≠ c.w1.toNat % 256 - 2 → fget 0 k.windows j = fget 0 (s.ctx (cmdOf c)).windows j) := by
  have hlow : keepBits c.w2 51 12 ||| keepBits c.w2 0 0 = dw (c.w2.toNat / 2 ^ 12 % 2 ^ 40 * 2 ^ 12 + c.w2.toNat % 2) := by
    rw [keepBits_low]
    exact dw_or_add _ 12 (lt_of_lt_of_le (Nat.mod_lt _ (by decide)) (by decide))
  refine setctx_sets hp hc hb (show _ = execSetctxWindow s from rfl) (setctxZero_iff c 3) rfl rfl (fun rs => ?_)
  dsimp only
  rw [cmdField_eq, hlow]
  refine ⟨rfl, ?_, ?_, ?_, fun j hj => ?_⟩
  · rw [fget_fset, if_neg (by omega), fget_fset, if_neg (by omega), fget_fset, if_pos rfl]
  · rw [fget_fset, if_neg (by omega), fget_fset, if_pos rfl]
    rfl
  · rw [fget_fset, if_pos rfl]
    rfl
  · rw [fget_fset, if_neg (by omega), fget_fset, if_neg (by omega), fget_fset, if_neg (by omega)]

theorem setctxAgel_sets :
    SetsCtx s c .setctxAgel false (ZeroAfter c 1 ∧ c.w2.toNat < 2 ^ 16) (fun k => k = { s.ctx (cmdOf c) with agel := max 64 c.w2.toNat, rings := k.rings }) := by
  have hmax : (if c.w2.toNat < 64 then 64 else c.w2.toNat) = max 64 c.w2.toNat := by split <;> omega
  refine setctx_sets hp hc hb (show _ = execSetctxAgel s from rfl) ?_ rfl rfl (fun _ => by rw [hmax])
  rw [Bool.and_eq_true, setctxZero_iff, decide_eq_true_iff]
  rfl

theorem setctxRoute_sets :
    SetsCtx s c .setctxRoute true (ZeroAfter c 3 ∧ c.w2.toNat % 32 = 0 ∧ c.w3.toNat % 64 = 0
        ∧ (c.w2.toNat / 2 ^ 56 = 0 ∨ ∀ e ∈ s.ctxs, e.1 ≠ cmdOf c → e.2.rxtab.toNat / 2 ^ 56 ≠ c.w2.toNat / 2 ^ 56))
      (fun k => k = { s.ctx (cmdOf c) with rxtab := dw (c.w2.toNat / 2 ^ 56 * 2 ^ 56 + c.w2.toNat % 2 ^ 52),
                                           dlbase := dw (c.w3.toNat % 2 ^ 52), dlcap := dw (c.w4.toNat % 2 ^ 16), rings := k.rings }) := by
  have hroute : keepBits c.w2 63 56 ||| keepBits c.w2 51 0 = dw (c.w2.toNat / 2 ^ 56 * 2 ^ 56 + c.w2.toNat % 2 ^ 52) := by
    rw [keepBits_high _ (by decide), keepBits_low]
    exact dw_or_add _ 56 (lt_of_lt_of_le (Nat.mod_lt _ (by positivity)) (Nat.pow_le_pow_right (by decide) (by decide)))
  refine setctx_sets hp hc hb (show _ = execSetctxRoute s from rfl) ?_ rfl rfl (fun _ => by rw [hroute, keepBits_low, keepBits_low])
  have hmod (w : Dword) {n : Nat} (hn : n ∣ 2 ^ 52) : dfield w 51 0 % n = w.toNat % n := by
    rw [dfield_low]
    exact Nat.mod_mod_of_dvd _ hn
  simp only [Bool.and_eq_true, setctxZero_iff, beq_iff_eq, Bool.or_eq_true, Bool.not_eq_true', List.any_eq_false, bne_iff_ne, ne_eq, not_and,
    hmod c.w2 (show 32 ∣ 2 ^ 52 from ⟨2 ^ 47, by norm_num⟩), hmod c.w3 (show 64 ∣ 2 ^ 52 from ⟨2 ^ 46, by norm_num⟩), dfield_high _ (show 56 ≤ 63 by decide), and_assoc]
  rfl

theorem setctxSavebase_sets :
    SetsCtx s c .setctxSavebase true (ZeroAfter c 1 ∧ c.w2.toNat % 4096 = 0 ∧ s.inHbm c.w2.toNat 4096 = true)
      (fun k => k = { s.ctx (cmdOf c) with saveBase := c.w2, rings := k.rings }) := by
  refine setctx_sets hp hc hb (show _ = execSetctxSavebase s from rfl) ?_ rfl rfl (fun _ => rfl)
  rw [Bool.and_eq_true, Bool.and_eq_true, setctxZero_iff, beq_iff_eq, and_assoc]
  rfl

theorem setctxWeightRegion_sets :
    SetsCtx s c .setctxWeightRegion true (ZeroAfter c 2 ∧ c.w2.toNat + c.w3.toNat ≤ 2048
        ∧ s.weightClash (cmdOf c) (c.w1.toNat % 256 - 24) c.w2.toNat c.w3.toNat = false)
      (fun k => k = { s.ctx (cmdOf c) with weight := k.weight, rings := k.rings }
        ∧ fget 0 k.weight (2 * (c.w1.toNat % 256 - 24)) = c.w2.toNat * 2 ^ 18
        ∧ fget 0 k.weight (2 * (c.w1.toNat % 256 - 24) + 1) = c.w3.toNat * 2 ^ 18
        ∧ ∀ j, j / 2 ≠ c.w1.toNat % 256 - 24 → fget 0 k.weight j = fget 0 (s.ctx (cmdOf c)).weight j) := by
  refine setctx_sets hp hc hb (show _ = execSetctxWeightRegion s from rfl) ?_ rfl rfl (fun rs => ?_)
  · rw [Bool.and_eq_true, Bool.and_eq_true, setctxZero_iff, decide_eq_true_iff, Bool.not_eq_true', cmdField_eq, and_assoc]
    rfl
  · dsimp only
    rw [cmdField_eq]
    refine ⟨rfl, ?_, ?_, fun j hj => ?_⟩
    · rw [fget_fset, if_neg (by omega), fget_fset, if_pos rfl]
      rfl
    · rw [fget_fset, if_pos rfl]
      rfl
    · rw [fget_fset, if_neg (by omega), fget_fset, if_neg (by omega)]

theorem setctxMigrationPolicy_sets :
    SetsCtx s c .setctxMigrationPolicy false (ZeroAfter c 1)
      (fun k => k = { s.ctx (cmdOf c) with migPolicy := dw (c.w2.toNat / 2 ^ 63 * 2 ^ 63 + c.w2.toNat % 2 ^ 48), rings := k.rings }) := by
  have hpolicy : keepBits c.w2 63 63 ||| keepBits c.w2 47 0 = dw (c.w2.toNat / 2 ^ 63 * 2 ^ 63 + c.w2.toNat % 2 ^ 48) := by
    rw [keepBits_high _ (by decide), keepBits_low]
    exact dw_or_add _ 63 (lt_of_lt_of_le (Nat.mod_lt _ (by positivity)) (Nat.pow_le_pow_right (by decide) (by decide)))
  exact setctx_sets hp hc hb (show _ = execSetctxMigrationPolicy s from rfl) (setctxZero_iff c 1) rfl rfl (fun _ => by rw [hpolicy])

theorem setctxFramePool_sets :
    SetsCtx s c .setctxFramePool false (ZeroAfter c 2 ∧ c.w2.toNat % 8 = 0 ∧ c.w3.toNat ≤ 2 ^ 24
        ∧ (c.w3.toNat = 0 ∨ s.inHbm c.w2.toNat (8 * c.w3.toNat) = true))
      (fun k => k = { s.ctx (cmdOf c) with poolAddr := c.w2, poolCount := c.w3, rings := k.rings }) := by
  have hzero : c.w3 = 0 ↔ c.w3.toNat = 0 := BitVec.toNat_inj.symm
  refine setctx_sets hp hc hb (show _ = execSetctxFramePool s from rfl) ?_ rfl rfl (fun _ => rfl)
  simp only [Bool.and_eq_true, setctxZero_iff, beq_iff_eq, decide_eq_true_iff, Bool.or_eq_true, and_assoc, hzero]
  rfl

theorem setctxT2Limit_sets :
    SetsCtx s c .setctxT2Limit true (ZeroAfter c 1 ∧ c.w2.toNat < 2 ^ 40) (fun k => k = { s.ctx (cmdOf c) with t2limit := c.w2.toNat, rings := k.rings }) := by
  refine setctx_sets hp hc hb (show _ = execSetctxT2Limit s from rfl) ?_ rfl rfl (fun _ => rfl)
  rw [Bool.and_eq_true, setctxZero_iff, dfield_high _ (by decide), beq_iff_eq, Nat.div_eq_zero_iff]
  simp

end

/-! ### A region entry (R333, R334) -/

/-- What SETCTX gives entry `n` of the context's regions. -/
def RegionHolds (s : State) (c : Cmd) (m : Ctx) (n : Nat) : Prop :=
  m = { s.ctx (cmdOf c) with regions := m.regions, counts := m.counts, ready := m.ready, rounds := m.rounds, rings := m.rings }
  ∧ m.rr n 0 = dw (c.w2.toNat / 2 ^ 23 * 2 ^ 23) ∧ m.rr n 1 = dw (c.w3.toNat % 2 ^ 52) ∧ m.rr n 2 = dw (c.w4.toNat / 2 ^ 16 * 2 ^ 16)
  ∧ m.rr n 3 = dw (c.w5.toNat % 2 ^ 52) ∧ m.rr n 4 = dw (c.w6.toNat % 2 ^ 52) ∧ m.rr n 5 = c.w7
  ∧ m.rr n 6 = dw (c.w1.toNat / 2 ^ 8 % 2 ^ 52) ∧ m.rr n 7 = 0 ∧ ∀ q i, q ≠ n → i < 8 → m.rr q i = (s.ctx (cmdOf c)).rr q i

theorem regionHolds_withRegion (s : State) (c : Cmd) (n : Nat) (rs : FMap Ring) :
    RegionHolds s c { (s.ctx (cmdOf c)).withRegion n (regionWords c) with rings := rs } n := by
  have hrr (q i : Nat) (hi : i < 8) : ({ (s.ctx (cmdOf c)).withRegion n (regionWords c) with rings := rs } : Ctx).rr q i
      = if q = n then (regionWords c).getD i 0 else (s.ctx (cmdOf c)).rr q i := Ctx.rr_withRegion _ n rfl q i hi
  have hnew (i : Nat) (hi : i < 8) := (hrr n i hi).trans (if_pos rfl)
  refine ⟨rfl, (hnew 0 (by decide)).trans ?_, (hnew 1 (by decide)).trans ?_, (hnew 2 (by decide)).trans ?_, (hnew 3 (by decide)).trans ?_,
    (hnew 4 (by decide)).trans ?_, hnew 5 (by decide), hnew 6 (by decide), hnew 7 (by decide), fun q i hq hi => (hrr q i hi).trans (if_neg hq)⟩
  · exact keepBits_high _ (by decide)
  · exact keepBits_low _ _
  · exact keepBits_high _ (by decide)
  · exact keepBits_low _ _
  · exact keepBits_low _ _

section
variable {s : State} {c : Cmd} (hp : s.manage.poweredDown = false) (hc : s.cmd = some c) (hb : s.cmdBad c = false)
include hp hc hb

/-- SETCTX of a region: invalid, busy, refused, or the entry is written. -/
theorem setctxRegion_answers {n : Nat} (hn : c.w1.toNat % 256 - 7 = n) :
    (2 ^ 60 ≤ c.w1.toNat → Turned s c .setctxRegion 2)
    ∧ (c.w1.toNat < 2 ^ 60 → s.resides (cmdOf c) = true → Turned s c .setctxRegion 1)
    ∧ (c.w1.toNat < 2 ^ 60 → s.resides (cmdOf c) = false →
        ((2 ^ 63 ≤ c.w2.toNat ∧ (((s.ctx (cmdOf c)).withRegion n (regionWords c)).rrLegal n
            && s.listOk (cmdOf c) ((s.ctx (cmdOf c)).withRegion n (regionWords c)) n) = false) → Turned s c .setctxRegion 3)
        ∧ ((c.w2.toNat < 2 ^ 63 ∨ (((s.ctx (cmdOf c)).withRegion n (regionWords c)).rrLegal n
            && s.listOk (cmdOf c) ((s.ctx (cmdOf c)).withRegion n (regionWords c)) n) = true) →
          ∃ t, exec .setctxRegion s = .next t ∧ Answered s t c 0 ∧ CmdKept s t (cmdOf c) ∧ RegionHolds s c (t.ctx (cmdOf c)) n)) := by
  subst hn
  rw [← cmdField_eq]
  have hi := show exec .setctxRegion s = execSetctxRegion s from rfl
  have htop : (dfield c.w1 63 60 != 0) = true ↔ 2 ^ 60 ≤ c.w1.toNat := by
    rw [dfield_high _ (by decide), bne_iff_ne, Nat.div_ne_zero_iff]
    simp
  have hen := Ctx.rrEn_withRegion (s.ctx (cmdOf c)) (cmdField c - 7) c
  refine ⟨fun h => ?_, fun h hres => ?_, fun h hres => ⟨fun hbad => ?_, fun hok => ?_⟩⟩
  · exact command_turned hp hc hb hi (if_pos (htop.mpr h))
  · exact command_turned hp hc hb hi ((if_neg (fun hx => absurd (htop.mp hx) (by omega))).trans (if_pos hres))
  · refine command_turned hp hc hb hi ((if_neg (fun hx => absurd (htop.mp hx) (by omega))).trans ((if_neg ?_).trans (if_pos ?_)))
    · exact Bool.eq_false_iff.mp hres
    · obtain ⟨h63, hlegal⟩ := hbad
      exact Bool.and_eq_true_iff.mpr ⟨hen.mpr h63, (Bool.not_eq_true' _).mpr hlegal⟩
  · have hno : ¬(((s.ctx (cmdOf c)).withRegion (cmdField c - 7) (regionWords c)).rrEn (cmdField c - 7)
        && !(((s.ctx (cmdOf c)).withRegion (cmdField c - 7) (regionWords c)).rrLegal (cmdField c - 7)
          && s.listOk (cmdOf c) ((s.ctx (cmdOf c)).withRegion (cmdField c - 7) (regionWords c)) (cmdField c - 7))) = true := by
      intro hx
      obtain ⟨h63, hlegal⟩ := Bool.and_eq_true_iff.mp hx
      rcases hok with hlow | hok
      · exact absurd (hen.mp h63) (by omega)
      · exact absurd hok (Bool.eq_false_iff.mp ((Bool.not_eq_true' _).mp hlegal))
    obtain ⟨t, ht, hans, hkept, rs, hctx⟩ := command_sets hp hc hb hi (k := (s.ctx (cmdOf c)).withRegion (cmdField c - 7) (regionWords c))
      ((if_neg (fun hx => absurd (htop.mp hx) (by omega))).trans ((if_neg (Bool.eq_false_iff.mp hres)).trans (if_neg hno)))
      rfl rfl rfl rfl ((State.ctx_setCtx _ _ _ _).trans (if_pos rfl)) rfl (fun v hv => (State.ctx_setCtx _ _ _ _).trans (if_neg (Ne.symm hv)))
    exact ⟨t, ht, hans, hkept, by rw [hctx]; exact regionHolds_withRegion s c _ rs⟩

end

/-! ### FABCFG (R315, R316, R376) -/

/-- What the response log changes as it passes on what it withheld. -/
def Flushed (s t : State) : Prop :=
  (∃ l w a p, t = { s with rlog := l, withheld := w, arrived := a, ports := p }) ∧ ∀ e ∈ s.rlog, e ∈ t.rlog

theorem flushed_refl (s : State) : Flushed s s := ⟨⟨s.rlog, s.withheld, s.arrived, s.ports, rfl⟩, fun _ h => h⟩

theorem flushed_trans (s t u : State) (a : Flushed s t) (b : Flushed t u) : Flushed s u := by
  obtain ⟨⟨_, _, _, _, rfl⟩, hst⟩ := a
  obtain ⟨⟨l, w, ar, p, rfl⟩, htu⟩ := b
  exact ⟨⟨l, w, ar, p, rfl⟩, fun e he => htu e (hst e he)⟩

theorem State.sendPacket_flushed (s : State) (p : Packet) : Flushed s (s.sendPacket p) := by
  unfold State.sendPacket
  dsimp only
  split
  · exact ⟨⟨s.rlog, s.withheld, _, s.ports, rfl⟩, fun _ h => h⟩
  · exact ⟨⟨s.rlog, s.withheld, s.arrived, _, rfl⟩, fun _ h => h⟩

theorem State.logResponse_flushed (s : State) (e : LogEntry) : Flushed s (s.logResponse e) := by
  unfold State.logResponse
  split
  · exact flushed_trans _ _ _ ⟨⟨_, s.withheld, s.arrived, s.ports, rfl⟩, fun _ h => List.mem_append_left _ h⟩ (State.sendPacket_flushed _ _)
  · exact ⟨⟨s.rlog, _, s.arrived, s.ports, rfl⟩, fun _ h => h⟩

theorem State.flushWithheld_flushed (s : State) : Flushed s s.flushWithheld :=
  flushed_trans s { s with withheld := [] } _ ⟨⟨s.rlog, [], s.arrived, s.ports, rfl⟩, fun _ h => h⟩
    (foldl_keep _ Flushed flushed_refl flushed_trans State.logResponse_flushed _ _)

section
variable {s : State} {c : Cmd} (hp : s.manage.poweredDown = false) (hc : s.cmd = some c) (hb : s.cmdBad c = false)
include hp hc hb

/-- A command that sets something of the fabric, and no context. -/
theorem command_fabric {i : Instr} {f : State → Cmd → State × Nat} (hi : exec i s = s.command f) {u : State} {status : Nat}
    (hf : f { s with cmd := none } c = (u, status)) (hcmd : u.cmd = none) (hhbm : u.hbm = s.hbm) (hgroups : u.groups = s.groups)
    (hlaunches : u.launches = s.launches) (hctxs : u.ctxs = s.ctxs) :
    ∃ t, exec i s = .next t ∧ Answered s t c status ∧ CmdKept s t (cmdOf c) ∧ (∀ v, v ≠ 0 → t.ctx v = s.ctx v) ∧ ∃ v, Entered u v ∧ t = v.wake := by
  have hctx (v : Nat) : u.ctx v = s.ctx v := congrArg (fun m => fget Ctx.reset m v) hctxs
  obtain ⟨t, ht, hans, v, hv, rfl, hw⟩ := command_happens hp hc hb hi hf hcmd (by unfold State.ring; rw [hctx])
  refine ⟨_, ht, hans, ?_, fun w h0 => ((hw w).2 h0).trans (hctx w), v, hv, rfl⟩
  obtain ⟨_, _, _, _, _, _, _, rfl⟩ := hv
  exact ⟨hhbm, by rw [← hgroups]; exact List.length_map _, hlaunches, fun w _ h0 => ((hw w).2 h0).trans (hctx w)⟩

theorem fabcfgImportWindow_sets :
    ∃ t, exec .fabcfgImportWindow s = .next t ∧ Answered s t c 0 ∧ CmdKept s t (cmdOf c) ∧ (∀ v, v ≠ 0 → t.ctx v = s.ctx v)
      ∧ t.iwLo c.w1.toNat = dw (c.w2.toNat / 2 ^ 54 * 2 ^ 54 + c.w2.toNat / 2 ^ 12 % 2 ^ 36 * 2 ^ 12)
      ∧ t.iwHi c.w1.toNat = dw (c.w3.toNat / 2 ^ 12 % 2 ^ 36 * 2 ^ 12)
      ∧ ∀ i, i ≠ c.w1.toNat → t.iwLo i = s.iwLo i ∧ t.iwHi i = s.iwHi i := by
  have hlow : keepBits c.w2 63 54 ||| keepBits c.w2 47 12 = dw (c.w2.toNat / 2 ^ 54 * 2 ^ 54 + c.w2.toNat / 2 ^ 12 % 2 ^ 36 * 2 ^ 12) := by
    have hlt : c.w2.toNat / 2 ^ 12 % 2 ^ 36 * 2 ^ 12 < 2 ^ 54 :=
      calc c.w2.toNat / 2 ^ 12 % 2 ^ 36 * 2 ^ 12 < 2 ^ 36 * 2 ^ 12 := Nat.mul_lt_mul_of_pos_right (Nat.mod_lt _ (by positivity)) (by positivity)
        _ ≤ 2 ^ 54 := by norm_num
    rw [keepBits_high _ (by decide)]
    exact dw_or_add _ 54 hlt
  obtain ⟨t, ht, hans, hkept, hctx, _, ⟨_, _, _, _, _, _, _, rfl⟩, rfl⟩ :=
    command_fabric hp hc hb (show exec .fabcfgImportWindow s = execFabcfgImportWindow s from rfl) rfl rfl rfl rfl rfl rfl
  refine ⟨_, ht, hans, hkept, hctx, ?_, ?_, fun i hne => ⟨?_, ?_⟩⟩
  · refine Eq.trans ?_ hlow
    change fget 0 (fset 0 (fset 0 s.iwin (2 * c.w1.toNat) _) (2 * c.w1.toNat + 1) _) (2 * c.w1.toNat) = _
    rw [fget_fset, if_neg (by omega), fget_fset, if_pos rfl]
  · change fget 0 (fset 0 _ (2 * c.w1.toNat + 1) _) (2 * c.w1.toNat + 1) = _
    rw [fget_fset, if_pos rfl]
    rfl
  · change fget 0 (fset 0 (fset 0 s.iwin (2 * c.w1.toNat) _) (2 * c.w1.toNat + 1) _) (2 * i) = fget 0 s.iwin (2 * i)
    rw [fget_fset, if_neg (by omega), fget_fset, if_neg (by omega)]
  · change fget 0 (fset 0 (fset 0 s.iwin (2 * c.w1.toNat) _) (2 * c.w1.toNat + 1) _) (2 * i + 1) = fget 0 s.iwin (2 * i + 1)
    rw [fget_fset, if_neg (by omega), fget_fset, if_neg (by omega)]

theorem fabcfgResponseLog_refused (h : c.w2.toNat % 4096 ≠ 0 ∨ c.w3.toNat < 65536 ∨ s.inHbm c.w2.toNat c.w3.toNat = false) :
    Turned s c .fabcfgResponseLog 2 := by
  refine command_turned hp hc hb (show exec .fabcfgResponseLog s = execFabcfgResponseLog s from rfl) (if_pos ?_)
  have h' : c.w2.toNat % 4096 ≠ 0 ∨ c.w3.toNat < 65536 ∨ State.inHbm { s with cmd := none } c.w2.toNat c.w3.toNat = false := h
  simpa [or_assoc] using h'

theorem fabcfgResponseLog_sets (ha : c.w2.toNat % 4096 = 0) (hsize : 65536 ≤ c.w3.toNat) (hin : s.inHbm c.w2.toNat c.w3.toNat = true) :
    ∃ t, exec .fabcfgResponseLog s = .next t ∧ Answered s t c 0 ∧ CmdKept s t (cmdOf c)
      ∧ t.rlogBase = c.w2 ∧ t.rlogSize = c.w3 ∧ ∀ e ∈ s.rlog, e ∈ t.rlog := by
  have hin' : State.inHbm { s with cmd := none } c.w2.toNat c.w3.toNat = true := hin
  obtain ⟨⟨l, w, ar, p, hu⟩, hmem⟩ := State.flushWithheld_flushed { s with cmd := none, rlogBase := c.w2, rlogSize := c.w3 }
  rw [hu] at hmem
  obtain ⟨t, ht, hans, hkept, -, _, ⟨_, _, _, _, _, _, _, rfl⟩, rfl⟩ :=
    command_fabric hp hc hb (show exec .fabcfgResponseLog s = execFabcfgResponseLog s from rfl)
      ((if_neg (by simp [ha, hsize, hin'])).trans (congrArg (·, 0) hu)) rfl rfl rfl rfl rfl
  exact ⟨_, ht, hans, hkept, rfl, rfl, hmem⟩

end

end Sys2Proof.Machine

namespace Sys2Proof.Proofs.MemoryRules
open Sys2Proof.Machine

/-- Settles O53: a command on a context is invalid, busy, refused, or sets its field, and nothing else of the context. -/
theorem contextCommands : Obligations.ContextCommands := by
  intro s c hp hc hb vf C f a b d kept turned sets zero
  obtain ⟨hinvalid, hbusy, hregion⟩ := setctxRegion_answers hp hc hb (n := f - 7) rfl
  refine ⟨setctxRoot_sets hp hc hb, setctxWindow_sets hp hc hb, setctxAgel_sets hp hc hb, setctxRoute_sets hp hc hb, setctxSavebase_sets hp hc hb,
    setctxWeightRegion_sets hp hc hb, setctxMigrationPolicy_sets hp hc hb, setctxFramePool_sets hp hc hb, setctxT2Limit_sets hp hc hb,
    ⟨hinvalid, hbusy, fun h hres hno => ?_, fun h hres hok => (hregion h hres).2 hok⟩,
    command_turned hp hc hb (show exec .unknownOp s = execUnknownOp s from rfl) rfl,
    fabcfgImportWindow_sets hp hc hb, fabcfgResponseLog_refused hp hc hb, fabcfgResponseLog_sets hp hc hb⟩
  obtain ⟨h63, hlegal⟩ := not_or.mp hno
  exact (hregion h hres).1 ⟨not_lt.mp h63, Bool.eq_false_iff.mpr hlegal⟩

end Sys2Proof.Proofs.MemoryRules

namespace Sys2Proof.Machine

/-! ### Bytes written and read again -/

theorem writeList_append (m : FMap Byte) (a : Nat) (p q : List Byte) : writeList m a (p ++ q) = writeList (writeList m a p) (a + p.length) q := by
  induction p generalizing m a with
  | nil => rfl
  | cons b p ih =>
    rw [List.cons_append, writeList, ih, writeList, List.length_cons, Nat.add_assoc, Nat.add_comm 1]

/-- Some of the bytes written, read back. -/
theorem readBytes_writeList_mid (m : FMap Byte) (a : Nat) (p q r : List Byte) :
    readBytes (writeList m a (p ++ (q ++ r))) (a + p.length) q.length = numOf q := by
  rw [writeList_append, writeList_append, readBytes_writeList_other _ _ _ _ _ (Or.inl le_rfl)]
  exact readBytes_writeList _ _ _

/-! ### What an answer leaves (R375) -/

theorem State.answerCmd_hbm (u : State) (c : Cmd) (status : Nat) : (u.answerCmd c status).hbm = u.hbm := by
  obtain ⟨_, _, _, _, _, _, _, h⟩ := u.answerCmd_entered c status
  rw [h]

theorem State.answerCmd_tlb (u : State) (c : Cmd) (status : Nat) : (u.answerCmd c status).tlb = u.tlb := by
  obtain ⟨_, _, _, _, _, _, _, h⟩ := u.answerCmd_entered c status
  rw [h]

theorem State.answerCmd_ports (u : State) (c : Cmd) (status : Nat) : (u.answerCmd c status).ports = u.ports := by
  obtain ⟨_, _, _, _, _, _, _, h⟩ := u.answerCmd_entered c status
  rw [h]

theorem State.answerCmd_launches (u : State) (c : Cmd) (status : Nat) : (u.answerCmd c status).launches = u.launches := by
  obtain ⟨_, _, _, _, _, _, _, h⟩ := u.answerCmd_entered c status
  rw [h]

theorem State.answerCmd_replay (u : State) (c : Cmd) (status : Nat) : (u.answerCmd c status).replay = none ↔ u.replay = none := by
  obtain ⟨_, _, _, _, _, _, _, h⟩ := u.answerCmd_entered c status
  rw [h]

theorem State.answerCmd_pm (u : State) (c : Cmd) (status k : Nat) : ((u.answerCmd c status).core k).pm = (u.core k).pm :=
  u.spend.pushOrDrop_pm _ _ _ _

/-- Host memory apart from the entry of the answer. -/
theorem State.answerCmd_host_other (u : State) (c : Cmd) (status a n : Nat)
    (h : (u.ring 0 6).entryAt 6 (u.ring 0 6).pi.toNat + 16 ≤ a ∨ a + n ≤ (u.ring 0 6).entryAt 6 (u.ring 0 6).pi.toNat) :
    readBytes (u.answerCmd c status).host a n = readBytes u.host a n := by
  unfold State.answerCmd State.complete
  rw [State.pushOrDrop_host]
  split
  · exact readBytes_writeList_other _ _ _ _ _ (by rw [length_flatMap_bytesOf]; exact h.symm)
  · rfl

/-- Memory, translations, links and launches are as they were. -/
def CmdSame (s t : State) : Prop := t.hbm = s.hbm ∧ t.tlb = s.tlb ∧ t.ports = s.ports ∧ t.launches = s.launches

theorem CmdSame.answered {s u : State} (h : CmdSame s u) (c : Cmd) (status : Nat) : CmdSame s (u.answerCmd c status).wake := by
  obtain ⟨hhbm, htlb, hports, hlaunches⟩ := h
  exact ⟨(u.answerCmd_hbm c status).trans hhbm, (u.answerCmd_tlb c status).trans htlb, (u.answerCmd_ports c status).trans hports,
    (u.answerCmd_launches c status).trans hlaunches⟩

/-- The command is answered with `status`, and the state after it is as `P` says. -/
def AnswersWith (s : State) (c : Cmd) (i : Instr) (status : Nat) (P : State → Prop) : Prop :=
  ∃ t, exec i s = .next t ∧ Answered s t c status ∧ P t

/-! ### Translations, lanes, counters (R105, R307, R385) -/

/-- What forgetting the translations of a range leaves as it was. -/
def Forgotten (s t : State) : Prop := ∃ cs ho, t = { s with cores := cs, hostOld := ho }

theorem forgotten_refl (s : State) : Forgotten s s := ⟨s.cores, s.hostOld, rfl⟩

theorem forgotten_trans (s t u : State) (a : Forgotten s t) (b : Forgotten t u) : Forgotten s u := by
  obtain ⟨_, _, rfl⟩ := a
  obtain ⟨cs, ho, rfl⟩ := b
  exact ⟨cs, ho, rfl⟩

theorem State.invalidate_shape (s : State) (vf va n : Nat) : ∃ h cs ho, s.invalidate vf va n
    = { s.setCtx vf { s.ctx vf with saved := { (s.ctx vf).saved with held := h } } with
        tlb := s.tlb.filter (fun t => !(t.vf == vf && t.meets va n)), cores := cs, hostOld := ho } := by
  have h (f : Access → Access) (ws : List Nat) : Forgotten _ (ws.foldl (fun t w => ({ t with hostOld := fremove w t.hostOld } : State).dropL1 (fun _ => true) true (w / 16))
      (State.setCtx { s with tlb := s.tlb.filter (fun t => !(t.vf == vf && t.meets va n)) } vf
        { s.ctx vf with saved := { (s.ctx vf).saved with held := (s.ctx vf).saved.held.map f } })) :=
    foldl_keep _ Forgotten forgotten_refl forgotten_trans (fun t w => ⟨_, _, rfl⟩) ws _
  obtain ⟨cs, ho, h⟩ := h _ _
  exact ⟨_, cs, ho, h⟩

theorem State.invalidate_keeps (s : State) (vf va n : Nat) : (s.invalidate vf va n).cmd = s.cmd ∧ (s.invalidate vf va n).hbm = s.hbm
    ∧ (s.invalidate vf va n).tlb = s.tlb.filter (fun t => !(t.vf == vf && t.meets va n)) ∧ (s.invalidate vf va n).ring 0 6 = s.ring 0 6 := by
  obtain ⟨k, cs, ho, h⟩ := s.invalidate_shape vf va n
  rw [h]
  refine ⟨rfl, rfl, rfl, ?_⟩
  have hctx := State.ctx_setCtx s vf 0 { s.ctx vf with saved := { (s.ctx vf).saved with held := k } }
  refine (congrArg (fun x : Ctx => fget Ring.reset x.rings 6) hctx).trans ?_
  split
  · next h0 => rw [h0]; rfl
  · rfl

/-- The cached translations of a range. -/
def RangeHit (vf va n : Nat) (e : Tlb) : Prop :=
  e.vf = vf ∧ e.page * 4096 / e.span * e.span < va + n ∧ va < e.page * 4096 / e.span * e.span + e.span

theorem rangeHit_iff (vf va n : Nat) (e : Tlb) : (e.vf == vf && e.meets va n) = true ↔ RangeHit vf va n e := by
  simp [RangeHit, Tlb.meets]

theorem State.port_setPort (s : State) (p q : Nat) (k : Port) : (s.setPort p k).port q = if p = q then k else s.port q :=
  fget_fset _ _ _ _ _

/-- The split of a port's good lanes (R307). -/
theorem Port.split_out (k : Port) (h : 2 ≤ k.good) : k.split.1 = max 1 (min (k.good * k.lsplit / 16) (k.good - 1)) := by
  unfold Port.split
  dsimp only
  split
  · omega
  · split <;> omega

theorem fget_of_forall {α : Type} (P : α → Prop) {d : α} (hd : P d) (m : FMap α) (hm : ∀ e ∈ m, P e.2) (k : Nat) : P (fget d m k) := by
  induction m with
  | nil => exact hd
  | cons e m ih =>
    rw [fget]
    split
    · exact hm e List.mem_cons_self
    · exact ih (fun x hx => hm x (List.mem_cons_of_mem _ hx))

/-- Every core's counters restart. -/
theorem State.setPm_pm (s : State) (w : Dword) (k : Nat) : ((s.setPm w).core k).pm = [] := by
  refine fget_of_forall (fun c : Core => c.pm = []) rfl _ (fun e he => ?_) k
  obtain ⟨x, -, rfl⟩ := List.mem_map.mp (List.mem_filter.mp he).1
  rfl

/-- What a debugger's read does with what it found. -/
def dbgEffect (s : State) (c : Cmd) : DbgRes → State × Nat
  | .data bs => ((State.spend { s with cmd := none }).writeLoc (.host c.w4.toNat) bs none noVf, 0)
  | .withheld => (State.spend { s with cmd := none }, 3)
  | .bad => ({ s with cmd := none }, 2)

theorem dbgEffect_eq (s : State) (c : Cmd) : (match State.dbgRead { s with cmd := none } (cmdVf c) c.w2.toNat c.w3.toNat with
      | .data bs => ((State.spend { s with cmd := none }).writeLoc (.host c.w4.toNat) bs none noVf, 0)
      | .withheld => (State.spend { s with cmd := none }, 3)
      | .bad => ({ s with cmd := none }, 2)) = dbgEffect s c (State.dbgRead { s with cmd := none } (cmdVf c) c.w2.toNat c.w3.toNat) := by
  cases State.dbgRead { s with cmd := none } (cmdVf c) c.w2.toNat c.w3.toNat <;> rfl

section
variable {s : State} {c : Cmd} (hp : s.manage.poweredDown = false) (hc : s.cmd = some c) (hb : s.cmdBad c = false)
include hp hc hb

theorem command_answers {i : Instr} {f : State → Cmd → State × Nat} (hi : exec i s = s.command f) {u : State} {status : Nat} {P : State → Prop}
    (hf : f { s with cmd := none } c = (u, status)) (hcmd : u.cmd = none) (hring : u.ring 0 6 = s.ring 0 6)
    (hP : P (u.answerCmd c status).wake) : AnswersWith s c i status P :=
  ⟨(u.answerCmd c status).wake, by rw [hi, State.command_eq hp hc hb, hf], State.answerCmd_answered status hcmd hring, hP⟩

/-- A command that changes nothing. -/
theorem command_refuses {i : Instr} {f : State → Cmd → State × Nat} (hi : exec i s = s.command f) {status : Nat}
    (hf : f { s with cmd := none } c = ({ s with cmd := none }, status)) : AnswersWith s c i status (CmdSame s) :=
  command_answers hp hc hb hi hf rfl rfl (CmdSame.answered ⟨rfl, rfl, rfl, rfl⟩ c status)

omit hp hb in
theorem exec_inval : exec .inval s = (if 2 ^ 52 < c.w1.toNat + c.w2.toNat then s.command (fun s _ => (s, 2))
    else if (s.flight ++ s.unacked).any (fun a => a.inRange (cmdVf c) c.w1.toNat c.w2.toNat)
        || (s.reqs ++ s.waitReqs).any (fun r => r.inRange (cmdVf c) c.w1.toNat c.w2.toNat) then .fault .notDue
    else s.command (fun s _ => (s.invalidate (cmdVf c) c.w1.toNat c.w2.toNat, 0))) := by
  change execInval s = _
  unfold execInval
  rw [hc]

theorem inval_invalid (h : 2 ^ 52 < c.w1.toNat + c.w2.toNat) : AnswersWith s c .inval 2 (CmdSame s) :=
  command_refuses hp hc hb ((exec_inval hc).trans (if_pos h)) rfl

omit hp hb in
theorem inval_waits (h : c.w1.toNat + c.w2.toNat ≤ 2 ^ 52) (hf : ∃ f ∈ s.flight ++ s.unacked, f.inRange (cmdOf c) c.w1.toNat c.w2.toNat = true) :
    exec .inval s = .fault .notDue := by
  have hany : (s.flight ++ s.unacked).any (fun a => a.inRange (cmdVf c) c.w1.toNat c.w2.toNat) = true := List.any_eq_true.mpr hf
  rw [exec_inval hc, if_neg (not_lt.mpr h), hany]
  rfl

theorem inval_forgets (h : c.w1.toNat + c.w2.toNat ≤ 2 ^ 52) (hf : ∀ f ∈ s.flight ++ s.unacked, f.inRange (cmdOf c) c.w1.toNat c.w2.toNat = false)
    (hr : ∀ r ∈ s.reqs ++ s.waitReqs, r.inRange (cmdOf c) c.w1.toNat c.w2.toNat = false) :
    AnswersWith s c .inval 0 (fun t => (∀ e ∈ t.tlb, ¬RangeHit (cmdOf c) c.w1.toNat c.w2.toNat e)
      ∧ (∀ e ∈ s.tlb, ¬RangeHit (cmdOf c) c.w1.toNat c.w2.toNat e → e ∈ t.tlb) ∧ t.hbm = s.hbm) := by
  have hnone : ((s.flight ++ s.unacked).any (fun a => a.inRange (cmdVf c) c.w1.toNat c.w2.toNat)
      || (s.reqs ++ s.waitReqs).any (fun r => r.inRange (cmdVf c) c.w1.toNat c.w2.toNat)) = false :=
    Bool.or_eq_false_iff.mpr ⟨List.any_eq_false.mpr (fun f hm => Bool.eq_false_iff.mp (hf f hm)), List.any_eq_false.mpr (fun r hm => Bool.eq_false_iff.mp (hr r hm))⟩
  have hi := (exec_inval hc).trans ((if_neg (not_lt.mpr h)).trans (if_neg (Bool.eq_false_iff.mp hnone)))
  obtain ⟨hcmd, hhbm, htlb, hring⟩ := State.invalidate_keeps { s with cmd := none } (cmdVf c) c.w1.toNat c.w2.toNat
  refine command_answers hp hc hb hi rfl hcmd hring ⟨fun e he hhit => ?_, fun e he hno => ?_, (State.answerCmd_hbm _ c 0).trans hhbm⟩
  · rw [State.wake_tlb, State.answerCmd_tlb, htlb] at he
    have hkeep := (List.mem_filter.mp he).2
    rw [(rangeHit_iff (cmdVf c) _ _ e).mpr hhit] at hkeep
    exact absurd hkeep (by decide)
  · rw [State.wake_tlb, State.answerCmd_tlb, htlb]
    exact List.mem_filter.mpr ⟨he, by rw [Bool.eq_false_iff.mpr (fun hx => hno ((rangeHit_iff (cmdVf c) _ _ e).mp hx))]; rfl⟩

theorem lsplit_invalid (h : 18 ≤ c.w1.toNat ∨ c.w2.toNat = 0 ∨ 15 < c.w2.toNat) : AnswersWith s c .lsplit 2 (CmdSame s) :=
  command_refuses hp hc hb (show _ = execLsplit s from rfl) (if_pos (by simpa [or_assoc] using h))

theorem lsplit_splits (ha : c.w1.toNat < 18) (h1 : 1 ≤ c.w2.toNat) (h15 : c.w2.toNat ≤ 15) (hgood : 2 ≤ (s.port c.w1.toNat).good) {o : Nat}
    (ho : o = max 1 (min ((s.port c.w1.toNat).good * c.w2.toNat / 16) ((s.port c.w1.toNat).good - 1))) :
    AnswersWith s c .lsplit 0 (fun t => (t.port c.w1.toNat).lsplit = c.w2.toNat ∧ (∀ q, q ≠ c.w1.toNat → t.port q = s.port q)
      ∧ (t.port c.w1.toNat).out = (s.port c.w1.toNat).out ∧ (o ≠ (s.port c.w1.toNat).out → (t.port c.w1.toNat).newOut = some o)
      ∧ ((s.port c.w1.toNat).good - o ≠ (s.port c.w1.toNat).inn → (t.port c.w1.toNat).newIn = some ((s.port c.w1.toNat).good - o))) := by
  have hsplit : ({ s.port c.w1.toNat with lsplit := c.w2.toNat } : Port).split = (o, (s.port c.w1.toNat).good - o) := by
    have := Port.split_out { s.port c.w1.toNat with lsplit := c.w2.toNat } hgood
    rw [ho, ← this]
    rfl
  refine command_answers hp hc hb (show _ = execLsplit s from rfl) (if_neg (by simp; omega)) rfl rfl ?_
  have hport (q : Nat) : ((State.setPort { s with cmd := none } c.w1.toNat
      (({ s.port c.w1.toNat with lsplit := c.w2.toNat } : Port).replan false false)).answerCmd c 0).wake.port q
      = if c.w1.toNat = q then ({ s.port c.w1.toNat with lsplit := c.w2.toNat } : Port).replan false false else s.port q :=
    (congrArg (fun m => fget Port.reset m q) (State.answerCmd_ports _ c 0)).trans (State.port_setPort _ _ _ _)
  have hnew := (hport c.w1.toNat).trans (if_pos rfl)
  refine ⟨(congrArg Port.lsplit hnew).trans rfl, fun q hq => (hport q).trans (if_neg (Ne.symm hq)), (congrArg Port.out hnew).trans rfl, fun hne => ?_, fun hne => ?_⟩
  · refine (congrArg Port.newOut hnew).trans ?_
    unfold Port.replan
    rw [hsplit]
    exact if_pos (by simp [hne])
  · refine (congrArg Port.newIn hnew).trans ?_
    unfold Port.replan
    rw [hsplit]
    exact if_pos (by simp [hne])

/-! ### Reading and measuring (R365, R379, R381, R385) -/

theorem dbgrd_invalid (h : 4096 ≤ c.w1.toNat ∨ c.w3.toNat = 0 ∨ 4096 < c.w3.toNat) : AnswersWith s c .dbgrd 2 (CmdSame s) :=
  command_refuses hp hc hb (show _ = execDbgrd s from rfl) (if_pos (by simpa [or_assoc] using h))

omit hp hc hb in
theorem dbgrd_core (h : c.w1.toNat < 4096) : dfield c.w1 11 2 = c.w1.toNat / 4 := Nat.mod_eq_of_lt (by omega)

theorem dbgrd_refused (ha : c.w1.toNat < 4096) (h1 : 1 ≤ c.w3.toNat) (hn : c.w3.toNat ≤ 4096)
    (h : (s.ctx (cmdOf c)).st ≠ .halted ∨ ∀ k ∈ (s.ctx (cmdOf c)).saved.blocks, k.core ≠ c.w1.toNat / 4) : AnswersWith s c .dbgrd 3 (CmdSame s) := by
  refine command_refuses hp hc hb (show _ = execDbgrd s from rfl) ((if_neg (by simp; omega)).trans (if_pos ?_))
  have h' : (State.ctx { s with cmd := none } (cmdVf c)).st ≠ .halted
      ∨ ∀ k ∈ (State.ctx { s with cmd := none } (cmdVf c)).saved.blocks, k.core ≠ c.w1.toNat / 4 := h
  simpa [dbgrd_core ha] using h'

/-- A read that may be done gives what the bytes give. -/
theorem dbgrd_reads (ha : c.w1.toNat < 4096) (h1 : 1 ≤ c.w3.toNat) (hn : c.w3.toNat ≤ 4096) (hst : (s.ctx (cmdOf c)).st = .halted)
    (hcore : ∃ k ∈ (s.ctx (cmdOf c)).saved.blocks, k.core = c.w1.toNat / 4) {u : State} {status : Nat}
    (hu : dbgEffect s c (State.dbgRead { s with cmd := none } (cmdOf c) c.w2.toNat c.w3.toNat) = (u, status))
    (hcmd : u.cmd = none) (hring : u.ring 0 6 = s.ring 0 6) {P : State → Prop} (hP : P (u.answerCmd c status).wake) : AnswersWith s c .dbgrd status P := by
  refine command_answers hp hc hb (show _ = execDbgrd s from rfl) ((if_neg (by simp; omega)).trans ((if_neg ?_).trans ((dbgEffect_eq s c).trans hu))) hcmd hring hP
  have hst' : (State.ctx { s with cmd := none } (cmdVf c)).st = .halted := hst
  have hcore' : ∃ k ∈ (State.ctx { s with cmd := none } (cmdVf c)).saved.blocks, k.core = c.w1.toNat / 4 := hcore
  simpa [dbgrd_core ha, hst'] using hcore'

omit hp hc hb in
/-- Host memory after an answer to a command that wrote into it. -/
theorem answered_writesHost (a : Nat) (bs : List Byte) :
    ∃ u, (State.spend { s with cmd := none }).writeLoc (.host a) bs none noVf = u ∧ u.cmd = none ∧ u.ring 0 6 = s.ring 0 6
      ∧ CmdSame s (u.answerCmd c 0).wake ∧ ∀ b n, (s.ring 0 6).entryAt 6 (s.ring 0 6).pi.toNat + 16 ≤ b
        ∨ b + n ≤ (s.ring 0 6).entryAt 6 (s.ring 0 6).pi.toNat → readBytes (u.answerCmd c 0).wake.host b n = readBytes (writeList s.host a bs) b n := by
  obtain ⟨ho, co, cs, ds, n, hw⟩ := (State.spend { s with cmd := none }).writeLoc_host_noVf a bs none
  exact ⟨_, hw, rfl, rfl, CmdSame.answered ⟨rfl, rfl, rfl, rfl⟩ c 0, fun b n h => State.answerCmd_host_other _ c 0 b n h⟩

/-- Bytes read for a debugger go to the host. -/
theorem dbgrd_data (ha : c.w1.toNat < 4096) (h1 : 1 ≤ c.w3.toNat) (hn : c.w3.toNat ≤ 4096) (hst : (s.ctx (cmdOf c)).st = .halted)
    (hcore : ∃ k ∈ (s.ctx (cmdOf c)).saved.blocks, k.core = c.w1.toNat / 4) {bs : List Byte}
    (hbs : State.dbgRead { s with cmd := none } (cmdOf c) c.w2.toNat c.w3.toNat = .data bs) :
    AnswersWith s c .dbgrd 0 (fun t => CmdSame s t ∧ ((s.ring 0 6).entryAt 6 (s.ring 0 6).pi.toNat + 16 ≤ c.w4.toNat
        ∨ c.w4.toNat + bs.length ≤ (s.ring 0 6).entryAt 6 (s.ring 0 6).pi.toNat → readBytes t.host c.w4.toNat bs.length = numOf bs)) := by
  obtain ⟨u, hu, hcmd, hring, hsame, hread⟩ := answered_writesHost (s := s) (c := c) c.w4.toNat bs
  refine dbgrd_reads hp hc hb ha h1 hn hst hcore (u := u) (status := 0) ?_ hcmd hring ⟨hsame, fun h => (hread _ _ h).trans (readBytes_writeList _ _ _)⟩
  rw [hbs, ← hu]
  rfl

theorem pmctl_restarts : AnswersWith s c .pmctl 0 (fun t => t.manage.pmctl = c.w1 ∧ (∀ k, (t.core k).pm = []) ∧ CmdSame s t) := by
  refine command_answers hp hc hb (show _ = execPmctl s from rfl) rfl rfl rfl ⟨?_, fun k => ?_, CmdSame.answered ⟨rfl, rfl, rfl, rfl⟩ c 0⟩
  · exact congrArg Manage.pmctl (State.answerCmd_manage _ c 0)
  · exact (State.answerCmd_pm _ c 0 k).trans (State.setPm_pm _ _ k)

theorem fwload_answers {image : List Byte} (himage : image = bytesOf c.w2.toNat (s.hostRead c.w1.toNat c.w2.toNat)) :
    (Config.verifies image = true → AnswersWith s c .fwload 0 (fun t => t.manage.fwNext = image ∧ t.manage.firmware = s.manage.firmware ∧ CmdSame s t))
    ∧ (Config.verifies image = false → AnswersWith s c .fwload 5 (fun t => t.manage = s.manage ∧ CmdSame s t)) := by
  subst himage
  refine ⟨fun h => ?_, fun h => ?_⟩
  · refine command_answers hp hc hb (show _ = execFwload s from rfl) (if_pos h) rfl rfl ⟨?_, ?_, CmdSame.answered ⟨rfl, rfl, rfl, rfl⟩ c 0⟩
    · exact (congrArg Manage.fwNext (State.answerCmd_manage _ c 0)).trans rfl
    · exact (congrArg Manage.firmware (State.answerCmd_manage _ c 0)).trans rfl
  · exact command_answers hp hc hb (show _ = execFwload s from rfl) (if_neg (Bool.eq_false_iff.mp h)) rfl rfl
      ⟨State.answerCmd_manage _ c 5, CmdSame.answered ⟨rfl, rfl, rfl, rfl⟩ c 5⟩

end


/-! ### Reading and touching whatever the counters count (R104, R385) -/

/-- A walk reads HBM, and which of it is installed. -/
theorem State.walkFrom_congr {s t : State} (hhbm : t.hbm = s.hbm) (hmode : t.manage.mode = s.manage.mode) (c : Ctx) (va n table : Nat) :
    t.walkFrom c va n table = s.walkFrom c va n table := by
  have hin (a k : Nat) : t.inHbm a k = s.inHbm a k := by unfold State.inHbm State.dieOn; rw [hmode]
  induction n generalizing table with
  | zero => rfl
  | succ n ih =>
    unfold State.walkFrom State.leafOk State.runOk
    simp only [hhbm, hin, ih]

/-- The state with other performance counters and their control word, and no command. -/
def State.recounted (s : State) (p : Dword) (cs : FMap Core) : State := { s with manage := { s.manage with pmctl := p }, cores := cs, cmd := none }

section
variable (s : State) (p : Dword) (cs : FMap Core)

theorem State.recounted_walks (vf va : Nat) : (s.recounted p cs).walks vf va = s.walks vf va := by
  have hwalk : (s.recounted p cs).walk vf va = s.walk vf va := State.walkFrom_congr (s := s) (t := s.recounted p cs) rfl rfl _ _ _ _
  unfold State.walks
  rw [hwalk]
  rfl

theorem State.recounted_lookup (vf va : Nat) : (s.recounted p cs).lookup vf va = s.lookup vf va := by
  unfold State.lookup
  rw [State.recounted_walks]
  rfl

theorem State.recounted_access (vf va : Nat) (write : Bool) (size : Nat) : (s.recounted p cs).access vf va write size = s.access vf va write size := by
  unfold State.access
  rw [State.recounted_lookup]
  rfl

theorem State.recounted_locOf : (s.recounted p cs).locOf = s.locOf := by
  funext vf va
  unfold State.locOf
  rw [State.recounted_lookup]

theorem State.recounted_lineHeld (l : Loc) : (s.recounted p cs).lineHeld l = s.lineHeld l := by
  have hpiece : (s.recounted p cs).pieceDests = s.pieceDests := by
    funext t q
    unfold State.pieceDests
    rw [State.recounted_locOf]
    rfl
  have hrow : (s.recounted p cs).rowDests = s.rowDests := by
    funext r w
    unfold State.rowDests
    rw [State.recounted_locOf]
    rfl
  unfold State.lineHeld State.heldFor
  rw [hpiece, hrow]
  rfl

theorem State.recounted_launchWords (vf : Nat) (spawn : Bool) (n va : Nat) :
    (s.recounted p cs).launchWords vf spawn n va = s.launchWords vf spawn n va := by
  induction n generalizing va with
  | zero => rfl
  | succ n ih =>
    unfold State.launchWords
    rw [State.recounted_access]
    simp only [ih, State.recounted_lineHeld]
    rfl

theorem State.recounted_markDirty (host : Bool) (line : Nat) : (s.recounted p cs).markDirty host line = (s.markDirty host line).recounted p cs := by
  unfold State.markDirty
  have h : (s.recounted p cs).dirty = s.dirty := rfl
  rw [h]
  split <;> rfl

theorem State.recounted_writeLoc_hbm (a : Nat) (bs : List Byte) (core : Option Nat) :
    ∃ cs', (s.recounted p cs).writeLoc (.hbm a) bs core noVf = (s.writeLoc (.hbm a) bs core noVf).recounted p cs' := by
  have hfold (q : Nat → Bool) (ls : List Nat) (t : State) (cs : FMap Core) :
      ∃ cs', ls.foldl (fun s line => (s.dropL1 q false line).markDirty false line) (t.recounted p cs)
        = (ls.foldl (fun s line => (s.dropL1 q false line).markDirty false line) t).recounted p cs' := by
    induction ls generalizing t cs with
    | nil => exact ⟨cs, rfl⟩
    | cons line ls ih =>
      obtain ⟨cs1, h1⟩ : ∃ cs1, (t.recounted p cs).dropL1 q false line = (t.dropL1 q false line).recounted p cs1 := ⟨_, rfl⟩
      rw [List.foldl_cons, h1, State.recounted_markDirty]
      exact ih _ _
  unfold State.writeLoc
  rw [State.capture_noVf, State.capture_noVf]
  exact hfold _ _ { s with hbm := writeList s.hbm a bs, codeOld := s.oldCode false a bs.length } cs

theorem State.recounted_touch (vf va : Nat) (write : Bool) (l : Loc) :
    ∃ cs', (s.recounted p cs).touch vf va write l = (s.touch vf va write l).recounted p cs' := by
  unfold State.touch
  rw [State.recounted_walks, State.recounted_lookup]
  split
  · next e a span _ =>
    have hhbm : (s.recounted p cs).hbm = s.hbm := rfl
    unfold State.writeNum
    dsimp only
    rw [hhbm]
    generalize (readBytes s.hbm a 8 ||| (if write = true then 0x300 else 0x100)) = now
    obtain ⟨cs', h⟩ := s.recounted_writeLoc_hbm p cs a (bytesOf 8 now) none
    rw [h]
    generalize s.writeLoc (.hbm a) (bytesOf 8 now) none noVf = t
    split
    · exact ⟨cs, rfl⟩
    · exact ⟨cs', rfl⟩
  · exact ⟨cs, rfl⟩

theorem State.recounted_launchTouch (vf va n : Nat) : ∃ cs', (s.recounted p cs).launchTouch vf va n = (s.launchTouch vf va n).recounted p cs' := by
  unfold State.launchTouch
  generalize linesOf va (8 * n) = ls
  induction ls generalizing s cs with
  | nil => exact ⟨cs, rfl⟩
  | cons k ls ih =>
    rw [List.foldl_cons, List.foldl_cons]
    dsimp only
    rw [State.recounted_access]
    split
    · next l _ =>
      obtain ⟨cs', h⟩ := s.recounted_touch p cs vf (if 128 * k < va then va else 128 * k) false l
      rw [h]
      exact ih _ _
    · exact ih _ _

end
/-! ### What an access that is noted changes (R104, R105, R376) -/

/-- HBM for the entry, what follows a write, the function's heat, the cached translations. -/
def Touched (s t : State) : Prop :=
  ∃ h co cs ds n xs tl, t = { s with hbm := h, codeOld := co, cores := cs, dirty := ds, free := n, ctxs := xs, tlb := tl }

theorem touched_refl (s : State) : Touched s s := ⟨s.hbm, s.codeOld, s.cores, s.dirty, s.free, s.ctxs, s.tlb, rfl⟩

theorem touched_trans (s t u : State) (a : Touched s t) (b : Touched t u) : Touched s u := by
  obtain ⟨_, _, _, _, _, _, _, rfl⟩ := a
  obtain ⟨h, co, cs, ds, n, xs, tl, rfl⟩ := b
  exact ⟨h, co, cs, ds, n, xs, tl, rfl⟩

theorem State.touch_touched (s : State) (vf va : Nat) (write : Bool) (l : Loc) : Touched s (s.touch vf va write l) := by
  have hentry (t u : State) (h : Touched t u) (v : Nat) (k : Ctx) (tl : List Tlb) : Touched t { u.setCtx v k with tlb := tl } := by
    obtain ⟨hh, co, cs, ds, n, xs, _, rfl⟩ := h
    exact ⟨hh, co, cs, ds, n, _, tl, rfl⟩
  unfold State.touch
  split
  · next e a span _ =>
    dsimp only
    generalize (readBytes s.hbm a 8 ||| (if write = true then 0x300 else 0x100)) = now
    refine hentry s _ ?_ _ _ _
    split
    · exact touched_refl s
    · obtain ⟨co, cs, ds, n, h⟩ := s.writeLoc_hbm_noVf a (bytesOf 8 now) none
      exact ⟨_, co, cs, ds, n, s.ctxs, s.tlb, h⟩
  · exact touched_refl s

theorem State.launchTouch_touched (s : State) (vf va n : Nat) : Touched s (s.launchTouch vf va n) := by
  refine foldl_keep _ Touched touched_refl touched_trans (fun s k => ?_) _ s
  dsimp only
  split
  · exact s.touch_touched _ _ _ _
  · exact touched_refl s

/-! ### REPLAY (R386-R388) -/

/-- The word of PMCTL that a pass's counters run under. -/
def State.passPm (r : Replay) : Dword := dw (2 ^ 63 + at' (cmdVf r.cmd) 48 + (r.sels.getD (r.pass - 1) 0).toNat)

/-- The memory that a pass begins with: the record's and the uniforms' pages are noted as read. -/
def State.passTouch (s : State) (r : Replay) (l : LaunchRec) : State :=
  (s.launchTouch (cmdVf r.cmd) r.cmd.w1.toNat 32).launchTouch (cmdVf r.cmd) l.ktab.toNat (shKcount l.shape)

/-- The pass begins: its replay is set, its launch accepted. -/
def State.passStarted (s : State) (r : Replay) (l : LaunchRec) (k : List Dword) : State :=
  let u := (s.setPm (State.passPm r)).passTouch r l
  State.acceptLaunch { u with replay := some { r with psig := 0, startCycle := (u.die 0).cycles } } (cmdVf r.cmd) false true r.cmd.w1.toNat l k

/-- What a record must be for a pass to begin. -/
def State.PassReads (s : State) (r : Replay) (ws k : List Dword) : Prop :=
  s.launchWords (cmdVf r.cmd) false 32 r.cmd.w1.toNat = .ok ws ∧ s.launchCause (launchOf ws) = 0
  ∧ s.launchWords (cmdVf r.cmd) false (shKcount (launchOf ws).shape) (launchOf ws).ktab.toNat = .ok k

theorem State.beginPass_of_reads {s : State} {r : Replay} {ws k : List Dword} (h : (s.setPm (State.passPm r)).PassReads r ws k) :
    s.beginPass r = some (s.passStarted r (launchOf ws) k) := by
  obtain ⟨hws, hcause, hk⟩ := h
  unfold State.beginPass
  dsimp only
  change (match (s.setPm (State.passPm r)).launchWords (cmdVf r.cmd) false 32 r.cmd.w1.toNat with | .error _ => _ | .ok ws => _) = _
  rw [hws]
  dsimp only
  change (if (s.setPm (State.passPm r)).launchCause (launchOf ws) ≠ 0 then none else _) = _
  rw [if_neg (not_not.mpr hcause)]
  change (match (s.setPm (State.passPm r)).launchWords (cmdVf r.cmd) false (shKcount (launchOf ws).shape) (launchOf ws).ktab.toNat with | .error _ => _ | .ok k => _) = _
  rw [hk]
  rfl

theorem State.beginPass_some {s t : State} {r : Replay} (h : s.beginPass r = some t) : ∃ ws k, t = s.passStarted r (launchOf ws) k := by
  unfold State.beginPass at h
  dsimp only at h
  split at h
  · exact absurd h (by simp)
  · next ws _ =>
    split at h
    · exact absurd h (by simp)
    · split at h
      · exact absurd h (by simp)
      · next k _ => exact ⟨ws, k, (Option.some.inj h).symm⟩

/-- What is untouched as a pass begins. -/
theorem State.passTouch_touched (s : State) (r : Replay) (l : LaunchRec) : Touched s (s.passTouch r l) :=
  touched_trans _ _ _ (s.launchTouch_touched _ _ _) (State.launchTouch_touched _ _ _ _)

/-- An accepted launch, and what it leaves as it was. -/
theorem State.acceptLaunch_shape (s : State) (vf : Nat) (spawn replay : Bool) (addr : Nat) (rec : LaunchRec) (k : List Dword) :
    ∃ l : Launch, s.acceptLaunch vf spawn replay addr rec k = { s with launches := s.launches ++ [l], nextId := s.nextId + 1 }
      ∧ l.vf = vf ∧ l.shape = rec.shape ∧ l.k = k ∧ l.replay = replay := ⟨_, rfl, rfl, rfl, rfl, rfl⟩

theorem Touched.of_setPm {s u : State} {w : Dword} (h : Touched (s.setPm w) u) :
    u.launches = s.launches ∧ u.manage = { s.manage with pmctl := w } ∧ u.cmd = s.cmd := by
  obtain ⟨_, _, _, _, _, _, _, rfl⟩ := h
  exact ⟨rfl, rfl, rfl⟩

/-- A pass that has begun: the memory that it touched, its replay and its launch. -/
theorem State.passStarted_shape (s : State) (r : Replay) (rec : LaunchRec) (k : List Dword) :
    ∃ l : Launch, ∃ t, s.passStarted r rec k = t ∧ t.launches = s.launches ++ [l] ∧ t.manage = { s.manage with pmctl := State.passPm r } ∧ t.cmd = s.cmd
      ∧ t.hbm = ((s.setPm (State.passPm r)).passTouch r rec).hbm ∧ (∃ n, t.replay = some { r with psig := 0, startCycle := n })
      ∧ l.vf = cmdVf r.cmd ∧ l.shape = rec.shape ∧ l.k = k ∧ l.replay = true := by
  obtain ⟨hlaunches, hmanage, hcmd⟩ := ((s.setPm (State.passPm r)).passTouch_touched r rec).of_setPm
  unfold State.passStarted
  revert hlaunches hmanage hcmd
  generalize (s.setPm (State.passPm r)).passTouch r rec = u
  intro hlaunches hmanage hcmd
  obtain ⟨l, hl, hl'⟩ := State.acceptLaunch_shape { u with replay := some { r with psig := 0, startCycle := (u.die 0).cycles } } (cmdVf r.cmd) false true r.cmd.w1.toNat rec k
  refine ⟨l, _, hl, ?_, hmanage, hcmd, rfl, ⟨_, rfl⟩, hl'⟩
  rw [← hlaunches]

/-- The counters do not change what a pass touches. -/
theorem State.recounted_passTouch (s : State) (p : Dword) (cs : FMap Core) (r : Replay) (l : LaunchRec) :
    ((s.recounted p cs).passTouch r l).hbm = (s.passTouch r l).hbm := by
  obtain ⟨cs1, h1⟩ := s.recounted_launchTouch p cs (cmdVf r.cmd) r.cmd.w1.toNat 32
  obtain ⟨cs2, h2⟩ := (s.launchTouch (cmdVf r.cmd) r.cmd.w1.toNat 32).recounted_launchTouch p cs1 (cmdVf r.cmd) l.ktab.toNat (shKcount l.shape)
  unfold State.passTouch
  rw [h1, h2]
  rfl

theorem State.recounted_reads {s : State} {r : Replay} {ws k : List Dword} (p : Dword) (cs : FMap Core) (h : s.PassReads r ws k) :
    (s.recounted p cs).PassReads r ws k := by
  obtain ⟨hws, hcause, hk⟩ := h
  exact ⟨(s.recounted_launchWords p cs _ _ _ _).trans hws, hcause, (s.recounted_launchWords p cs _ _ _ _).trans hk⟩

theorem State.setPm_recounted (s : State) (w : Dword) : ∃ cs, State.setPm { s with cmd := none } w = s.recounted w cs := ⟨_, rfl⟩

/-- The control word of a pass: counters on, for the function. -/
theorem State.passPm_fields (r : Replay) : (State.passPm r).toNat / 2 ^ 63 = 1 ∧ (State.passPm r).toNat / 2 ^ 48 % 2 ^ 6 = cmdOf r.cmd := by
  have hvf : cmdVf r.cmd < 64 := Nat.mod_lt _ (by decide)
  have hsel : (r.sels.getD (r.pass - 1) 0).toNat < 2 ^ 32 := BitVec.isLt _
  have hw : (State.passPm r).toNat = 2 ^ 63 + cmdVf r.cmd * 2 ^ 48 + (r.sels.getD (r.pass - 1) 0).toNat := by
    refine dw_toNat ?_
    unfold at'
    norm_num at hsel ⊢
    omega
  rw [hw]
  change _ ∧ _ = cmdVf r.cmd
  norm_num at hsel ⊢
  omega

/-- The replay that a command begins. -/
def State.replayOf (s : State) (c : Cmd) : Replay :=
  { cmd := c, pass := 1, captured := [], sels := s.replaySels c, psig1 := 0, psig := 0, startCycle := 0, full := false }

/-! ### The report of ATTEST (R381) -/

theorem fitBytes_length (n : Nat) (bs : List Byte) : (fitBytes n bs).length = n := by
  unfold fitBytes
  rw [List.length_take, List.length_append, List.length_replicate]
  omega

theorem fitBytes_of_length {n : Nat} {bs : List Byte} (h : bs.length = n) : fitBytes n bs = bs := by
  unfold fitBytes
  rw [← h]
  exact List.take_left

/-- The report: the nonce first, BOOTST at byte 176. -/
theorem State.report_split (s : State) {nonce : List Byte} (h : nonce.length = 32) :
    ∃ mid tail, mid.length = 144 ∧ s.report nonce = nonce ++ (mid ++ (bytesOf 8 s.manage.bootst.toNat ++ tail)) := by
  refine ⟨fitBytes 16 Config.serial ++ (fitBytes 64 (Config.digest s.manage.firmware) ++ fitBytes 64 (Config.digest s.manage.repairBytes)), ?_⟩
  have hsplit : ∃ tail, s.report nonce = nonce ++ ((fitBytes 16 Config.serial ++ (fitBytes 64 (Config.digest s.manage.firmware)
      ++ fitBytes 64 (Config.digest s.manage.repairBytes))) ++ (bytesOf 8 s.manage.bootst.toNat ++ tail)) := by
    unfold State.report
    rw [fitBytes_of_length h]
    simp only [List.append_assoc]
    exact ⟨_, rfl⟩
  obtain ⟨tail, htail⟩ := hsplit
  exact ⟨tail, by simp only [List.length_append, fitBytes_length], htail⟩

section
variable {s : State} {c : Cmd} (hp : s.manage.poweredDown = false) (hc : s.cmd = some c) (hb : s.cmdBad c = false)
include hp hc hb

omit hp in
theorem exec_replay : exec .replay s = (if !s.replayOk c then s.command (fun s _ => (s, 2))
    else if s.working (cmdVf c) || s.replay.isSome || (s.ctx (cmdVf c)).st != .live then s.command (fun s _ => (s, 1))
    else match State.beginPass { s with cmd := none } (s.replayOf c) with
      | none => s.command (fun s _ => (s, 2))
      | some u => s.event true u) := by
  change execReplay s = _
  unfold execReplay
  rw [hc]
  dsimp only
  rw [hb, Bool.false_or]
  rfl

theorem replay_invalid (h : s.replayOk c = false) : AnswersWith s c .replay 2 (CmdSame s) :=
  command_refuses hp hc hb ((exec_replay hc hb).trans (if_pos (by rw [h]; rfl))) rfl

theorem replay_busy (h : s.replayOk c = true) (hbusy : s.working (cmdOf c) = true ∨ s.replay ≠ none ∨ (s.ctx (cmdOf c)).st ≠ .live) :
    AnswersWith s c .replay 1 (CmdSame s) := by
  have hbusy' : (s.working (cmdVf c) || s.replay.isSome || (s.ctx (cmdVf c)).st != .live) = true := by
    rw [Bool.or_eq_true, Bool.or_eq_true, bne_iff_ne, Option.isSome_iff_ne_none, or_assoc]
    exact hbusy
  exact command_refuses hp hc hb ((exec_replay hc hb).trans ((if_neg (by rw [h]; decide)).trans (if_pos hbusy'))) rfl

/-- The first pass of a replay. -/
theorem replay_begins (h : s.replayOk c = true) (hw : s.working (cmdOf c) = false) (hr : s.replay = none) (hst : (s.ctx (cmdOf c)).st = .live)
    {ws k : List Dword} (hreads : s.PassReads (s.replayOf c) ws k) :
    ∃ t r l, exec .replay s = .next t ∧ t.cmd = none ∧ t.replay = some r ∧ r.cmd = c ∧ r.pass = 1 ∧ r.captured = []
      ∧ t.launches = s.launches ++ [l] ∧ l.vf = cmdOf c ∧ l.shape = (launchOf ws).shape ∧ l.k = k ∧ l.replay = true
      ∧ t.hbm = (s.passTouch (s.replayOf c) (launchOf ws)).hbm
      ∧ t.manage.pmctl.toNat / 2 ^ 63 = 1 ∧ t.manage.pmctl.toNat / 2 ^ 48 % 2 ^ 6 = cmdOf c := by
  have hfree : ¬(s.working (cmdVf c) || s.replay.isSome || (s.ctx (cmdVf c)).st != .live) = true := by
    rw [show s.working (cmdVf c) = false from hw, hr, show (s.ctx (cmdVf c)).st = .live from hst]
    decide
  obtain ⟨cs, hpm⟩ := s.setPm_recounted (State.passPm (s.replayOf c))
  have hreads' := State.recounted_reads (State.passPm (s.replayOf c)) cs hreads
  rw [← hpm] at hreads'
  obtain ⟨l, t, ht, hl, hman, hcmd, hhbm, ⟨n, hrep⟩, hvf, hshape, hk, hlrep⟩ := State.passStarted_shape { s with cmd := none } (s.replayOf c) (launchOf ws) k
  obtain ⟨hon, hfn⟩ := State.passPm_fields (s.replayOf c)
  refine ⟨t.wake, _, l, ?_, hcmd, hrep, rfl, rfl, rfl, hl, hvf, hshape, hk, hlrep, ?_, ?_, ?_⟩
  · rw [exec_replay hc hb, if_neg (by rw [h]; decide), if_neg hfree, State.beginPass_of_reads hreads', ← ht]
    exact event_due hp rfl
  · rw [State.wake_hbm, hhbm, hpm]
    exact State.recounted_passTouch _ _ _ _ _
  · rw [State.wake_manage, hman]
    exact hon
  · rw [State.wake_manage, hman]
    exact hfn

theorem attest_reports {dst : Nat} (hdst : dst = c.w5.toNat) {nonce : List Byte} (hnonce : nonce = [c.w1, c.w2, c.w3, c.w4].flatMap (fun w => bytesOf 8 w.toNat)) :
    AnswersWith s c .attest 0 (fun t => CmdSame s t ∧ ((s.ring 0 6).entryAt 6 (s.ring 0 6).pi.toNat + 16 ≤ dst
        ∨ dst + 704 ≤ (s.ring 0 6).entryAt 6 (s.ring 0 6).pi.toNat →
      readBytes t.host dst 32 = numOf nonce ∧ readBytes t.host (dst + 176) 8 = s.manage.bootst.toNat)) := by
  subst hdst
  have hlen : nonce.length = 32 := by rw [hnonce, length_flatMap_bytesOf]; rfl
  obtain ⟨mid, tail, hmid, hreport⟩ := s.report_split hlen
  obtain ⟨u, hu, hcmd, hring, hsame, hread⟩ := answered_writesHost (s := s) (c := c) c.w5.toNat (s.report nonce)
  refine command_answers hp hc hb (show exec .attest s = execAttest s from rfl) (u := u) (by rw [← hu, hnonce]; rfl) hcmd hring ⟨hsame, fun hapart => ⟨?_, ?_⟩⟩
  · rw [hread _ _ (by omega), hreport]
    have := readBytes_writeList_mid s.host c.w5.toNat [] nonce (mid ++ (bytesOf 8 s.manage.bootst.toNat ++ tail))
    rwa [hlen] at this
  · rw [hread _ _ (by omega), hreport, ← List.append_assoc]
    have := readBytes_writeList_mid s.host c.w5.toNat (nonce ++ mid) (bytesOf 8 s.manage.bootst.toNat) tail
    rw [List.length_append, hlen, hmid, bytesOf_length, numOf_bytesOf] at this
    exact this.trans (Nat.mod_eq_of_lt (by have := s.manage.bootst.isLt; norm_num at this ⊢; exact this))

end

/-! ### The end of a pass (R386, R388) -/

theorem State.foldl_writeLoc_written (ws : List (Loc × List Byte)) (s : State) :
    MemWritten s (ws.foldl (fun s e => s.writeLoc e.1 e.2 none noVf) s) :=
  foldl_keep _ MemWritten memWritten_refl memWritten_trans (fun s e => s.writeLoc_written e.1 e.2 none) ws s

/-- What the end of a pass gives back. -/
theorem State.restorePages_written (s : State) (r : Replay) : MemWritten { s with replay := none } (s.restorePages r) := by
  obtain ⟨h, g, ho, co, w, bl, cs, ds, n, hs⟩ := State.foldl_writeLoc_written r.captured { s with replay := none }
  unfold State.restorePages
  dsimp only
  rw [hs]
  exact ⟨h, g, ho, co, w, bl, _, _, n, rfl⟩

theorem State.restorePages_replay (s : State) (r : Replay) : (s.restorePages r).replay = none := by
  obtain ⟨_, _, _, _, _, _, _, _, _, h⟩ := s.restorePages_written r
  rw [h]

theorem State.restorePages_ctxs (s : State) (r : Replay) : (s.restorePages r).ctxs = s.ctxs := by
  obtain ⟨_, _, _, _, _, _, _, _, _, h⟩ := s.restorePages_written r
  rw [h]

/-- A captured page of HBM holds again what it held. -/
theorem State.restorePages_hbm (s : State) {r : Replay} {l : Nat} {bs : List Byte} (h : r.captured = [(.hbm l, bs)]) :
    readBytes (s.restorePages r).hbm l bs.length = numOf bs := by
  have hhbm : (s.restorePages r).hbm = (State.writeLoc { s with replay := none } (.hbm l) bs none noVf).hbm := by
    unfold State.restorePages
    rw [h]
    rfl
  obtain ⟨_, _, _, _, hw⟩ := State.writeLoc_hbm_noVf { s with replay := none } l bs none
  rw [hhbm, hw]
  exact readBytes_writeList _ _ _

/-- The record of a pass begins with its number, its signature and whether that differs from the first. -/
theorem State.passRecord_split (s : State) (r : Replay) : ∃ tail, s.passRecord r
    = bytesOf 8 r.pass ++ (bytesOf 8 r.psig.toNat ++ (bytesOf 8 (if 1 < r.pass ∧ r.psig ≠ r.psig1 then 1 else 0) ++ tail)) := by
  have hbad : b2n (decide (1 < r.pass) && r.psig != r.psig1) = if 1 < r.pass ∧ r.psig ≠ r.psig1 then 1 else 0 := by
    unfold b2n
    simp
  rw [← hbad]
  unfold State.passRecord
  simp only [List.flatMap_cons, List.append_assoc]
  exact ⟨_, rfl⟩

/-- The state that a pass has left, with its record written. -/
def State.passWritten (s : State) (r : Replay) : State :=
  s.spend.writeLoc (.hbm (r.cmd.w4.toNat + (r.pass - 1) * passBytes)) (s.passRecord r) none noVf

theorem State.passWritten_mem (s : State) (r : Replay) : (s.passWritten r).ctxs = s.ctxs
    ∧ (s.passWritten r).hbm = writeList s.hbm (r.cmd.w4.toNat + (r.pass - 1) * 32832) (s.passRecord r) := by
  unfold State.passWritten
  generalize s.passRecord r = bs
  obtain ⟨_, _, _, _, h⟩ := s.spend.writeLoc_hbm_noVf (r.cmd.w4.toNat + (r.pass - 1) * passBytes) bs none
  rw [h]
  exact ⟨rfl, rfl⟩

section
variable {s : State} (hp : s.manage.poweredDown = false) {r : Replay} (hr : s.replay = some r)
include hp hr

omit hp in
theorem exec_replayPassEnd : exec .replayPassEnd s =
    if r.full then s.event ((s.ctx (cmdVf r.cmd)).st == .halted) ((s.restorePages r).answerCmd r.cmd 4)
    else if cmdPasses r.cmd ≤ r.pass then s.event (!s.working (cmdVf r.cmd)) (State.answerCmd { s.passWritten r with replay := none } r.cmd 0)
    else match ((s.passWritten r).restorePages r).beginPass { r with pass := r.pass + 1, psig1 := if r.pass = 1 then r.psig else r.psig1 } with
      | some v => s.event (!s.working (cmdVf r.cmd)) v
      | none => s.event (!s.working (cmdVf r.cmd)) (((s.passWritten r).restorePages r).answerCmd r.cmd 2) := by
  change execReplayPassEnd s = _
  unfold execReplayPassEnd
  rw [hr]
  rfl

theorem replayPassEnd_full (hf : r.full = true) (hst : (s.ctx (cmdOf r.cmd)).st = .halted) :
    ∃ t v, exec .replayPassEnd s = .next t ∧ t.replay = none ∧ Posted s t 0 6 [dw (4 * 2 ^ 56 + r.cmd.w0.toNat % 2 ^ 32), v] := by
  have hring : (s.restorePages r).ring 0 6 = s.ring 0 6 := congrArg (fun m => fget Ring.reset (fget Ctx.reset m 0).rings 6) (s.restorePages_ctxs r)
  obtain ⟨v, hv⟩ := State.answerCmd_posted (c := r.cmd) 4 hring
  refine ⟨((s.restorePages r).answerCmd r.cmd 4).wake, v, ?_, ((s.restorePages r).answerCmd_replay r.cmd 4).mpr (s.restorePages_replay r), hv⟩
  rw [exec_replayPassEnd hr, if_pos hf]
  exact event_due hp (show ((s.ctx (cmdVf r.cmd)).st == .halted) = true from beq_iff_eq.mpr hst)

theorem replayPassEnd_works (hf : r.full = false) (hw : s.working (cmdOf r.cmd) = true) : exec .replayPassEnd s = .fault .notDue := by
  have hdue : (!s.working (cmdVf r.cmd)) = false := by rw [show s.working (cmdVf r.cmd) = true from hw]; rfl
  rw [exec_replayPassEnd hr, if_neg (by rw [hf]; decide), hdue]
  split
  · exact event_notDue hp rfl
  · split <;> exact event_notDue hp rfl

theorem replayPassEnd_completes (hf : r.full = false) (hw : s.working (cmdOf r.cmd) = false) (hlast : r.cmd.w5.toNat % 16 ≤ r.pass) {a : Nat}
    (ha : a = r.cmd.w4.toNat + (r.pass - 1) * 32832) :
    ∃ t v, exec .replayPassEnd s = .next t ∧ t.replay = none ∧ Posted s t 0 6 [dw (r.cmd.w0.toNat % 2 ^ 32), v]
      ∧ readBytes t.hbm a 8 = r.pass % 2 ^ 64 ∧ readBytes t.hbm (a + 8) 8 = r.psig.toNat
      ∧ readBytes t.hbm (a + 16) 8 = (if 1 < r.pass ∧ r.psig ≠ r.psig1 then 1 else 0) := by
  subst ha
  have hpasses : cmdPasses r.cmd ≤ r.pass := (dfield_low r.cmd.w5 3).trans_le hlast
  obtain ⟨hctxs, hwritten⟩ := s.passWritten_mem r
  obtain ⟨tail, hrecord⟩ := s.passRecord_split r
  have hring : State.ring { s.passWritten r with replay := none } 0 6 = s.ring 0 6 := congrArg (fun m => fget Ring.reset (fget Ctx.reset m 0).rings 6) hctxs
  have hhbm := (State.answerCmd_hbm { s.passWritten r with replay := none } r.cmd 0).trans hwritten
  obtain ⟨v, hv⟩ := State.answerCmd_posted (c := r.cmd) 0 hring
  rw [Nat.zero_mul, Nat.zero_add] at hv
  refine ⟨(State.answerCmd { s.passWritten r with replay := none } r.cmd 0).wake, v, ?_, (State.answerCmd_replay _ r.cmd 0).mpr rfl, hv, ?_, ?_, ?_⟩
  · rw [exec_replayPassEnd hr, if_neg (by rw [hf]; decide), if_pos hpasses]
    exact event_due hp (by rw [show s.working (cmdVf r.cmd) = false from hw]; rfl)
  all_goals rw [State.wake_hbm, hhbm, hrecord]
  · have h := readBytes_writeList_mid s.hbm (r.cmd.w4.toNat + (r.pass - 1) * 32832) [] (bytesOf 8 r.pass)
      (bytesOf 8 r.psig.toNat ++ (bytesOf 8 (if 1 < r.pass ∧ r.psig ≠ r.psig1 then 1 else 0) ++ tail))
    rw [bytesOf_length, numOf_bytesOf] at h
    exact h
  · have h := readBytes_writeList_mid s.hbm (r.cmd.w4.toNat + (r.pass - 1) * 32832) (bytesOf 8 r.pass) (bytesOf 8 r.psig.toNat)
      (bytesOf 8 (if 1 < r.pass ∧ r.psig ≠ r.psig1 then 1 else 0) ++ tail)
    rw [bytesOf_length, bytesOf_length, numOf_bytesOf] at h
    exact h.trans (Nat.mod_eq_of_lt (by have := r.psig.isLt; norm_num at this ⊢; exact this))
  · rw [← List.append_assoc]
    have h := readBytes_writeList_mid s.hbm (r.cmd.w4.toNat + (r.pass - 1) * 32832) (bytesOf 8 r.pass ++ bytesOf 8 r.psig.toNat)
      (bytesOf 8 (if 1 < r.pass ∧ r.psig ≠ r.psig1 then 1 else 0)) tail
    rw [List.length_append, bytesOf_length, bytesOf_length, bytesOf_length, numOf_bytesOf] at h
    refine h.trans (Nat.mod_eq_of_lt ?_)
    split <;> norm_num

/-- The next pass begins on restored memory, or the command ends. -/
theorem replayPassEnd_continues (hf : r.full = false) (hw : s.working (cmdOf r.cmd) = false) (hmore : r.pass < r.cmd.w5.toNat % 16) :
    ∃ t, exec .replayPassEnd s = .next t ∧ (t.replay = none → t.hbm = ((s.passWritten r).restorePages r).hbm)
      ∧ ∀ q, t.replay = some q → q.pass = r.pass + 1 ∧ q.captured = r.captured ∧ q.cmd = r.cmd
        ∧ ∃ (y : State) (k n : Nat), y.hbm = ((s.passWritten r).restorePages r).hbm
          ∧ t.hbm = ((y.launchTouch (cmdOf r.cmd) r.cmd.w1.toNat 32).launchTouch (cmdOf r.cmd) k n).hbm := by
  have hpasses : ¬cmdPasses r.cmd ≤ r.pass := fun h => absurd ((dfield_low r.cmd.w5 3).symm.trans_le h) (by omega)
  have hdue : (!s.working (cmdVf r.cmd)) = true := by rw [show s.working (cmdVf r.cmd) = false from hw]; rfl
  rw [exec_replayPassEnd hr, if_neg (by rw [hf]; decide), if_neg hpasses, hdue]
  split
  · next v hv =>
    obtain ⟨ws, k, rfl⟩ := State.beginPass_some hv
    obtain ⟨l, t, ht, -, -, -, hhbm, ⟨n, hrep⟩, -⟩ := State.passStarted_shape _ { r with pass := r.pass + 1, psig1 := if r.pass = 1 then r.psig else r.psig1 } (launchOf ws) k
    rw [ht]
    refine ⟨t.wake, event_due hp rfl, fun h => absurd (hrep.symm.trans h) (by simp), fun q hq => ?_⟩
    obtain rfl := Option.some.inj (hrep.symm.trans hq)
    refine ⟨rfl, rfl, rfl, State.setPm _ _, _, _, ?_, hhbm⟩
    rfl
  · refine ⟨(((s.passWritten r).restorePages r).answerCmd r.cmd 2).wake, event_due hp rfl, fun _ => State.answerCmd_hbm _ _ _, fun q hq => ?_⟩
    have hnone := (State.answerCmd_replay ((s.passWritten r).restorePages r) r.cmd 2).mpr (State.restorePages_replay _ _)
    exact absurd (hnone.symm.trans hq) (by simp)

end

end Sys2Proof.Machine

namespace Sys2Proof.Proofs.MemoryRules
open Sys2Proof.Machine

/-- Settles O54: each command's answer and effect, and what the end of a replayed pass leaves. -/
theorem otherCommands : Obligations.OtherCommands := by
  intro s hp
  refine ⟨fun c hc hb => ?_, fun r hr => ?_⟩
  · intro vf a b n host entry answers same
    refine ⟨inval_invalid hp hc hb, inval_waits hc, inval_forgets hp hc hb, lsplit_invalid hp hc hb, fun ha h1 h15 hgood => lsplit_splits hp hc hb ha h1 h15 hgood rfl,
      dbgrd_invalid hp hc hb, dbgrd_refused hp hc hb, fun ha h1 hn hst hcore => ⟨fun bs hbs => ?_, fun hbs => ?_, fun hbs => ?_⟩, pmctl_restarts hp hc hb,
      attest_reports hp hc hb rfl rfl, fwload_answers hp hc hb rfl, replay_invalid hp hc hb, replay_busy hp hc hb, fun h hw hr hst ws k hws hcause hk => ?_⟩
    · exact dbgrd_data hp hc hb ha h1 hn hst hcore hbs
    · exact dbgrd_reads hp hc hb ha h1 hn hst hcore (u := State.spend { s with cmd := none }) (congrArg (dbgEffect s c) hbs) rfl rfl
        (CmdSame.answered ⟨rfl, rfl, rfl, rfl⟩ c 3)
    · exact dbgrd_reads hp hc hb ha h1 hn hst hcore (u := { s with cmd := none }) (congrArg (dbgEffect s c) hbs) rfl rfl
        (CmdSame.answered ⟨rfl, rfl, rfl, rfl⟩ c 2)
    · exact replay_begins hp hc hb h hw hr hst ⟨hws, hcause, hk⟩
  · intro vf at_ tag
    refine ⟨replayPassEnd_full hp hr, replayPassEnd_works hp hr, fun hf hw hlast => replayPassEnd_completes hp hr hf hw hlast rfl, fun hf hw hmore => ?_⟩
    obtain ⟨t, ht, hnone, hnext⟩ := replayPassEnd_continues hp hr hf hw hmore
    exact ⟨t, ht, fun l bs h => State.restorePages_hbm _ h, hnone, hnext⟩

end Sys2Proof.Proofs.MemoryRules

namespace Sys2Proof.Machine

/-! ### Numbers read from memory -/

theorem readBytes_add (m : FMap Byte) (a i j : Nat) : readBytes m a (i + j) = readBytes m a i + 256 ^ i * readBytes m (a + i) j := by
  induction i generalizing a with
  | zero => simp [readBytes]
  | succ i ih =>
    rw [show i + 1 + j = (i + j) + 1 by omega, readBytes, readBytes, ih, show a + 1 + i = a + (i + 1) by omega, pow_succ]
    ring

theorem readBytes_lt (m : FMap Byte) (a n : Nat) : readBytes m a n < 256 ^ n := by
  induction n generalizing a with
  | zero => exact Nat.one_pos
  | succ n ih =>
    have hb : (fget emptyByte m a).toNat < 256 := BitVec.isLt _
    have := ih (a + 1)
    rw [readBytes, pow_succ]
    omega

/-- Bytes inside a span that is read whole. -/
theorem readBytes_inside (m : FMap Byte) (a : Nat) {i n k : Nat} (h : i + n ≤ k) : readBytes m (a + i) n = readBytes m a k / 256 ^ i % 256 ^ n := by
  obtain ⟨r, rfl⟩ : ∃ r, k = i + (n + r) := ⟨k - (i + n), by omega⟩
  rw [readBytes_add, readBytes_add, Nat.add_mul_div_left _ _ (by positivity), Nat.div_eq_of_lt (readBytes_lt _ _ _), Nat.zero_add,
    Nat.add_mul_mod_self_left, Nat.mod_eq_of_lt (readBytes_lt _ _ _)]

/-! ### Lines of an L1 (R112, R113) -/

/-- The bits that a sum of distinct powers of two sets. -/
theorem testBit_powers (P : Nat → Prop) [DecidablePred P] (n : Nat) :
    (List.range n).foldl (fun m i => if P i then m + 2 ^ i else m) 0 < 2 ^ n
    ∧ ∀ j, ((List.range n).foldl (fun m i => if P i then m + 2 ^ i else m) 0).testBit j = decide (j < n ∧ P j) := by
  induction n with
  | zero => exact ⟨Nat.one_pos, fun j => by simp⟩
  | succ n ih =>
    obtain ⟨hlt, hbit⟩ := ih
    rw [List.range_succ, List.foldl_append, List.foldl_cons, List.foldl_nil]
    generalize (List.range n).foldl (fun m i => if P i then m + 2 ^ i else m) 0 = x at hlt hbit
    by_cases hP : P n
    · rw [if_pos hP]
      refine ⟨by rw [pow_succ]; omega, fun j => ?_⟩
      rcases lt_trichotomy j n with hj | rfl | hj
      · rw [Nat.add_comm, Nat.testBit_two_pow_add_gt hj, hbit]
        simp [hj, Nat.lt_succ_of_lt hj]
      · rw [Nat.add_comm, Nat.testBit_two_pow_add_eq, hbit]
        simp [hP]
      · rw [Nat.testBit_lt_two_pow (lt_of_lt_of_le (show x + 2 ^ n < 2 ^ (n + 1) by rw [pow_succ]; omega) (Nat.pow_le_pow_right (by decide) hj))]
        simp [show ¬j < n + 1 by omega]
    · rw [if_neg hP]
      refine ⟨by rw [pow_succ]; omega, fun j => ?_⟩
      rw [hbit]
      by_cases hj : j = n
      · subst hj; simp [hP]
      · simp [show j < n + 1 ↔ j < n by omega]

/-- The words that a span of bytes touches. -/
theorem wordMask_getLsbD (a n i : Nat) : (wordMask a n).getLsbD i = decide (i < 32 ∧ a % 128 < 4 * i + 4 ∧ 4 * i < a % 128 + n) := by
  obtain ⟨_, hbit⟩ := testBit_powers (fun i => a % 128 < 4 * i + 4 ∧ 4 * i < a % 128 + n) 32
  unfold wordMask
  rw [BitVec.getLsbD_ofNat, hbit]
  by_cases hi : i < 32 <;> simp [hi]

theorem Core.line_setLine (c : Core) (l : L1Line) : (c.setLine l).line l.host l.line = some l := by
  unfold Core.setLine Core.line
  rw [List.find?_cons_of_pos]
  simp

/-- Whole aligned words put into a line are read from it. -/
theorem L1Line.read_put (l : L1Line) {a n v : Nat} (hn : n = 4 ∨ n = 8) (ha : a % n = 0) (hv : v < 2 ^ (8 * n)) : (l.put a n v).read a n = v := by
  have ho : a % 128 % 4 = 0 := by rcases hn with rfl | rfl <;> omega
  have hword (x y : Nat) : (BitVec.ofNat 32 ((x &&& (2 ^ 64 - 1 - (2 ^ 32 - 1))) ||| y)).toNat = y % 2 ^ 32 := by
    rw [BitVec.toNat_ofNat, Nat.or_mod_two_pow, Nat.and_mod_two_pow]
    norm_num
  have hw : a % 128 / 4 ≠ a % 128 / 4 + 1 := by omega
  unfold L1Line.read L1Line.put
  dsimp only
  rw [ho]
  rcases hn with rfl | rfl
  · have h32 := hword ((fget 0 l.data (a % 128 / 4)).toNat + 2 ^ 32 * (fget 0 l.data (a % 128 / 4 + 1)).toNat) v
    rw [if_neg (by decide), fget_fset, if_pos rfl, fget_fset, if_neg hw, Nat.mul_zero, pow_zero, Nat.mul_one, Nat.mul_one, Nat.mod_eq_of_lt hv, Nat.div_one,
      h32, Nat.add_mul_mod_self_left, Nat.mod_mod, Nat.mod_eq_of_lt hv]
  · have hsplit : v % 2 ^ 32 + 2 ^ 32 * (v / 2 ^ 32 % 2 ^ 32) = v := by
      have h64 : v < 2 ^ 32 * 2 ^ 32 := hv
      rw [Nat.mod_eq_of_lt (Nat.div_lt_of_lt_mul h64)]
      exact Nat.mod_add_div v _
    rw [if_pos (by decide), fget_fset, if_neg hw.symm, fget_fset, if_pos rfl, fget_fset, if_pos rfl, Nat.mul_zero, pow_zero, Nat.mul_one, Nat.mul_one,
      Nat.mod_eq_of_lt hv, Nat.div_one, Nat.sub_self, Nat.and_zero, Nat.zero_or, BitVec.toNat_ofNat, BitVec.toNat_ofNat, hsplit, Nat.mod_eq_of_lt hv]

/-- Bytes of whole words: what a line gives is what memory gives, where the words it touches are memory's. -/
theorem L1Line.read_of_words (l : L1Line) (m : FMap Byte) {p n : Nat} (hn : n = 1 ∨ n = 2 ∨ n = 4 ∨ n = 8) (hp : p % n = 0)
    (h : ∀ i, p % 128 < 4 * i + 4 → 4 * i < p % 128 + n → (fget 0 l.data i).toNat = readBytes m (p / 128 * 128 + 4 * i) 4) :
    l.read p n = readBytes m p n := by
  have hlow := h (p % 128 / 4) (by omega) (by omega)
  unfold L1Line.read
  dsimp only
  by_cases h8 : n = 8
  · subst h8
    rw [hlow, h (p % 128 / 4 + 1) (by omega) (by omega), show p % 128 % 4 = 0 by omega, show p / 128 * 128 + 4 * (p % 128 / 4) = p by omega,
      show p / 128 * 128 + 4 * (p % 128 / 4 + 1) = p + 4 by omega, show (8 : Nat) = 4 + 4 from rfl, readBytes_add]
    have h1 := readBytes_lt m p 4
    have h2 := readBytes_lt m (p + 4) 4
    norm_num at h1 h2 ⊢
    omega
  · have hin : p % 128 % 4 + n ≤ 4 := by rcases hn with rfl | rfl | rfl | rfl <;> omega
    rw [hlow, show readBytes m p n = readBytes m (p / 128 * 128 + 4 * (p % 128 / 4) + p % 128 % 4) n by congr 1; omega, readBytes_inside m _ hin,
      show (256 : Nat) = 2 ^ 8 from rfl, ← pow_mul, ← pow_mul]
    obtain ⟨r, hr⟩ : ∃ r, 32 = 8 * (p % 128 % 4) + (8 * n + r) := ⟨32 - (8 * (p % 128 % 4) + 8 * n), by omega⟩
    rw [show (2 : Nat) ^ 32 = 2 ^ (8 * (p % 128 % 4)) * (2 ^ (8 * n) * 2 ^ r) by rw [← pow_add, ← pow_add, ← hr], Nat.mul_assoc, Nat.mul_assoc,
      Nat.add_mul_div_left _ _ (by positivity), Nat.add_mul_mod_self_left]

theorem fget_foldl_range {α : Type} [DecidableEq α] (d : α) (g : Nat → α) (n j : Nat) :
    fget d ((List.range n).foldl (fun m i => fset d m i (g i)) []) j = if j < n then g j else d := by
  induction n with
  | zero => rfl
  | succ n ih =>
    rw [List.range_succ, List.foldl_append, List.foldl_cons, List.foldl_nil, fget_fset, ih]
    by_cases hj : n = j
    · subst hj; simp
    · rw [if_neg hj]
      by_cases hlt : j < n
      · rw [if_pos hlt, if_pos (by omega)]
      · rw [if_neg hlt, if_neg (by omega)]

theorem State.homeLine_word (s : State) (line i : Nat) (hi : i < 32) :
    (fget 0 (s.homeLine false line).data i).toNat = readBytes s.hbm (line * 128 + 4 * i) 4 := by
  unfold State.homeLine
  rw [fget_foldl_range, if_pos hi]
  exact Nat.mod_eq_of_lt (readBytes_lt _ _ _)

/-- A fill of a line where none of the words read was valid: it reads what its home holds. -/
theorem Core.fillL1_reads (c : Core) (s : State) {p n : Nat} (hn : n = 1 ∨ n = 2 ∨ n = 4 ∨ n = 8) (hp : p % n = 0)
    (hold : ∀ k, c.line false (p / 128) = some k → wordMask p n &&& k.valid = 0) :
    ∃ l, (c.fillL1 (s.homeLine false (p / 128))).line false (p / 128) = some l ∧ l.read p n = readBytes s.hbm p n := by
  have hend : p % 128 + n ≤ 128 := by rcases hn with rfl | rfl | rfl | rfl <;> omega
  unfold Core.fillL1
  have hline : c.line (s.homeLine false (p / 128)).host (s.homeLine false (p / 128)).line = c.line false (p / 128) := rfl
  rw [hline]
  split
  · refine ⟨_, Core.line_setLine _ _, L1Line.read_of_words _ _ hn hp (fun i h1 h2 => ?_)⟩
    exact s.homeLine_word _ _ (by omega)
  · next l hl =>
    refine ⟨_, Core.line_setLine _ { s.homeLine false (p / 128) with valid := _, data := _ }, L1Line.read_of_words _ _ hn hp (fun i h1 h2 => ?_)⟩
    have hi : i < 32 := by omega
    have hbit := congrArg (fun w : Word => w.getLsbD i) (hold l hl)
    simp only [BitVec.getLsbD_and, wordMask_getLsbD, BitVec.ofNat_eq_ofNat, BitVec.getLsbD_zero, h1, h2, hi, and_self, decide_true, Bool.true_and] at hbit
    dsimp only
    rw [fget_foldl_range, if_pos hi, hbit, if_neg (by decide)]
    exact s.homeLine_word _ _ hi

/-- Where none of the words is valid the L1 does not answer. -/
theorem L1Line.not_hits (l : L1Line) {p n : Nat} (hn : 0 < n) (h : wordMask p n &&& l.valid = 0) : l.hits p n = false := by
  have hi : p % 128 / 4 < 32 := by omega
  have hm : (wordMask p n).getLsbD (p % 128 / 4) = true := by
    rw [wordMask_getLsbD]
    exact decide_eq_true ⟨hi, by omega, by omega⟩
  refine Bool.eq_false_iff.mpr (fun hh => ?_)
  have h1 := congrArg (fun w : Word => w.getLsbD (p % 128 / 4)) h
  have h2 := congrArg (fun w : Word => w.getLsbD (p % 128 / 4)) (beq_iff_eq.mp hh)
  simp only [BitVec.getLsbD_and, BitVec.getLsbD_not, BitVec.ofNat_eq_ofNat, BitVec.getLsbD_zero, hm, hi, decide_true, Bool.true_and] at h1 h2
  rw [h1] at h2
  exact absurd h2 (by decide)

/-- A store of whole aligned words is then in the L1. -/
theorem Core.storeL1_holds (c : Core) (host : Bool) {a n v : Nat} (hn : n = 4 ∨ n = 8) (ha : a % n = 0) (hv : v < 2 ^ (8 * n)) :
    ∃ k, (c.storeL1 host a n v).line host (a / 128) = some k ∧ k.hits a n = true ∧ k.read a n = v := by
  have hfull (x : Word) : (wordMask a n &&& ~~~(x ||| wordMask a n)) = 0 := by
    ext i hi
    simp +contextual
  have hread (l : L1Line) (w : Word) : ({ l.put a n v with valid := w } : L1Line).read a n = v := l.read_put hn ha hv
  unfold Core.storeL1
  dsimp only
  split
  · next l hl =>
    have hkey := List.find?_some hl
    rw [Bool.and_eq_true, beq_iff_eq, beq_iff_eq] at hkey
    obtain ⟨hhost, hnum⟩ := hkey
    rw [if_neg (by omega)]
    refine ⟨_, ?_, beq_iff_eq.mpr (hfull l.valid), hread l _⟩
    rw [← hhost, ← hnum]
    exact Core.line_setLine c { l.put a n v with valid := _ }
  · rw [if_neg (by omega)]
    refine ⟨_, Core.line_setLine c { ({ host := host, line := a / 128, valid := 0, data := [] } : L1Line).put a n v with valid := wordMask a n }, ?_, hread _ _⟩
    have h0 := hfull 0
    rw [show (0 : Word) ||| wordMask a n = wordMask a n from BitVec.zero_or] at h0
    exact beq_iff_eq.mpr h0


/-! ### Global accesses at their performing points (R120, R125) -/

@[simp] theorem State.core_setCore (s : State) (n k : Nat) (c : Core) : (s.setCore n c).core k = if n = k then c else s.core k :=
  fget_fset _ _ _ _ _

/-- What an access of HBM does where it is performed. -/
def State.performed (s : State) (a : Access) (p : Nat) : AccKind → State
  | .load => (s.landed a).loadHome a false p
  | .store => if a.l1.isNone then s.storeAtL1 a false p
      else (((s.landed a).writeNum a.loc a.size a.value (some a.core) a.vf).contribute a.vf a.va a.size).unack a
  | .atomic op ty ret => if ret then (s.landed a).atomicAt a op ty true else ((s.landed a).atomicAt a op ty false).unack a

theorem exec_globalAccessAtHome {s : State} {a : Access} {p : Nat} (ha : s.flight.find? (fun f => f.id == a.id) = some a) (hl : a.loc = .hbm p) :
    exec (.globalAccessAtHome a.id) s = s.event (s.homeReady a) (s.performed a p a.kind) := by
  change execGlobalAccessAtHome a.id s = _
  unfold execGlobalAccessAtHome
  rw [ha]
  dsimp only
  rw [hl]
  unfold State.performed
  rw [hl] <;> cases a.kind <;> rfl

theorem State.contribute_ctxs (s : State) (vf va n : Nat) : ∃ xs, s.contribute vf va n = { s with ctxs := xs } := by
  refine foldl_keep _ (fun s t : State => ∃ xs, t = { s with ctxs := xs }) (fun s => ⟨s.ctxs, rfl⟩) (fun s t u h k => ?_) (fun s k => ⟨_, rfl⟩) _ s
  obtain ⟨_, rfl⟩ := h
  obtain ⟨xs, rfl⟩ := k
  exact ⟨xs, rfl⟩

theorem Access.value_lt (a : Access) : a.value < 256 ^ a.size := by
  rw [show (256 : Nat) = 2 ^ 8 from rfl, ← pow_mul]
  exact Nat.mod_lt _ (by positivity)

theorem landed_gone {s t : State} {a : Access} (h : t.flight = (s.landed a).flight) : ∀ f ∈ t.flight, f.id ≠ a.id := by
  intro f hf
  rw [h] at hf
  exact bne_iff_ne.mp (List.mem_filter.mp hf).2

/-- What a write of HBM for a function leaves as it was. -/
theorem State.writeLoc_hbm_shape (s : State) (p : Nat) (bs : List Byte) (core : Option Nat) (vf : Nat) :
    ∃ h co cs ds n r xs, s.writeLoc (.hbm p) bs core vf
      = { s with hbm := writeList h p bs, codeOld := co, cores := cs, dirty := ds, free := n, replay := r, ctxs := xs } ∧ (s.replay = none → h = s.hbm) := by
  obtain ⟨co, cs, ds, n, hw⟩ := s.writeLoc_hbm p bs core vf
  obtain ⟨h, co', r, xs, hc⟩ := s.capture_captured (.hbm p) bs.length vf
  refine ⟨h, co, cs, ds, n, r, xs, by rw [hw, hc], fun hr => ?_⟩
  rw [State.capture_idle hr] at hc
  exact (congrArg State.hbm hc).symm

theorem State.observe_shape (s : State) (a : Access) : ∃ gs, s.observe a = { s with groups := gs } := by
  unfold State.observe
  dsimp only
  split
  · exact ⟨s.groups, rfl⟩
  · exact ⟨_, rfl⟩

/-- An LDC changes the constant cache, and answers. -/
theorem State.loadConst_shape (s : State) (a : Access) (host : Bool) (pa : Nat) :
    (s.loadConst a host pa).flight = s.flight ∧ (s.loadConst a host pa).hbm = s.hbm := by
  unfold State.loadConst
  dsimp only
  split
  · split <;> exact ⟨rfl, rfl⟩
  · exact ⟨rfl, rfl⟩

section
variable {s : State} {a : Access} {p : Nat}

/-- A store at its home: its bytes, and what awaits the acknowledgement. -/
theorem State.performed_store (hl : a.loc = .hbm p) (h1 : a.l1 ≠ none) : ∃ t, s.performed a p .store = t ∧ t.flight = (s.landed a).flight
    ∧ readBytes t.hbm p a.size = a.value ∧ a ∈ t.unacked
    ∧ (s.replay = none → ∀ q, q < p ∨ p + a.size ≤ q → fget emptyByte t.hbm q = fget emptyByte s.hbm q) := by
  have hperf : s.performed a p .store = (((s.landed a).writeLoc (.hbm p) (bytesOf a.size a.value) (some a.core) a.vf).contribute a.vf a.va a.size).unack a := by
    rw [← hl]
    exact if_neg (by rwa [Option.isNone_iff_eq_none])
  obtain ⟨h, co, cs, ds, n, r, xs, hw, hidle⟩ := (s.landed a).writeLoc_hbm_shape p (bytesOf a.size a.value) (some a.core) a.vf
  obtain ⟨ys, hc⟩ := ((s.landed a).writeLoc (.hbm p) (bytesOf a.size a.value) (some a.core) a.vf).contribute_ctxs a.vf a.va a.size
  rw [hc, hw] at hperf
  refine ⟨_, hperf, rfl, ?_, List.mem_append_right _ (List.mem_singleton.mpr rfl), fun hrep q hq => ?_⟩
  · exact (readBytes_written _ _ _ _).trans (Nat.mod_eq_of_lt a.value_lt)
  · refine (fget_writeList_other h _ _ _ (by rwa [bytesOf_length])).trans ?_
    rw [hidle hrep]
    rfl

/-- A store in its core's L1. -/
theorem State.performed_storeL1 (ha : s.flight.find? (fun f => f.id == a.id) = some a) (h1 : a.l1 = none) :
    ∃ t, s.performed a p .store = t ∧ t.flight.find? (fun f => f.id == a.id) = some { a with l1 := some s.nextId }
      ∧ t.hbm = s.hbm ∧ t.unacked = s.unacked
      ∧ ((a.size = 4 ∨ a.size = 8) → p % a.size = 0 → ∃ k, (t.core a.core).line false (p / 128) = some k ∧ k.hits p a.size = true ∧ k.read p a.size = a.value) := by
  have hperf : s.performed a p .store = s.storeAtL1 a false p := if_pos (by rw [h1]; rfl)
  refine ⟨_, hperf, ?_, rfl, rfl, fun hsize hp => ?_⟩
  · have hfind := find?_updWhere (fun f : Access => f.id == a.id) (fun f => { f with l1 := some s.nextId }) (fun f => f.id == a.id) s.flight
      (fun f _ => by split <;> rfl)
    rw [ha] at hfind
    exact hfind.trans (congrArg some (if_pos (beq_iff_eq.mpr rfl)))
  · have hv : a.value < 2 ^ (8 * a.size) := Nat.mod_lt _ (by positivity)
    have hcore : (s.storeAtL1 a false p).core a.core = (s.core a.core).storeL1 false p a.size a.value :=
      (State.core_setCore _ _ _ _).trans (if_pos rfl)
    rw [hcore]
    exact Core.storeL1_holds _ _ hsize hp hv

/-- An atomic replaces the value. -/
theorem State.atomicAt_hbm (hl : a.loc = .hbm p) (op ty : Nat) (ret : Bool) : ∃ t, (s.landed a).atomicAt a op ty ret = t ∧ t.flight = (s.landed a).flight
    ∧ readBytes t.hbm p a.size = (atomRun op ty a.ops (readBytes s.hbm p a.size)).1 % 256 ^ a.size
    ∧ (ret = true → ∃ f ∈ t.fills, f.gid = a.gid ∧ f.items = atomItems a.dest a.ops a.size (atomRun op ty a.ops (readBytes s.hbm p a.size)).2) := by
  have hread : (s.landed a).readLoc a.loc a.size = readBytes s.hbm p a.size := by rw [hl]; rfl
  unfold State.atomicAt State.writeNum
  rw [hread, hl]
  obtain ⟨h, co, cs, ds, n, r, xs, hw, -⟩ := (s.landed a).writeLoc_hbm_shape p (bytesOf a.size (atomRun op ty a.ops (readBytes s.hbm p a.size)).1) none a.vf
  dsimp only
  rw [hw]
  cases ret with
  | false => exact ⟨_, rfl, rfl, readBytes_written _ _ _ _, fun h => absurd h (by decide)⟩
  | true => exact ⟨_, rfl, rfl, readBytes_written _ _ _ _, fun _ => ⟨_, List.mem_append_right _ (List.mem_singleton.mpr rfl), rfl, rfl⟩⟩

theorem State.performed_atomic (hl : a.loc = .hbm p) (op ty : Nat) (ret : Bool) : ∃ t, s.performed a p (.atomic op ty ret) = t ∧ t.flight = (s.landed a).flight
    ∧ readBytes t.hbm p a.size = (atomRun op ty a.ops (readBytes s.hbm p a.size)).1 % 256 ^ a.size ∧ (ret = false → a ∈ t.unacked)
    ∧ (ret = true → ∃ f ∈ t.fills, f.gid = a.gid ∧ f.items = atomItems a.dest a.ops a.size (atomRun op ty a.ops (readBytes s.hbm p a.size)).2) := by
  obtain ⟨t, ht, hflight, hhbm, hfill⟩ := State.atomicAt_hbm (s := s) hl op ty ret
  cases ret with
  | false =>
    refine ⟨t.unack a, ?_, hflight, hhbm, fun _ => List.mem_append_right _ (List.mem_singleton.mpr rfl), fun h => absurd h (by decide)⟩
    rw [← ht]
    rfl
  | true => exact ⟨t, ht, hflight, hhbm, fun h => absurd h (by decide), hfill⟩

/-- A load leaves memory. -/
theorem State.performed_load (s : State) (a : Access) (p : Nat) :
    (s.performed a p .load).flight = (s.landed a).flight ∧ (s.performed a p .load).hbm = s.hbm := by
  change ((s.landed a).loadHome a false p).flight = _ ∧ ((s.landed a).loadHome a false p).hbm = _
  unfold State.loadHome
  split
  · obtain ⟨hf, hh⟩ := (s.landed a).loadConst_shape a false p
    exact ⟨hf, hh⟩
  · dsimp only
    obtain ⟨gs, hg⟩ := State.observe_shape ((s.landed a).setCore a.core (if (s.landed a).inL1 a.core a.loc a.size then (s.landed a).core a.core
      else ((s.landed a).core a.core).fillL1 ((s.landed a).homeLine false (p / 128)))) a
    rw [hg]
    exact ⟨rfl, rfl⟩

/-- The line that a load reads: of its L1, or filled from its home. -/
theorem State.performed_load_fills (hconst : a.const = false) {l : L1Line}
    (hline : (if s.inL1 a.core a.loc a.size then s.core a.core else (s.core a.core).fillL1 (s.homeLine false (p / 128))).line false (p / 128) = some l) :
    ∃ f ∈ (s.performed a p .load).fills, f.gid = a.gid ∧ f.items = a.dest.items a.ops a.size (l.read p a.size) := by
  have hline' : (if (s.landed a).inL1 a.core a.loc a.size then (s.landed a).core a.core
      else ((s.landed a).core a.core).fillL1 ((s.landed a).homeLine false (p / 128))).line false (p / 128) = some l := hline
  unfold State.performed State.loadHome
  dsimp only
  rw [hconst, if_neg (by decide), hline']
  exact ⟨_, List.mem_append_right _ (List.mem_singleton.mpr rfl), rfl, rfl⟩

/-- A load with valid words is answered by its L1. -/
theorem State.performed_load_hit (hl : a.loc = .hbm p) (hconst : a.const = false) {l : L1Line} (hline : (s.core a.core).line false (p / 128) = some l)
    (hhit : l.hits p a.size = true) :
    ∃ f ∈ (s.performed a p .load).fills, f.gid = a.gid ∧ f.items = a.dest.items a.ops a.size (l.read p a.size) := by
  refine State.performed_load_fills hconst ?_
  have hin : s.inL1 a.core a.loc a.size = true := by
    unfold State.inL1
    rw [hl]
    dsimp only [Loc.cached]
    rw [hline]
    exact hhit
  rw [if_pos hin, hline]

/-- A load that finds no valid word returns the bytes of memory. -/
theorem State.performed_load_miss (hl : a.loc = .hbm p) (hconst : a.const = false) (hn : a.size = 1 ∨ a.size = 2 ∨ a.size = 4 ∨ a.size = 8)
    (hp : p % a.size = 0) (hold : ∀ k, (s.core a.core).line false (p / 128) = some k → wordMask p a.size &&& k.valid = 0) :
    ∃ f ∈ (s.performed a p .load).fills, f.gid = a.gid ∧ f.items = a.dest.items a.ops a.size (readBytes s.hbm p a.size) := by
  have hin : ¬s.inL1 a.core a.loc a.size = true := by
    unfold State.inL1
    rw [hl]
    dsimp only [Loc.cached]
    rw [Option.any_eq_true]
    rintro ⟨k, hk, hhit⟩
    exact absurd hhit (Bool.eq_false_iff.mp (k.not_hits (by omega) (hold k hk)))
  obtain ⟨l, hline, hread⟩ := Core.fillL1_reads (s.core a.core) s hn hp hold
  rw [← hread]
  exact State.performed_load_fills hconst (by rw [if_neg hin, hline])

/-- An LDC that its cache does not hold. -/
theorem State.performed_loadConst (hconst : a.const = true) (hnone : (s.core a.core).cc.find? (fun e => e.1 == constKey a.vf a.va) = none) :
    ∃ f ∈ (s.performed a p .load).fills, f.gid = a.gid ∧ f.items = a.dest.items a.ops a.size (readBytes s.hbm p a.size) := by
  have hnone' : ((s.landed a).core a.core).cc.find? (fun e => e.1 == constKey a.vf a.va) = none := hnone
  unfold State.performed State.loadHome State.loadConst
  dsimp only
  rw [hconst, if_pos rfl, hnone']
  exact ⟨_, List.mem_append_right _ (List.mem_singleton.mpr rfl), rfl, rfl⟩

end

/-! ### Scratchpad accesses at the owning bank (R94) -/

section
variable {s : State} {a : Access} {b o : Nat}

/-- What an access of scratchpad does where it is performed. -/
def State.performedAtBank (s : State) (a : Access) : AccKind → State
  | .load => (s.landed a).spend.fill a.gid (a.dest.items a.ops a.size (s.readLoc a.loc a.size))
  | .store => (s.landed a).writeNum a.loc a.size a.value none a.vf
  | .atomic op ty ret => ((s.landed a).atomicAt a op ty ret).spend

theorem exec_scratchpadRemoteAccess (ha : s.flight.find? (fun f => f.id == a.id) = some a) (hl : a.loc = .scr b o) :
    exec (.scratchpadRemoteAccess a.id) s = s.event (s.shareReady b && !s.lineHeld a.loc && !s.blocked a) (s.performedAtBank a a.kind) := by
  change execScratchpadRemoteAccess a.id s = _
  unfold execScratchpadRemoteAccess
  rw [ha]
  dsimp only
  rw [hl]
  unfold State.performedAtBank
  rw [hl] <;> cases a.kind <;> rfl

/-- A share of scratchpad written. -/
theorem State.block_writeLoc_scr (s : State) (bs : List Byte) (core : Option Nat) (vf c : Nat) :
    (s.writeLoc (.scr b o) bs core vf).block c = (s.block c).map (fun k => if k.uid == b then { k with data := writeList k.data o bs } else k) := by
  rw [State.writeLoc_scr]
  exact find?_updWhere _ _ _ _ (fun k _ => by split <;> rfl)

theorem State.block_uid {c : Nat} {k : Block} (h : s.block c = some k) : k.uid = c := beq_iff_eq.mp (List.find?_some (p := fun k : Block => k.uid == c) h)

theorem State.readLoc_of_block {k : Block} (h : s.block b = some k) (n : Nat) : s.readLoc (.scr b o) n = readBytes k.data o n := by
  unfold State.readLoc
  dsimp only
  rw [h]

theorem State.readLoc_writeLoc_scr (hb : s.block b ≠ none) (n v : Nat) (core : Option Nat) (vf : Nat) :
    (s.writeLoc (.scr b o) (bytesOf n v) core vf).readLoc (.scr b o) n = v % 256 ^ n := by
  obtain ⟨k, hk⟩ := Option.ne_none_iff_exists'.mp hb
  have hblock := (State.block_writeLoc_scr (o := o) (s := s) (bytesOf n v) core vf b).trans (by rw [hk, Option.map_some, if_pos (beq_iff_eq.mpr (State.block_uid hk))])
  exact (State.readLoc_of_block hblock n).trans (readBytes_written _ _ _ _)

theorem State.block_writeLoc_scr_other (bs : List Byte) (core : Option Nat) (vf : Nat) {c : Nat} (h : c ≠ b) :
    (s.writeLoc (.scr b o) bs core vf).block c = s.block c := by
  rw [State.block_writeLoc_scr]
  cases hc : s.block c with
  | none => rfl
  | some k => rw [Option.map_some, if_neg (by rw [beq_iff_eq, State.block_uid hc]; exact h)]

/-- The atomics of a share of scratchpad. -/
theorem State.atomicAt_scr (hl : a.loc = .scr b o) (op ty : Nat) (ret : Bool) : ∃ u, u = (s.landed a).writeLoc (.scr b o)
      (bytesOf a.size (atomRun op ty a.ops (s.readLoc a.loc a.size)).1) none a.vf
    ∧ ((s.landed a).atomicAt a op ty ret).spend = (if ret then u.fill a.gid (atomItems a.dest a.ops a.size (atomRun op ty a.ops (s.readLoc a.loc a.size)).2) else u).spend := by
  refine ⟨_, rfl, ?_⟩
  have hread : (s.landed a).readLoc a.loc a.size = s.readLoc a.loc a.size := by rw [hl]; rfl
  unfold State.atomicAt State.writeNum
  rw [hread, hl]

/-- What every access of scratchpad leaves as it was. -/
theorem State.performedAtBank_frame (hl : a.loc = .scr b o) (k : AccKind) : (s.performedAtBank a k).flight = (s.landed a).flight
    ∧ (s.performedAtBank a k).hbm = s.hbm ∧ ∀ c, c ≠ b → (s.performedAtBank a k).block c = s.block c := by
  cases k with
  | load => exact ⟨rfl, rfl, fun _ _ => rfl⟩
  | store =>
    unfold State.performedAtBank State.writeNum
    dsimp only
    rw [hl]
    refine ⟨?_, ?_, fun c hc => State.block_writeLoc_scr_other (s := s.landed a) _ _ _ hc⟩ <;> rw [State.writeLoc_scr]
    rfl
  | atomic op ty ret =>
    obtain ⟨u, hu, h⟩ := State.atomicAt_scr (s := s) hl op ty ret
    unfold State.performedAtBank
    dsimp only
    rw [h]
    have hflight : u.flight = (s.landed a).flight := by rw [hu, State.writeLoc_scr]
    have hhbm : u.hbm = s.hbm := by rw [hu, State.writeLoc_scr]; rfl
    have hblock (c : Nat) (hc : c ≠ b) : u.block c = s.block c := by
      rw [hu]
      exact State.block_writeLoc_scr_other (s := s.landed a) _ _ _ hc
    cases ret <;> exact ⟨hflight, hhbm, hblock⟩

theorem State.performedAtBank_store (hl : a.loc = .scr b o) (hb : s.block b ≠ none) : (s.performedAtBank a .store).readLoc a.loc a.size = a.value := by
  unfold State.performedAtBank State.writeNum
  dsimp only
  rw [hl]
  exact (State.readLoc_writeLoc_scr (s := s.landed a) hb _ _ _ _).trans (Nat.mod_eq_of_lt a.value_lt)

theorem State.performedAtBank_atomic (hl : a.loc = .scr b o) (hb : s.block b ≠ none) (op ty : Nat) :
    (s.performedAtBank a (.atomic op ty true)).readLoc a.loc a.size = (atomRun op ty a.ops (s.readLoc a.loc a.size)).1 % 256 ^ a.size
    ∧ ∃ f ∈ (s.performedAtBank a (.atomic op ty true)).fills, f.gid = a.gid
      ∧ f.items = atomItems a.dest a.ops a.size (atomRun op ty a.ops (s.readLoc a.loc a.size)).2 := by
  obtain ⟨u, hu, h⟩ := State.atomicAt_scr (s := s) hl op ty true
  unfold State.performedAtBank
  dsimp only
  rw [h, if_pos rfl]
  refine ⟨?_, _, List.mem_append_right _ (List.mem_singleton.mpr rfl), rfl, rfl⟩
  have hread := State.readLoc_writeLoc_scr (s := s.landed a) (o := o) hb a.size (atomRun op ty a.ops (s.readLoc a.loc a.size)).1 none a.vf
  rw [← hu] at hread
  obtain ⟨k, hk⟩ := Option.ne_none_iff_exists'.mp hb
  have hublock : ∃ j, u.block b = some j := by
    rw [hu, State.block_writeLoc_scr, show (s.landed a).block b = some k from hk]
    exact ⟨_, rfl⟩
  obtain ⟨j, hj⟩ := hublock
  refine Eq.trans ?_ hread
  rw [hl, State.readLoc_of_block hj]
  exact State.readLoc_of_block (s := State.spend (u.fill _ _)) hj _

end

/-! ### Refresh and layers (R97, R114, R115, R118) -/

/-- The weight reads of a die that wait for its old bank no longer. -/
def State.weightReady (s : State) (die : Nat) : List Access :=
  s.flight.filter (fun a => (match a.loc with | .weight k _ => k == die | _ => false) && !weightWaits (((s.die die).window + 1) % 64) a die)

/-- The weight reads that complete, each with its own answer. -/
def State.answerReads (s t : State) (l : List Access) : State :=
  l.foldl (fun t a => (t.landed a).fill a.gid (a.dest.items a.ops a.size (s.readLoc a.loc a.size))) t

theorem State.answerReads_shape (s : State) (l : List Access) (t : State) :
    ∃ fl fs n, s.answerReads t l = { t with flight := fl, fills := fs, nextId := n }
      ∧ (∀ f ∈ fl, f ∈ t.flight ∧ ∀ a ∈ l, f.id ≠ a.id) ∧ (∀ f ∈ t.fills, f ∈ fs)
      ∧ ∀ a ∈ l, ∃ f ∈ fs, f.gid = a.gid ∧ f.items = a.dest.items a.ops a.size (s.readLoc a.loc a.size) := by
  induction l generalizing t with
  | nil => exact ⟨t.flight, t.fills, t.nextId, rfl, fun f hf => ⟨hf, fun a ha => absurd ha List.not_mem_nil⟩, fun _ h => h, fun a ha => absurd ha List.not_mem_nil⟩
  | cons a l ih =>
    obtain ⟨fl, fs, n, heq, hflight, hkeep, hfills⟩ := ih ((t.landed a).fill a.gid (a.dest.items a.ops a.size (s.readLoc a.loc a.size)))
    refine ⟨fl, fs, n, heq, fun f hf => ?_, fun f hf => hkeep f (List.mem_append_left _ hf), fun b hb => ?_⟩
    · obtain ⟨hmem, hne⟩ := hflight f hf
      obtain ⟨hin, hid⟩ := List.mem_filter.mp (show f ∈ t.flight.filter (fun f => f.id != a.id) from hmem)
      exact ⟨hin, fun b hb => (List.mem_cons.mp hb).elim (fun h => by rw [h]; exact bne_iff_ne.mp hid) (hne b)⟩
    · rcases List.mem_cons.mp hb with rfl | hb
      · exact ⟨_, hkeep _ (List.mem_append_right _ (List.mem_singleton.mpr rfl)), rfl, rfl⟩
      · exact hfills b hb

theorem State.die_setDie (s : State) (d k : Nat) (v : Die) : (s.setDie d v).die k = if d = k then v else s.die k := fget_fset _ _ _ _ _

/-- The window of a die ends, and the next bank's begins. -/
theorem weightRefreshWindow_turns {s : State} (hp : s.manage.poweredDown = false) {die : Nat} (hon : s.dieOn die = true) :
    ∃ t, exec (.weightRefreshWindow die) s = .next t ∧ (t.die die).window = ((s.die die).window + 1) % 64
      ∧ (t.die die).hot = (if ((s.die die).window + 1) % 64 = 0 then (s.die die).hotNext else (s.die die).hot)
      ∧ (t.die die).phase = 0 ∧ (t.die die).cycles = (s.die die).cycles + (s.die die).windowCycles ∧ t.weights = s.weights
      ∧ ∀ a w, a ∈ s.flight → a.loc = .weight die w → w / 4096 % 64 ≠ ((s.die die).window + 1) % 64 → (∀ f ∈ t.flight, f.id ≠ a.id)
          ∧ ∃ f ∈ t.fills, f.gid = a.gid ∧ f.items = a.dest.items a.ops a.size (readBytes s.weights (weightKey die w) a.size) := by
  obtain ⟨fl, fs, n, heq, hflight, -, hfills⟩ := s.answerReads_shape (s.weightReady die) (s.setDie die { s.die die with
    window := ((s.die die).window + 1) % 64, phase := 0, cycles := (s.die die).cycles + (s.die die).windowCycles,
    hot := if ((s.die die).window + 1) % 64 = 0 then (s.die die).hotNext else (s.die die).hot })
  have hstep : exec (.weightRefreshWindow die) s = .next (s.answerReads (s.setDie die { s.die die with
    window := ((s.die die).window + 1) % 64, phase := 0, cycles := (s.die die).cycles + (s.die die).windowCycles,
    hot := if ((s.die die).window + 1) % 64 = 0 then (s.die die).hotNext else (s.die die).hot }) (s.weightReady die)).wake := event_due hp hon
  rw [heq] at hstep
  have hdie := (s.die_setDie die die { s.die die with
    window := ((s.die die).window + 1) % 64, phase := 0, cycles := (s.die die).cycles + (s.die die).windowCycles,
    hot := if ((s.die die).window + 1) % 64 = 0 then (s.die die).hotNext else (s.die die).hot }).trans (if_pos rfl)
  refine ⟨_, hstep, (congrArg Die.window hdie).trans rfl, (congrArg Die.hot hdie).trans rfl, (congrArg Die.phase hdie).trans rfl, (congrArg Die.cycles hdie).trans rfl, rfl,
    fun a w ha hl hw => ?_⟩
  have hready : a ∈ s.weightReady die := by
    refine List.mem_filter.mpr ⟨ha, ?_⟩
    unfold weightWaits
    rw [hl]
    simpa using hw
  obtain ⟨f, hf, hgid, hitems⟩ := hfills a hready
  refine ⟨fun f hf => (hflight f hf).2 a hready, f, hf, hgid, ?_⟩
  rw [hitems, hl]
  rfl

theorem layerWake_wakes {s : State} (hp : s.manage.poweredDown = false) {k : Nat} (h : s.layer k = 1 ∨ s.layer k = 2) :
    ∃ t, exec (.layerWake k) s = .next t ∧ t.layer k = 0 ∧ t.hbm = s.hbm ∧ t.dirty = s.dirty :=
  ⟨(s.setLayer k 0).wake, event_due hp (by rcases h with h | h <;> rw [h] <;> rfl), (s.layer_setLayer k 0 k).trans (if_pos rfl), rfl, rfl⟩

theorem layerGate_gates {s : State} (hp : s.manage.poweredDown = false) {k : Nat} {m : BitVec 2} (hk : k < 16) (hon : s.dieOn (k / 4) = true)
    (hl : s.layer k ≤ 2) (hm : m = 1 ∨ m = 2) :
    ∃ t, exec (.layerGate k m) s = .next t ∧ t.layer k = m.toNat ∧ (∀ d ∈ t.dirty, d.layer ≠ k) ∧ (∀ d ∈ s.dirty, d.layer ≠ k → d ∈ t.dirty) ∧ t.hbm = s.hbm := by
  have hdue : (decide (k < 16) && s.dieOn (k / 4) && decide (s.layer k ≤ 2) && (m == 1 || m == 2)) = true := by
    rw [decide_eq_true hk, hon, decide_eq_true hl]
    rcases hm with rfl | rfl <;> rfl
  exact ⟨((s.flushLayer k).setLayer k m.toNat).wake, event_due hp hdue, (State.layer_setLayer _ k _ k).trans (if_pos rfl),
    fun d hd => bne_iff_ne.mp (List.mem_filter.mp (show d ∈ s.dirty.filter (fun d => d.layer != k) from hd)).2,
    fun d hd hne => List.mem_filter.mpr ⟨hd, bne_iff_ne.mpr hne⟩, rfl⟩

end Sys2Proof.Machine

namespace Sys2Proof.Proofs.MemoryRules
open Sys2Proof.Machine

/-- Settles O40: where an access is performed, its kind by kind; then the refreshes and the layers. -/
theorem homeSteps : Obligations.HomeSteps := by
  intro s hp
  refine ⟨fun a p ha hl => ?_, fun a b o ha hl hb => ?_, fun die hon => weightRefreshWindow_turns hp hon,
    fun st la hst hla hon => event_due hp (by rw [decide_eq_true hst, decide_eq_true hla, hon]; rfl),
    fun k => ⟨layerWake_wakes hp, fun m hk hon hlay hm => layerGate_gates hp hk hon hlay hm⟩⟩
  · intro step
    have hstep : step = s.event (s.homeReady a) (s.performed a p a.kind) := exec_globalAccessAtHome ha hl
    refine ⟨fun h => hstep.trans (event_notDue hp h), fun h => ⟨(s.performed a p a.kind).wake, hstep.trans (event_due hp h), fun hgone => ?_, fun hkind h1 => ?_,
      fun hkind h1 => ?_, fun op ty ret hkind hsize => ?_, fun hkind => ?_⟩⟩
    · cases hkind : a.kind with
      | load => exact landed_gone (s.performed_load a p).1
      | store =>
        obtain ⟨t, ht, hflight, -⟩ := State.performed_store (s := s) hl (hgone hkind)
        rw [ht]
        exact landed_gone hflight
      | atomic op ty ret =>
        obtain ⟨t, ht, hflight, -⟩ := State.performed_atomic (s := s) hl op ty ret
        rw [ht]
        exact landed_gone hflight
    · rw [congrArg (s.performed a p) hkind]
      obtain ⟨t, ht, hrest⟩ := State.performed_storeL1 (p := p) ha h1
      rw [ht]
      exact hrest
    · rw [hkind]
      obtain ⟨t, ht, -, hrest⟩ := State.performed_store (s := s) hl h1
      rw [ht]
      exact hrest
    · rw [hkind]
      obtain ⟨t, ht, -, hrest⟩ := State.performed_atomic (s := s) hl op ty ret
      rw [ht]
      exact hrest
    · rw [hkind]
      exact ⟨(s.performed_load a p).2, fun hconst hn hpa hold => State.performed_load_miss hl hconst hn hpa hold,
        fun k hconst hline hhit => State.performed_load_hit hl hconst hline hhit, fun hconst hnone => State.performed_loadConst hconst hnone⟩
  · intro step
    have hstep : step = s.event (s.shareReady b && !s.lineHeld a.loc && !s.blocked a) (s.performedAtBank a a.kind) := exec_scratchpadRemoteAccess ha hl
    obtain ⟨hflight, hhbm, hblock⟩ := State.performedAtBank_frame (s := s) hl a.kind
    refine ⟨fun h => hstep.trans (event_notDue hp ?_), fun h1 h2 h3 => ⟨(s.performedAtBank a a.kind).wake, hstep.trans (event_due hp ?_), landed_gone hflight, hhbm, hblock,
      fun hkind => ?_, fun hkind => ?_, fun op ty hkind hsize => ?_⟩⟩
    · rcases h with h | h | h <;> rw [h] <;> simp
    · rw [h1, h2, h3]
      rfl
    · rw [hkind]
      exact State.performedAtBank_store hl hb
    · rw [hkind]
      exact ⟨rfl, _, List.mem_append_right _ (List.mem_singleton.mpr rfl), rfl, rfl⟩
    · rw [hkind]
      exact State.performedAtBank_atomic hl hb op ty

end Sys2Proof.Proofs.MemoryRules

namespace Sys2Proof.Machine

/-! ### Requests in the engines' list -/

/-- The request with this name. -/
def State.xferOf (s : State) (i : Nat) : Option Xfer := s.xfers.find? (fun e => e.id == i)

theorem State.xferOf_congr {s t : State} (h : t.xfers = s.xfers) (i : Nat) : t.xferOf i = s.xferOf i := by
  unfold State.xferOf
  rw [h]

theorem State.xferOf_id {s : State} {i : Nat} {t : Xfer} (h : s.xferOf i = some t) : t.id = i := beq_iff_eq.mp (List.find?_some (p := fun e : Xfer => e.id == i) h)

/-- A request replaced. -/
theorem State.xferOf_setXfer_eq (s : State) (t : Xfer) (i : Nat) : (s.setXfer t).xferOf i = (s.xferOf i).map (fun u => if u.id == t.id then t else u) := by
  refine find?_updWhere _ _ _ _ (fun u _ => ?_)
  split
  · next h => rw [beq_iff_eq.mp h]
  · rfl

theorem State.xferOf_setXfer {s : State} {t k : Xfer} (h : s.xferOf t.id = some k) : (s.setXfer t).xferOf t.id = some t := by
  rw [State.xferOf_setXfer_eq, h, Option.map_some, if_pos (beq_iff_eq.mpr (State.xferOf_id h))]

theorem State.xferOf_dropXfer (s : State) (i : Nat) : (s.dropXfer i).xferOf i = none :=
  List.find?_eq_none.mpr (fun u hu => by simpa using (List.mem_filter.mp hu).2)

theorem State.xferOf_dropXfer_other (s : State) {i j : Nat} (h : j ≠ i) : (s.dropXfer i).xferOf j = s.xferOf j := by
  unfold State.xferOf State.dropXfer
  rw [List.find?_filter]
  refine congrFun (congrArg _ (funext fun u => ?_)) _
  by_cases hu : u.id = j
  · simp [hu, h]
  · simp [hu]

/-! ### Tickets (R242) -/

/-- The group's ticket is filled with `v`. -/
def TicketFilled (s u : State) (t : Xfer) (v : Dword) : Prop :=
  ∀ g, s.group t.gid = some g → ∃ h, u.group t.gid = some h ∧ h.sreg t.req.tkt = v ∧ (t.req.tkt < 64 → h.sEmptyAt t.req.tkt = false)

theorem Group.sEmptyAt_setS (g : Group) {r : Nat} (v : Dword) (h : r < 64) : (g.setS r v).sEmptyAt r = false := by
  change (g.sEmpty &&& ~~~(dw (2 ^ r))).getLsbD r = false
  unfold dw
  rw [BitVec.getLsbD_and, BitVec.getLsbD_not, BitVec.getLsbD_ofNat, Nat.testBit_two_pow_self]
  simp [h]

/-- A group after its slots were made ready. -/
def State.woken (s : State) (g : Group) : Group :=
  { g with paths := g.paths.map (fun p => if s.waitOver g p.id p.wait then p.readied (s.core (g.part / 4)).cycles else p) }

theorem State.group_wake {s : State} {gid : Gid} {g : Group} (h : s.group gid = some g) : s.wake.group gid = some (s.woken g) := by
  have hfind : s.wake.group gid = (s.group gid).map s.woken := List.find?_map
  rw [hfind, h]
  rfl

theorem ticketFilled_of_fill {s w u : State} {t : Xfer} {v : Dword} (hw : w.groups = s.groups) (hu : u.groups = (w.fillTicket t.gid t.req.tkt v).groups) :
    TicketFilled s u.wake t v := by
  intro g hg
  have hfill : u.group t.gid = some (g.setS t.req.tkt v) :=
    (State.group_congr hu _).trans (State.group_onGroup_same w t.gid (fun g => g.setS t.req.tkt v) (fun _ => rfl) ((State.group_congr hw _).trans hg))
  refine ⟨_, State.group_wake hfill, ?_, fun h => g.sEmptyAt_setS v h⟩
  change fget 0 (fset 0 g.s t.req.tkt v) t.req.tkt = v
  rw [fget_fset, if_pos rfl]

/-! ### What the engines' operations leave as it was -/

theorem State.serve_shape (s : State) (t : Xfer) : ∃ cs ds, s.serve t = { s with cores := cs, dies := ds } := by
  unfold State.serve
  dsimp only
  generalize (if (s.servedBy' t).contains (t.engine, t.gid) then _ else _ : List (Nat × Gid)) = l
  split
  · exact ⟨s.cores, _, rfl⟩
  · exact ⟨_, s.dies, rfl⟩

/-- Updates posted. -/
def Counted (s t : State) : Prop := ∃ us n, t = { s with updates := us, nextId := n }

theorem counted_refl (s : State) : Counted s s := ⟨s.updates, s.nextId, rfl⟩

theorem counted_trans (s t u : State) (a : Counted s t) (b : Counted t u) : Counted s u := by
  obtain ⟨_, _, rfl⟩ := a
  obtain ⟨us, n, rfl⟩ := b
  exact ⟨us, n, rfl⟩

theorem State.postUpdate_counted (s : State) (vf : Nat) (r : RecLoc) (d : Int) (src : UpdSrc) (tag : Dword) (after : List Nat) :
    Counted s (s.postUpdate vf r d src tag after) := ⟨_, _, rfl⟩

theorem State.countDown_counted (s : State) (t : Xfer) : Counted s (s.countDown t) := by
  unfold State.countDown
  dsimp only
  split
  · exact counted_refl s
  · split
    · split
      · split
        · exact s.postUpdate_counted _ _ _ _ _ _
        · exact counted_refl s
      · exact counted_refl s
    · split
      · split
        · refine foldl_keep _ Counted counted_refl counted_trans (fun s v => ?_) _ s
          split
          · exact s.postUpdate_counted _ _ _ _ _ _
          · exact counted_refl s
        · exact counted_refl s
      · split
        · exact s.postUpdate_counted _ _ _ _ _ _
        · exact counted_refl s

/-- A request that names a record counts it down. -/
theorem State.countDown_update (s : State) {t : Xfer} {r : RecLoc} (hkick : t.kick = none) (hop : t.req.opcode ≠ 0x69) (hb : t.bytes ≠ 0)
    (hrec : recordAt t.share t.vf t.req.task = .ok (some r)) : ∃ n ∈ (s.countDown t).updates, n.target = r ∧ n.d = -(t.bytes : Int) := by
  have h : s.countDown t = s.postUpdate t.vf r (-(t.bytes : Int)) .engine t.tag [] := by
    unfold State.countDown
    rw [if_neg hb, hkick, if_neg (by decide), if_neg hop, hrec]
  rw [h]
  exact ⟨_, List.mem_append_right _ (List.mem_singleton.mpr rfl), rfl, rfl⟩

theorem State.pushOrDrop_xfers (s : State) (fn r : Nat) (ws : List Dword) : (s.pushOrDrop fn r ws).xfers = s.xfers := by
  obtain ⟨_, _, _, _, _, _, _, h⟩ := s.pushOrDrop_entered fn r ws
  rw [h]

theorem State.reportPois_xfers (s : State) (vf owner : Nat) (f : FaultInfo) : (s.reportPois vf owner f).xfers = s.xfers := by
  have h (a b c d p v o k : Nat) : (s.reportError a b c d p v o k).xfers = s.xfers := State.pushOrDrop_xfers _ _ _ _
  unfold State.reportPois
  split
  · split
    · split
      · rfl
      · split
        · exact h _ _ _ _ _ _ _ _
        · exact h _ _ _ _ _ _ _ _
        · exact h _ _ _ _ _ _ _ _
        · rfl
    · rfl
  · rfl

/-! ### Parking (R117, R360) -/

/-- The requests stay, and the parking entries of a function, written or not. -/
def ParksKept (vf : Nat) (s t : State) : Prop :=
  t.xfers = s.xfers ∧ ∀ e ∈ (s.ctx vf).parks, ∃ k ∈ (t.ctx vf).parks, k.token = e.token ∧ k.work = e.work

theorem State.push_kept {s u : State} {vf r : Nat} {ws : List Dword} (h : s.push vf r ws = some u) :
    u.xfers = s.xfers ∧ ∃ rs, u.ctx vf = { s.ctx vf with rings := rs } := by
  have hu : s.pushOrDrop vf r ws = u := by
    unfold State.pushOrDrop
    rw [h]
  rw [← hu]
  exact ⟨s.pushOrDrop_xfers vf r ws, (s.pushOrDrop_ctx vf r ws vf).1⟩

theorem State.flushParks_kept (vf fuel : Nat) (s : State) : ParksKept vf s (s.flushParks vf fuel) := by
  induction fuel generalizing s with
  | zero => exact ⟨rfl, fun e he => ⟨e, he, rfl, rfl⟩⟩
  | succ n ih =>
    unfold State.flushParks
    split
    · exact ⟨rfl, fun e he => ⟨e, he, rfl, rfl⟩⟩
    · next d _ =>
      split
      · exact ⟨rfl, fun e he => ⟨e, he, rfl, rfl⟩⟩
      · next u hu =>
        obtain ⟨hx, rs, hctx⟩ := State.push_kept hu
        obtain ⟨hxs, hparks⟩ := ih (u.setCtx vf { u.ctx vf with parks := updWhere (fun k => k.token == d.token) (fun k => { k with written := true }) (u.ctx vf).parks })
        refine ⟨hxs.trans hx, fun e he => ?_⟩
        have hmem : (if e.token == d.token then { e with written := true } else e) ∈ ((u.setCtx vf { u.ctx vf with
            parks := updWhere (fun k => k.token == d.token) (fun k => { k with written := true }) (u.ctx vf).parks }).ctx vf).parks := by
          rw [State.ctx_setCtx, if_pos rfl, updWhere_eq_map, hctx]
          exact List.mem_map.mpr ⟨e, he, rfl⟩
        obtain ⟨k, hk, htok, hwork⟩ := hparks _ hmem
        refine ⟨k, hk, htok.trans ?_, hwork.trans ?_⟩ <;> split <;> rfl

/-- Parked work has an entry with its token. -/
theorem State.parkEntry_parks (s : State) (vf : Nat) (work : Parked) (kind engine : Nat) (pos : Option (Nat × Nat)) (shd wr : Bool) (addr info : Nat) (tag : Dword) :
    ∃ tok u, s.parkEntry vf work kind engine pos shd wr addr info tag = (tok, u) ∧ u.xfers = s.xfers ∧ ∃ e ∈ (u.ctx vf).parks, e.token = tok ∧ e.work = work := by
  have hkept (c : Ctx) (ws : List Dword) (n : Nat) (tok : Nat) :
      let e : ParkEntry := { token := tok, words := ws, written := false, work := work, word := 0 }
      let u := State.flushParks (s.setCtx vf { c with parks := c.parks ++ [e] }) vf n
      u.xfers = s.xfers ∧ ∃ k ∈ (u.ctx vf).parks, k.token = tok ∧ k.work = work := by
    intro e u
    obtain ⟨hx, hparks⟩ := State.flushParks_kept vf n (s.setCtx vf { c with parks := c.parks ++ [e] })
    exact ⟨hx, hparks e (by rw [State.ctx_setCtx, if_pos rfl]; exact List.mem_append_right _ (List.mem_singleton.mpr rfl))⟩
  exact ⟨_, _, rfl, hkept (s.ctx vf).newToken.2 _ _ (s.ctx vf).newToken.1⟩


/-! ### Acceptance (R98, R241, R251) -/

theorem fget_foldl_fset_const {α : Type} [DecidableEq α] (d v : α) (l : List Nat) (m : FMap α) (p : Nat) :
    fget d (l.foldl (fun h p => fset d h p v) m) p = if p ∈ l then v else fget d m p := by
  induction l generalizing m with
  | nil => rfl
  | cons a l ih =>
    rw [List.foldl_cons, ih, fget_fset]
    by_cases hl : p ∈ l
    · simp [hl]
    · by_cases ha : a = p
      · subst ha; simp
      · simp [hl, ha, Ne.symm ha]

/-- The mark that a hint leaves. -/
def hintMark (fn : Nat) : Nat := match fn with | 0 => 1 | 1 => 2 | _ => 0

/-- The pages of a range that may be hinted. -/
def State.hintPages (s : State) (t : Xfer) : List Nat :=
  ((List.range (t.req.r1.toNat / 4096)).map (t.req.r0.toNat / 4096 + ·)).filter (fun p => s.hintable t.vf (p * 4096))

theorem State.mem_hintPages (s : State) (t : Xfer) (p : Nat) : p ∈ s.hintPages t ↔ t.req.r0.toNat / 4096 ≤ p
    ∧ p < t.req.r0.toNat / 4096 + t.req.r1.toNat / 4096 ∧ s.hintable t.vf (p * 4096) = true := by
  unfold State.hintPages
  rw [List.mem_filter, List.mem_map, and_congr_left_iff.mpr (fun _ => ?_)]
  swap
  · exact t.req.r0.toNat / 4096 ≤ p ∧ p < t.req.r0.toNat / 4096 + t.req.r1.toNat / 4096
  · rw [and_assoc]
  · constructor
    · rintro ⟨i, hi, rfl⟩
      have := List.mem_range.mp hi
      omega
    · rintro ⟨h1, h2⟩
      exact ⟨p - t.req.r0.toNat / 4096, List.mem_range.mpr (by omega), by omega⟩

/-- A hint is recorded: the request goes, its ticket is filled, its pages are marked. -/
theorem State.recordHints_shape (s : State) (t : Xfer) : ∃ n, s.recordHints t
    = ((s.setCtx t.vf { s.ctx t.vf with hints := (s.hintPages t).foldl (fun h p => fset 0 h p (hintMark t.req.fn)) (s.ctx t.vf).hints }).fillTicket
        t.gid t.req.tkt (ticketWord 0 0 0 n)).dropXfer t.id := ⟨_, rfl⟩

theorem State.serve_hintable (s : State) (t : Xfer) (vf va : Nat) : (s.serve t).hintable vf va = s.hintable vf va := by
  obtain ⟨cs, ds, h⟩ := s.serve_shape t
  have hwalk : (s.serve t).walk vf va = s.walk vf va := by
    rw [h]
    exact State.walkFrom_congr (s := s) (t := { s with cores := cs, dies := ds }) rfl rfl _ _ _ _
  unfold State.hintable
  rw [hwalk]

/-- A request of a word stops on a fault: its ticket says so, and the halt line is raised. -/
theorem State.engFault_stops {s : State} {t k : Xfer} (f : FaultInfo) (hkick : t.kick = none) (hfind : s.xferOf t.id = some k) :
    (s.engFault t f).xferOf t.id = some { t with st := .faulted { f with faddr := t.req.addr } } ∧ ((s.engFault t f).ctx t.vf).st ≠ .live
    ∧ TicketFilled s (s.engFault t f).wake t (ticketWord 2 f.code 0 t.bytes) := by
  have hfault : s.engFault t f = State.raiseHalt ((((s.reportPois t.vf t.gid.toNat { f with faddr := t.req.addr }).countDown t).setXfer
      { t with st := .faulted { f with faddr := t.req.addr } }).fillTicket t.gid t.req.tkt (ticketWord 2 f.code 0 t.bytes)) t.vf (some t.unit)
      { f with faddr := t.req.addr } := by
    unfold State.engFault
    rw [hkick]
  obtain ⟨us, n, hcount⟩ := (s.reportPois t.vf t.gid.toNat { f with faddr := t.req.addr }).countDown_counted t
  have hxfers : ((s.reportPois t.vf t.gid.toNat { f with faddr := t.req.addr }).countDown t).xfers = s.xfers := by
    rw [hcount]
    exact State.reportPois_xfers _ _ _ _
  have hgroups : ((s.reportPois t.vf t.gid.toNat { f with faddr := t.req.addr }).countDown t).groups = s.groups := by
    rw [hcount]
    exact State.reportPois_groups _ _ _ _
  rw [hfault]
  refine ⟨?_, State.raiseHalt_notLive _ _ _ _, ticketFilled_of_fill hgroups (State.raiseHalt_groups _ _ _ _)⟩
  obtain ⟨xs, hhalt⟩ := State.raiseHalt_shape ((((s.reportPois t.vf t.gid.toNat { f with faddr := t.req.addr }).countDown t).setXfer
      { t with st := .faulted { f with faddr := t.req.addr } }).fillTicket t.gid t.req.tkt (ticketWord 2 f.code 0 t.bytes)) t.vf (some t.unit)
      { f with faddr := t.req.addr }
  rw [hhalt]
  exact State.xferOf_setXfer (t := { t with st := .faulted { f with faddr := t.req.addr } }) ((State.xferOf_congr hxfers _).trans hfind)

section
variable {s : State} {id : Nat} {t : Xfer} (hp : s.manage.poweredDown = false) (hruns : s.runs t.vf = true) (hid : t.id = id)
include hp hruns hid

omit hp hruns hid in
theorem exec_engineRequestAccept (hnext : s.nextQueued t.gid = some t) : exec (.engineRequestAccept t.gid) s
    = s.event (s.runs t.vf && s.myTurn t) (if t.req.opcode = 0x6C then (s.serve t).recordHints t
       else if (t.req.opcode == 0x68 || t.req.opcode == 0x69) && t.req.dsp == 2 && s.weightBusy t then
         ((s.serve t).fillTicket t.gid t.req.tkt (ticketWord 1 0 0 0)).dropXfer t.id
       else (s.serve t).setXfer { t with st := .running }) := by
  obtain ⟨cs, ds, h⟩ := s.serve_shape t
  have hbusy : (s.serve t).weightBusy t = s.weightBusy t := by rw [h]; rfl
  have hpow : (s.serve t).manage = s.manage := by rw [h]
  change execEngineRequestAccept t.gid s = _
  unfold execEngineRequestAccept
  rw [hnext]
  dsimp only
  rw [hbusy]
  unfold State.event
  rw [hpow]

theorem engineRequestAccept_hints (hnext : s.nextQueued t.gid = some t) (hturn : s.myTurn t = true) (hop : t.req.opcode = 0x6C) :
    ∃ u n, exec (.engineRequestAccept t.gid) s = .next u ∧ u.xferOf id = none ∧ TicketFilled s u t (ticketWord 0 0 0 n)
      ∧ ∀ p, fget 0 (u.ctx t.vf).hints p =
          if t.req.r0.toNat / 4096 ≤ p ∧ p < t.req.r0.toNat / 4096 + t.req.r1.toNat / 4096 ∧ s.hintable t.vf (p * 4096) = true
          then hintMark t.req.fn else fget 0 (s.ctx t.vf).hints p := by
  subst hid
  obtain ⟨cs, ds, hserve⟩ := s.serve_shape t
  obtain ⟨n, hn⟩ := (s.serve t).recordHints_shape t
  have hgroups : ((s.serve t).setCtx t.vf { (s.serve t).ctx t.vf with
      hints := ((s.serve t).hintPages t).foldl (fun h p => fset 0 h p (hintMark t.req.fn)) ((s.serve t).ctx t.vf).hints }).groups = s.groups := by
    rw [State.setCtx_groups, hserve]
  refine ⟨((s.serve t).recordHints t).wake, n, ?_, ?_, ?_, fun p => ?_⟩
  · rw [exec_engineRequestAccept hnext, if_pos hop]
    exact event_due hp (by rw [hruns, hturn]; rfl)
  · rw [hn]
    exact State.xferOf_dropXfer _ _
  · rw [hn]
    exact ticketFilled_of_fill hgroups rfl
  · have hctx : (((s.serve t).recordHints t).wake.ctx t.vf).hints = ((s.serve t).hintPages t).foldl (fun h p => fset 0 h p (hintMark t.req.fn)) ((s.serve t).ctx t.vf).hints := by
      rw [hn]
      exact (congrArg Ctx.hints ((State.ctx_setCtx (s.serve t) _ _ _).trans (if_pos rfl))).trans rfl
    have hold : (s.serve t).ctx t.vf = s.ctx t.vf := by rw [hserve]; rfl
    rw [hctx, fget_foldl_fset_const, hold]
    exact if_congr ((State.mem_hintPages _ _ _).trans (by rw [State.serve_hintable])) rfl rfl

theorem engineRequestAccept_busy (hnext : s.nextQueued t.gid = some t) (hturn : s.myTurn t = true) (hop : t.req.opcode = 0x68 ∨ t.req.opcode = 0x69)
    (hdsp : t.req.dsp = 2) (hbusy : s.weightBusy t = true) :
    ∃ u, exec (.engineRequestAccept t.gid) s = .next u ∧ u.xferOf id = none ∧ TicketFilled s u t (ticketWord 1 0 0 0) := by
  subst hid
  obtain ⟨cs, ds, hserve⟩ := s.serve_shape t
  refine ⟨(((s.serve t).fillTicket t.gid t.req.tkt (ticketWord 1 0 0 0)).dropXfer t.id).wake, ?_, State.xferOf_dropXfer _ _,
    ticketFilled_of_fill (by rw [hserve]) rfl⟩
  rw [exec_engineRequestAccept hnext, if_neg (by omega), if_pos (by rw [hbusy, hdsp]; simpa using hop)]
  exact event_due hp (by rw [hruns, hturn]; rfl)

theorem engineRequestAccept_runs (hnext : s.nextQueued t.gid = some t) (hfind : s.xferOf id = some t) (hturn : s.myTurn t = true) (hop : t.req.opcode ≠ 0x6C)
    (hdsp : t.req.dsp ≠ 2 ∨ s.weightBusy t = false) :
    ∃ u, exec (.engineRequestAccept t.gid) s = .next u ∧ u.xferOf id = some { t with st := .running } := by
  subst hid
  obtain ⟨cs, ds, hserve⟩ := s.serve_shape t
  refine ⟨((s.serve t).setXfer { t with st := .running }).wake, ?_, ?_⟩
  · rw [exec_engineRequestAccept hnext, if_neg hop, if_neg (by rcases hdsp with h | h <;> simp [h])]
    exact event_due hp (by rw [hruns, hturn]; rfl)
  · exact State.xferOf_setXfer (s := s.serve t) (t := { t with st := .running }) ((State.xferOf_congr (by rw [hserve]) _).trans hfind)

/-! ### Lines (R117, R134-R136, R243) -/

/-- What the landing of a line does. -/
def State.lineLanded (s : State) (t : Xfer) : LineRes → Host.Outcome State Fault Refusal
  | .wait => .fault .notDue
  | .fault code cause a => .next (s.engFault t { FaultInfo.with code cause with daddr := a }).wake
  | .miss d a w =>
    let r := s.parkEntry t.vf (.xfer t.id) (if d then 1 else 2) (if t.kick.isSome then 4 else if t.req.isHalo then 3 else 2) none false w a t.gid.toNat t.tag
    .next (r.2.setXfer { t with st := .parked r.1 }).wake
  | .done u =>
    match u.xferOf t.id with
    | some k =>
      if k.st = .running then .next ((u.setXfer { k with bytes := k.bytes + (t.req.piece t.bytes).len }).count t.vf t.core 0x0C (t.req.piece t.bytes).len).wake
      else .next u.wake
    | none => .fault .notDue

theorem exec_engineLineLand (hfind : s.xferOf id = some t) (hst : t.st = .running) (hk : t.req.opcode ≠ 0x6B) (hr : t.req.opcode ≠ 0x6E)
    (hb : t.bytes < t.req.total t.e) (howed : s.landOwed t = none) : exec (.engineLineLand id) s = s.lineLanded t (s.landPiece t) := by
  subst hid
  have hlands : s.lands t = true := by unfold State.lands; rw [hruns]; rfl
  have hdue : (s.lands t && t.st == .running && t.req.opcode != 0x6B && t.req.opcode != 0x6E && decide (t.bytes < t.req.total t.e)) = true := by
    rw [hlands, hst, bne_iff_ne.mpr hk, bne_iff_ne.mpr hr, decide_eq_true hb]
    rfl
  change execEngineLineLand t.id s = _
  unfold execEngineLineLand
  rw [show s.xfers.find? (fun u => u.id == t.id) = some t from hfind]
  dsimp only
  rw [howed, hdue]
  cases s.landPiece t with
  | wait => rfl
  | fault code cause a => exact event_due hp rfl
  | miss d a w => exact event_due hp rfl
  | done u =>
    change (match u.xferOf t.id with | some k => _ | none => _) = _
    unfold State.lineLanded
    dsimp only
    cases u.xferOf t.id with
    | none => rfl
    | some k =>
      dsimp only
      split <;> exact event_due hp rfl

/-- A line has landed: its bytes count. -/
theorem engineLineLand_counts (hfind : s.xferOf id = some t) (hst : t.st = .running) (hk : t.req.opcode ≠ 0x6B) (hr : t.req.opcode ≠ 0x6E)
    (hb : t.bytes < t.req.total t.e) (howed : s.landOwed t = none) {u : State} {k : Xfer} (hland : s.landPiece t = .done u) (hfound : u.xferOf id = some k)
    (hrun : k.st = .running) :
    ∃ w, exec (.engineLineLand id) s = .next w ∧ w.xferOf id = some { k with bytes := k.bytes + (t.req.piece t.bytes).len } ∧ w.hbm = u.hbm
      ∧ w.host = u.host ∧ w.weights = u.weights ∧ w.blocks = u.blocks := by
  have hkid := State.xferOf_id hfound
  obtain ⟨cs, hcount⟩ := (u.setXfer { k with bytes := k.bytes + (t.req.piece t.bytes).len }).count_shape t.vf t.core 0x0C (t.req.piece t.bytes).len
  refine ⟨((u.setXfer { k with bytes := k.bytes + (t.req.piece t.bytes).len }).count t.vf t.core 0x0C (t.req.piece t.bytes).len).wake, ?_, ?_, ?_⟩
  · rw [exec_engineLineLand hp hruns hid hfind hst hk hr hb howed, hland]
    unfold State.lineLanded
    dsimp only
    rw [hid, hfound]
    exact if_pos hrun
  · rw [hcount, ← hkid]
    exact State.xferOf_setXfer (t := { k with bytes := k.bytes + (t.req.piece t.bytes).len }) ((congrArg u.xferOf hkid).trans hfound)
  · rw [hcount]
    exact ⟨rfl, rfl, rfl, rfl⟩

/-- A fault stops the request. -/
theorem engineLineLand_faults (hfind : s.xferOf id = some t) (hst : t.st = .running) (hk : t.req.opcode ≠ 0x6B) (hr : t.req.opcode ≠ 0x6E)
    (hb : t.bytes < t.req.total t.e) (howed : s.landOwed t = none) {code cause a : Nat} (hkick : t.kick = none) (hland : s.landPiece t = .fault code cause a) :
    ∃ w k f, exec (.engineLineLand id) s = .next w ∧ w.xferOf id = some k ∧ k.st = .faulted f ∧ f.code = code ∧ f.cause = cause ∧ f.daddr = a
      ∧ f.faddr = t.req.addr ∧ (w.ctx t.vf).st ≠ .live ∧ TicketFilled s w t (ticketWord 2 code 0 t.bytes) := by
  have hexec := exec_engineLineLand hp hruns hid hfind hst hk hr hb howed
  rw [hland] at hexec
  subst hid
  obtain ⟨hfound, hlive, hticket⟩ := State.engFault_stops { FaultInfo.with code cause with daddr := a } hkick hfind
  exact ⟨_, _, _, hexec, hfound, rfl, rfl, rfl, rfl, rfl, hlive, hticket⟩

/-- A miss parks the request. -/
theorem engineLineLand_parks (hfind : s.xferOf id = some t) (hst : t.st = .running) (hk : t.req.opcode ≠ 0x6B) (hr : t.req.opcode ≠ 0x6E)
    (hb : t.bytes < t.req.total t.e) (howed : s.landOwed t = none) {d w : Bool} {a : Nat} (hland : s.landPiece t = .miss d a w) :
    ∃ u k tok, exec (.engineLineLand id) s = .next u ∧ u.xferOf id = some k ∧ k.st = .parked tok ∧ ∃ e ∈ (u.ctx t.vf).parks, e.token = tok ∧ e.work = .xfer id := by
  have hexec := exec_engineLineLand hp hruns hid hfind hst hk hr hb howed
  rw [hland] at hexec
  subst hid
  obtain ⟨tok, u, hpark, hx, he⟩ := s.parkEntry_parks t.vf (.xfer t.id) (if d then 1 else 2) (if t.kick.isSome then 4 else if t.req.isHalo then 3 else 2) none false w a
    t.gid.toNat t.tag
  unfold State.lineLanded at hexec
  dsimp only at hexec
  rw [hpark] at hexec
  exact ⟨_, _, tok, hexec, State.xferOf_setXfer (t := { t with st := .parked tok }) ((State.xferOf_congr hx _).trans hfind), rfl, he⟩

end


/-! ### Bytes that land in scratchpad (R134, R136) -/

theorem State.foldl_touch_touched (s : State) (vf : Nat) (l : List (Nat × Loc)) : Touched s (l.foldl (fun s e => s.touch vf e.1 false e.2) s) :=
  foldl_keep (fun s (e : Nat × Loc) => s.touch vf e.1 false e.2) Touched touched_refl touched_trans (fun s e => s.touch_touched vf e.1 false e.2) l s

/-- The bytes written are what the block holds there. -/
theorem State.landAt_reads {s : State} {t : Xfer} {b o : Nat} {bs : List Byte} (hop : t.req.op = 0) (hb : s.block b ≠ none) :
    (s.landAt t b o bs).readLoc (.scr b o) bs.length = numOf bs := by
  obtain ⟨k, hk⟩ := Option.ne_none_iff_exists'.mp hb
  unfold State.landAt
  dsimp only
  rw [hop, if_pos (by simp)]
  have hblock := (State.block_writeLoc_scr (b := b) (o := o) (s := s) bs none t.vf b).trans (by rw [hk, Option.map_some, if_pos (beq_iff_eq.mpr (State.block_uid hk))])
  exact (State.readLoc_of_block hblock _).trans (readBytes_writeList _ _ _)

/-- A piece for one share of scratchpad lands there, or waits. -/
theorem State.writeShares_scr {s u : State} {t : Xfer} {p : Piece} {v : Share} {b o : Nat} {bs : List Byte} (hop : t.req.opcode = 0x68) (hdsp : t.req.dsp = 1)
    (hacc : v.access p.dst 1 = .at_ (.scr b o)) (h : s.writeShares t p bs [v] = .done u) : u = s.landAt t b o bs := by
  have hhalo : t.req.isHalo = false := by unfold EngReq.isHalo; rw [hop]; rfl
  have hpiece : s.writePiece t p v bs = if s.lineHeldBefore t.id (.scr b o) then .wait
      else if !s.shareReady b then .wait else .done (s.landAt t b o bs) := by
    unfold State.writePiece
    rw [hhalo, hdsp]
    unfold State.engAccess
    simp only [Bool.false_eq_true, if_false, hacc]
  unfold State.writeShares at h
  rw [if_neg (by rw [hop]; decide)] at h
  dsimp only at h
  rw [hpiece] at h
  by_cases hheld : s.lineHeldBefore t.id (.scr b o) = true
  · rw [if_pos hheld] at h
    exact absurd h (by simp)
  · rw [if_neg hheld] at h
    by_cases hready : (!s.shareReady b) = true
    · rw [if_pos hready] at h
      exact absurd h (by simp)
    · rw [if_neg hready] at h
      exact (LineRes.done.inj h).symm

/-- A copy into scratchpad: the block holds the bytes that were read. -/
theorem State.landPiece_reads {s u : State} {t : Xfer} {f : Fetched} {b o : Nat} (hland : s.landPiece t = .done u)
    (hread : s.readRuns t (t.req.piece t.bytes) (t.runs (t.req.piece t.bytes)) ⟨[], t.inbuf, []⟩ = .ok f) (hopcode : t.req.opcode = 0x68) (hop : t.req.op = 0)
    (hdsp : t.req.dsp = 1) (hacc : t.share.access (t.req.piece t.bytes).dst 1 = .at_ (.scr b o)) (hb : s.block b ≠ none) :
    u.readLoc (.scr b o) f.bytes.length = numOf f.bytes := by
  obtain ⟨_, _, _, _, _, _, _, htouch⟩ := s.foldl_touch_touched t.vf f.used
  unfold State.landPiece at hland
  dsimp only at hland
  rw [hread] at hland
  dsimp only at hland
  have hshares : Xfer.shares { t with inbuf := if t.req.keeps then f.buf else [] } = [t.share] := by
    unfold Xfer.shares
    exact if_neg (by rw [hopcode]; decide)
  rw [hshares] at hland
  have hu := State.writeShares_scr (t := { t with inbuf := if t.req.keeps then f.buf else [] }) hopcode hdsp hacc hland
  rw [hu]
  refine State.landAt_reads hop ?_
  rw [htouch]
  exact hb

/-! ### Completion and lists (R137, R250, R252) -/

/-- An entry of a KICK that ended counts for its list. -/
def State.kickCounted (s : State) (k bytes : Nat) : State :=
  { s with xfers := updWhere (fun u => u.id == k) (fun u => { u with completed := u.completed + 1, totalBytes := u.totalBytes + bytes }) s.xfers }

/-- The request of an entry of a KICK's list. -/
def State.entryOf (s : State) (t : Xfer) (q : EngReq) : Xfer :=
  { t with id := s.nextId, req := q, st := .running, kick := some t.id, entry := t.started, bytes := 0, inbuf := [], started := 0 }

/-- An entry starts: it owns its lines, and joins the requests. -/
def State.kickStarted (s : State) (e : Xfer) : State := State.named { s.own e with xfers := s.xfers ++ [e] }

theorem State.kickStarted_old {s : State} {e k : Xfer} {i : Nat} (h : s.xferOf i = some k) : (s.kickStarted e).xferOf i = some k := by
  unfold State.xferOf at h ⊢
  change (s.xfers ++ [e]).find? _ = _
  rw [List.find?_append, h]
  rfl

theorem State.kickStarted_new {s : State} {e : Xfer} (h : s.xferOf e.id = none) : (s.kickStarted e).xferOf e.id = some e := by
  unfold State.xferOf at h ⊢
  change (s.xfers ++ [e]).find? _ = _
  rw [List.find?_append, h]
  simp

section
variable {s : State} {id : Nat} {t : Xfer} (hp : s.manage.poweredDown = false) (hruns : s.runs t.vf = true) (hid : t.id = id)
  (hfind : s.xferOf id = some t) (hst : t.st = .running)
include hp hruns hid hfind hst

omit hid in
/-- A request other than a KICK and an RTRECV is complete. -/
theorem exec_engineRequestComplete (hk : t.req.opcode ≠ 0x6B) (hr : t.req.opcode ≠ 0x6E) (hwhole : t.whole = true) :
    exec (.engineRequestComplete id) s = .next (match t.kick with
      | some k => ((s.countDown t).dropXfer id).kickCounted k t.bytes
      | none => ((s.countDown t).fillTicket t.gid t.req.tkt (ticketWord 0 0 0 t.bytes)).dropXfer id).wake := by
  have hdue : (s.runs t.vf && t.st == .running && t.whole) = true := by rw [hruns, hst, hwhole]; rfl
  change execEngineRequestComplete id s = _
  unfold execEngineRequestComplete
  rw [show s.xfers.find? (fun u => u.id == id) = some t from hfind]
  dsimp only
  rw [if_neg hr, if_neg hk, hdue]
  cases t.kick <;> exact event_due hp rfl

omit hid in
theorem engineRequestComplete_fills (hk : t.req.opcode ≠ 0x6B) (hr : t.req.opcode ≠ 0x6E) (hkick : t.kick = none) (hwhole : t.whole = true) :
    ∃ u, exec (.engineRequestComplete id) s = .next u ∧ u.xferOf id = none ∧ TicketFilled s u t (ticketWord 0 0 0 t.bytes)
      ∧ ∀ r, t.req.opcode ≠ 0x69 → t.bytes ≠ 0 → recordAt t.share t.vf t.req.task = .ok (some r) →
          ∃ n ∈ u.updates, n.target = r ∧ n.d = -(t.bytes : Int) := by
  have hexec := exec_engineRequestComplete hp hruns hfind hst hk hr hwhole
  rw [hkick] at hexec
  obtain ⟨us, n, hcount⟩ := s.countDown_counted t
  exact ⟨_, hexec, State.xferOf_dropXfer _ _, ticketFilled_of_fill (w := s.countDown t) (by rw [hcount]) rfl,
    fun r hop hb hrec => s.countDown_update hkick hop hb hrec⟩

omit hid in
theorem engineRequestComplete_ofKick {k : Nat} {l : Xfer} (hop : t.req.opcode = 0x68) (hkick : t.kick = some k) (hwhole : t.whole = true) (hne : k ≠ id)
    (hl : s.xferOf k = some l) :
    ∃ u, exec (.engineRequestComplete id) s = .next u ∧ u.xferOf id = none
      ∧ u.xferOf k = some { l with completed := l.completed + 1, totalBytes := l.totalBytes + t.bytes } := by
  have hexec := exec_engineRequestComplete hp hruns hfind hst (by omega) (by omega) hwhole
  rw [hkick] at hexec
  obtain ⟨us, n, hcount⟩ := s.countDown_counted t
  have hxfers : (s.countDown t).xfers = s.xfers := by rw [hcount]
  have hfound (i : Nat) := find?_updWhere (fun u : Xfer => u.id == k) (fun u => { u with completed := u.completed + 1, totalBytes := u.totalBytes + t.bytes })
    (fun u => u.id == i) ((s.countDown t).dropXfer id).xfers (fun u _ => by split <;> rfl)
  refine ⟨_, hexec, (hfound id).trans ?_, (hfound k).trans ?_⟩
  · rw [show ((s.countDown t).dropXfer id).xfers.find? (fun u => u.id == id) = none from State.xferOf_dropXfer _ _]
    rfl
  · have hsame : ((s.countDown t).dropXfer id).xferOf k = some l := (State.xferOf_dropXfer_other _ hne).trans ((State.xferOf_congr hxfers k).trans hl)
    rw [show ((s.countDown t).dropXfer id).xfers.find? (fun u => u.id == k) = some l from hsame, Option.map_some, if_pos (beq_iff_eq.mpr (State.xferOf_id hl))]

omit hid in
/-- The end of a KICK's list. -/
theorem kick_completes (hop : t.req.opcode = 0x6B) (hover : s.kickOver t = true) (hbad : t.bad = none) :
    ∃ u, exec (.engineRequestComplete id) s = .next u ∧ u.xferOf id = none ∧ TicketFilled s u t (ticketWord 0 0 t.completed t.totalBytes) := by
  refine ⟨((s.fillTicket t.gid t.req.tkt (ticketWord 0 0 t.completed t.totalBytes)).dropXfer id).wake, ?_, State.xferOf_dropXfer _ _,
    ticketFilled_of_fill rfl rfl⟩
  change execEngineRequestComplete id s = _
  unfold execEngineRequestComplete
  rw [show s.xfers.find? (fun u => u.id == id) = some t from hfind]
  dsimp only
  rw [if_neg (by rw [hop]; decide), if_pos hop, hbad]
  exact event_due hp (by rw [hruns, hst, hover]; rfl)

/-- The end of a KICK's list on a fault. -/
theorem kick_faults {i : Nat} {f : FaultInfo} (hop : t.req.opcode = 0x6B) (hover : s.kickOver t = true) (hbad : t.bad = some (i, f)) :
    ∃ u, exec (.engineRequestComplete id) s = .next u ∧ u.xferOf id = some { t with st := .faulted f }
      ∧ TicketFilled s u t (ticketWord 2 f.code i t.totalBytes) ∧ (u.ctx t.vf).st ≠ .live := by
  subst hid
  obtain ⟨xs, hhalt⟩ := State.raiseHalt_shape ((s.setXfer { t with st := .faulted f }).fillTicket t.gid t.req.tkt (ticketWord 2 f.code i t.totalBytes)) t.vf (some t.unit) f
  refine ⟨(((s.setXfer { t with st := .faulted f }).fillTicket t.gid t.req.tkt (ticketWord 2 f.code i t.totalBytes)).raiseHalt t.vf (some t.unit) f).wake, ?_, ?_,
    ticketFilled_of_fill (w := s.setXfer { t with st := .faulted f }) rfl (State.raiseHalt_groups _ _ _ _), State.raiseHalt_notLive _ _ _ _⟩
  · change execEngineRequestComplete t.id s = _
    unfold execEngineRequestComplete
    rw [show s.xfers.find? (fun u => u.id == t.id) = some t from hfind]
    dsimp only
    rw [if_neg (by rw [hop]; decide), if_pos hop, hbad]
    exact event_due hp (by rw [hruns, hst, hover]; rfl)
  · rw [hhalt]
    exact State.xferOf_setXfer (t := { t with st := .faulted f }) hfind

/-! ### The entries of a list (R250, R252) -/

section
variable {b o : Nat} (hop : t.req.opcode = 0x6B) (hbad : t.bad = none) (hleft : t.started < t.req.r1.toNat) (hroom : (s.kickEntries id).length < 8)
  (hscr : scrTarget t.share (dfield t.req.r0 31 0 + 32 * t.started) = some (b, o)) (hready : s.shareReady b = true) (hheld : s.lineHeld (.scr b o) = false)
include hop hbad hleft hroom hscr hready hheld

omit hp hid hfind hscr in
/-- The conditions under which the next entry starts. -/
theorem kickEntry_due : (s.runs t.vf && t.st == .running && t.req.opcode == 0x6B && t.bad.isNone && decide (t.started < t.req.r1.toNat)
    && decide ((s.kickEntries id).length < 8) && s.shareReady b && !s.lineHeld (.scr b o)) = true := by
  rw [hruns, hst, hop, hbad, decide_eq_true hleft, decide_eq_true hroom, hready, hheld]
  rfl

/-- A malformed entry ends the list. -/
theorem kickEntryStart_bad {f : FaultInfo} (hf : s.entryFault t (s.entryReq t (.scr b o)) = some f) :
    ∃ u k g, exec (.kickEntryStart id) s = .next u ∧ u.xferOf id = some k ∧ k.bad = some (t.started, g) ∧ g.code = f.code ∧ g.faddr = t.req.addr := by
  have hdue := kickEntry_due hruns hst hop hbad hleft hroom hready hheld
  subst hid
  refine ⟨(s.setXfer { t with bad := some (t.started, { f with faddr := t.req.addr }) }).wake, _, _, ?_,
    State.xferOf_setXfer (t := { t with bad := some (t.started, { f with faddr := t.req.addr }) }) hfind, rfl, rfl, rfl⟩
  change execKickEntryStart t.id s = _
  unfold execKickEntryStart
  rw [show s.xfers.find? (fun u => u.id == t.id) = some t from hfind]
  dsimp only
  rw [hscr]
  dsimp only
  rw [hf, hdue]
  exact event_due hp rfl

/-- An entry starts as a request of its own. -/
theorem kickEntryStart_starts (hfresh : s.nextId ≠ id) (hnone : s.xferOf s.nextId = none) (hf : s.entryFault t (s.entryReq t (.scr b o)) = none)
    (hbusy : (s.entryReq t (.scr b o)).dsp ≠ 2 ∨ s.weightBusy { t with req := s.entryReq t (.scr b o) } = false) :
    ∃ u k e, exec (.kickEntryStart id) s = .next u ∧ u.xferOf id = some k ∧ k.started = t.started + 1 ∧ u.xferOf s.nextId = some e ∧ e.kick = some id
      ∧ e.entry = t.started ∧ e.req = s.entryReq t (.scr b o) ∧ e.st = .running ∧ e.bytes = 0 := by
  have hdue := kickEntry_due hruns hst hop hbad hleft hroom hready hheld
  have hfree : ((s.entryReq t (.scr b o)).dsp == 2 && s.weightBusy { t with req := s.entryReq t (.scr b o) }) = false := by
    rcases hbusy with h | h <;> simp [h]
  subst hid
  have hstarted : (s.setXfer { t with started := t.started + 1, completed := t.completed }).xferOf t.id = some { t with started := t.started + 1, completed := t.completed } :=
    State.xferOf_setXfer (t := { t with started := t.started + 1, completed := t.completed }) hfind
  have hstill : (s.setXfer { t with started := t.started + 1, completed := t.completed }).xferOf s.nextId = none := by
    rw [State.xferOf_setXfer_eq, hnone]
    rfl
  refine ⟨(State.kickStarted (s.setXfer { t with started := t.started + 1, completed := t.completed }) (s.entryOf t (s.entryReq t (.scr b o)))).wake, _, s.entryOf t (s.entryReq t (.scr b o)), ?_,
    State.kickStarted_old hstarted, rfl, State.kickStarted_new (e := s.entryOf t (s.entryReq t (.scr b o))) hstill, rfl, rfl, rfl, rfl, rfl⟩
  change execKickEntryStart t.id s = _
  unfold execKickEntryStart
  rw [show s.xfers.find? (fun u => u.id == t.id) = some t from hfind]
  dsimp only
  rw [hscr]
  dsimp only
  rw [hf, hdue]
  dsimp only
  rw [hfree]
  exact event_due hp rfl

end

end

end Sys2Proof.Machine

namespace Sys2Proof.Proofs.MemoryRules
open Sys2Proof.Machine

/-- Settles O24: the steps of the engines, one by one. -/
theorem engineSteps : Obligations.EngineSteps := by
  intro s id t hp hruns hid find ticket st clear
  refine ⟨fun hnext hfind hturn => ⟨?_, engineRequestAccept_busy hp hruns hid hnext hturn, engineRequestAccept_runs hp hruns hid hnext hfind hturn⟩,
    fun hfind hst hk hr hb howed => ⟨fun u k hland hfound hrun => engineLineLand_counts hp hruns hid hfind hst hk hr hb howed hland hfound hrun,
      fun u f b o hland hread hopcode hop hdsp hscr hacc hblock => State.landPiece_reads hland hread hopcode hop hdsp hacc hblock,
      fun code cause a hkick hland => engineLineLand_faults hp hruns hid hfind hst hk hr hb howed hkick hland,
      fun d a w hland => engineLineLand_parks hp hruns hid hfind hst hk hr hb howed hland⟩,
    fun hfind hst hk hr hkick hwhole => engineRequestComplete_fills hp hruns hfind hst hk hr hkick hwhole,
    fun k l hfind hst hop hkick hwhole hne hl => engineRequestComplete_ofKick hp hruns hfind hst hop hkick hwhole hne hl,
    fun hfind hst hop => ⟨kick_completes hp hruns hfind hst hop, fun i f hover hbad => kick_faults hp hruns hid hfind hst hop hover hbad,
      fun b o hbad hleft hroom hfresh hnone hscr hready hheld => ⟨fun f hf => kickEntryStart_bad hp hruns hid hfind hst hop hbad hleft hroom hscr hready hheld hf,
        fun hf hbusy => kickEntryStart_starts hp hruns hid hfind hst hop hbad hleft hroom hscr hready hheld hfresh hnone hf hbusy⟩⟩⟩
  exact engineRequestAccept_hints hp hruns hid hnext hturn

end Sys2Proof.Proofs.MemoryRules

/-! PROOFS. Consistency rules: the canonical form of memory (O58). The bytes of HBM, host memory and the weight stores change only by
`writeList`, which keeps the form; so each function on states below keeps it for the reason that the functions it calls do. There is one
lemma for each, in the order of the model. -/

namespace Sys2Proof.Machine

section MemoryForm
variable {s : State}

/-! ### The form of memory, of a word's result and of a step's outcome -/

/-- The three memories are canonical: `MemoryForm` on the fields alone, for states written out field by field. -/
def MemsForm (hbm host weights : FMap Byte) : Prop := Memory.wf hbm = true ∧ Memory.wf host = true ∧ Memory.wf weights = true

theorem memoryForm_of (h : MemsForm s.hbm s.host s.weights) : MemoryForm s := h

theorem memsForm_of (h : MemoryForm s) : MemsForm s.hbm s.host s.weights := h

/-- The state that a word's result carries is canonical; a trap carries none, the word then takes its fault in the state before. -/
def Res.HasForm : Res → Prop
  | .done t _ | .moved t | .wait t _ | .doneWait t _ _ | .parked t _ _ => MemoryForm t
  | .trap _ => True

/-- The state after a step that completes is canonical. -/
def OutcomeForm (o : Host.Outcome State Fault Refusal) : Prop := ∀ t, o = .next t → MemoryForm t

theorem outcomeForm_fault {e : Fault} : OutcomeForm (.fault e) := fun _ h => nomatch h

theorem foldl_memForm {α : Type} {f : State → α → State} {l : List α} (h : MemoryForm s) (hf : ∀ u a, MemoryForm u → MemoryForm (f u a)) :
    MemoryForm (l.foldl f s) :=
  List.foldlRecOn l f h fun u hu a _ => hf u a hu

/-- The same for a fold that carries something besides the state. -/
theorem foldl_fst_memForm {α β : Type} {f : State × β → α → State × β} {l : List α} {acc : State × β} (h : MemoryForm acc.1)
    (hf : ∀ acc a, MemoryForm acc.1 → MemoryForm (f acc a).1) : MemoryForm (l.foldl f acc).1 :=
  List.foldlRecOn l f (motive := fun acc => MemoryForm acc.1) h fun acc hacc a _ => hf acc a hacc

theorem foldl_snd_memForm {α β : Type} {f : β × State → α → β × State} {l : List α} {acc : β × State} (h : MemoryForm acc.2)
    (hf : ∀ acc a, MemoryForm acc.2 → MemoryForm (f acc a).2) : MemoryForm (l.foldl f acc).2 :=
  List.foldlRecOn l f (motive := fun acc => MemoryForm acc.2) h fun acc hacc a _ => hf acc a hacc

/-! Fields that are no memory. -/

theorem memForm_updates {us : List Update} (h : MemoryForm s) : MemoryForm { s with updates := us } := h

theorem memForm_blocks {bs : List Block} (h : MemoryForm s) : MemoryForm { s with blocks := bs } := h

theorem memForm_nextId {n : Nat} (h : MemoryForm s) : MemoryForm { s with nextId := n } := h

/-! ### What keeps the form -/

/-! #### The state -/

theorem State.reset_memForm  : MemoryForm State.reset := ⟨rfl, rfl, rfl⟩

/-! #### Open choices -/

theorem State.spend_memForm (h : MemoryForm s) : MemoryForm s.spend := h

theorem State.named_memForm (h : MemoryForm s) : MemoryForm s.named := h

theorem State.setCtx_memForm {vf : Nat} {c : Ctx} (h : MemoryForm s) : MemoryForm (s.setCtx vf c) := h

/-! #### Dirty lines and caches -/

theorem State.markDirty_memForm {host : Bool} {line : Nat} (h : MemoryForm s) : MemoryForm (s.markDirty host line) := by
  unfold State.markDirty
  grind [State.spend_memForm, memoryForm_of, memsForm_of]

theorem State.dropL1_memForm {p : Nat → Bool} {host : Bool} {line : Nat} (h : MemoryForm s) : MemoryForm (s.dropL1 p host line) := h

theorem State.captureOne_memForm {r : Replay} {k : Loc} (h : MemoryForm s) : MemoryForm (s.captureOne r k) := by
  unfold State.captureOne
  generalize bytesOf 4096 (s.readLoc k 4096) = bs
  split
  · exact h
  · dsimp only
    split
    · split <;> exact h
    · exact ⟨wf_writeList _ _ _ h.1, h.2⟩

theorem State.capture_memForm {l : Loc} {n vf : Nat} (h : MemoryForm s) : MemoryForm (s.capture l n vf) := by
  unfold State.capture
  grind [State.captureOne_memForm, foldl_memForm]

theorem State.writeLoc_memForm {l : Loc} {bs : List Byte} {core : Option Nat} {vf : Nat} (h : MemoryForm s) :
    MemoryForm (s.writeLoc l bs core vf) := by
  have hc := State.capture_memForm (l := l) (n := bs.length) (vf := vf) h
  unfold State.writeLoc
  generalize s.capture l bs.length vf = t at hc ⊢
  obtain ⟨hhbm, hhost, hweights⟩ := hc
  cases l with
  | hbm a => exact foldl_memForm ⟨wf_writeList _ _ _ hhbm, hhost, hweights⟩ fun _ _ h => State.markDirty_memForm (State.dropL1_memForm h)
  | host a => exact foldl_memForm ⟨hhbm, wf_writeList _ _ _ hhost, hweights⟩ fun _ _ h => State.markDirty_memForm (State.dropL1_memForm h)
  | peer d a => exact ⟨hhbm, hhost, hweights⟩
  | scr b o => exact ⟨hhbm, hhost, hweights⟩
  | weight d a => exact ⟨hhbm, hhost, wf_writeList _ _ _ hweights⟩

theorem State.writeNum_memForm {l : Loc} {n v : Nat} {core : Option Nat} {vf : Nat} (h : MemoryForm s) :
    MemoryForm (s.writeNum l n v core vf) := State.writeLoc_memForm h

/-! #### Page tables -/

theorem State.touch_memForm {vf va : Nat} {write : Bool} {l : Loc} (h : MemoryForm s) : MemoryForm (s.touch vf va write l) := by
  unfold State.touch
  grind [State.writeNum_memForm, State.setCtx_memForm, memoryForm_of, memsForm_of]

/-! #### The L1 (R112, R113) -/

theorem State.setCore_memForm {c : Nat} {k : Core} (h : MemoryForm s) : MemoryForm (s.setCore c k) := h

/-! #### Page moves and reduction regions (R107, 23 R333-R341) -/

theorem State.contribute_memForm {vf va n : Nat} (h : MemoryForm s) : MemoryForm (s.contribute vf va n) := by
  unfold State.contribute
  grind [State.setCtx_memForm, foldl_memForm]

/-! #### Ownership (R134, R135) -/

theorem State.ownLines_memForm {ls : List Loc} (h : MemoryForm s) : MemoryForm (s.ownLines ls) := by
  unfold State.ownLines
  grind [State.dropL1_memForm, foldl_memForm]

theorem State.own_memForm {t : Xfer} (h : MemoryForm s) : MemoryForm (s.own t) := by
  unfold State.own
  grind [State.ownLines_memForm, foldl_memForm]

theorem State.ownRows_memForm {r : Readout} (h : MemoryForm s) : MemoryForm (s.ownRows r) := by
  unfold State.ownRows
  grind [State.ownLines_memForm, foldl_memForm]

/-! #### Looking up and replacing -/

theorem State.setGroup_memForm {g : Group} (h : MemoryForm s) : MemoryForm (s.setGroup g) := h

theorem State.onGroup_memForm {gid : Gid} {f : Group → Group} (h : MemoryForm s) : MemoryForm (s.onGroup gid f) := h

theorem State.setPart_memForm {p : Nat} {k : Part} (h : MemoryForm s) : MemoryForm (s.setPart p k) := h

theorem State.setDie_memForm {d : Nat} {k : Die} (h : MemoryForm s) : MemoryForm (s.setDie d k) := h

/-! #### Performance counters (R384) -/

theorem State.count_memForm {vf core ev n : Nat} (h : MemoryForm s) : MemoryForm (s.count vf core ev n) := by
  unfold State.count
  grind [State.setCore_memForm]

/-! #### Rings (27 R371-R374) -/

theorem State.setRing_memForm {fn r : Nat} {k : Ring} (h : MemoryForm s) : MemoryForm (s.setRing fn r k) := State.setCtx_memForm h

theorem State.push_memForm {fn r : Nat} {words : List Dword} {t : State} (h : MemoryForm s) (e : s.push fn r words = some t) :
    MemoryForm t := by
  unfold State.push at e
  dsimp only at e
  split at e
  · cases e; exact State.setRing_memForm (State.writeLoc_memForm h)
  · cases e

theorem State.pushOrDrop_memForm {fn r : Nat} {words : List Dword} (h : MemoryForm s) : MemoryForm (s.pushOrDrop fn r words) := by
  unfold State.pushOrDrop
  grind [State.push_memForm, State.setRing_memForm]

theorem State.postEvent_memForm {vf src code addr value : Nat} (h : MemoryForm s) : MemoryForm (s.postEvent vf src code addr value) :=
  State.pushOrDrop_memForm h

theorem State.postError_memForm {src cause die unit nerr paddr vf owner action : Nat} (h : MemoryForm s) :
    MemoryForm (s.postError src cause die unit nerr paddr vf owner action) := State.pushOrDrop_memForm h

theorem State.postReport_memForm {vf kind cause addr info : Nat} {tag : Dword} (h : MemoryForm s) :
    MemoryForm (s.postReport vf kind cause addr info tag) := State.pushOrDrop_memForm h

/-! #### Error records (R361) -/

theorem State.countError_memForm {source unit : Nat} (h : MemoryForm s) : MemoryForm (s.countError source unit).2 := h

theorem State.reportError_memForm {source cause die unit paddr vf owner action : Nat} (h : MemoryForm s) :
    MemoryForm (s.reportError source cause die unit paddr vf owner action) := by
  unfold State.reportError
  grind [State.countError_memForm, State.postError_memForm]

theorem State.reportPois_memForm {vf owner : Nat} {f : FaultInfo} (h : MemoryForm s) : MemoryForm (s.reportPois vf owner f) := by
  unfold State.reportPois
  grind [State.reportError_memForm]

/-! #### Parking (25 R358-R368) -/

theorem State.flushParks_memForm {vf n : Nat} (h : MemoryForm s) : MemoryForm (s.flushParks vf n) := by
  induction n generalizing s with
  | zero => exact h
  | succ n ih =>
    unfold State.flushParks
    split
    · exact h
    · split
      · exact h
      · next e => exact ih (State.setCtx_memForm (State.push_memForm h e))

theorem State.parkEntry_memForm {vf : Nat} {work : Parked} {kind engine : Nat} {pos : Option (Nat × Nat)} {shd wr : Bool} {addr info :
    Nat} {tag : Dword} {word : Nat} (h : MemoryForm s) :
    MemoryForm (s.parkEntry vf work kind engine pos shd wr addr info tag word).2 := by
  unfold State.parkEntry
  grind [State.setCtx_memForm, State.flushParks_memForm]

/-! #### Program order (09 R123) -/

theorem State.wake_memForm (h : MemoryForm s) : MemoryForm s.wake := h

theorem State.readyPath_memForm {gid : Gid} {path : Nat} (h : MemoryForm s) : MemoryForm (s.readyPath gid path) := State.onGroup_memForm h

/-! #### Tenures of capsule records (19 R290, R296, R297) -/

theorem State.stall_memForm {gid : Gid} (h : MemoryForm s) : MemoryForm (s.stall gid) := by
  unfold State.stall
  grind [State.onGroup_memForm, State.writeNum_memForm, memoryForm_of, memsForm_of]

theorem State.unstall_memForm {gid : Gid} (h : MemoryForm s) : MemoryForm (s.unstall gid) := by
  unfold State.unstall
  grind [State.writeNum_memForm, State.onGroup_memForm]

/-! #### Taking a fault: the halt line (25 R346-R350, R362) -/

theorem State.raiseHalt_memForm {vf : Nat} {u : Option StopUnit} {f : FaultInfo} (h : MemoryForm s) : MemoryForm (s.raiseHalt vf u f) := by
  unfold State.raiseHalt
  grind [State.setCtx_memForm]

theorem State.takeFault_memForm {gid : Gid} {f : FaultInfo} (h : MemoryForm s) : MemoryForm (s.takeFault gid f) := by
  unfold State.takeFault
  grind [State.stall_memForm, State.onGroup_memForm, State.raiseHalt_memForm]

theorem State.leaveFault_memForm {vf : Nat} (h : MemoryForm s) : MemoryForm (s.leaveFault vf) := by
  unfold State.leaveFault
  grind [State.setCtx_memForm, memoryForm_of, memsForm_of]

/-! #### Cost and the end of a word -/

theorem State.coreTo_memForm {core n : Nat} (h : MemoryForm s) : MemoryForm (s.coreTo core n) := by
  unfold State.coreTo
  grind [State.setCore_memForm, State.count_memForm]

theorem State.spendCycles_memForm {x : Ix} {c : Cost} (h : MemoryForm s) : MemoryForm (s.spendCycles x c) := by
  unfold State.spendCycles
  grind [State.coreTo_memForm, State.spend_memForm, State.setPart_memForm, State.count_memForm]

theorem State.advanceRun_memForm {p : Nat} {ended : Bool} (h : MemoryForm s) : MemoryForm (s.advanceRun p ended) := by
  unfold State.advanceRun
  grind [State.setPart_memForm]

theorem State.endLeg_memForm {p : Nat} {gid : Gid} {path : Nat} {w : Wait} (h : MemoryForm s) : MemoryForm (s.endLeg p gid path w) := by
  unfold State.endLeg
  grind [State.onGroup_memForm, State.advanceRun_memForm]

theorem State.retire_memForm {x : Ix} {w : Option Wait} (h : MemoryForm s) : MemoryForm (s.retire x w) := by
  unfold State.retire
  grind [State.onGroup_memForm, State.endLeg_memForm, State.advanceRun_memForm]

theorem State.transferred_memForm {x : Ix} (h : MemoryForm s) : MemoryForm (s.transferred x) := by
  unfold State.transferred
  grind [State.onGroup_memForm, State.endLeg_memForm, State.advanceRun_memForm]

theorem State.enterClause_memForm {x : Ix} (h : MemoryForm s) : MemoryForm (s.enterClause x) := State.onGroup_memForm h

theorem State.finish_memForm {x : Ix} {r : Res} (h : MemoryForm s) (hr : r.HasForm) : MemoryForm (s.finish x r) := by
  cases r with
  | done t c => exact State.retire_memForm (State.spendCycles_memForm hr)
  | moved t => exact State.transferred_memForm (State.spendCycles_memForm hr)
  | trap f => exact State.endLeg_memForm (State.takeFault_memForm (State.reportPois_memForm h))
  | wait t w => exact State.endLeg_memForm (State.enterClause_memForm hr)
  | doneWait t w c => exact State.retire_memForm (State.spendCycles_memForm hr)
  | parked t c missed => exact State.endLeg_memForm (State.spendCycles_memForm (State.enterClause_memForm hr))

/-! #### Capsule mode (19 R291) -/

theorem capsuleRes_memForm {r : Res} (hr : r.HasForm) : Res.HasForm (capsuleRes r) := by
  unfold capsuleRes
  grind [Res.HasForm]

theorem State.word_memForm {u : CapUse} {f : State → Ix → Res} (h : MemoryForm s) (hf : ∀ u y, MemoryForm u → Res.HasForm (f u y)) :
    OutcomeForm (s.word u f) := by
  unfold State.word
  grind [State.finish_memForm, capsuleRes_memForm, Res.HasForm, OutcomeForm]

theorem State.event_memForm {due : Bool} {t : State} (ht : MemoryForm t) : OutcomeForm (s.event due t) := by
  unfold State.event
  split
  · exact outcomeForm_fault
  split
  · intro u e
    cases e
    exact State.wake_memForm ht
  · exact outcomeForm_fault

/-! #### Vector operands -/

theorem State.touchElems_memForm {vf : Nat} {es : List (Nat × Loc)} (h : MemoryForm s) : MemoryForm (s.touchElems vf es) := by
  unfold State.touchElems
  grind [State.touch_memForm, foldl_memForm]

theorem State.readElems_memForm {x : Ix} {o : VOp} {es : List (Nat × Loc)} (h : MemoryForm s) : MemoryForm (s.readElems x o es) :=
  State.touchElems_memForm h

/-! #### Parking on a miss (R117) -/

theorem State.parkMiss_memForm {x : Ix} {misses : List (Nat × Nat × Bool)} {again : Mask} {shd wr : Bool} (h : MemoryForm s) :
    MemoryForm (s.parkMiss x misses again shd wr) := by
  unfold State.parkMiss
  exact State.count_memForm (State.onGroup_memForm (foldl_snd_memForm (State.stall_memForm h) fun _ _ hu => State.parkEntry_memForm hu))

/-! #### Running a vector word -/

theorem State.vecWord_memForm {x : Ix} {o : VOp} {f : State → Ix → VVals → Except FaultInfo State} (h : MemoryForm s)
    (hf : ∀ u y y', MemoryForm u → ∀ t, f u y y' = .ok t → MemoryForm t) :
    Res.HasForm (s.vecWord x o f) := by
  unfold State.vecWord
  split
  · trivial
  split
  · trivial
  split
  · trivial
  split
  · exact h
  dsimp only
  split
  · trivial
  split
  · exact h
  generalize (if o.cross && !(s.elemNeeds x o).misses.isEmpty then x.execAt o else
    maskOf x.g.n fun p => (s.elemNeeds x o).misses.any fun m => m.1 == p) = missed
  split
  · trivial
  · next t ht =>
    have hu := hf _ _ _ (State.readElems_memForm h) t ht
    split
    · exact State.onGroup_memForm hu
    · exact State.parkMiss_memForm (State.onGroup_memForm hu)

/-! #### Scalar words -/

theorem State.scalarWord_memForm {x : Ix} {o : SOp} {f : State → Ix → Res} (h : MemoryForm s) (hf : ∀ u y,
    MemoryForm u → Res.HasForm (f u y)) :
    Res.HasForm (s.scalarWord x o f) := by
  unfold State.scalarWord
  grind [Res.HasForm]

/-! #### The shape of a V3 word -/

theorem State.v3_memForm {v : V3} {legal : Bool} {acc : Accept} {cost : Cost} {f : Ix → Nat → Nat → Nat → Nat × Half} (h : MemoryForm s) :
    OutcomeForm (s.v3 v legal acc cost f) := by
  unfold State.v3
  grind [State.word_memForm, State.vecWord_memForm, State.onGroup_memForm, OutcomeForm]

/-! #### Integer types -/

theorem State.vint_memForm {d a b : BitVec 7} {f : Nat} {bs : BitVec 1} {legal sat : Bool} {third : Nat} {op : IType → Bool → Nat → Nat →
    Nat → Nat × Half} (h : MemoryForm s) :
    OutcomeForm (s.vint d a b f bs legal sat third op) := by
  unfold State.vint
  exact State.v3_memForm h

theorem execVadd_memForm {d a b : BitVec 7} {f : BitVec 3} {s1 : BitVec 1} (h : MemoryForm s) : OutcomeForm (execVadd d a b f s1 s) :=
  State.vint_memForm h

theorem execVsub_memForm {d a b : BitVec 7} {f : BitVec 3} {s1 : BitVec 1} (h : MemoryForm s) : OutcomeForm (execVsub d a b f s1 s) :=
  State.vint_memForm h

theorem execVmul_memForm {d a b : BitVec 7} {f : BitVec 3} {s1 : BitVec 1} (h : MemoryForm s) : OutcomeForm (execVmul d a b f s1 s) :=
  State.vint_memForm h

theorem execVmulh_memForm {d a b : BitVec 7} {f : BitVec 3} {s1 : BitVec 1} (h : MemoryForm s) : OutcomeForm (execVmulh d a b f s1 s) :=
  State.vint_memForm h

theorem execVmad_memForm {d a b : BitVec 7} {f : BitVec 3} {s1 : BitVec 1} (h : MemoryForm s) : OutcomeForm (execVmad d a b f s1 s) :=
  State.vint_memForm h

theorem execVmin_memForm {d a b : BitVec 7} {f : BitVec 3} {s1 : BitVec 1} (h : MemoryForm s) : OutcomeForm (execVmin d a b f s1 s) :=
  State.vint_memForm h

theorem execVmax_memForm {d a b : BitVec 7} {f : BitVec 3} {s1 : BitVec 1} (h : MemoryForm s) : OutcomeForm (execVmax d a b f s1 s) :=
  State.vint_memForm h

theorem execVabsd_memForm {d a b : BitVec 7} {f : BitVec 3} {s1 : BitVec 1} (h : MemoryForm s) : OutcomeForm (execVabsd d a b f s1 s) :=
  State.vint_memForm h

theorem execVand_memForm {d a b : BitVec 7} {f : BitVec 2} {s1 : BitVec 1} (h : MemoryForm s) : OutcomeForm (execVand d a b f s1 s) :=
  State.vint_memForm h

theorem execVor_memForm {d a b : BitVec 7} {f : BitVec 2} {s1 : BitVec 1} (h : MemoryForm s) : OutcomeForm (execVor d a b f s1 s) :=
  State.vint_memForm h

theorem execVxor_memForm {d a b : BitVec 7} {f : BitVec 2} {s1 : BitVec 1} (h : MemoryForm s) : OutcomeForm (execVxor d a b f s1 s) :=
  State.vint_memForm h

theorem execVandn_memForm {d a b : BitVec 7} {f : BitVec 2} {s1 : BitVec 1} (h : MemoryForm s) : OutcomeForm (execVandn d a b f s1 s) :=
  State.vint_memForm h

/-! #### Shifts and fields (R185) -/

theorem State.vshift_memForm {d a b : BitVec 7} {f : BitVec 3} {bs : BitVec 1} {sat : Bool} {op : IType → Bool → Nat → Nat → Nat × Half}
    (h : MemoryForm s) :
    OutcomeForm (s.vshift d a b f bs sat op) := by
  unfold State.vshift
  exact State.v3_memForm h

theorem execVshl_memForm {d a b : BitVec 7} {f : BitVec 3} {s1 : BitVec 1} (h : MemoryForm s) : OutcomeForm (execVshl d a b f s1 s) :=
  State.vshift_memForm h

theorem execVshr_memForm {d a b : BitVec 7} {f : BitVec 3} {s1 : BitVec 1} (h : MemoryForm s) : OutcomeForm (execVshr d a b f s1 s) :=
  State.vshift_memForm h

theorem execVsar_memForm {d a b : BitVec 7} {f : BitVec 3} {s1 : BitVec 1} (h : MemoryForm s) : OutcomeForm (execVsar d a b f s1 s) :=
  State.vshift_memForm h

theorem execVrot_memForm {d a b : BitVec 7} {f : BitVec 3} {s1 : BitVec 1} (h : MemoryForm s) : OutcomeForm (execVrot d a b f s1 s) :=
  State.vshift_memForm h

theorem execVbfx_memForm {d a b : BitVec 7} {f s1 : BitVec 1} (h : MemoryForm s) : OutcomeForm (execVbfx d a b f s1 s) := State.vint_memForm h

theorem execVbfi_memForm {d a b : BitVec 7} {f s1 : BitVec 1} (h : MemoryForm s) : OutcomeForm (execVbfi d a b f s1 s) := State.vint_memForm h

theorem execVpopc_memForm {d a : BitVec 7} {f : BitVec 2} (h : MemoryForm s) : OutcomeForm (execVpopc d a f s) := by
  unfold execVpopc
  exact State.v3_memForm h

theorem execVclz_memForm {d a : BitVec 7} {f : BitVec 2} (h : MemoryForm s) : OutcomeForm (execVclz d a f s) := by
  unfold execVclz
  exact State.v3_memForm h

theorem execVmov_memForm {d b : BitVec 7} {f : BitVec 2} {s1 : BitVec 1} (h : MemoryForm s) : OutcomeForm (execVmov d b f s1 s) := State.v3_memForm h

/-! #### Compares and selection (R188-R190) -/

theorem State.vmask_memForm {v : V3} {m : BitVec 4} {legal : Bool} {acc : Accept} {cost : Cost} {f : Ix → Nat → Nat → Bool × Half} (h : MemoryForm s) :
    OutcomeForm (s.vmask v m legal acc cost f) := by
  unfold State.vmask
  grind [State.word_memForm, State.vecWord_memForm, State.onGroup_memForm, OutcomeForm]

theorem execVcmp_memForm {t : BitVec 2} {m : BitVec 4} {a b : BitVec 7} {c : BitVec 3} {s1 : BitVec 1} (h : MemoryForm s) :
    OutcomeForm (execVcmp t m a b c s1 s) := by
  unfold execVcmp
  exact State.vmask_memForm h

theorem execVcmpi_memForm {t : BitVec 2} {m : BitVec 4} {a : BitVec 7} {i : BitVec 8} {c : BitVec 3} (h : MemoryForm s) :
    OutcomeForm (execVcmpi t m a i c s) := by
  unfold execVcmpi
  exact State.vmask_memForm h

theorem execVsel_memForm {d a b : BitVec 7} {f : BitVec 2} {s1 : BitVec 1} (h : MemoryForm s) : OutcomeForm (execVsel d a b f s1 s) := by
  unfold execVsel
  grind [State.word_memForm, State.vecWord_memForm, State.onGroup_memForm, OutcomeForm]

/-! #### Immediates (R186) -/

theorem State.vimm_memForm {d a : BitVec 7} {f : Nat} {legal sat hasA : Bool} {op : IType → Bool → Nat → Nat × Half} (h : MemoryForm s) :
    OutcomeForm (s.vimm d a f legal sat hasA op) := by
  unfold State.vimm
  exact State.v3_memForm h

theorem execVaddi_memForm {d a : BitVec 7} {i : BitVec 8} {f : BitVec 2} (h : MemoryForm s) : OutcomeForm (execVaddi d a i f s) :=
  State.vimm_memForm h

theorem execVshli_memForm {d a : BitVec 7} {i : BitVec 8} {f : BitVec 3} (h : MemoryForm s) : OutcomeForm (execVshli d a i f s) :=
  State.vimm_memForm h

theorem execVshri_memForm {d a : BitVec 7} {i : BitVec 8} {f : BitVec 3} (h : MemoryForm s) : OutcomeForm (execVshri d a i f s) :=
  State.vimm_memForm h

theorem execVandi_memForm {d a : BitVec 7} {i : BitVec 8} {f : BitVec 2} (h : MemoryForm s) : OutcomeForm (execVandi d a i f s) :=
  State.vimm_memForm h

theorem execVmovi_memForm {d : BitVec 7} {i : BitVec 8} {f : BitVec 2} (h : MemoryForm s) : OutcomeForm (execVmovi d i f s) := State.vimm_memForm h

/-! #### Floating-point vector instructions (13 R191-R198) -/

theorem State.vfp_memForm {d a b : BitVec 7} {f : Nat} {bs : BitVec 1} {rnd hasB : Bool} {third : Nat} {op : Fmt → Nat → Nat → Nat → Nat → Nat × Half}
    (h : MemoryForm s) :
    OutcomeForm (s.vfp d a b f bs rnd hasB third op) := by
  unfold State.vfp
  exact State.v3_memForm h

theorem execFadd_memForm {d a b : BitVec 7} {f : BitVec 2} {s1 : BitVec 1} (h : MemoryForm s) : OutcomeForm (execFadd d a b f s1 s) :=
  State.vfp_memForm h

theorem execFsub_memForm {d a b : BitVec 7} {f : BitVec 2} {s1 : BitVec 1} (h : MemoryForm s) : OutcomeForm (execFsub d a b f s1 s) :=
  State.vfp_memForm h

theorem execFmul_memForm {d a b : BitVec 7} {f : BitVec 2} {s1 : BitVec 1} (h : MemoryForm s) : OutcomeForm (execFmul d a b f s1 s) :=
  State.vfp_memForm h

theorem execFfma_memForm {d a b : BitVec 7} {f : BitVec 2} {s1 : BitVec 1} (h : MemoryForm s) : OutcomeForm (execFfma d a b f s1 s) :=
  State.vfp_memForm h

theorem execFmin_memForm {d a b : BitVec 7} {f : BitVec 2} {s1 : BitVec 1} (h : MemoryForm s) : OutcomeForm (execFmin d a b f s1 s) :=
  State.vfp_memForm h

theorem execFmax_memForm {d a b : BitVec 7} {f : BitVec 2} {s1 : BitVec 1} (h : MemoryForm s) : OutcomeForm (execFmax d a b f s1 s) :=
  State.vfp_memForm h

theorem execFsgn_memForm {d a b : BitVec 7} {f : BitVec 3} {s1 : BitVec 1} (h : MemoryForm s) : OutcomeForm (execFsgn d a b f s1 s) := by
  unfold execFsgn
  exact State.v3_memForm h

theorem execFcmp_memForm {t : BitVec 1} {m : BitVec 4} {a b : BitVec 7} {c : BitVec 3} {s1 : BitVec 1} (h : MemoryForm s) :
    OutcomeForm (execFcmp t m a b c s1 s) := State.vmask_memForm h

/-! #### Conversion (R196, R197) -/

theorem execFcvt_memForm {d a : BitVec 7} {e : BitVec 1} {t f : BitVec 3} (h : MemoryForm s) : OutcomeForm (execFcvt d a e t f s) := by
  unfold execFcvt
  exact State.v3_memForm h

theorem execFclass_memForm {d a : BitVec 7} {f : BitVec 1} (h : MemoryForm s) : OutcomeForm (execFclass d a f s) := by
  unfold execFclass
  exact State.v3_memForm h

theorem execFsfn_memForm {d a : BitVec 7} {f : BitVec 3} (h : MemoryForm s) : OutcomeForm (execFsfn d a f s) := State.v3_memForm h

theorem execFdiv_memForm {d a b : BitVec 7} {f : BitVec 2} {s1 : BitVec 1} (h : MemoryForm s) : OutcomeForm (execFdiv d a b f s1 s) :=
  State.vfp_memForm h

theorem execFsqrt_memForm {d a : BitVec 7} {f : BitVec 2} (h : MemoryForm s) : OutcomeForm (execFsqrt d a f s) := State.vfp_memForm h

theorem execFrnd_memForm {d a : BitVec 7} {f : BitVec 2} (h : MemoryForm s) : OutcomeForm (execFrnd d a f s) := State.vfp_memForm h

theorem execFldexp_memForm {d a b : BitVec 7} {f : BitVec 2} {s1 : BitVec 1} (h : MemoryForm s) : OutcomeForm (execFldexp d a b f s1 s) := by
  unfold execFldexp
  exact State.v3_memForm h

theorem execFdot2_memForm {d a b : BitVec 7} {f s1 : BitVec 1} (h : MemoryForm s) : OutcomeForm (execFdot2 d a b f s1 s) := by
  unfold execFdot2
  exact State.v3_memForm h

/-! #### Exact accumulator instructions (13 R199-R201) -/

theorem State.xWord_memForm {v : V3} {legal rnd : Bool} {clears : Option Nat} {vd : List Nat} {wide readsX : Bool} {f : Ix → VVals →
    Group → Nat → Except XaErr Group} (h : MemoryForm s) :
    OutcomeForm (s.xWord v legal rnd clears vd wide readsX f) := by
  unfold State.xWord
  grind [State.word_memForm, State.vecWord_memForm, State.setGroup_memForm, OutcomeForm]

theorem execXclr_memForm {d : BitVec 2} (h : MemoryForm s) : OutcomeForm (execXclr d s) := State.xWord_memForm h

theorem execXadd_memForm {d : BitVec 2} {a : BitVec 7} {f : BitVec 3} (h : MemoryForm s) : OutcomeForm (execXadd d a f s) := State.xWord_memForm h

theorem execXsub_memForm {d : BitVec 2} {a : BitVec 7} {f : BitVec 3} (h : MemoryForm s) : OutcomeForm (execXsub d a f s) := State.xWord_memForm h

theorem execXfma_memForm {d : BitVec 2} {a b : BitVec 7} {f : BitVec 3} (h : MemoryForm s) : OutcomeForm (execXfma d a b f s) := State.xWord_memForm h

theorem execXmrg_memForm {d a : BitVec 2} (h : MemoryForm s) : OutcomeForm (execXmrg d a s) := State.xWord_memForm h

theorem State.xOut_memForm {d n : Nat} {legal rnd wide : Bool} {f : Ix → Nat → Nat × Half} (h : MemoryForm s) :
    OutcomeForm (s.xOut d n legal rnd wide f) := by
  unfold State.xOut
  grind [State.word_memForm, State.vecWord_memForm, State.onGroup_memForm, OutcomeForm]

theorem execXrd_memForm {d : BitVec 7} {a : BitVec 2} {f : BitVec 3} (h : MemoryForm s) : OutcomeForm (execXrd d a f s) := State.xOut_memForm h

theorem execXst_memForm {d : BitVec 7} {a : BitVec 2} (h : MemoryForm s) : OutcomeForm (execXst d a s) := State.xOut_memForm h

theorem execXld_memForm {d : BitVec 2} {a : BitVec 7} (h : MemoryForm s) : OutcomeForm (execXld d a s) := by
  unfold execXld
  grind [State.word_memForm, State.vecWord_memForm, State.setGroup_memForm, OutcomeForm]

/-! #### Ports (R309-R312) -/

theorem State.setPort_memForm {p : Nat} {k : Port} (h : MemoryForm s) : MemoryForm (s.setPort p k) := h

theorem State.sendPacket_memForm {p : Packet} (h : MemoryForm s) : MemoryForm (s.sendPacket p) := by
  unfold State.sendPacket
  grind [State.setPort_memForm, memoryForm_of, memsForm_of]

/-! #### Requests (R315) -/

theorem State.transmit_memForm {r : FabReq} (h : MemoryForm s) : MemoryForm (s.transmit r) := State.sendPacket_memForm h

theorem State.pumpReqs_memForm (h : MemoryForm s) : MemoryForm s.pumpReqs := by
  refine foldl_fst_memForm h fun acc r hacc => ?_
  dsimp only
  split
  · exact hacc
  split
  · exact hacc
  · exact State.transmit_memForm hacc

theorem State.requestAs_memForm {id vf dev cw kind rw addr : Nat} {payload : List Byte} {body : ReqBody} {after : List Nat} (h : MemoryForm s) :
    MemoryForm (s.requestAs id vf dev cw kind rw addr payload body after) := State.pumpReqs_memForm h

theorem State.request_memForm {vf dev cw kind rw addr : Nat} {payload : List Byte} {body : ReqBody} {after : List Nat} (h : MemoryForm s) :
    MemoryForm (s.request vf dev cw kind rw addr payload body after) := by
  unfold State.request
  grind [State.requestAs_memForm, State.named_memForm]

theorem State.answered_memForm {id : Nat} (h : MemoryForm s) : MemoryForm (s.answered id) := State.pumpReqs_memForm h

/-! #### Aggregation buffers (R140-R144, R318) -/

theorem State.depart_memForm {b : AggBuf} (h : MemoryForm s) : MemoryForm (s.depart b) := by
  unfold State.depart
  grind [State.count_memForm, State.requestAs_memForm, memoryForm_of, memsForm_of]

theorem State.enterAgg_memForm {core dev cw : Nat} {es : List AggEntry} (h : MemoryForm s) : MemoryForm (s.enterAgg core dev cw es) := by
  unfold State.enterAgg
  grind [State.depart_memForm, State.named_memForm, memoryForm_of, memsForm_of]

theorem State.departWhere_memForm {p : AggBuf → Bool} (h : MemoryForm s) : MemoryForm (s.departWhere p).2 := by
  unfold State.departWhere
  grind [State.depart_memForm, foldl_memForm]

theorem State.departOverlap_memForm {core dev pa n : Nat} (h : MemoryForm s) : MemoryForm (s.departOverlap core dev pa n).2 :=
  State.departWhere_memForm h

theorem State.logAgg_memForm {gid : Gid} {f : AggFault} (h : MemoryForm s) : MemoryForm (s.logAgg gid f) := State.onGroup_memForm h

/-! #### Accesses in flight -/

theorem State.fly_memForm {x : Ix} {kind : AccKind} {l : Loc} {va size : Nat} {ops : List PosOp} {dest : Dest} {const : Bool} {before :
    List Access} {helper : Bool} (h : MemoryForm s) :
    MemoryForm (s.fly x kind l va size ops dest const before helper) := State.named_memForm h

theorem State.fill_memForm {gid : Gid} {items : List FillItem} (h : MemoryForm s) : MemoryForm (s.fill gid items) := State.named_memForm h

/-! #### Loads at issue -/

theorem State.issueLoad_memForm {x : Ix} {l : Loc} {va size : Nat} {ops : List PosOp} {dest : Dest} {const : Bool} {before : List Access}
    {helper : Bool} (h : MemoryForm s) :
    MemoryForm (s.issueLoad x l va size ops dest const before helper) := by
  unfold State.issueLoad
  grind [State.fly_memForm, State.fill_memForm, State.touch_memForm]

theorem State.sendReads_memForm {vf core : Nat} {as : List Access} (h : MemoryForm s) : MemoryForm (s.sendReads vf core as) := by
  unfold State.sendReads
  grind [State.departOverlap_memForm, State.request_memForm, foldl_memForm]

theorem State.sendWrites_memForm {vf core : Nat} {as : List Access} (h : MemoryForm s) : MemoryForm (s.sendWrites vf core as) := by
  unfold State.sendWrites
  grind [State.departOverlap_memForm, State.request_memForm, foldl_memForm]

/-! #### Memory words -/

theorem State.countL1_memForm {x : Ix} {size : Nat} {us : List MemUnit} (h : MemoryForm s) : MemoryForm (s.countL1 x size us) := by
  unfold State.countL1
  grind [State.count_memForm]

theorem State.loadWord_memForm {x : Ix} {m : MemOp} {us : List MemUnit} (h : MemoryForm s) : Res.HasForm (s.loadWord x m us) := by
  unfold State.loadWord
  grind [State.onGroup_memForm, State.countL1_memForm, State.issueLoad_memForm, State.sendReads_memForm, State.touch_memForm,
    State.named_memForm, State.parkMiss_memForm, foldl_memForm, Res.HasForm]

theorem State.issueStore_memForm {x : Ix} {u : MemUnit} {l : Loc} {size v : Nat} (h : MemoryForm s) :
    MemoryForm (s.issueStore x u l size v) := by
  unfold State.issueStore
  grind [State.fly_memForm, State.enterAgg_memForm, State.touch_memForm]

theorem State.storeWord_memForm {x : Ix} {m : MemOp} {us : List MemUnit} (h : MemoryForm s) : Res.HasForm (s.storeWord x m us) := by
  unfold State.storeWord
  grind [State.issueStore_memForm, State.sendWrites_memForm, State.touch_memForm, State.parkMiss_memForm, foldl_memForm, memoryForm_of,
    memsForm_of, Res.HasForm]

theorem State.memWord_memForm {use : CapUse} {m : MemOp} {addr : State → Ix → Nat → Nat × AccRes} {alt : State → Ix → Option Res} (h : MemoryForm s)
    (halt : ∀ u y, MemoryForm u → ∀ t, alt u y = some t → t.HasForm) :
    OutcomeForm (s.memWord use m addr alt) := State.word_memForm h fun u x hu => by
  have hc : MemoryForm (u.count x.g.vf (coreOf x.p) 0x09 (bankCycles x (m.units u x addr) m.size)) := State.count_memForm hu
  grind [State.storeWord_memForm, State.loadWord_memForm, Res.HasForm]

/-! #### Capsule mode (R291) -/

theorem State.capMem_memForm {x : Ix} {store signed : Bool} {z : BitVec 2} {d : BitVec 7} {sb : BitVec 6} {o : BitVec 8} (h : MemoryForm s) :
    Res.HasForm (s.capMem x store signed z d sb o) := by
  unfold State.capMem
  grind [State.scalarWord_memForm, State.parkMiss_memForm, State.touch_memForm, State.onGroup_memForm, State.fill_memForm, Res.HasForm]

/-! #### The instructions (R223) -/

theorem execLd_memForm {d : BitVec 7} {sb : BitVec 6} {o : BitVec 8} {z : BitVec 2} {x1 k : BitVec 1} (h : MemoryForm s) :
    OutcomeForm (execLd d sb o z x1 k s) := by
  unfold execLd
  grind [State.memWord_memForm, State.capMem_memForm, OutcomeForm]

theorem execSt_memForm {d : BitVec 7} {sb : BitVec 6} {o : BitVec 8} {z : BitVec 2} (h : MemoryForm s) : OutcomeForm (execSt d sb o z s) := by
  unfold execSt
  grind [State.memWord_memForm, State.capMem_memForm, OutcomeForm]

theorem noAlt_memForm {s : State} {x : Ix} {t : Res} (_ : MemoryForm s) (e : noAlt s x = some t) : t.HasForm := nomatch e

theorem execLdx_memForm {d : BitVec 7} {sb : BitVec 6} {v : BitVec 7} {z : BitVec 2} {x1 k c : BitVec 1} (h : MemoryForm s) :
    OutcomeForm (execLdx d sb v z x1 k c s) := by
  unfold execLdx
  grind [State.memWord_memForm, noAlt_memForm, OutcomeForm]

theorem execStx_memForm {d : BitVec 7} {sb : BitVec 6} {v : BitVec 7} {z : BitVec 2} {c : BitVec 1} (h : MemoryForm s) :
    OutcomeForm (execStx d sb v z c s) := by
  unfold execStx
  grind [State.memWord_memForm, noAlt_memForm, OutcomeForm]

theorem execLds_memForm {d : BitVec 7} {sb : BitVec 6} {v : BitVec 7} {z : BitVec 2} {x1 k c : BitVec 1} (h : MemoryForm s) :
    OutcomeForm (execLds d sb v z x1 k c s) := by
  unfold execLds
  grind [State.memWord_memForm, noAlt_memForm, OutcomeForm]

theorem execSts_memForm {d : BitVec 7} {sb : BitVec 6} {v : BitVec 7} {z : BitVec 2} {c : BitVec 1} (h : MemoryForm s) :
    OutcomeForm (execSts d sb v z c s) := by
  unfold execSts
  grind [State.memWord_memForm, noAlt_memForm, OutcomeForm]

theorem execLdw_memForm {d : BitVec 7} {sb : BitVec 6} {v : BitVec 7} {z : BitVec 2} {x1 k c : BitVec 1} (h : MemoryForm s) :
    OutcomeForm (execLdw d sb v z x1 k c s) := by
  unfold execLdw
  grind [State.memWord_memForm, noAlt_memForm, OutcomeForm]

theorem execLdc_memForm {d : BitVec 7} {sb : BitVec 6} {v : BitVec 7} {z : BitVec 2} {x1 k c : BitVec 1} (h : MemoryForm s) :
    OutcomeForm (execLdc d sb v z x1 k c s) := by
  unfold execLdc
  grind [State.memWord_memForm, noAlt_memForm, OutcomeForm]

/-! #### Claims (R35, R304) -/

theorem State.grantClaim_memForm {p : Nat} {c : Gid × Nat × Nat} (h : MemoryForm s) : MemoryForm (s.grantClaim p c) := by
  unfold State.grantClaim
  grind [State.setPart_memForm, State.onGroup_memForm]

theorem State.deadlock_memForm {p : Nat} {c : Gid × Nat × Nat} (h : MemoryForm s) : MemoryForm (s.deadlock p c) := by
  unfold State.deadlock
  grind [State.setPart_memForm, State.takeFault_memForm]

theorem State.grantClaims_memForm {p n : Nat} (h : MemoryForm s) : MemoryForm (s.grantClaims p n) := by
  induction n generalizing s with
  | zero => exact h
  | succ n ih =>
    unfold State.grantClaims
    dsimp only
    split
    · exact h
    split
    · exact ih (State.grantClaim_memForm h)
    split
    · split
      · exact ih (State.grantClaim_memForm h)
      · exact foldl_memForm h fun _ _ hu => State.deadlock_memForm hu
    · exact h

theorem State.released_memForm {p : Nat} (h : MemoryForm s) : MemoryForm (s.released p) := State.grantClaims_memForm h

/-! #### The end of a group (R220) -/

theorem State.endBlock_memForm {uid : Nat} (h : MemoryForm s) : MemoryForm (s.endBlock uid) := by
  unfold State.endBlock
  grind [memoryForm_of, memsForm_of]

theorem State.endGroup_memForm {g : Group} (h : MemoryForm s) : MemoryForm (s.endGroup g) := by
  unfold State.endGroup
  grind [State.released_memForm, State.endBlock_memForm, memoryForm_of, memsForm_of]

/-! #### Issue -/

theorem State.sendAtomics_memForm {vf core op type : Nat} {as : List Access} (h : MemoryForm s) :
    MemoryForm (s.sendAtomics vf core op type as) := by
  refine foldl_memForm h fun u d hu => foldl_memForm ?_ fun _ _ hu => State.request_memForm hu
  exact foldl_snd_memForm hu fun _ _ hacc => State.departOverlap_memForm hacc

theorem State.atomWord_memForm {m : AtomOp} {addr : State → Ix → Nat → Nat × AccRes} (h : MemoryForm s) : OutcomeForm (s.atomWord m addr) :=
  State.word_memForm h fun u x hu => by
  dsimp only
  split
  · trivial
  split
  · trivial
  split
  · exact hu
  split
  · exact hu
  split
  · trivial
  generalize hA : (if m.ret then _ else u) = a
  have ha : MemoryForm a := by
    rw [← hA]
    split
    · exact State.onGroup_memForm hu
    · exact hu
  generalize hB : List.foldl _ _ (m.units u x addr) = b
  have hb : MemoryForm b := by
    rw [← hB]
    refine foldl_memForm (State.count_memForm (State.count_memForm ha)) fun v q hv => ?_
    split
    · exact hv
    · refine State.fly_memForm ?_
      split
      · exact State.touch_memForm hv
      · exact hv
    · exact hv
  generalize List.filterMap _ (m.units u x addr) = far
  generalize hC : (if far.isEmpty then b else _) = c
  have hc : MemoryForm c := by
    rw [← hC]
    split
    · exact hb
    · exact foldl_memForm (memForm_nextId hb) fun _ _ hv => State.touch_memForm hv
  generalize hD : (if m.ret then State.sendAtomics _ _ _ _ _ _ else _) = w
  have hw : MemoryForm w := by
    rw [← hD]
    split
    · exact State.sendAtomics_memForm hc
    · exact foldl_memForm hc fun _ _ hv => State.enterAgg_memForm hv
  split
  · exact hw
  · exact State.parkMiss_memForm hw

theorem execAtom_memForm {d a : BitVec 7} {r g : BitVec 1} {o f : BitVec 3} (h : MemoryForm s) : OutcomeForm (execAtom d a r g o f s) :=
  State.atomWord_memForm h

theorem execRed_memForm {d a : BitVec 7} {g : BitVec 1} {o f : BitVec 3} (h : MemoryForm s) : OutcomeForm (execRed d a g o f s) :=
  State.atomWord_memForm h

theorem execAtoms_memForm {d a : BitVec 7} {r g : BitVec 1} {o f : BitVec 3} (h : MemoryForm s) : OutcomeForm (execAtoms d a r g o f s) :=
  State.atomWord_memForm h

/-! #### Fences (R126-R130, R141, R143, R233) -/

theorem State.fenceOn_memForm {x : Ix} {ids : List Nat} {scope : Nat} {check : Bool} (h : MemoryForm s) :
    Res.HasForm (s.fenceOn x ids scope check) := by
  unfold State.fenceOn
  grind [Res.HasForm]

theorem State.bareWord_memForm {legal : Bool} {f : State → Ix → Res} (h : MemoryForm s) (hf : ∀ u y, MemoryForm u → Res.HasForm (f u y)) :
    OutcomeForm (s.bareWord legal f) := by
  unfold State.bareWord
  grind [State.word_memForm, State.scalarWord_memForm, Res.HasForm, OutcomeForm]

theorem State.fenceStart_memForm {x : Ix} {scope : Nat} (h : MemoryForm s) : MemoryForm (s.fenceStart x scope).1 := State.departWhere_memForm h

theorem execFence_memForm {_q : BitVec 1} {sc : BitVec 3} (h : MemoryForm s) : OutcomeForm (execFence _q sc s) :=
  State.bareWord_memForm h fun _ _ hu => by
  grind [State.fenceStart_memForm, State.fenceOn_memForm, Res.HasForm]

theorem State.flushAgg_memForm {x : Ix} (h : MemoryForm s) : MemoryForm (s.flushAgg x) := State.departWhere_memForm h

theorem execFlushagg_memForm (h : MemoryForm s) : OutcomeForm (execFlushagg s) := State.bareWord_memForm h fun _ _ hu => State.flushAgg_memForm hu

theorem execFlushaggWait_memForm (h : MemoryForm s) : OutcomeForm (execFlushaggWait s) := by
  unfold execFlushaggWait
  grind [State.bareWord_memForm, State.flushAgg_memForm, State.fenceOn_memForm, OutcomeForm]

theorem execFenceComplete_memForm {gid : Gid} {path : Nat} (h : MemoryForm s) : OutcomeForm (execFenceComplete gid path s) := by
  unfold execFenceComplete
  grind [State.event_memForm, State.onGroup_memForm, State.takeFault_memForm, OutcomeForm]

/-! #### Stream pattern registers (15 R235-R240) -/

theorem State.qword_memForm {ss : List (Nat × Nat)} {hasA hasB : Bool} {sd : List Nat} {f : State → Ix → Except FaultInfo Group} (h : MemoryForm s) :
    OutcomeForm (s.qword ss hasA hasB sd f) := State.word_memForm h fun _ _ hu => State.scalarWord_memForm hu fun _ _ hu => by
  grind [State.setGroup_memForm, State.named_memForm, Res.HasForm]

theorem execQsetBase_memForm {q : BitVec 3} {a : BitVec 6} (h : MemoryForm s) : OutcomeForm (execQsetBase q a s) := State.qword_memForm h

theorem execQsetShape_memForm {q : BitVec 3} {a b : BitVec 6} {k : BitVec 1} (h : MemoryForm s) : OutcomeForm (execQsetShape q a b k s) :=
  State.qword_memForm h

theorem execQbind_memForm {q : BitVec 3} {a : BitVec 6} {f : BitVec 2} (h : MemoryForm s) : OutcomeForm (execQbind q a f s) := State.qword_memForm h

theorem execQbindOff_memForm {q : BitVec 3} (h : MemoryForm s) : OutcomeForm (execQbindOff q s) := State.qword_memForm h

theorem execQposRd_memForm {d : BitVec 6} {q : BitVec 3} (h : MemoryForm s) : OutcomeForm (execQposRd d q s) := State.qword_memForm h

theorem execQposWr_memForm {q : BitVec 3} {a : BitVec 6} (h : MemoryForm s) : OutcomeForm (execQposWr q a s) := State.qword_memForm h

/-! #### Elements (R239) -/

theorem State.streamReady_memForm {gid : Gid} {q : Nat} (h : MemoryForm s) : MemoryForm (s.streamReady gid q) := State.onGroup_memForm h

theorem execStreamElementArrival_memForm {gid : Gid} {q : Nat} (h : MemoryForm s) : OutcomeForm (execStreamElementArrival gid q s) := by
  unfold execStreamElementArrival
  grind [State.onGroup_memForm, State.sendReads_memForm, State.touch_memForm, State.named_memForm, State.event_memForm,
    State.streamReady_memForm, foldl_memForm, OutcomeForm]

/-! #### Issue (R241, R243) -/

theorem State.engWord_memForm {t r : BitVec 6} {k : Option (BitVec 6)} {opcode fn reads : Nat} {check : State → Ix → EngReq → Option FaultInfo}
    (h : MemoryForm s) :
    OutcomeForm (s.engWord t r k opcode fn reads check) := State.word_memForm h fun _ _ hu => State.scalarWord_memForm hu fun u x hu => by
  dsimp only
  split
  · exact hu
  split
  · exact hu
  split
  · trivial
  · exact State.onGroup_memForm (State.named_memForm (memoryForm_of (State.own_memForm hu)))

theorem execCpy_memForm {t r k : BitVec 6} (h : MemoryForm s) : OutcomeForm (execCpy t r k s) := State.engWord_memForm h

theorem execCpym_memForm {t r k : BitVec 6} (h : MemoryForm s) : OutcomeForm (execCpym t r k s) := State.engWord_memForm h

theorem execHalo_memForm {t r k : BitVec 6} (h : MemoryForm s) : OutcomeForm (execHalo t r k s) := State.engWord_memForm h

theorem execHaloAllm_memForm {t r k : BitVec 6} (h : MemoryForm s) : OutcomeForm (execHaloAllm t r k s) := State.engWord_memForm h

theorem execKick_memForm {t r : BitVec 6} (h : MemoryForm s) : OutcomeForm (execKick t r s) := State.engWord_memForm h

theorem execMighHot_memForm {t r : BitVec 6} (h : MemoryForm s) : OutcomeForm (execMighHot t r s) := State.engWord_memForm h

theorem execMighCold_memForm {t r : BitVec 6} (h : MemoryForm s) : OutcomeForm (execMighCold t r s) := State.engWord_memForm h

theorem execMighClr_memForm {t r : BitVec 6} (h : MemoryForm s) : OutcomeForm (execMighClr t r s) := State.engWord_memForm h

/-! #### Tickets, countdowns and faults (R242, R243, R137) -/

theorem State.fillTicket_memForm {gid : Gid} {tkt : Nat} {v : Dword} (h : MemoryForm s) : MemoryForm (s.fillTicket gid tkt v) :=
  State.onGroup_memForm h

theorem State.postUpdate_memForm {vf : Nat} {target : RecLoc} {d : Int} {src : UpdSrc} {tag : Dword} {after : List Nat} (h : MemoryForm s) :
    MemoryForm (s.postUpdate vf target d src tag after) := State.named_memForm h

theorem State.setXfer_memForm {t : Xfer} (h : MemoryForm s) : MemoryForm (s.setXfer t) := h

theorem State.dropXfer_memForm {id : Nat} (h : MemoryForm s) : MemoryForm (s.dropXfer id) := h

theorem State.countDown_memForm {t : Xfer} (h : MemoryForm s) : MemoryForm (s.countDown t) := by
  unfold State.countDown
  grind [State.postUpdate_memForm, foldl_memForm]

theorem State.engFault_memForm {t : Xfer} {f : FaultInfo} (h : MemoryForm s) : MemoryForm (s.engFault t f) := by
  unfold State.engFault
  grind [State.reportPois_memForm, State.dropXfer_memForm, State.countDown_memForm, State.setXfer_memForm, State.raiseHalt_memForm,
    State.fillTicket_memForm, memoryForm_of, memsForm_of]

/-! #### Acceptance (R98, R241, R251) -/

theorem State.recordHints_memForm {t : Xfer} (h : MemoryForm s) : MemoryForm (s.recordHints t) := by
  unfold State.recordHints
  grind [State.setCtx_memForm, State.dropXfer_memForm, State.fillTicket_memForm]

theorem State.serve_memForm {t : Xfer} (h : MemoryForm s) : MemoryForm (s.serve t) := by
  unfold State.serve
  grind [State.setDie_memForm, State.setCore_memForm]

theorem execEngineRequestAccept_memForm {gid : Gid} (h : MemoryForm s) : OutcomeForm (execEngineRequestAccept gid s) := by
  unfold execEngineRequestAccept
  grind [State.serve_memForm, State.event_memForm, State.recordHints_memForm, State.dropXfer_memForm, State.fillTicket_memForm,
    State.setXfer_memForm, OutcomeForm]

/-! #### Lines (R134-R136, R347) -/

theorem State.readRuns_memForm {t : Xfer} {p : Piece} {rs : List SrcRun} {acc : Fetched}
    (h : MemoryForm s) {w : State} (e : s.readRuns t p rs acc = .error (.done w)) :
    MemoryForm w := by
  induction rs generalizing acc with
  | nil => unfold State.readRuns at e; cases e
  | cons q rs ih =>
    unfold State.readRuns at e
    split at e
    · exact ih e
    · dsimp only at e
      split at e
      · cases e
      · cases e
      · split at e
        · exact ih e
        split at e
        · injection e with e
          injection e with e
          exact e ▸ State.setXfer_memForm (State.request_memForm (State.departOverlap_memForm (State.touch_memForm h)))
        · generalize (s.heldByOther t _ || _) = held at e
          split at e
          · cases e
          · exact ih e

theorem State.landAt_memForm {t : Xfer} {b o : Nat} {bs : List Byte} (h : MemoryForm s) : MemoryForm (s.landAt t b o bs) := State.writeLoc_memForm h

theorem State.writePiece_memForm {t : Xfer} {p : Piece} {v : Share} {bs : List Byte}
    (h : MemoryForm s) {w : State} (e : s.writePiece t p v bs = .done w) :
    MemoryForm w := by
  unfold State.writePiece at e
  dsimp only at e
  split at e
  · cases e
  · cases e
  · injection e with e
    exact e ▸ State.setXfer_memForm (State.request_memForm (State.departOverlap_memForm (State.touch_memForm h)))
  · split at e
    · cases e
    split at e
    · split at e
      · cases e
      · injection e with e
        exact e ▸ State.landAt_memForm h
    · injection e with e
      exact e ▸ State.writeLoc_memForm h
    · split at e
      · cases e
      · injection e with e
        exact e ▸ State.contribute_memForm (State.writeLoc_memForm (State.touch_memForm h))

theorem State.writeShares_memForm {t : Xfer} {p : Piece} {bs : List Byte} {vs : List Share}
    (h : MemoryForm s) {w : State} (e : s.writeShares t p bs vs = .done w) :
    MemoryForm w := by
  induction vs generalizing s with
  | nil => exact LineRes.done.inj e ▸ h
  | cons v vs ih =>
    have hx {xs : List Xfer} : MemoryForm { s with xfers := xs } := h
    unfold State.writeShares at e
    dsimp only at e
    split at e
    · exact ih hx e
    · split at e
      · next e' => exact ih (State.writePiece_memForm h e') e
      · exact State.writePiece_memForm h e

theorem State.landPiece_memForm {t : Xfer} (h : MemoryForm s) {w : State} (e : s.landPiece t = .done w) : MemoryForm w := by
  unfold State.landPiece at e
  dsimp only at e
  split at e
  · next e' => exact State.readRuns_memForm h (e ▸ e')
  · exact State.writeShares_memForm (State.setXfer_memForm (foldl_memForm h fun _ _ hu => State.touch_memForm hu)) e

theorem State.landOwed_memForm {t : Xfer} {t2 : State} (h : MemoryForm s) (e : s.landOwed t = some t2) : MemoryForm t2 := by
  obtain ⟨o, _, rfl⟩ := Option.map_eq_some_iff.mp e
  exact State.setXfer_memForm (State.landAt_memForm h)

theorem execEngineLineLand_memForm {id : Nat} (h : MemoryForm s) : OutcomeForm (execEngineLineLand id s) := by
  unfold execEngineLineLand
  split
  · exact outcomeForm_fault
  · next t _ =>
    dsimp only
    split
    · next e => exact State.event_memForm (State.landOwed_memForm h e)
    · split
      · exact outcomeForm_fault
      · exact State.event_memForm (State.engFault_memForm h)
      · exact State.event_memForm (State.setXfer_memForm (State.parkEntry_memForm h))
      · next e =>
        have hl := State.landPiece_memForm h e
        split
        · split
          · exact State.event_memForm (State.count_memForm (State.setXfer_memForm hl))
          · exact State.event_memForm hl
        · exact outcomeForm_fault

/-! #### Completion and KICK (R137, R250, R252) -/

theorem State.recvAt_memForm {vf fn : Nat} {l : Loc} {t : State × Nat} (h : MemoryForm s) (e : s.recvAt vf fn l = some t) :
    MemoryForm t.1 := by
  unfold State.recvAt at e
  grind [State.writeNum_memForm]

theorem State.recvAct_memForm {t : Xfer} (h : MemoryForm s) : MemoryForm (s.recvAct t) := by
  unfold State.recvAct
  dsimp only
  split
  · exact State.engFault_memForm h
  · exact State.setXfer_memForm (State.parkEntry_memForm h)
  · exact State.engFault_memForm h
  · split
    · next e => exact State.dropXfer_memForm (State.fillTicket_memForm (State.recvAt_memForm (State.touch_memForm h) e))
    · exact h

theorem execEngineRequestComplete_memForm {id : Nat} (h : MemoryForm s) : OutcomeForm (execEngineRequestComplete id s) := by
  unfold execEngineRequestComplete
  grind [State.event_memForm, State.recvAct_memForm, State.dropXfer_memForm, State.fillTicket_memForm, State.setXfer_memForm,
    State.raiseHalt_memForm, State.countDown_memForm, memoryForm_of, memsForm_of, OutcomeForm]

theorem execKickEntryStart_memForm {id : Nat} (h : MemoryForm s) : OutcomeForm (execKickEntryStart id s) := by
  unfold execKickEntryStart
  grind [State.event_memForm, State.setXfer_memForm, State.named_memForm, State.own_memForm, memoryForm_of, memsForm_of, OutcomeForm]

/-! #### Records (R280, R281) -/

theorem State.putTask_memForm {l : Loc} {r : TaskRec} {vf : Nat} (h : MemoryForm s) : MemoryForm (s.putTask l r vf) := State.writeLoc_memForm h

/-! #### Actions (R282, R287, R289) -/

theorem State.patchRecord_memForm {vf : Nat} {gid : Gid} {off n : Nat} {f : Nat → Nat} (h : MemoryForm s) :
    MemoryForm (s.patchRecord vf gid off n f) := by
  unfold State.patchRecord
  grind [State.setCtx_memForm, State.writeLoc_memForm]

theorem State.onKept_memForm {gid : Gid} {f : Group → Group} {off n : Nat} {rec : Group → Nat → Nat} (h : MemoryForm s) :
    MemoryForm (s.onKept gid f off n rec) := by
  unfold State.onKept
  grind [State.setCtx_memForm, State.patchRecord_memForm, foldl_memForm]

theorem State.waiterReady_memForm {gid : Gid} (h : MemoryForm s) : MemoryForm (s.waiterReady gid) := by
  unfold State.waiterReady
  grind [State.onGroup_memForm, State.onKept_memForm]

theorem State.spawn_memForm {vf addr : Nat} (h : MemoryForm s) : MemoryForm (s.spawn vf addr) := by
  unfold State.spawn
  grind [State.setCtx_memForm]

theorem State.fireAction_memForm {vf : Nat} {r : RecLoc} {tag : Dword} {waiters : List Gid} {a : Nat} (h : MemoryForm s) :
    MemoryForm (s.fireAction vf r tag waiters a) := by
  unfold State.fireAction
  grind [State.waiterReady_memForm, State.spawn_memForm, State.postEvent_memForm, State.postUpdate_memForm, State.postReport_memForm,
    foldl_memForm]

/-! #### One update (R47, R48, R288) -/

theorem State.updateAt_memForm {vf : Nat} {r : RecLoc} {l : Loc} {d : Int} {join : Option Gid} {tag : Dword}
    (h : MemoryForm s) {t : State} {old : Int} {ready : Bool} (e : s.updateAt vf r l d join tag = .ok t old ready) :
    MemoryForm t := by
  unfold State.updateAt at e
  dsimp only at e
  split at e
  · cases e
  split at e
  · cases e
  · injection e with e
    rw [← e]
    have ht : MemoryForm (match r with | .glob v va => s.touch v va true l | _ => s) := by
      split
      · exact State.touch_memForm h
      · exact h
    refine foldl_memForm (State.putTask_memForm ?_) fun _ _ hu => State.fireAction_memForm hu
    cases join with
    | none => cases r <;> exact ht
    | some g => cases r <;> exact State.onGroup_memForm ht

theorem State.update_memForm {vf : Nat} {r : RecLoc} {d : Int} {join : Option Gid} {tag : Dword}
    (h : MemoryForm s) {t : State} {old : Int} {ready : Bool} (e : s.update vf r d join tag = .ok t old ready) :
    MemoryForm t := by
  unfold State.update at e
  split at e
  · cases e
  · cases e
  · cases e
  · exact State.updateAt_memForm h e

/-! #### Words (R278, R279) -/

theorem State.recWord_memForm {a : BitVec 6} {ss : List (Nat × Nat)} {hasB : Bool} {sd : List Nat} {legal : Ix → Bool} {ordered : Bool}
    {align : Nat} {f : State → Ix → RecLoc → Res} (h : MemoryForm s) (hf : ∀ u y y', MemoryForm u → Res.HasForm (f u y y')) :
    OutcomeForm (s.recWord a ss hasB sd legal ordered align f) := by
  unfold State.recWord
  grind [State.word_memForm, State.scalarWord_memForm, Res.HasForm, OutcomeForm]

theorem State.recMiss_memForm {x : Ix} {r : RecLoc} {d write : Bool} {sd : List Nat} (h : MemoryForm s) :
    Res.HasForm (s.recMiss x r d write sd) := by
  unfold State.recMiss
  grind [State.onGroup_memForm, State.parkMiss_memForm, Res.HasForm]

/-! #### TARM (R283) -/

theorem State.tarmWord_memForm {a : BitVec 6} {ss : List (Nat × Nat)} {hasB legal : Bool} {f : Ix → Bool → TaskRec → Except Nat TaskRec}
    (h : MemoryForm s) :
    OutcomeForm (s.tarmWord a ss hasB legal f) := State.recWord_memForm h fun u x r hu => by
  grind [State.recMiss_memForm, State.touch_memForm, State.putTask_memForm, Res.HasForm]

theorem execTarm_memForm {a b : BitVec 6} (h : MemoryForm s) : OutcomeForm (execTarm a b s) := State.tarmWord_memForm h

theorem execTarmClr_memForm {a : BitVec 6} (h : MemoryForm s) : OutcomeForm (execTarmClr a s) := State.tarmWord_memForm h

theorem execTarmInit_memForm {a b : BitVec 6} {k : BitVec 1} (h : MemoryForm s) : OutcomeForm (execTarmInit a b k s) := State.tarmWord_memForm h

/-! #### TADD and ARRIVE (R284, R285) -/

theorem State.sendUpdate_memForm {vf dev pa : Nat} {gid : Gid} {d : Int} {body : ReqBody} (h : MemoryForm s) :
    MemoryForm (s.sendUpdate vf dev pa gid d body) := State.request_memForm h

theorem execTadd_memForm {a b : BitVec 6} {k : BitVec 1} (h : MemoryForm s) : OutcomeForm (execTadd a b k s) :=
  State.recWord_memForm h fun u x r hu => by
  dsimp only
  split
  · next e => exact State.update_memForm hu e
  · exact State.recMiss_memForm hu
  · exact State.sendUpdate_memForm (State.departOverlap_memForm hu)
  · trivial

theorem execTaddR_memForm {d a b : BitVec 6} {k : BitVec 1} (h : MemoryForm s) : OutcomeForm (execTaddR d a b k s) :=
  State.recWord_memForm h fun u x r hu => by
  dsimp only
  split
  · next e => exact State.onGroup_memForm (State.update_memForm hu e)
  · exact State.recMiss_memForm hu
  · exact State.onGroup_memForm (State.sendUpdate_memForm (State.departOverlap_memForm hu))
  · trivial

theorem State.arriveWord_memForm {a : BitVec 6} {ss : List (Nat × Nat)} {hasB : Bool} {d : Ix → Int} (h : MemoryForm s) :
    OutcomeForm (s.arriveWord a ss hasB d) := State.recWord_memForm h fun u x r hu => by
  split
  · next e =>
    split
    · exact State.update_memForm hu e
    · exact State.count_memForm (State.onGroup_memForm (State.update_memForm hu e))
  · exact State.recMiss_memForm hu
  · trivial
  · trivial

theorem execArrive_memForm {a : BitVec 6} (h : MemoryForm s) : OutcomeForm (execArrive a s) := State.arriveWord_memForm h

theorem execArriveAdd_memForm {a b : BitVec 6} {k : BitVec 1} (h : MemoryForm s) : OutcomeForm (execArriveAdd a b k s) := State.arriveWord_memForm h

theorem execArriveWait_memForm {a : BitVec 6} (h : MemoryForm s) : OutcomeForm (execArriveWait a s) := State.arriveWord_memForm h

/-! #### POLL and TSPAWN (R286, R287) -/

theorem execPoll_memForm {d a b : BitVec 6} {k : BitVec 1} (h : MemoryForm s) : OutcomeForm (execPoll d a b k s) :=
  State.recWord_memForm h fun u x r hu => by
  dsimp only
  split
  · exact hu
  split
  · trivial
  · exact State.recMiss_memForm hu
  · exact State.sendReads_memForm (State.touch_memForm (State.named_memForm (State.onGroup_memForm hu)))
  · exact State.issueLoad_memForm (State.onGroup_memForm hu)

theorem execTspawn_memForm {a : BitVec 6} (h : MemoryForm s) : OutcomeForm (execTspawn a s) :=
  State.word_memForm h fun _ _ hu => State.scalarWord_memForm hu fun _ _ hu => by
  grind [State.setCtx_memForm, Res.HasForm]

/-! #### Steps of the task machine -/

theorem execSpawnQueueEntry_memForm {vf : Nat} (h : MemoryForm s) : OutcomeForm (execSpawnQueueEntry vf s) := by
  unfold execSpawnQueueEntry
  grind [State.event_memForm, State.setCtx_memForm, OutcomeForm]

theorem State.updateFailed_memForm {u : Update} {code cause : Nat} (h : MemoryForm s) : MemoryForm (s.updateFailed u code cause) := by
  unfold State.updateFailed
  grind [State.postReport_memForm, State.reportPois_memForm]

theorem execTaskUpdate_memForm {id : Nat} (h : MemoryForm s) : OutcomeForm (execTaskUpdate id s) := by
  unfold execTaskUpdate
  split
  · exact outcomeForm_fault
  · next v _ =>
    dsimp only
    generalize hr : ({ s with updates := s.updates.filter (fun k => k.id != id) } : State) = rest
    have hrest : MemoryForm rest := hr ▸ h
    split
    · exact State.event_memForm (State.postEvent_memForm hrest)
    split
    · next e => exact State.event_memForm (State.update_memForm hrest e)
    · exact State.event_memForm (State.updateFailed_memForm hrest)
    · exact State.event_memForm (State.updateFailed_memForm hrest)
    · exact State.event_memForm (memForm_updates (State.parkEntry_memForm h))
    · exact State.event_memForm (State.sendUpdate_memForm hrest)

/-! #### Capsules (19 R290-R298 -/

theorem State.putCkpt_memForm {l : Loc} {regs : List Dword} {vf : Nat} (h : MemoryForm s) : MemoryForm (s.putCkpt l regs vf) :=
  State.writeLoc_memForm h

theorem State.capWord_memForm {d a : BitVec 6} {use : Ix → Nat → Option FaultInfo} {f : State → Ix → Nat → Loc → Res} (h : MemoryForm s)
    (hf : ∀ u y y' z, MemoryForm u → Res.HasForm (f u y y' z)) :
    OutcomeForm (s.capWord d a use f) := State.word_memForm h fun _ _ hu => State.scalarWord_memForm hu fun u x hu => by
  dsimp only
  split
  · exact hu
  split
  · exact hu
  split
  · trivial
  split
  · trivial
  split
  · trivial
  · exact State.recMiss_memForm hu
  · grind [State.touch_memForm, Res.HasForm]

theorem execCapenter_memForm {d a : BitVec 6} (h : MemoryForm s) : OutcomeForm (execCapenter d a s) := State.capWord_memForm h fun u x va l hu => by
  dsimp only
  split
  · exact State.setGroup_memForm (State.writeNum_memForm (State.putCkpt_memForm hu))
  · exact State.setGroup_memForm (State.writeNum_memForm (State.writeNum_memForm hu))
  · exact State.onGroup_memForm hu

theorem State.performBuffer_memForm {g : Group} (h : MemoryForm s) : MemoryForm (s.performBuffer g) := by
  unfold State.performBuffer
  grind [State.contribute_memForm, State.writeLoc_memForm, State.touch_memForm, foldl_memForm]

theorem execCapstep_memForm {d a : BitVec 6} (h : MemoryForm s) : OutcomeForm (execCapstep d a s) := State.capWord_memForm h fun u x va l hu => by
  dsimp only
  split
  · exact State.setGroup_memForm (State.writeNum_memForm (State.putCkpt_memForm (State.performBuffer_memForm hu)))
  · exact State.onGroup_memForm hu

theorem State.deliver_memForm {owner : Gid} {record seq : Nat} {result : List Dword} (h : MemoryForm s) :
    MemoryForm (s.deliver owner record seq result) := by
  unfold State.deliver
  grind [State.onKept_memForm, State.onGroup_memForm]

theorem execCapexit_memForm {d a : BitVec 6} (h : MemoryForm s) : OutcomeForm (execCapexit d a s) := State.capWord_memForm h fun u x va l hu => by
  have hw {l' bs r v} {n : Nat} : MemoryForm (((((u.performBuffer x.g).putCkpt l r x.g.vf).writeLoc l' bs none x.g.vf)).writeNum l n v none x.g.vf) :=
    State.writeNum_memForm (State.writeLoc_memForm (State.putCkpt_memForm (State.performBuffer_memForm hu)))
  dsimp only
  split
  · refine State.setGroup_memForm ?_
    split
    · exact State.deliver_memForm hw
    · exact hw
  · exact State.onGroup_memForm hu

theorem execCapres_memForm {d a : BitVec 6} (h : MemoryForm s) : OutcomeForm (execCapres d a s) := State.capWord_memForm h fun u x va l hu => by
  dsimp only
  split
  · exact State.onGroup_memForm hu
  split
  · exact State.onGroup_memForm hu
  · exact hu

/-! #### Registers read and written -/

theorem State.need_memForm {n : Option (FaultInfo ⊕ Wait)} {f : Res} (h : MemoryForm s) (hf : f.HasForm) : Res.HasForm (s.need n f) := by
  unfold State.need
  grind [Res.HasForm]

/-! #### MMA and MMAG at issue (R255-R268) -/

theorem State.mmaWord_memForm {m : MmaOp} (h : MemoryForm s) : OutcomeForm (s.mmaWord m) :=
  State.word_memForm h fun u x hu => State.need_memForm hu (by
  grind [State.onGroup_memForm, State.setPart_memForm, Res.HasForm])

theorem execMma_memForm {t : BitVec 4} {k : BitVec 6} {a b : BitVec 7} {u : BitVec 1} (h : MemoryForm s) :
    OutcomeForm (execMma t k a b u s) := State.mmaWord_memForm h

theorem execMmag_memForm {t : BitVec 4} {k : BitVec 6} {a b : BitVec 7} {u : BitVec 1} (h : MemoryForm s) :
    OutcomeForm (execMmag t k a b u s) := State.mmaWord_memForm h

theorem execAclr_memForm {t n : BitVec 4} (h : MemoryForm s) : OutcomeForm (execAclr t n s) := State.word_memForm h fun u x hu => by
  grind [State.onGroup_memForm, State.setPart_memForm, Res.HasForm]

/-! #### The slice's work (R265-R269) -/

theorem execMatrixOperation_memForm {p : Nat} (h : MemoryForm s) : OutcomeForm (execMatrixOperation p s) := by
  unfold execMatrixOperation
  grind [State.event_memForm, State.setPart_memForm, OutcomeForm]

theorem State.sliceDone_memForm {p : Nat} (h : MemoryForm s) : MemoryForm (s.sliceDone p) := by
  unfold State.sliceDone
  grind [State.setPart_memForm, State.coreTo_memForm, State.count_memForm]

theorem State.stopSlice_memForm {p : Nat} (h : MemoryForm s) : MemoryForm (s.stopSlice p) := by
  unfold State.stopSlice
  grind [State.count_memForm, State.setPart_memForm]

theorem execMatrixOperationComplete_memForm {p : Nat} (h : MemoryForm s) : OutcomeForm (execMatrixOperationComplete p s) := by
  unfold execMatrixOperationComplete
  grind [State.event_memForm, State.sliceDone_memForm, State.setGroup_memForm, State.raiseHalt_memForm, State.setPart_memForm, OutcomeForm]

theorem execSliceHang_memForm {p : Nat} (h : MemoryForm s) : OutcomeForm (execSliceHang p s) := by
  unfold execSliceHang
  grind [State.postError_memForm, State.setPart_memForm, State.onGroup_memForm, State.raiseHalt_memForm, State.event_memForm,
    foldl_memForm, memoryForm_of, memsForm_of, OutcomeForm]

/-! #### Readout (R270-R272) -/

theorem execArd_memForm {t : BitVec 4} {k : BitVec 6} {d : BitVec 7} {tg : BitVec 3} (h : MemoryForm s) :
    OutcomeForm (execArd t k d tg s) := State.word_memForm h fun u x hu => State.need_memForm hu (by
  grind [State.onGroup_memForm, State.fill_memForm, Res.HasForm])

theorem execArds_memForm {t : BitVec 4} {k : BitVec 6} {p b : BitVec 7} (h : MemoryForm s) : OutcomeForm (execArds t k p b s) :=
  State.word_memForm h fun u x hu => State.need_memForm hu (by
  grind [State.onGroup_memForm, State.named_memForm, State.ownRows_memForm, memoryForm_of, memsForm_of, Res.HasForm])

/-! #### The readout engine (R273, R274, R277) -/

theorem State.setReadout_memForm {r : Readout} (h : MemoryForm s) : MemoryForm (s.setReadout r) := by
  unfold State.setReadout
  grind [memoryForm_of, memsForm_of]

theorem State.writeRun_memForm {r : Readout} {e : Nat × Loc × List Byte} (h : MemoryForm s) : MemoryForm (s.writeRun r e) := by
  unfold State.writeRun
  grind [State.contribute_memForm, State.writeLoc_memForm, State.touch_memForm]

theorem State.writeRuns_memForm {r : Readout} {w : RoRow} {ws : List RoRow} {runs : List (Nat × Loc × List Byte)} (h : MemoryForm s) :
    MemoryForm (s.writeRuns r w ws runs) := by
  unfold State.writeRuns
  grind [State.writeRun_memForm, State.departOverlap_memForm, State.touch_memForm, State.request_memForm, State.setReadout_memForm,
    foldl_memForm]

theorem execReadoutEntryWrite_memForm {id : Nat} (h : MemoryForm s) : OutcomeForm (execReadoutEntryWrite id s) := by
  unfold execReadoutEntryWrite
  grind [State.event_memForm, State.setReadout_memForm, State.writeLoc_memForm, State.writeRuns_memForm, State.parkEntry_memForm,
    State.raiseHalt_memForm, State.reportPois_memForm, OutcomeForm]

/-! #### RQCVT (R275, R276) -/

theorem execRqcvt_memForm {d a : BitVec 7} {k : BitVec 2} {f : BitVec 3} (h : MemoryForm s) : OutcomeForm (execRqcvt d a k f s) :=
  State.word_memForm h fun u x hu => by
  dsimp only
  split
  · exact hu
  · exact State.vecWord_memForm hu fun _ _ _ hu _ e => by cases e; exact State.onGroup_memForm hu

/-! #### Claims (R35, R299) -/

theorem execRegrel_memForm {n : BitVec 8} (h : MemoryForm s) : OutcomeForm (execRegrel n s) :=
  State.word_memForm h fun _ _ hu => State.scalarWord_memForm hu fun _ _ hu => by
  grind [State.onGroup_memForm, State.released_memForm, Res.HasForm]

theorem execRegclm_memForm {n : BitVec 8} (h : MemoryForm s) : OutcomeForm (execRegclm n s) :=
  State.word_memForm h fun _ _ hu => State.scalarWord_memForm hu fun _ _ hu => by
  grind [State.onGroup_memForm, State.setPart_memForm, State.count_memForm, State.released_memForm, Res.HasForm]

/-! #### SYS (R301, R302) -/

theorem State.sysFault_memForm {code cause : Nat} (h : MemoryForm s) : OutcomeForm (s.sysFault code cause) :=
  State.word_memForm h fun _ _ hu => State.scalarWord_memForm hu fun _ _ hu => State.takeFault_memForm (State.onGroup_memForm hu)

theorem execSysTrap_memForm {i : BitVec 8} (h : MemoryForm s) : OutcomeForm (execSysTrap i s) := State.sysFault_memForm h

theorem execSysBrk_memForm {i : BitVec 8} (h : MemoryForm s) : OutcomeForm (execSysBrk i s) := State.sysFault_memForm h

theorem execSysHalt_memForm (h : MemoryForm s) : OutcomeForm (execSysHalt s) := State.sysFault_memForm h

theorem State.sysRead_memForm {d : BitVec 6} {f : State → Ix → Dword} (h : MemoryForm s) : OutcomeForm (s.sysRead d f) :=
  State.word_memForm h fun _ _ hu => State.scalarWord_memForm hu fun _ _ hu => State.onGroup_memForm hu

theorem execSysPmrd_memForm {d : BitVec 6} {c : BitVec 2} (h : MemoryForm s) : OutcomeForm (execSysPmrd d c s) := State.sysRead_memForm h

theorem execSysCyc_memForm {d : BitVec 6} (h : MemoryForm s) : OutcomeForm (execSysCyc d s) := State.sysRead_memForm h

theorem execSysEvsig_memForm {a : BitVec 6} {i : BitVec 8} (h : MemoryForm s) : OutcomeForm (execSysEvsig a i s) :=
  State.word_memForm h fun _ _ hu => State.scalarWord_memForm hu fun _ _ hu => by
  dsimp only
  split
  · exact State.postUpdate_memForm hu
  · exact State.postEvent_memForm hu

/-! #### Receive buffers (R312) -/

theorem State.takeArrived_memForm {p : Packet} {t : State} (h : MemoryForm s) (e : s.takeArrived p = some t) : MemoryForm t := by
  unfold State.takeArrived at e
  grind [State.setPort_memForm, memoryForm_of, memsForm_of]

theorem State.onPacket_memForm {p : Packet} {kind : Nat} {f : State → State} (h : MemoryForm s) (hf : ∀ u,
    MemoryForm u → MemoryForm (f u)) :
    OutcomeForm (s.onPacket p kind f) := by
  unfold State.onPacket
  grind [State.takeArrived_memForm, State.event_memForm, OutcomeForm]

theorem State.onPacketIf_memForm {p : Packet} {kind : Nat} {ready : Bool} {f : State → State} (h : MemoryForm s)
    (hf : ∀ u, MemoryForm u → MemoryForm (f u)) :
    OutcomeForm (s.onPacketIf p kind ready f) := by
  unfold State.onPacketIf
  grind [State.onPacket_memForm, OutcomeForm]

/-! #### Answers (R310, R315) -/

theorem State.respond_memForm {dst cw pseq kind : Nat} {payload : List Byte} (h : MemoryForm s) :
    MemoryForm (s.respond dst cw pseq kind payload) := State.sendPacket_memForm h

theorem State.answer_memForm {p : Packet} {kind : Nat} {payload : List Byte} (h : MemoryForm s) : MemoryForm (s.answer p kind payload) :=
  State.respond_memForm h

theorem State.logResponse_memForm {e : LogEntry} (h : MemoryForm s) : MemoryForm (s.logResponse e) := by
  unfold State.logResponse
  grind [State.sendPacket_memForm, memoryForm_of, memsForm_of]

theorem State.flushWithheld_memForm (h : MemoryForm s) : MemoryForm s.flushWithheld := by
  unfold State.flushWithheld
  grind [State.logResponse_memForm, foldl_memForm, memoryForm_of, memsForm_of]

theorem State.acceptSeq_memForm {p : Packet} (h : MemoryForm s) : MemoryForm (s.acceptSeq p) := State.flushWithheld_memForm h

/-! #### RTSEND (R322) -/

theorem execRtsend_memForm {t r : BitVec 6} (h : MemoryForm s) : OutcomeForm (execRtsend t r s) := State.engWord_memForm h

/-! #### Send lists (R323, R332) -/

theorem State.setToken_memForm {t : Token} (h : MemoryForm s) : MemoryForm (s.setToken t) := h

theorem State.dropToken_memForm {id : Nat} (h : MemoryForm s) : MemoryForm (s.dropToken id) := h

theorem State.joinList_memForm {t : Token} (h : MemoryForm s) : MemoryForm (s.joinList t) := by
  unfold State.joinList
  grind [State.setDie_memForm, memoryForm_of, memsForm_of]

theorem State.settle_memForm {t : Token} {stat cause bytes : Nat} (h : MemoryForm s) : MemoryForm (s.settle t stat cause bytes) := by
  unfold State.settle
  grind [State.dropToken_memForm, State.fillTicket_memForm]

theorem State.touchRow_memForm {t : Token} {rs : List SrcRun} (h : MemoryForm s) : MemoryForm (s.touchRow t rs) := by
  unfold State.touchRow
  grind [State.touch_memForm, foldl_memForm]

theorem State.sendFirst_memForm {t : Token} {bs : List Byte} (h : MemoryForm s) : MemoryForm (s.sendFirst t bs) := by
  unfold State.sendFirst
  grind [State.setToken_memForm, State.request_memForm]

theorem State.startToken_memForm {t : Token} (h : MemoryForm s) : MemoryForm (s.startToken t) := by
  unfold State.startToken
  grind [State.sendFirst_memForm, State.touchRow_memForm, State.parkEntry_memForm, State.setToken_memForm, State.raiseHalt_memForm,
    State.reportPois_memForm, State.settle_memForm, State.departOverlap_memForm, State.request_memForm]

/-! #### Drops (R327) -/

theorem State.dropStops_memForm {t : Token} {r : AccRes} (h : MemoryForm s) : MemoryForm (s.dropStops t r) := by
  unfold State.dropStops
  grind [State.parkEntry_memForm, State.setToken_memForm, State.raiseHalt_memForm, State.reportPois_memForm]

theorem State.dropRest_memForm {t : Token} (h : MemoryForm s) : MemoryForm (s.dropRest t) := by
  unfold State.dropRest
  grind [State.departOverlap_memForm, State.touch_memForm, State.request_memForm, State.setToken_memForm, State.settle_memForm,
    State.writeLoc_memForm, State.dropStops_memForm]

theorem State.dropLog_memForm {t : Token} (h : MemoryForm s) : MemoryForm (s.dropLog t) := by
  unfold State.dropLog
  grind [State.dropRest_memForm, State.departOverlap_memForm, State.touch_memForm, State.request_memForm, State.setToken_memForm,
    State.writeNum_memForm, State.dropStops_memForm]

/-! #### Tokens that start (R323) -/

theorem State.pumpTokens_memForm (h : MemoryForm s) : MemoryForm s.pumpTokens := by
  unfold State.pumpTokens
  grind [State.startToken_memForm, State.dropLog_memForm, foldl_memForm]

theorem execRouteTokenAccept_memForm {die : Nat} (h : MemoryForm s) : OutcomeForm (execRouteTokenAccept die s) := by
  unfold execRouteTokenAccept
  grind [State.event_memForm, State.pumpTokens_memForm, State.joinList_memForm, State.dropXfer_memForm, State.serve_memForm, OutcomeForm]

theorem State.dropCounted_memForm {id n : Nat} (h : MemoryForm s) : MemoryForm (s.dropCounted id n) := by
  unfold State.dropCounted
  grind [State.pumpTokens_memForm, State.dropRest_memForm]

theorem State.dropWritten_memForm {id : Nat} (h : MemoryForm s) : MemoryForm (s.dropWritten id) := by
  unfold State.dropWritten
  grind [State.pumpTokens_memForm, State.settle_memForm]

theorem State.refuseToken_memForm {t : Token} {cause : Nat} (h : MemoryForm s) : MemoryForm (s.refuseToken t cause) := by
  unfold State.refuseToken
  grind [State.pumpTokens_memForm, State.joinList_memForm, State.dropLog_memForm, State.setToken_memForm]

theorem State.sendRest_memForm {t : Token} {bs : List Byte} (h : MemoryForm s) : MemoryForm (s.sendRest t bs) := by
  unfold State.sendRest
  grind [State.request_memForm, State.setToken_memForm, foldl_memForm]

theorem execRouteReply_memForm {p : Packet} (h : MemoryForm s) : OutcomeForm (execRouteReply p s) := by
  unfold execRouteReply
  grind [State.onPacket_memForm, State.answered_memForm, State.settle_memForm, State.sendRest_memForm, State.refuseToken_memForm,
    OutcomeForm]

theorem State.tokenAcked_memForm {id req : Nat} (h : MemoryForm s) : MemoryForm (s.tokenAcked id req) := by
  unfold State.tokenAcked
  grind [State.settle_memForm, State.setToken_memForm]

/-! #### The receive table (R321, R325, R396) -/

theorem State.routeHalt_memForm {vf : Nat} {f : FaultInfo} (h : MemoryForm s) : MemoryForm (s.routeHalt vf f) := by
  unfold State.routeHalt
  grind [State.reportPois_memForm, State.setCtx_memForm, State.raiseHalt_memForm]

theorem State.refuseFirst_memForm {p : Packet} {cause : Nat} (h : MemoryForm s) : MemoryForm (s.refuseFirst p cause) := State.answer_memForm h

theorem State.decideToken_memForm {p : Packet} (h : MemoryForm s) : MemoryForm (s.decideToken p) := by
  unfold State.decideToken
  grind [State.refuseFirst_memForm, State.routeHalt_memForm, State.writeNum_memForm, State.touch_memForm, State.named_memForm,
    State.answer_memForm, memoryForm_of, memsForm_of]

theorem State.setLanding_memForm {k : Landing} (h : MemoryForm s) : MemoryForm (s.setLanding k) := h

theorem execRouteToken_memForm {p : Packet} (h : MemoryForm s) : OutcomeForm (execRouteToken p s) := by
  unfold execRouteToken
  grind [State.onPacketIf_memForm, State.acceptSeq_memForm, State.decideToken_memForm, State.spend_memForm, State.setLanding_memForm,
    State.answer_memForm, OutcomeForm]

/-! #### Landing (R326, R331) -/

theorem State.writeSpan_memForm {vf : Nat} {runs : List (Nat × Loc × List Byte)} (h : MemoryForm s) : MemoryForm (s.writeSpan vf runs) := by
  unfold State.writeSpan
  grind [State.contribute_memForm, State.writeLoc_memForm, State.touch_memForm, foldl_memForm]

theorem execRouteTokenHeaderWrite_memForm {id : Nat} (h : MemoryForm s) : OutcomeForm (execRouteTokenHeaderWrite id s) := by
  unfold execRouteTokenHeaderWrite
  grind [State.routeHalt_memForm, State.setLanding_memForm, State.event_memForm, State.writeSpan_memForm, State.parkEntry_memForm,
    OutcomeForm]

theorem State.tryRecvs_memForm (h : MemoryForm s) : MemoryForm s.tryRecvs := by
  unfold State.tryRecvs
  grind [State.recvAct_memForm, foldl_memForm]

theorem State.replyLanding_memForm {k : Landing} (h : MemoryForm s) : MemoryForm (s.replyLanding k) := by
  unfold State.replyLanding
  grind [State.respond_memForm, memoryForm_of, memsForm_of]

theorem State.refuseLanding_memForm {k : Landing} (h : MemoryForm s) : MemoryForm (s.refuseLanding k) := State.respond_memForm h

theorem State.countTrec_memForm {k : Landing} {trec : Dword} (h : MemoryForm s) : MemoryForm (s.countTrec k trec) := by
  unfold State.countTrec
  dsimp only
  split
  · exact State.replyLanding_memForm h
  · exact State.replyLanding_memForm (State.postReport_memForm h)
  · split
    · exact State.setLanding_memForm (State.postUpdate_memForm h)
    split
    · next e => exact State.replyLanding_memForm (State.update_memForm h e)
    · exact State.replyLanding_memForm (State.postReport_memForm h)
    · exact State.replyLanding_memForm (State.postReport_memForm h)
    · exact State.setLanding_memForm (State.postUpdate_memForm h)
    · exact State.setLanding_memForm (State.sendUpdate_memForm h)

theorem execRouteTokenLand_memForm {id : Nat} (h : MemoryForm s) : OutcomeForm (execRouteTokenLand id s) := by
  unfold execRouteTokenLand
  grind [State.event_memForm, State.replyLanding_memForm, State.writeNum_memForm, State.touch_memForm, State.tryRecvs_memForm,
    State.countTrec_memForm, State.routeHalt_memForm, State.refuseLanding_memForm, OutcomeForm]

/-! #### RTRECV (R328) -/

theorem State.recvWord_memForm {t r : BitVec 6} {fn : Nat} (h : MemoryForm s) : OutcomeForm (s.recvWord t r fn) :=
  State.word_memForm h fun _ _ hu => State.scalarWord_memForm hu fun u x hu => by
  have hg : MemoryForm (u.onGroup x.g.gid fun g => g.markS t.toNat false) := State.onGroup_memForm hu
  generalize u.onGroup x.g.gid (fun g => g.markS t.toNat false) = v at hg
  dsimp only
  split
  · exact hu
  split
  · trivial
  split
  · trivial
  · split
    · exact hu
    split
    · exact hg
    split
    · next e => exact State.fill_memForm (State.recvAt_memForm (State.touch_memForm hg) e)
    · exact hg
  · exact hg

theorem execRtrecvFill_memForm {t r : BitVec 6} (h : MemoryForm s) : OutcomeForm (execRtrecvFill t r s) := State.recvWord_memForm h

theorem execRtrecvNext_memForm {t r : BitVec 6} (h : MemoryForm s) : OutcomeForm (execRtrecvNext t r s) := State.recvWord_memForm h

theorem execRtrecvLand_memForm {t r : BitVec 6} (h : MemoryForm s) : OutcomeForm (execRtrecvLand t r s) := State.recvWord_memForm h

theorem execRtrecvReset_memForm {t r : BitVec 6} (h : MemoryForm s) : OutcomeForm (execRtrecvReset t r s) := State.recvWord_memForm h

/-! #### A leg begins -/

theorem State.passOver_memForm {n : Nat} {slots : List (Gid × Nat)} (h : MemoryForm s) : MemoryForm (s.passOver n slots) := by
  unfold State.passOver
  grind [State.onGroup_memForm, foldl_memForm]

theorem State.unyield_memForm {p : Nat} {begun : List (Gid × Nat)} (h : MemoryForm s) : MemoryForm (s.unyield p begun) := h

theorem State.startLeg_memForm {p : Nat} {a : Group × Path} {b : Option (Group × Path)} (h : MemoryForm s) :
    MemoryForm (s.startLeg p a b) := by
  unfold State.startLeg
  grind [State.setPart_memForm, State.onGroup_memForm, State.unstall_memForm, State.count_memForm, State.unyield_memForm,
    State.passOver_memForm, foldl_memForm]

theorem execLegIssue_memForm {p : Nat} (h : MemoryForm s) : OutcomeForm (execLegIssue p s) := by
  unfold execLegIssue
  grind [State.event_memForm, State.setPart_memForm, State.startLeg_memForm, OutcomeForm]

/-! #### Ageing (R37) -/

theorem State.slotEvent_memForm {gid : Gid} {path : Nat} {due : Group → Path → Bool} {f : Path → Path} (h : MemoryForm s) :
    OutcomeForm (s.slotEvent gid path due f) := by
  unfold State.slotEvent
  grind [State.event_memForm, State.onGroup_memForm, OutcomeForm]

theorem execBackOffAgeing_memForm {gid : Gid} {path : Nat} (h : MemoryForm s) : OutcomeForm (execBackOffAgeing gid path s) :=
  State.slotEvent_memForm h

theorem execClassAgeing_memForm {gid : Gid} {path : Nat} (h : MemoryForm s) : OutcomeForm (execClassAgeing gid path s) := State.slotEvent_memForm h

/-! #### Waits that end -/

theorem execClauseWaitRelease_memForm {gid : Gid} {path : Nat} (h : MemoryForm s) : OutcomeForm (execClauseWaitRelease gid path s) := by
  unfold execClauseWaitRelease
  grind [State.event_memForm, State.readyPath_memForm, OutcomeForm]

theorem execYieldRelease_memForm {gid : Gid} {path : Nat} (h : MemoryForm s) : OutcomeForm (execYieldRelease gid path s) := by
  unfold execYieldRelease
  grind [State.coreTo_memForm, State.event_memForm, State.onGroup_memForm, OutcomeForm]

theorem execHomeReply_memForm {gid : Gid} {path : Nat} (h : MemoryForm s) : OutcomeForm (execHomeReply gid path s) := by
  unfold execHomeReply
  grind [State.event_memForm, State.readyPath_memForm, OutcomeForm]

/-! #### Values arrive (R166) -/

theorem execRegisterFill_memForm {id : Nat} (h : MemoryForm s) : OutcomeForm (execRegisterFill id s) := by
  unfold execRegisterFill
  grind [State.event_memForm, State.count_memForm, State.setGroup_memForm, memoryForm_of, memsForm_of, OutcomeForm]

theorem execStoreAcknowledge_memForm {id : Nat} (h : MemoryForm s) : OutcomeForm (execStoreAcknowledge id s) := by
  unfold execStoreAcknowledge
  grind [State.event_memForm, memoryForm_of, memsForm_of, OutcomeForm]

/-! #### Fetch (R151) -/

theorem State.afterFetch_memForm {p : Nat} (h : MemoryForm s) : MemoryForm (s.afterFetch p) := by
  unfold State.afterFetch
  grind [State.setPart_memForm]

theorem State.fetchMiss_memForm {p : Nat} {g : Group} {t : Path} {d : Bool} {va : Nat} (h : MemoryForm s) :
    MemoryForm (s.fetchMiss p g t d va) := by
  unfold State.fetchMiss
  grind [State.endLeg_memForm, State.parkMiss_memForm]

theorem State.requestCode_memForm {p : Nat} {g : Group} {t : Path} {ws : List (Nat × Nat × Nat)} (h : MemoryForm s) :
    MemoryForm (s.requestCode p g t ws) := by
  unfold State.requestCode
  grind [State.endLeg_memForm, State.sendReads_memForm, State.touch_memForm, State.named_memForm, foldl_memForm]

theorem State.openClause_memForm {p : Nat} {g : Group} {t : Path} {ws : List Word} (h : MemoryForm s) :
    MemoryForm (s.openClause p g t ws) := by
  unfold State.openClause
  grind [State.endLeg_memForm, State.takeFault_memForm, State.onGroup_memForm, State.afterFetch_memForm]

theorem execClauseFetch_memForm {p : Nat} (h : MemoryForm s) : OutcomeForm (execClauseFetch p s) := by
  unfold execClauseFetch
  grind [State.endLeg_memForm, State.takeFault_memForm, State.event_memForm, State.fetchMiss_memForm, State.requestCode_memForm,
    State.touch_memForm, State.setCore_memForm, State.openClause_memForm, OutcomeForm]

theorem execIllegalInstruction_memForm {_w : Word} (h : MemoryForm s) : OutcomeForm (execIllegalInstruction _w s) :=
  State.word_memForm h fun _ _ _ => trivial

/-! #### Scalar instructions and special registers (13 R212-R214) -/

theorem State.sword_memForm {d : BitVec 6} {legal : Bool} {acc : Accept} {ss : List (Nat × Nat)} {f : State → Ix → Dword × Half} (h : MemoryForm s) :
    OutcomeForm (s.sword d legal acc ss f) := State.word_memForm h fun _ _ hu => State.scalarWord_memForm hu fun _ _ hu => State.onGroup_memForm hu

theorem State.s3_memForm {d a b : BitVec 6} {k : BitVec 1} {legal sat readD : Bool} {op : Bool → Nat → Nat → Nat → Dword × Half} (h : MemoryForm s) :
    OutcomeForm (s.s3 d a b k legal sat readD op) := State.sword_memForm h

theorem execSadd_memForm {d a b : BitVec 6} {f k : BitVec 1} (h : MemoryForm s) : OutcomeForm (execSadd d a b f k s) := State.s3_memForm h

theorem execSsub_memForm {d a b : BitVec 6} {f k : BitVec 1} (h : MemoryForm s) : OutcomeForm (execSsub d a b f k s) := State.s3_memForm h

theorem execSmul_memForm {d a b : BitVec 6} {f : BitVec 2} {k : BitVec 1} (h : MemoryForm s) : OutcomeForm (execSmul d a b f k s) :=
  State.s3_memForm h

theorem execSmad_memForm {d a b : BitVec 6} {k : BitVec 1} (h : MemoryForm s) : OutcomeForm (execSmad d a b k s) := State.s3_memForm h

theorem execSand_memForm {d a b : BitVec 6} {k : BitVec 1} (h : MemoryForm s) : OutcomeForm (execSand d a b k s) := State.s3_memForm h

theorem execSor_memForm {d a b : BitVec 6} {k : BitVec 1} (h : MemoryForm s) : OutcomeForm (execSor d a b k s) := State.s3_memForm h

theorem execSxor_memForm {d a b : BitVec 6} {k : BitVec 1} (h : MemoryForm s) : OutcomeForm (execSxor d a b k s) := State.s3_memForm h

theorem execSshl_memForm {d a b : BitVec 6} {k : BitVec 1} (h : MemoryForm s) : OutcomeForm (execSshl d a b k s) := State.s3_memForm h

theorem execSshr_memForm {d a b : BitVec 6} {k : BitVec 1} (h : MemoryForm s) : OutcomeForm (execSshr d a b k s) := State.s3_memForm h

theorem execSsar_memForm {d a b : BitVec 6} {k : BitVec 1} (h : MemoryForm s) : OutcomeForm (execSsar d a b k s) := State.s3_memForm h

theorem execScmp_memForm {d a b : BitVec 6} {c : BitVec 3} {k : BitVec 1} (h : MemoryForm s) : OutcomeForm (execScmp d a b c k s) :=
  State.s3_memForm h

theorem execSsel_memForm {d a b : BitVec 6} {k : BitVec 1} (h : MemoryForm s) : OutcomeForm (execSsel d a b k s) := State.s3_memForm h

theorem execSmov_memForm {d b : BitVec 6} {k : BitVec 1} (h : MemoryForm s) : OutcomeForm (execSmov d b k s) := State.sword_memForm h

theorem execSaddi_memForm {d a : BitVec 6} {i : BitVec 8} {f : BitVec 1} (h : MemoryForm s) : OutcomeForm (execSaddi d a i f s) :=
  State.sword_memForm h

theorem execSmin_memForm {d a b : BitVec 6} {t k : BitVec 1} (h : MemoryForm s) : OutcomeForm (execSmin d a b t k s) := State.s3_memForm h

theorem execSmax_memForm {d a b : BitVec 6} {t k : BitVec 1} (h : MemoryForm s) : OutcomeForm (execSmax d a b t k s) := State.s3_memForm h

/-! #### Special registers (R214) -/

theorem State.advancePhase_memForm {die : Nat} (h : MemoryForm s) : MemoryForm (s.advancePhase die) := by
  unfold State.advancePhase
  grind [State.setDie_memForm, State.spend_memForm]

theorem execSrd_memForm {d a : BitVec 6} {i : BitVec 8} (h : MemoryForm s) : OutcomeForm (execSrd d a i s) := by
  unfold execSrd
  refine State.word_memForm h fun _ _ hu => State.scalarWord_memForm hu fun u x hu => State.onGroup_memForm ?_
  split
  · exact State.advancePhase_memForm hu
  · exact hu

theorem execSrdClr_memForm {d a : BitVec 6} (h : MemoryForm s) : OutcomeForm (execSrdClr d a s) :=
  State.word_memForm h fun _ _ hu => State.scalarWord_memForm hu fun _ _ hu => State.onGroup_memForm hu

/-! #### What is performed -/

theorem State.landed_memForm {a : Access} (h : MemoryForm s) : MemoryForm (s.landed a) := h

theorem State.unack_memForm {a : Access} (h : MemoryForm s) : MemoryForm (s.unack a) := h

theorem State.observe_memForm {a : Access} (h : MemoryForm s) : MemoryForm (s.observe a) := by
  unfold State.observe
  grind [State.onGroup_memForm]

theorem State.loadConst_memForm {a : Access} {host : Bool} {pa : Nat} (h : MemoryForm s) : MemoryForm (s.loadConst a host pa) := by
  unfold State.loadConst
  grind [State.setCore_memForm, State.fill_memForm, State.spend_memForm]

theorem State.loadHome_memForm {a : Access} {host : Bool} {pa : Nat} (h : MemoryForm s) : MemoryForm (s.loadHome a host pa) := by
  unfold State.loadHome
  grind [State.loadConst_memForm, State.fill_memForm, State.observe_memForm, State.setCore_memForm]

theorem State.atomicAt_memForm {a : Access} {op type : Nat} {ret : Bool} (h : MemoryForm s) : MemoryForm (s.atomicAt a op type ret) := by
  unfold State.atomicAt
  grind [State.writeNum_memForm, State.fill_memForm]

theorem State.storeAtL1_memForm {a : Access} {host : Bool} {pa : Nat} (h : MemoryForm s) : MemoryForm (s.storeAtL1 a host pa) := by
  unfold State.storeAtL1
  grind [State.setCore_memForm, State.named_memForm, memoryForm_of, memsForm_of]

theorem execGlobalAccessAtHome_memForm {id : Nat} (h : MemoryForm s) : OutcomeForm (execGlobalAccessAtHome id s) := by
  unfold execGlobalAccessAtHome
  grind [State.landed_memForm, State.loadHome_memForm, State.storeAtL1_memForm, State.unack_memForm, State.contribute_memForm,
    State.writeNum_memForm, State.atomicAt_memForm, State.event_memForm, OutcomeForm]

theorem execScratchpadRemoteAccess_memForm {id : Nat} (h : MemoryForm s) : OutcomeForm (execScratchpadRemoteAccess id s) := by
  unfold execScratchpadRemoteAccess
  grind [State.landed_memForm, State.fill_memForm, State.spend_memForm, State.writeNum_memForm, State.atomicAt_memForm,
    State.event_memForm, OutcomeForm]

/-! #### Refresh (R97, R118) -/

theorem execWeightRefreshWindow_memForm {die : Nat} (h : MemoryForm s) : OutcomeForm (execWeightRefreshWindow die s) := by
  unfold execWeightRefreshWindow
  grind [State.fill_memForm, State.landed_memForm, State.setDie_memForm, State.event_memForm, foldl_memForm, OutcomeForm]

theorem execHbmRefresh_memForm {stack layer : Nat} (h : MemoryForm s) : OutcomeForm (execHbmRefresh stack layer s) := by
  unfold execHbmRefresh
  grind [State.event_memForm, OutcomeForm]

/-! #### Stacked layers (R114, R115) -/

theorem State.flushLayer_memForm {layer : Nat} (h : MemoryForm s) : MemoryForm (s.flushLayer layer) := h

theorem State.setLayer_memForm {k v : Nat} (h : MemoryForm s) : MemoryForm (s.setLayer k v) := h

theorem execLayerWake_memForm {layer : Nat} (h : MemoryForm s) : OutcomeForm (execLayerWake layer s) := by
  unfold execLayerWake
  grind [State.event_memForm, State.setLayer_memForm, OutcomeForm]

theorem execLayerGate_memForm {layer : Nat} {mode : BitVec 2} (h : MemoryForm s) : OutcomeForm (execLayerGate layer mode s) := by
  unfold execLayerGate
  grind [State.event_memForm, State.setLayer_memForm, State.flushLayer_memForm, OutcomeForm]

/-! #### Reading (R40-R42) -/

theorem State.launchTouch_memForm {vf va n : Nat} (h : MemoryForm s) : MemoryForm (s.launchTouch vf va n) := by
  unfold State.launchTouch
  grind [State.touch_memForm, foldl_memForm]

theorem State.popRecord_memForm {vf : Nat} {spawn : Bool} (h : MemoryForm s) : MemoryForm (s.popRecord vf spawn) := by
  unfold State.popRecord
  grind [State.setCtx_memForm, State.setRing_memForm]

theorem State.launchInvalid_memForm {vf cause addr code : Nat} {tag : Dword} (h : MemoryForm s) :
    MemoryForm (s.launchInvalid vf cause addr code tag) := State.postReport_memForm h

theorem State.acceptLaunch_memForm {vf : Nat} {spawn replay : Bool} {addr : Nat} {r : LaunchRec} {k : List Dword} (h : MemoryForm s) :
    MemoryForm (s.acceptLaunch vf spawn replay addr r k) := State.named_memForm h

theorem State.launchStop_memForm {vf : Nat} {spawn : Bool} {addr : Nat} {tag : Dword} {e : ReadStop} (h : MemoryForm s) :
    MemoryForm (s.launchStop vf spawn addr tag e) := by
  unfold State.launchStop
  grind [State.popRecord_memForm, State.launchInvalid_memForm, State.reportPois_memForm, State.parkEntry_memForm, State.setCtx_memForm,
    State.request_memForm, State.touch_memForm]

theorem execLaunchRecordAccept_memForm {vf : Nat} {spawn : Bool} (h : MemoryForm s) : OutcomeForm (execLaunchRecordAccept vf spawn s) := by
  unfold execLaunchRecordAccept
  grind [State.event_memForm, State.launchStop_memForm, State.launchTouch_memForm, State.popRecord_memForm, State.launchInvalid_memForm,
    State.acceptLaunch_memForm, OutcomeForm]

/-! #### Placement (R26, R44, R45, R165) -/

theorem State.newGid_memForm {p slot : Nat} (h : MemoryForm s) : MemoryForm (s.newGid p slot).2 := State.setPart_memForm h

theorem State.addGroups_memForm {l : Launch} {uid cluster blockNo now : Nat} {os : List Occ} {n : Nat} (h : MemoryForm s) :
    MemoryForm (s.addGroups l uid cluster blockNo now os n) := by
  induction os generalizing s n with
  | nil => exact h
  | cons o os ih =>
    have hn : MemoryForm (s.newGid o.part (s.freeSlot o.part)).2 := State.newGid_memForm h
    unfold State.addGroups
    exact ih (memoryForm_of hn)

theorem State.restartWait_memForm {vf : Nat} {spawn : Bool} (h : MemoryForm s) : MemoryForm (s.restartWait vf spawn) := by
  unfold State.restartWait
  grind [memoryForm_of, memsForm_of]

theorem State.advanceLaunch_memForm {die core : Nat} {l : Launch} (h : MemoryForm s) : MemoryForm (s.advanceLaunch die core l) := by
  unfold State.advanceLaunch
  grind [State.restartWait_memForm, State.setDie_memForm, foldl_memForm, memoryForm_of, memsForm_of]

theorem execBlockPlacement_memForm {die vf : Nat} {spawn : Bool} {core : Nat} (h : MemoryForm s) :
    OutcomeForm (execBlockPlacement die vf spawn core s) := by
  unfold execBlockPlacement
  grind [State.setCore_memForm, State.advanceLaunch_memForm, State.addGroups_memForm, State.event_memForm, memoryForm_of, memsForm_of,
    OutcomeForm]

theorem execDispatchAgeing_memForm {die vf : Nat} {spawn : Bool} (h : MemoryForm s) : OutcomeForm (execDispatchAgeing die vf spawn s) := by
  unfold execDispatchAgeing
  grind [State.event_memForm, State.setDie_memForm, OutcomeForm]

/-! #### Completion (R43, R139) -/

theorem execGridCompletion_memForm {launch : Nat} (h : MemoryForm s) : OutcomeForm (execGridCompletion launch s) := by
  unfold execGridCompletion
  grind [State.event_memForm, State.postUpdate_memForm, memoryForm_of, memsForm_of, OutcomeForm]

/-! #### Commands (R375) -/

theorem State.complete_memForm {c : Cmd} {status value : Nat} (h : MemoryForm s) : MemoryForm (s.complete c status value) :=
  State.pushOrDrop_memForm h

theorem State.answerCmd_memForm {c : Cmd} {status : Nat} (h : MemoryForm s) : MemoryForm (s.answerCmd c status) := by
  unfold State.answerCmd
  grind [State.complete_memForm, State.spend_memForm]

theorem State.command_memForm {f : State → Cmd → State × Nat} (h : MemoryForm s) (hf : ∀ u x, MemoryForm u → MemoryForm (f u x).1) :
    OutcomeForm (s.command f) := by
  unfold State.command
  grind [State.event_memForm, State.answerCmd_memForm, memoryForm_of, memsForm_of, OutcomeForm]

/-! #### Stop points (R347) -/

theorem State.onlyOf_memForm {vf : Nat} (h : MemoryForm s) : MemoryForm (s.onlyOf vf) := h

theorem State.stopUnit_memForm {vf : Nat} {u : StopUnit} (h : MemoryForm s) : MemoryForm (s.stopUnit vf u) := by
  unfold State.stopUnit
  grind [State.stopSlice_memForm, State.stall_memForm, State.onGroup_memForm, State.released_memForm, State.setPart_memForm]

theorem State.departVf_memForm {vf : Nat} (h : MemoryForm s) : MemoryForm (s.departVf vf) := State.departWhere_memForm h

theorem execUnitStop_memForm {vf : Nat} {u : StopUnit} (h : MemoryForm s) : OutcomeForm (execUnitStop vf u s) := by
  unfold execUnitStop
  grind [State.stopUnit_memForm, State.departVf_memForm, State.event_memForm, State.setCtx_memForm, OutcomeForm]

/-! #### The collector (R349, R355) -/

theorem State.takeAway_memForm {vf : Nat} {image : List Byte} {offs : List Nat} (h : MemoryForm s) :
    MemoryForm (s.takeAway vf image offs) := by
  unfold State.takeAway
  grind [State.setCtx_memForm, State.released_memForm, foldl_memForm, memoryForm_of, memsForm_of]

theorem State.finishPreempts_memForm {vf bytes : Nat} (h : MemoryForm s) : MemoryForm (s.finishPreempts vf bytes) := by
  unfold State.finishPreempts
  grind [State.complete_memForm, foldl_memForm, memoryForm_of, memsForm_of]

theorem execCollectorComplete_memForm {vf : Nat} (h : MemoryForm s) : OutcomeForm (execCollectorComplete vf s) := by
  unfold execCollectorComplete
  grind [State.writeLoc_memForm, State.takeAway_memForm, State.setCtx_memForm, State.event_memForm, State.finishPreempts_memForm,
    OutcomeForm]

/-! #### PREEMPT and ENDCTX (R355, R375) -/

theorem execPreempt_memForm (h : MemoryForm s) : OutcomeForm (execPreempt s) := by
  unfold execPreempt
  grind [State.event_memForm, State.answerCmd_memForm, State.departVf_memForm, State.setCtx_memForm, State.complete_memForm,
    memoryForm_of, memsForm_of, OutcomeForm]

theorem State.rereadLaunches_memForm {vf : Nat} (h : MemoryForm s) : MemoryForm (s.rereadLaunches vf) := by
  unfold State.rereadLaunches
  grind [State.setCtx_memForm, memoryForm_of, memsForm_of]

theorem State.endCtx_memForm {vf : Nat} (h : MemoryForm s) : MemoryForm (s.endCtx vf) := by
  unfold State.endCtx
  grind [State.rereadLaunches_memForm, State.setCtx_memForm, memoryForm_of, memsForm_of]

theorem execEndctx_memForm (h : MemoryForm s) : OutcomeForm (execEndctx s) := by
  unfold execEndctx
  grind [State.command_memForm, State.endCtx_memForm, OutcomeForm]

/-! #### RESUME (R357, R359) -/

theorem State.placeBlock_memForm {b : Block} {gs : List Group} {placed : List (Nat × Nat × Nat)} {t : State}
    (h : MemoryForm s) (e : s.placeBlock b gs placed = some t) :
    MemoryForm t := by
  unfold State.placeBlock at e
  dsimp only at e
  split at e
  · cases e
  · cases e
    refine foldl_memForm (memForm_blocks (State.setCore_memForm (State.spend_memForm h))) fun u a hu => ?_
    split <;> exact hu

/-- The recursion of `placeBlocks`, by its brecOn: Lean's own equation for it would evaluate the placement. -/
theorem State.placeBlocks_cons (s : State) (gs : List Group) (b : Block) (bs : List Block) (placed : List (Nat × Nat × Nat)) :
    ∃ next : State → List (Nat × Nat × Nat), s.placeBlocks gs (b :: bs) placed =
      (s.placeBlock b (gs.filter fun g => g.block == b.uid) placed).bind fun t => t.placeBlocks gs bs (next t) := by
  delta State.placeBlocks List.brecOn List.brecOn.go
  dsimp only
  unfold State.placeBlocks._f
  dsimp only
  generalize s.placeBlock b (gs.filter (fun g => g.block == b.uid)) placed = placing
  cases placing with
  | none => exact ⟨fun _ => [], rfl⟩
  | some t => exact ⟨fun _ => placed ++ [(b.launch, b.cluster, match t.block b.uid with | some k => k.core | none => 0)], rfl⟩

theorem State.placeBlocks_memForm {gs : List Group} {ks : List Block} {placed : List (Nat × Nat × Nat)} {t : State}
    (h : MemoryForm s) (e : s.placeBlocks gs ks placed = some t) :
    MemoryForm t := by
  induction ks generalizing s placed with
  | nil => exact Option.some.inj e ▸ h
  | cons b bs ih =>
    obtain ⟨_, hc⟩ := State.placeBlocks_cons s gs b bs placed
    obtain ⟨u, hu, e⟩ := Option.bind_eq_some_iff.mp (hc ▸ e)
    exact ih (State.placeBlock_memForm h hu) e

theorem State.rejoin_memForm {g : Group} (h : MemoryForm s) : MemoryForm (s.rejoin g) := by
  unfold State.rejoin
  grind [State.released_memForm, State.setPart_memForm]

theorem State.restoreWork_memForm {k : Saved} (h : MemoryForm s) : MemoryForm (s.restoreWork k) := by
  unfold State.restoreWork
  grind [State.setPart_memForm, State.rejoin_memForm, foldl_memForm, memoryForm_of, memsForm_of]

theorem State.onRuns_memForm {vf : Nat} {blocks : List Block} {f : ClusterRun → List Block → ClusterRun} (h : MemoryForm s) :
    MemoryForm (s.onRuns vf blocks f) := h

theorem State.leaveClusters_memForm {vf : Nat} {old : List Block} (h : MemoryForm s) : MemoryForm (s.leaveClusters vf old) := State.onRuns_memForm h

theorem State.followClusters_memForm {vf : Nat} (h : MemoryForm s) : MemoryForm (s.followClusters vf) := State.onRuns_memForm h

theorem State.resend_memForm {vf : Nat} (h : MemoryForm s) : MemoryForm (s.resend vf) := State.pumpReqs_memForm h

theorem State.resumeCtx_memForm {vf : Nat} {t : State} (h : MemoryForm s) (e : s.resumeCtx vf = .ok t) : MemoryForm t := by
  unfold State.resumeCtx at e
  grind [State.leaveClusters_memForm, State.placeBlocks_memForm, State.restoreWork_memForm, State.followClusters_memForm,
    State.resend_memForm, State.rereadLaunches_memForm, State.leaveFault_memForm, State.pumpTokens_memForm, State.setCtx_memForm,
    State.raiseHalt_memForm]

/-! #### Values (R335, R336) -/

theorem State.flagImages_memForm {vf : Nat} {bad : Bool} (h : MemoryForm s) : MemoryForm (s.flagImages vf bad) := by
  unfold State.flagImages
  grind [memoryForm_of, memsForm_of]

/-! #### Reading and faults (R342) -/

theorem State.ringTouch_memForm {vf va n : Nat} (h : MemoryForm s) : MemoryForm (s.ringTouch vf va n) := by
  unfold State.ringTouch
  grind [State.touch_memForm, foldl_memForm]

theorem State.regionFault_memForm {vf n k cause : Nat} (h : MemoryForm s) : MemoryForm (s.regionFault vf n k cause) := by
  unfold State.regionFault
  grind [State.setCtx_memForm, State.postReport_memForm, memoryForm_of, memsForm_of]

theorem State.ringStop_memForm {vf n k : Nat} {e : ReadStop} (h : MemoryForm s) : MemoryForm (s.ringStop vf n k e) := by
  unfold State.ringStop
  grind [State.regionFault_memForm, State.reportPois_memForm, State.parkEntry_memForm, State.request_memForm]

/-! #### Chunks (R338-R341) -/

theorem State.ringPass_memForm {m : RingMsg} (h : MemoryForm s) : MemoryForm (s.ringPass m) := h

theorem State.ringDrop_memForm {m : RingMsg} (h : MemoryForm s) : MemoryForm (s.ringDrop m) := h

theorem State.chunkRead_memForm {vf key : Nat} (h : MemoryForm s) : MemoryForm (s.chunkRead vf key) := State.setCtx_memForm h

theorem State.ringResult_memForm {m : RingMsg} {t : State} (h : MemoryForm s) (e : s.ringResult m = .ok t) : MemoryForm t := by
  unfold State.ringResult at e
  grind [State.flagImages_memForm, State.ringTouch_memForm, State.setCtx_memForm, memoryForm_of, memsForm_of]

theorem State.ringRound_memForm {m : RingMsg} {t : State} (h : MemoryForm s) (e : s.ringRound m = .ok t) : MemoryForm t := by
  unfold State.ringRound at e
  dsimp only at e
  split at e
  · exact State.ringResult_memForm (State.ringDrop_memForm h) e
  · cases e; exact State.ringPass_memForm h

theorem State.ringCombine_memForm {m : RingMsg} (h : MemoryForm s) : MemoryForm (s.ringCombine m) := by
  unfold State.ringCombine
  grind [State.ringStop_memForm, State.flagImages_memForm, State.chunkRead_memForm, State.ringTouch_memForm, State.spend_memForm,
    State.ringRound_memForm, State.ringPass_memForm]

theorem State.ringWriting_memForm {m : RingMsg} (h : MemoryForm s) : MemoryForm (s.ringWriting m) := by
  unfold State.ringWriting
  grind [State.ringDrop_memForm, State.ringPass_memForm, State.ringResult_memForm, State.ringStop_memForm]

theorem execRingChunk_memForm {m : RingMsg} (h : MemoryForm s) : OutcomeForm (execRingChunk m s) := by
  unfold execRingChunk
  grind [State.event_memForm, State.regionFault_memForm, State.ringWriting_memForm, State.ringCombine_memForm, OutcomeForm]

/-! #### Result writes (R342, R343) -/

theorem State.ringCount_memForm {vf n bytes : Nat} (h : MemoryForm s) : MemoryForm (s.ringCount vf n bytes) := by
  unfold State.ringCount
  grind [State.postUpdate_memForm, State.postReport_memForm]

theorem State.setResult_memForm {r : RingResult} (h : MemoryForm s) : MemoryForm (s.setResult r) := h

theorem State.resultDone_memForm {r : RingResult} (h : MemoryForm s) : MemoryForm (s.resultDone r) := by
  unfold State.resultDone
  grind [State.setCtx_memForm, State.ringCount_memForm, memoryForm_of, memsForm_of]

theorem execRingResultWrite_memForm {vf region chunk : Nat} (h : MemoryForm s) : OutcomeForm (execRingResultWrite vf region chunk s) := by
  unfold execRingResultWrite
  split
  · exact outcomeForm_fault
  · next r _ =>
    split
    · exact State.event_memForm (State.resultDone_memForm h)
    dsimp only
    split
    · exact State.event_memForm (State.regionFault_memForm (State.reportPois_memForm h))
    · exact State.event_memForm (State.setResult_memForm (State.parkEntry_memForm h))
    · exact outcomeForm_fault
    · generalize hw : List.foldl _ (s, []) _ = w
      have hform : MemoryForm w.1 := by
        rw [← hw]
        refine foldl_fst_memForm h fun acc e hacc => ?_
        split
        · exact State.request_memForm (State.touch_memForm hacc)
        · exact State.writeLoc_memForm (State.touch_memForm hacc)
      refine State.event_memForm ?_
      split
      · exact State.resultDone_memForm hform
      · exact State.setResult_memForm hform

/-! #### Parked work (25 R358-R360 -/

theorem execFaultQueueEntryWrite_memForm {vf : Nat} (h : MemoryForm s) : OutcomeForm (execFaultQueueEntryWrite vf s) := by
  unfold execFaultQueueEntryWrite
  grind [State.event_memForm, State.flushParks_memForm, OutcomeForm]

/-! #### Resume entries (R359) -/

theorem State.unparkGroup_memForm {gid : Gid} {token : Nat} (h : MemoryForm s) : MemoryForm (s.unparkGroup gid token) := State.onGroup_memForm h

theorem State.dropHelpers_memForm {r : FabReq} (h : MemoryForm s) : MemoryForm (s.dropHelpers r).1 := by
  unfold State.dropHelpers
  grind [State.fill_memForm, State.answered_memForm, foldl_memForm, memoryForm_of, memsForm_of]

theorem State.holdReq_memForm {id : Nat} (h : MemoryForm s) : MemoryForm (s.holdReq id) := h

theorem State.takeReqFault_memForm {r : FabReq} {f : FaultInfo} (h : MemoryForm s) : MemoryForm (s.takeReqFault r f) := by
  unfold State.takeReqFault
  grind [State.takeFault_memForm, State.holdReq_memForm, State.answered_memForm, State.engFault_memForm, State.raiseHalt_memForm,
    State.setReadout_memForm, State.updateFailed_memForm, State.settle_memForm, State.refuseToken_memForm, State.setToken_memForm,
    State.launchStop_memForm, State.regionFault_memForm, State.logAgg_memForm, foldl_memForm]

theorem State.reqFault_memForm {r : FabReq} {f : FaultInfo} (h : MemoryForm s) : MemoryForm (s.reqFault r f) := by
  unfold State.reqFault
  grind [State.dropHelpers_memForm, State.takeReqFault_memForm]

theorem State.release_memForm {vf : Nat} {e : ParkEntry} {action code : Nat} (h : MemoryForm s) : MemoryForm (s.release vf e action code) := by
  unfold State.release
  grind [State.setCtx_memForm, State.unparkGroup_memForm, State.takeFault_memForm, State.engFault_memForm, State.setXfer_memForm,
    State.raiseHalt_memForm, State.setReadout_memForm, State.setToken_memForm, State.settle_memForm, State.pumpTokens_memForm,
    State.routeHalt_memForm, State.setLanding_memForm, State.updateFailed_memForm, State.popRecord_memForm, State.launchInvalid_memForm,
    State.regionFault_memForm, State.reqFault_memForm, State.pumpReqs_memForm, memoryForm_of, memsForm_of]

theorem State.takeResume_memForm {vf : Nat} {w0 : Dword} (h : MemoryForm s) : MemoryForm (s.takeResume vf w0) := by
  unfold State.takeResume
  grind [State.release_memForm, State.setRing_memForm]

theorem execResumeEntry_memForm {vf : Nat} (h : MemoryForm s) : OutcomeForm (execResumeEntry vf s) := by
  unfold execResumeEntry
  grind [State.setRing_memForm, State.event_memForm, State.setCtx_memForm, State.takeResume_memForm, OutcomeForm]

theorem execResume_memForm (h : MemoryForm s) : OutcomeForm (execResume s) := by
  unfold execResume
  grind [State.command_memForm, State.resumeCtx_memForm, State.takeResume_memForm, foldl_memForm, OutcomeForm]

/-! #### Page migration (07 R107 -/

theorem State.beginMove_memForm {vf die : Nat} {p : PageRef} {tier : Nat} (h : MemoryForm s) : MemoryForm (s.beginMove vf die p tier) := by
  unfold State.beginMove
  grind [State.writeNum_memForm, State.named_memForm, memoryForm_of, memsForm_of]

theorem execMigrationPeriod_memForm {die vf : Nat} (h : MemoryForm s) : OutcomeForm (execMigrationPeriod die vf s) := by
  unfold execMigrationPeriod
  grind [State.beginMove_memForm, State.event_memForm, State.setCtx_memForm, foldl_memForm, OutcomeForm]

theorem State.retarget_memForm {m : Move} (h : MemoryForm s) : MemoryForm (s.retarget m) := by
  unfold State.retarget
  grind [State.writeNum_memForm, foldl_memForm]

theorem State.poolReturn_memForm {vf tier frame size : Nat} (h : MemoryForm s) : MemoryForm (s.poolReturn vf tier frame size) := by
  unfold State.poolReturn
  grind [State.writeNum_memForm]

theorem execPageMoveComplete_memForm {id : Nat} (h : MemoryForm s) : OutcomeForm (execPageMoveComplete id s) := by
  unfold execPageMoveComplete
  grind [State.writeNum_memForm, State.retarget_memForm, State.event_memForm, State.poolReturn_memForm, memoryForm_of, memsForm_of,
    OutcomeForm]

/-! #### Error records (R361) -/

theorem State.faultGroup_memForm {g : Group} {f : FaultInfo} (h : MemoryForm s) : MemoryForm (s.faultGroup g f) := by
  unfold State.faultGroup
  grind [State.raiseHalt_memForm, State.onGroup_memForm]

theorem execUncorrectableError_memForm {site : ErrorSite} (h : MemoryForm s) : OutcomeForm (execUncorrectableError site s) := by
  unfold execUncorrectableError
  grind [State.reportError_memForm, State.event_memForm, State.parkEntry_memForm, State.raiseHalt_memForm, State.faultGroup_memForm,
    memoryForm_of, memsForm_of, OutcomeForm]

theorem execCorrectableRateThreshold_memForm {source : BitVec 8} {die : BitVec 2} {unit : BitVec 10} (h : MemoryForm s) :
    OutcomeForm (execCorrectableRateThreshold source die unit s) := by
  unfold execCorrectableRateThreshold
  grind [State.reportError_memForm, State.event_memForm, State.setCore_memForm, OutcomeForm]

/-! #### The repair map (R13, R16) -/

theorem execCoreRetirement_memForm {core : Nat} (h : MemoryForm s) : OutcomeForm (execCoreRetirement core s) := by
  unfold execCoreRetirement
  grind [State.event_memForm, State.setCore_memForm, State.reportError_memForm, memoryForm_of, memsForm_of, OutcomeForm]

theorem execLayerThermalLoss_memForm {layer : Nat} (h : MemoryForm s) : OutcomeForm (execLayerThermalLoss layer s) := by
  unfold execLayerThermalLoss
  grind [State.setLayer_memForm, State.flushLayer_memForm, State.event_memForm, State.reportError_memForm, foldl_memForm, memoryForm_of,
    memsForm_of, OutcomeForm]

/-! #### Loops and tables (R21, R22, R382) -/

theorem execLoopLoss_memForm {top : Bool} (h : MemoryForm s) : OutcomeForm (execLoopLoss top s) := by
  unfold execLoopLoss
  grind [State.event_memForm, State.raiseHalt_memForm, foldl_memForm, memoryForm_of, memsForm_of, OutcomeForm]

theorem execNormalFlowReturn_memForm {top : Bool} (h : MemoryForm s) : OutcomeForm (execNormalFlowReturn top s) := by
  unfold execNormalFlowReturn
  grind [State.event_memForm, memoryForm_of, memsForm_of, OutcomeForm]

theorem execLoopRestored_memForm {top : Bool} (h : MemoryForm s) : OutcomeForm (execLoopRestored top s) := by
  unfold execLoopRestored
  grind [State.event_memForm, memoryForm_of, memsForm_of, OutcomeForm]

theorem State.powerOff_memForm {thermal : Bool} (h : MemoryForm s) : MemoryForm (s.powerOff thermal) := ⟨rfl, h.2.1, rfl⟩

theorem State.holdLayers_memForm {table : Nat} (h : MemoryForm s) : MemoryForm (s.holdLayers table) := by
  unfold State.holdLayers
  grind [State.setLayer_memForm, State.flushLayer_memForm, foldl_memForm]

theorem execTableChange_memForm (h : MemoryForm s) : OutcomeForm (execTableChange s) := by
  unfold execTableChange
  grind [State.event_memForm, State.powerOff_memForm, State.holdLayers_memForm, State.setDie_memForm, foldl_memForm, memoryForm_of,
    memsForm_of, OutcomeForm]

/-! #### Starts (R377, R378, R389) -/

theorem State.start_memForm {env : StartEnv} {cold : Bool} (h : MemoryForm s) : MemoryForm (s.start env cold) := ⟨rfl, h.2.1, rfl⟩

theorem execColdStart_memForm {env : StartEnv} (h : MemoryForm s) : OutcomeForm (execColdStart env s) := by
  unfold execColdStart
  grind [State.start_memForm, OutcomeForm]

theorem execWarmRestart_memForm {env : StartEnv} (h : MemoryForm s) : OutcomeForm (execWarmRestart env s) := by
  unfold execWarmRestart
  grind [State.event_memForm, State.start_memForm, OutcomeForm]

theorem execStartStepTimeout_memForm {stage : Nat} (h : MemoryForm s) : OutcomeForm (execStartStepTimeout stage s) := by
  unfold execStartStepTimeout
  grind [State.event_memForm, memoryForm_of, memsForm_of, OutcomeForm]

theorem execPowerLoss_memForm (h : MemoryForm s) : OutcomeForm (execPowerLoss s) := by
  unfold execPowerLoss
  grind [State.event_memForm, State.powerOff_memForm, OutcomeForm]

theorem execHbmtRefresh_memForm {index : Nat} {value : Half} (h : MemoryForm s) : OutcomeForm (execHbmtRefresh index value s) := by
  unfold execHbmtRefresh
  grind [State.event_memForm, memoryForm_of, memsForm_of, OutcomeForm]

theorem execFullstart_memForm (h : MemoryForm s) : OutcomeForm (execFullstart s) := by
  unfold execFullstart
  grind [State.answerCmd_memForm, State.event_memForm, State.start_memForm, memoryForm_of, memsForm_of, OutcomeForm]

/-! #### Lanes (R307, R308, R330) -/

theorem execLaneFailure_memForm {port : Nat} {outbound : Bool} (h : MemoryForm s) : OutcomeForm (execLaneFailure port outbound s) := by
  unfold execLaneFailure
  grind [State.event_memForm, State.setPort_memForm, OutcomeForm]

theorem execLaneWidthChange_memForm {port : Nat} {outbound : Bool} (h : MemoryForm s) : OutcomeForm (execLaneWidthChange port outbound s) := by
  unfold execLaneWidthChange
  grind [State.event_memForm, State.setPort_memForm, OutcomeForm]

theorem execWidthChangeIdleEnd_memForm {port : Nat} {outbound : Bool} (h : MemoryForm s) :
    OutcomeForm (execWidthChangeIdleEnd port outbound s) := by
  unfold execWidthChangeIdleEnd
  grind [State.event_memForm, State.setPort_memForm, OutcomeForm]

/-! #### Flits received (R309, R311, R312) -/

theorem State.acceptFlit_memForm {port : Nat} {f : Flit} (h : MemoryForm s) : MemoryForm (s.acceptFlit port f) := by
  unfold State.acceptFlit
  grind [State.setPort_memForm, memoryForm_of, memsForm_of]

theorem execFlitReceive_memForm {port : Nat} {f : Flit} (h : MemoryForm s) : OutcomeForm (execFlitReceive port f s) := by
  unfold execFlitReceive
  grind [State.event_memForm, State.acceptFlit_memForm, State.setPort_memForm, OutcomeForm]

theorem execDiscardedPacket_memForm {port : Nat} {p : Packet} (h : MemoryForm s) : OutcomeForm (execDiscardedPacket port p s) := by
  unfold execDiscardedPacket
  grind [State.takeArrived_memForm, State.event_memForm, State.setPort_memForm, OutcomeForm]

/-! #### Replay and pause (R311, R312) -/

theorem execReplayRequest_memForm {port seq : Nat} (h : MemoryForm s) : OutcomeForm (execReplayRequest port seq s) := by
  unfold execReplayRequest
  grind [State.event_memForm, State.setPort_memForm, OutcomeForm]

theorem execFlitAcknowledge_memForm {port seq : Nat} (h : MemoryForm s) : OutcomeForm (execFlitAcknowledge port seq s) := by
  unfold execFlitAcknowledge
  grind [State.event_memForm, State.setPort_memForm, OutcomeForm]

theorem execLinkRetrain_memForm {port : Nat} (h : MemoryForm s) : OutcomeForm (execLinkRetrain port s) := by
  unfold execLinkRetrain
  grind [State.event_memForm, State.setPort_memForm, OutcomeForm]

theorem execLinkTrainingEnd_memForm {port lostOut lostIn : Nat} (h : MemoryForm s) :
    OutcomeForm (execLinkTrainingEnd port lostOut lostIn s) := by
  unfold execLinkTrainingEnd
  grind [State.event_memForm, State.setPort_memForm, State.spend_memForm, OutcomeForm]

theorem execLinkPause_memForm {port : Nat} {vc : BitVec 2} (h : MemoryForm s) : OutcomeForm (execLinkPause port vc s) := by
  unfold execLinkPause
  grind [State.event_memForm, State.setPort_memForm, OutcomeForm]

theorem execLinkResume_memForm {port : Nat} {vc : BitVec 2} (h : MemoryForm s) : OutcomeForm (execLinkResume port vc s) := by
  unfold execLinkResume
  grind [State.event_memForm, State.setPort_memForm, OutcomeForm]

/-! #### Dead links (R315) -/

theorem State.hold_memForm {cws : List Nat} (h : MemoryForm s) : MemoryForm (s.hold cws) := h

theorem execLinkDeath_memForm {port : Nat} (h : MemoryForm s) : OutcomeForm (execLinkDeath port s) := by
  unfold execLinkDeath
  grind [State.event_memForm, State.hold_memForm, State.setPort_memForm, OutcomeForm]

theorem State.resendReq_memForm {r : FabReq} (h : MemoryForm s) : MemoryForm (s.resendReq r) := State.sendPacket_memForm h

theorem execCarriagewayDrainComplete_memForm {cw : BitVec 4} (h : MemoryForm s) : OutcomeForm (execCarriagewayDrainComplete cw s) := by
  unfold execCarriagewayDrainComplete
  grind [State.spend_memForm, State.resendReq_memForm, State.event_memForm, State.pumpReqs_memForm, foldl_memForm, memoryForm_of,
    memsForm_of, OutcomeForm]

/-! #### Requests of peers (R315, R316, R318, R319) -/

theorem State.answerStatus_memForm {p : Packet} {cause sub addr : Nat} (h : MemoryForm s) : MemoryForm (s.answerStatus p cause sub addr) :=
  State.answer_memForm h

theorem State.serveRead_memForm {p : Packet} (h : MemoryForm s) : MemoryForm (s.serveRead p) := by
  unfold State.serveRead
  grind [State.answerStatus_memForm, State.answer_memForm]

theorem execRead_memForm {p : Packet} (h : MemoryForm s) : OutcomeForm (execRead p s) := by
  unfold execRead
  grind [State.onPacketIf_memForm, State.serveRead_memForm, State.acceptSeq_memForm, OutcomeForm]

theorem State.serveWrite_memForm {p : Packet} (h : MemoryForm s) : MemoryForm (s.serveWrite p) := by
  unfold State.serveWrite
  grind [State.answerStatus_memForm, State.answer_memForm, State.writeLoc_memForm, foldl_memForm]

theorem execWrite_memForm {p : Packet} (h : MemoryForm s) : OutcomeForm (execWrite p s) := by
  unfold execWrite
  grind [State.onPacketIf_memForm, State.serveWrite_memForm, State.acceptSeq_memForm, State.answer_memForm, OutcomeForm]

/-! #### Entries (R318) -/

theorem State.serveOp_memForm {o : PktOp} (h : MemoryForm s) : MemoryForm (s.serveOp o).2 := State.writeNum_memForm h

theorem State.serveAgg_memForm {p : Packet} (h : MemoryForm s) : MemoryForm (s.serveAgg p) := by
  unfold State.serveAgg
  generalize hr : (opsOf p.payload).foldl _ (s, []) = r
  have hform : MemoryForm r.1 := by
    rw [← hr]
    refine foldl_fst_memForm h fun acc o hacc => ?_
    split
    · exact hacc
    · exact State.serveOp_memForm hacc
  dsimp only
  split
  · exact State.answer_memForm hform
  · exact State.answer_memForm hform

theorem execAggregated_memForm {p : Packet} (h : MemoryForm s) : OutcomeForm (execAggregated p s) := by
  unfold execAggregated
  grind [State.onPacketIf_memForm, State.serveAgg_memForm, State.acceptSeq_memForm, State.answer_memForm, OutcomeForm]

theorem State.serveOps_memForm {os : List PktOp} {bs : List Byte} {t : State × List Byte} (h : MemoryForm s) (e : s.serveOps os bs = .ok t) :
    MemoryForm t.1 := by
  induction os generalizing s bs with
  | nil => exact Except.ok.inj e ▸ h
  | cons o os ih =>
    rw [State.serveOps] at e
    split at e
    · split at e
      · next e' => exact ih (State.update_memForm h e') e
      all_goals cases e
    · exact ih (State.serveOp_memForm h) e

theorem State.serveAtomic_memForm {p : Packet} (h : MemoryForm s) : MemoryForm (s.serveAtomic p) := by
  unfold State.serveAtomic
  dsimp only
  split
  · exact State.logResponse_memForm h
  · split
    · next e => exact State.logResponse_memForm (State.serveOps_memForm h e)
    · exact State.logResponse_memForm h

theorem execAtomic_memForm {p : Packet} (h : MemoryForm s) : OutcomeForm (execAtomic p s) := by
  unfold execAtomic
  grind [State.onPacketIf_memForm, State.serveAtomic_memForm, State.acceptSeq_memForm, State.sendPacket_memForm, OutcomeForm]

/-! #### Responses (R310, R317) -/

theorem State.onResponse_memForm {p : Packet} {kind : Nat} {kinds : List Nat} {f : State → FabReq → State} (h : MemoryForm s)
    (hf : ∀ u x, MemoryForm u → MemoryForm (f u x)) :
    OutcomeForm (s.onResponse p kind kinds f) := by
  unfold State.onResponse
  grind [State.onPacket_memForm, OutcomeForm]

theorem State.dataArrives_memForm {r : FabReq} {bs : List Byte} (h : MemoryForm s) : MemoryForm (s.dataArrives r bs) := by
  unfold State.dataArrives
  grind [State.fill_memForm, State.pumpTokens_memForm, State.setCtx_memForm, foldl_memForm, memoryForm_of, memsForm_of]

theorem execReadData_memForm {p : Packet} (h : MemoryForm s) : OutcomeForm (execReadData p s) := by
  unfold execReadData
  grind [State.onResponse_memForm, State.dataArrives_memForm, State.answered_memForm, OutcomeForm]

theorem State.fillOlds_memForm {as : List Access} {bs : List Byte} (h : MemoryForm s) : MemoryForm (s.fillOlds as bs) := by
  induction as generalizing s bs with
  | nil => exact h
  | cons a as ih => exact ih (State.fill_memForm h)

theorem execAtomicData_memForm {p : Packet} (h : MemoryForm s) : OutcomeForm (execAtomicData p s) := by
  unfold execAtomicData
  grind [State.onResponse_memForm, State.answered_memForm, State.fillOlds_memForm, State.fill_memForm, State.dropCounted_memForm,
    OutcomeForm]

theorem execAcknowledge_memForm {p : Packet} (h : MemoryForm s) : OutcomeForm (execAcknowledge p s) := by
  unfold execAcknowledge
  grind [State.onResponse_memForm, State.answered_memForm, State.count_memForm, State.setXfer_memForm, State.setReadout_memForm,
    State.tokenAcked_memForm, State.dropWritten_memForm, OutcomeForm]

theorem State.elementFault_memForm {es : List AggEntry} {bs : List Byte} (h : MemoryForm s) : MemoryForm (s.elementFault es bs) := by
  unfold State.elementFault
  grind [State.logAgg_memForm]

theorem execElementFaults_memForm {p : Packet} (h : MemoryForm s) : OutcomeForm (execElementFaults p s) := by
  unfold execElementFaults
  grind [State.onResponse_memForm, State.elementFault_memForm, State.answered_memForm, foldl_memForm, OutcomeForm]

/-! #### Status (R310, R319) -/

theorem State.parkMissed_memForm {r : FabReq} {kind pa : Nat} (h : MemoryForm s) : MemoryForm (s.parkMissed r kind pa) := by
  unfold State.parkMissed
  grind [State.parkEntry_memForm, State.answered_memForm, State.setReadout_memForm, State.setToken_memForm, State.setCtx_memForm,
    State.onGroup_memForm, State.stall_memForm, memoryForm_of, memsForm_of]

theorem State.parkReq_memForm {r : FabReq} {kind pa : Nat} (h : MemoryForm s) : MemoryForm (s.parkReq r kind pa) := by
  unfold State.parkReq
  grind [State.dropHelpers_memForm, State.parkMissed_memForm]

theorem execStatus_memForm {p : Packet} (h : MemoryForm s) : OutcomeForm (execStatus p s) := by
  unfold execStatus
  grind [State.onResponse_memForm, State.answered_memForm, State.pumpTokens_memForm, State.settle_memForm, State.parkReq_memForm,
    State.reqFault_memForm, OutcomeForm]

/-! #### Time (R141, R315) -/

theorem execFabricTimeout_memForm {id : Nat} (h : MemoryForm s) : OutcomeForm (execFabricTimeout id s) := by
  unfold execFabricTimeout
  grind [State.event_memForm, State.regionFault_memForm, State.reqFault_memForm, OutcomeForm]

theorem execAggBufferAgeExpiry_memForm {id : Nat} (h : MemoryForm s) : OutcomeForm (execAggBufferAgeExpiry id s) := by
  unfold execAggBufferAgeExpiry
  grind [State.event_memForm, State.depart_memForm, OutcomeForm]

/-! #### Tier T2 lines (R370) -/

theorem State.hostLate_memForm {a : Nat} {bs : List Byte} (h : MemoryForm s) : MemoryForm (s.hostLate a bs) := ⟨h.1,
    wf_writeList _ _ _ h.2.1, h.2.2⟩

theorem execHostSnoop_memForm {addr : Nat} {data : List Byte} (h : MemoryForm s) : OutcomeForm (execHostSnoop addr data s) := by
  unfold execHostSnoop
  grind [State.event_memForm, State.writeLoc_memForm, State.hostLate_memForm, OutcomeForm]

theorem State.hostSeen_memForm (h : MemoryForm s) : MemoryForm s.hostSeen := by
  unfold State.hostSeen
  grind [State.dropL1_memForm, foldl_memForm, memoryForm_of, memsForm_of]

/-! #### Ring registers (R372, R374) -/

theorem execRingPiWrite_memForm {fn ring : Nat} {value : Word} (h : MemoryForm s) : OutcomeForm (execRingPiWrite fn ring value s) := by
  unfold execRingPiWrite
  grind [State.event_memForm, State.setRing_memForm, State.hostSeen_memForm, OutcomeForm]

theorem execRingCiWrite_memForm {fn ring : Nat} {value : Word} (h : MemoryForm s) : OutcomeForm (execRingCiWrite fn ring value s) := by
  unfold execRingCiWrite
  grind [State.event_memForm, State.setRing_memForm, OutcomeForm]

theorem execRingControlWrite_memForm {fn ring : Nat} {value : Dword} (h : MemoryForm s) :
    OutcomeForm (execRingControlWrite fn ring value s) := by
  unfold execRingControlWrite
  grind [State.event_memForm, State.setRing_memForm, OutcomeForm]

theorem execRegisterWriteOther_memForm {fn offset width : Nat} {value : Dword} (h : MemoryForm s) :
    OutcomeForm (execRegisterWriteOther fn offset width value s) := by
  unfold execRegisterWriteOther
  grind [State.event_memForm, State.setRing_memForm, OutcomeForm]

/-! #### SETCTX (R375) -/

theorem State.setctx_memForm {away : Bool} {ok : State → Cmd → Bool} {f : State → Cmd → Ctx → Ctx} (h : MemoryForm s) :
    OutcomeForm (s.setctx away ok f) := by
  unfold State.setctx
  grind [State.command_memForm, State.setCtx_memForm, OutcomeForm]

theorem execSetctxRoot_memForm (h : MemoryForm s) : OutcomeForm (execSetctxRoot s) := State.setctx_memForm h

theorem execSetctxWindow_memForm (h : MemoryForm s) : OutcomeForm (execSetctxWindow s) := State.setctx_memForm h

theorem execSetctxAgel_memForm (h : MemoryForm s) : OutcomeForm (execSetctxAgel s) := State.setctx_memForm h

theorem execSetctxRoute_memForm (h : MemoryForm s) : OutcomeForm (execSetctxRoute s) := State.setctx_memForm h

theorem execSetctxRegion_memForm (h : MemoryForm s) : OutcomeForm (execSetctxRegion s) := by
  unfold execSetctxRegion
  grind [State.command_memForm, State.setCtx_memForm, memoryForm_of, memsForm_of, OutcomeForm]

theorem execSetctxSavebase_memForm (h : MemoryForm s) : OutcomeForm (execSetctxSavebase s) := State.setctx_memForm h

theorem execSetctxWeightRegion_memForm (h : MemoryForm s) : OutcomeForm (execSetctxWeightRegion s) := State.setctx_memForm h

theorem execSetctxMigrationPolicy_memForm (h : MemoryForm s) : OutcomeForm (execSetctxMigrationPolicy s) := State.setctx_memForm h

theorem execSetctxFramePool_memForm (h : MemoryForm s) : OutcomeForm (execSetctxFramePool s) := State.setctx_memForm h

theorem execSetctxT2Limit_memForm (h : MemoryForm s) : OutcomeForm (execSetctxT2Limit s) := State.setctx_memForm h

/-! #### INVAL (R105, R370) -/

theorem State.invalidate_memForm {vf va n : Nat} (h : MemoryForm s) : MemoryForm (s.invalidate vf va n) := by
  unfold State.invalidate
  grind [State.setCtx_memForm, State.dropL1_memForm, foldl_memForm, memoryForm_of, memsForm_of]

theorem execInval_memForm (h : MemoryForm s) : OutcomeForm (execInval s) := by
  unfold execInval
  grind [State.command_memForm, State.invalidate_memForm, OutcomeForm]

/-! #### Device settings (R307, R315, R316, R385) -/

theorem execLsplit_memForm (h : MemoryForm s) : OutcomeForm (execLsplit s) := by
  unfold execLsplit
  grind [State.command_memForm, State.setPort_memForm, OutcomeForm]

theorem State.setPm_memForm {w : Dword} (h : MemoryForm s) : MemoryForm (s.setPm w) := h

theorem execPmctl_memForm (h : MemoryForm s) : OutcomeForm (execPmctl s) := by
  unfold execPmctl
  grind [State.command_memForm, State.setPm_memForm, OutcomeForm]

theorem execFabcfgImportWindow_memForm (h : MemoryForm s) : OutcomeForm (execFabcfgImportWindow s) := by
  unfold execFabcfgImportWindow
  grind [State.command_memForm, memoryForm_of, memsForm_of, OutcomeForm]

theorem execFabcfgResponseLog_memForm (h : MemoryForm s) : OutcomeForm (execFabcfgResponseLog s) := by
  unfold execFabcfgResponseLog
  grind [State.command_memForm, State.flushWithheld_memForm, memoryForm_of, memsForm_of, OutcomeForm]

theorem execUnknownOp_memForm (h : MemoryForm s) : OutcomeForm (execUnknownOp s) := by
  unfold execUnknownOp
  grind [State.command_memForm, OutcomeForm]

/-! #### Control transfers (11 R162 -/

theorem State.gotoPath_memForm {x : Ix} {pc : Nat} (h : MemoryForm s) : MemoryForm (s.gotoPath x pc) := State.onGroup_memForm h

theorem State.cword_memForm {u : CapUse} {legal : Bool} {acc : Accept} {ss : List (Nat × Nat)} {sd : List Nat} {f : State → Ix → Res}
    (h : MemoryForm s) (hf : ∀ u y, MemoryForm u → Res.HasForm (f u y)) :
    OutcomeForm (s.cword u legal acc ss sd f) := by
  unfold State.cword
  grind [State.word_memForm, State.scalarWord_memForm, Res.HasForm, OutcomeForm]

theorem execBra_memForm {c : BitVec 6} {o : BitVec 3} {d : BitVec 16} (h : MemoryForm s) : OutcomeForm (execBra c o d s) := by
  unfold execBra
  refine State.cword_memForm h fun u x hu => ?_
  split
  · trivial
  · exact State.gotoPath_memForm hu

theorem execBdiv_memForm {m : BitVec 4} {n : BitVec 1} {d : BitVec 16} (h : MemoryForm s) : OutcomeForm (execBdiv m n d s) :=
  State.word_memForm h fun _ _ hu => State.scalarWord_memForm hu fun _ _ hu => by
  grind [State.gotoPath_memForm, State.setGroup_memForm, Res.HasForm]

theorem execJoin_memForm (h : MemoryForm s) : OutcomeForm (execJoin s) := State.cword_memForm h fun _ _ hu => by
  grind [State.gotoPath_memForm, State.onGroup_memForm, Res.HasForm]

theorem execCall_memForm {c : BitVec 6} {d : BitVec 16} (h : MemoryForm s) : OutcomeForm (execCall c d s) :=
  State.cword_memForm h fun _ _ hu => State.gotoPath_memForm (State.onGroup_memForm hu)

theorem State.jumpTo_memForm {c : BitVec 6} (h : MemoryForm s) : OutcomeForm (s.jumpTo c) := State.cword_memForm h fun _ _ hu => by
  grind [State.gotoPath_memForm, Res.HasForm]

theorem execRet_memForm {c : BitVec 6} (h : MemoryForm s) : OutcomeForm (execRet c s) := State.jumpTo_memForm h

theorem execJmpi_memForm {c : BitVec 6} (h : MemoryForm s) : OutcomeForm (execJmpi c s) := State.jumpTo_memForm h

theorem execExit_memForm (h : MemoryForm s) : OutcomeForm (execExit s) := State.cword_memForm h fun _ _ hu => by
  grind [State.endGroup_memForm, State.setGroup_memForm, Res.HasForm]

theorem execNop_memForm (h : MemoryForm s) : OutcomeForm (execNop s) := State.cword_memForm h fun _ _ hu => hu

theorem State.uncount_memForm {p : Nat} (h : MemoryForm s) : MemoryForm (s.uncount p) := by
  unfold State.uncount
  grind [State.onGroup_memForm, foldl_memForm]

theorem execYield_memForm (h : MemoryForm s) : OutcomeForm (execYield s) := State.cword_memForm h fun _ _ hu => State.uncount_memForm hu

/-! #### Quads (R202, R203) -/

theorem State.quadWord_memForm {d a : BitVec 7} {legal : Bool} {src : Nat → List Nat} {f : Ix → (Nat → Nat) → Nat → Nat × Half} (h : MemoryForm s) :
    OutcomeForm (s.quadWord d a legal src f) := by
  unfold State.quadWord
  grind [State.word_memForm, State.vecWord_memForm, State.onGroup_memForm, OutcomeForm]

theorem execQswz_memForm {d a : BitVec 7} {f : BitVec 3} (h : MemoryForm s) : OutcomeForm (execQswz d a f s) := State.quadWord_memForm h

theorem execQdiff_memForm {d a : BitVec 7} {f : BitVec 3} (h : MemoryForm s) : OutcomeForm (execQdiff d a f s) := State.quadWord_memForm h

/-! #### Lanes (R204) -/

theorem execShfl_memForm {d a b : BitVec 7} {f : BitVec 3} {s1 : BitVec 1} (h : MemoryForm s) : OutcomeForm (execShfl d a b f s1 s) := by
  unfold execShfl
  grind [State.word_memForm, State.vecWord_memForm, State.onGroup_memForm, OutcomeForm]

/-! #### Reductions (R205-R207, R210) -/

theorem State.redWord_memForm {d a : BitVec 7} {t : RType} {op : Nat} {legal unsignedCmp : Bool} {from_ : Ix → Nat → List Nat} (h : MemoryForm s) :
    OutcomeForm (s.redWord d a t op legal unsignedCmp from_) := by
  unfold State.redWord
  grind [State.word_memForm, State.vecWord_memForm, State.setGroup_memForm, State.onGroup_memForm, OutcomeForm]

theorem execVred_memForm {d a : BitVec 7} {o f : BitVec 3} (h : MemoryForm s) : OutcomeForm (execVred d a o f s) := State.redWord_memForm h

theorem execVscan_memForm {d a : BitVec 7} {x1 : BitVec 1} {o f : BitVec 3} (h : MemoryForm s) : OutcomeForm (execVscan d a x1 o f s) :=
  State.redWord_memForm h

theorem execVballot_memForm {m : BitVec 4} {a : BitVec 7} (h : MemoryForm s) : OutcomeForm (execVballot m a s) := State.vmask_memForm h

theorem execVballotCnt_memForm {d : BitVec 6} {a : BitVec 7} (h : MemoryForm s) : OutcomeForm (execVballotCnt d a s) := by
  unfold execVballotCnt
  grind [State.word_memForm, State.vecWord_memForm, State.onGroup_memForm, OutcomeForm]

theorem execVmatch_memForm {d a : BitVec 7} {f : BitVec 3} (h : MemoryForm s) : OutcomeForm (execVmatch d a f s) := by
  unfold execVmatch
  grind [State.word_memForm, State.vecWord_memForm, State.onGroup_memForm, OutcomeForm]

/-! #### Members (R210) -/

theorem execMxchBc_memForm {d a b : BitVec 7} {f s1 : BitVec 1} (h : MemoryForm s) : OutcomeForm (execMxchBc d a b f s1 s) := by
  unfold execMxchBc
  grind [State.word_memForm, State.vecWord_memForm, State.onGroup_memForm, OutcomeForm]

theorem execMxchRed_memForm {d a : BitVec 7} {u : BitVec 1} {o f : BitVec 3} (h : MemoryForm s) : OutcomeForm (execMxchRed d a u o f s) :=
  State.redWord_memForm h

/-! #### DBGRD (R365) -/

theorem execDbgrd_memForm (h : MemoryForm s) : OutcomeForm (execDbgrd s) := by
  unfold execDbgrd
  grind [State.command_memForm, State.writeLoc_memForm, State.spend_memForm, OutcomeForm]

/-! #### Registers read, ATTEST and FWLOAD (R378-R382) -/

theorem execAttest_memForm (h : MemoryForm s) : OutcomeForm (execAttest s) := by
  unfold execAttest
  grind [State.command_memForm, State.writeLoc_memForm, State.spend_memForm, OutcomeForm]

theorem execFwload_memForm (h : MemoryForm s) : OutcomeForm (execFwload s) := by
  unfold execFwload
  grind [State.command_memForm, memoryForm_of, memsForm_of, OutcomeForm]

/-! #### REPLAY (R386-R388) -/

theorem State.beginPass_memForm {r : Replay} {t : State} (h : MemoryForm s) (e : s.beginPass r = some t) : MemoryForm t := by
  unfold State.beginPass at e
  grind [State.setPm_memForm, State.launchTouch_memForm, State.acceptLaunch_memForm, memoryForm_of, memsForm_of]

theorem execReplay_memForm (h : MemoryForm s) : OutcomeForm (execReplay s) := by
  have hc {n : Nat} : OutcomeForm (s.command fun s _ => (s, n)) := State.command_memForm h fun _ _ hu => hu
  unfold execReplay
  split
  · exact outcomeForm_fault
  · dsimp only
    split
    · exact hc
    split
    · exact hc
    split
    · exact hc
    · next e => exact State.event_memForm (State.beginPass_memForm (s := { s with cmd := none }) h e)

theorem State.restorePages_memForm {r : Replay} (h : MemoryForm s) : MemoryForm (s.restorePages r) := by
  unfold State.restorePages
  grind [State.writeLoc_memForm, foldl_memForm, memoryForm_of, memsForm_of]

theorem execReplayPassEnd_memForm (h : MemoryForm s) : OutcomeForm (execReplayPassEnd s) := by
  unfold execReplayPassEnd
  grind [State.event_memForm, State.answerCmd_memForm, State.restorePages_memForm, State.writeLoc_memForm, State.spend_memForm,
    State.beginPass_memForm, memoryForm_of, memsForm_of, OutcomeForm]

/-! #### The one meaning of each instruction and step -/

/-- Every word and every step keeps the form, whatever its outcome. -/
theorem exec_memForm {i : Instr} (h : MemoryForm s) : OutcomeForm (exec i s) := by
  unfold exec
  grind [execVadd_memForm, execVsub_memForm, execVmul_memForm, execVmulh_memForm, execVmad_memForm, execVmin_memForm, execVmax_memForm,
    execVabsd_memForm, execVand_memForm, execVor_memForm, execVxor_memForm, execVandn_memForm, execVshl_memForm, execVshr_memForm,
    execVsar_memForm, execVrot_memForm, execVbfx_memForm, execVbfi_memForm, execVpopc_memForm, execVclz_memForm, execVcmp_memForm,
    execVsel_memForm, execVmov_memForm, execVaddi_memForm, execVshli_memForm, execVshri_memForm, execVandi_memForm, execVcmpi_memForm,
    execVmovi_memForm, execFadd_memForm, execFsub_memForm, execFmul_memForm, execFfma_memForm, execFmin_memForm, execFmax_memForm,
    execFsgn_memForm, execFcmp_memForm, execFcvt_memForm, execFclass_memForm, execFsfn_memForm, execFdiv_memForm, execFsqrt_memForm,
    execFrnd_memForm, execFldexp_memForm, execFdot2_memForm, execXclr_memForm, execXadd_memForm, execXfma_memForm, execXsub_memForm,
    execXrd_memForm, execXmrg_memForm, execXst_memForm, execXld_memForm, execQswz_memForm, execQdiff_memForm, execShfl_memForm,
    execVred_memForm, execVscan_memForm, execVballot_memForm, execVballotCnt_memForm, execVmatch_memForm, execMxchBc_memForm,
    execMxchRed_memForm, execSadd_memForm, execSsub_memForm, execSmul_memForm, execSmad_memForm, execSand_memForm, execSor_memForm,
    execSxor_memForm, execSshl_memForm, execSshr_memForm, execSsar_memForm, execScmp_memForm, execSsel_memForm, execSmov_memForm,
    execSaddi_memForm, execSmin_memForm, execSmax_memForm, execSrd_memForm, execSrdClr_memForm, execBra_memForm, execBdiv_memForm,
    execCall_memForm, execRet_memForm, execJmpi_memForm, execLd_memForm, execSt_memForm, execLdx_memForm, execStx_memForm,
    execLds_memForm, execSts_memForm, execLdw_memForm, execLdc_memForm, execAtom_memForm, execRed_memForm, execAtoms_memForm,
    execFence_memForm, execQsetBase_memForm, execQsetShape_memForm, execQbind_memForm, execQbindOff_memForm, execQposRd_memForm,
    execQposWr_memForm, execCpy_memForm, execCpym_memForm, execHalo_memForm, execHaloAllm_memForm, execKick_memForm, execMighHot_memForm,
    execMighCold_memForm, execMighClr_memForm, execRtsend_memForm, execRtrecvFill_memForm, execRtrecvNext_memForm,
    execRtrecvLand_memForm, execRtrecvReset_memForm, execMma_memForm, execMmag_memForm, execAclr_memForm, execArd_memForm,
    execArds_memForm, execRqcvt_memForm, execTarm_memForm, execTarmClr_memForm, execTarmInit_memForm, execTadd_memForm,
    execTaddR_memForm, execArrive_memForm, execArriveAdd_memForm, execArriveWait_memForm, execPoll_memForm, execCapenter_memForm,
    execCapstep_memForm, execCapexit_memForm, execCapres_memForm, execRegrel_memForm, execRegclm_memForm, execTspawn_memForm,
    execSysTrap_memForm, execSysBrk_memForm, execSysPmrd_memForm, execSysCyc_memForm, execSysEvsig_memForm, execClauseFetch_memForm,
    execClauseWaitRelease_memForm, execLegIssue_memForm, execBackOffAgeing_memForm, execClassAgeing_memForm, execYieldRelease_memForm,
    execRegisterFill_memForm, execHomeReply_memForm, execStoreAcknowledge_memForm, execGlobalAccessAtHome_memForm,
    execScratchpadRemoteAccess_memForm, execFaultQueueEntryWrite_memForm, execResumeEntry_memForm, execLayerWake_memForm,
    execLayerGate_memForm, execWeightRefreshWindow_memForm, execHbmRefresh_memForm, execMigrationPeriod_memForm,
    execPageMoveComplete_memForm, execAggBufferAgeExpiry_memForm, execFenceComplete_memForm, execEngineRequestAccept_memForm,
    execEngineLineLand_memForm, execEngineRequestComplete_memForm, execKickEntryStart_memForm, execStreamElementArrival_memForm,
    execMatrixOperation_memForm, execMatrixOperationComplete_memForm, execSliceHang_memForm, execReadoutEntryWrite_memForm,
    execTaskUpdate_memForm, execSpawnQueueEntry_memForm, execLaunchRecordAccept_memForm, execBlockPlacement_memForm,
    execDispatchAgeing_memForm, execGridCompletion_memForm, execUnitStop_memForm, execCollectorComplete_memForm,
    execUncorrectableError_memForm, execCorrectableRateThreshold_memForm, execCoreRetirement_memForm, execLayerThermalLoss_memForm,
    execLoopLoss_memForm, execLoopRestored_memForm, execColdStart_memForm, execWarmRestart_memForm, execStartStepTimeout_memForm,
    execHbmtRefresh_memForm, execLaneFailure_memForm, execLaneWidthChange_memForm, execWidthChangeIdleEnd_memForm,
    execFlitReceive_memForm, execReplayRequest_memForm, execFlitAcknowledge_memForm, execLinkRetrain_memForm, execLinkPause_memForm,
    execLinkResume_memForm, execLinkDeath_memForm, execCarriagewayDrainComplete_memForm, execFabricTimeout_memForm, execRead_memForm,
    execReadData_memForm, execWrite_memForm, execAggregated_memForm, execAtomic_memForm, execAtomicData_memForm, execAcknowledge_memForm,
    execElementFaults_memForm, execStatus_memForm, execDiscardedPacket_memForm, execRouteTokenAccept_memForm, execRouteToken_memForm,
    execRouteTokenHeaderWrite_memForm, execRouteTokenLand_memForm, execRouteReply_memForm, execRingChunk_memForm,
    execRingResultWrite_memForm, execHostSnoop_memForm, execRingPiWrite_memForm, execRingCiWrite_memForm, execRingControlWrite_memForm,
    execRegisterWriteOther_memForm, execIllegalInstruction_memForm, execNormalFlowReturn_memForm, execLinkTrainingEnd_memForm,
    execJoin_memForm, execExit_memForm, execNop_memForm, execYield_memForm, execFlushagg_memForm, execFlushaggWait_memForm,
    execSysHalt_memForm, execTableChange_memForm, execSetctxRoot_memForm, execSetctxWindow_memForm, execSetctxAgel_memForm,
    execSetctxRoute_memForm, execSetctxRegion_memForm, execSetctxSavebase_memForm, execSetctxWeightRegion_memForm,
    execSetctxMigrationPolicy_memForm, execSetctxFramePool_memForm, execSetctxT2Limit_memForm, execInval_memForm, execPreempt_memForm,
    execResume_memForm, execEndctx_memForm, execLsplit_memForm, execDbgrd_memForm, execPmctl_memForm, execReplay_memForm,
    execReplayPassEnd_memForm, execAttest_memForm, execFwload_memForm, execFullstart_memForm, execFabcfgImportWindow_memForm,
    execFabcfgResponseLog_memForm, execUnknownOp_memForm, execPowerLoss_memForm, OutcomeForm]

/-! #### What an act of the agenda runs -/

theorem State.takeCommand_memForm {t : Cmd × State} (h : MemoryForm s) (e : s.takeCommand = some t) : MemoryForm t.2 := by
  unfold State.takeCommand at e
  grind [State.setRing_memForm]

theorem State.acts_memForm {a : Act} {t : Instr × State} (h : MemoryForm s) (e : s.acts a = some t) : MemoryForm t.2 := by
  cases a with
  | issue p => cases e; exact h
  | run i => cases e; exact h
  | command =>
    obtain ⟨c, hc, rfl⟩ := Option.map_eq_some_iff.mp e
    exact State.takeCommand_memForm h hc

/-! #### What happens next when the agenda is empty -/

theorem perform_memForm {a : Act} (h : MemoryForm s) : OutcomeForm (perform a s) := by
  unfold perform
  split
  · next e => exact exec_memForm (State.acts_memForm h e)
  · exact outcomeForm_fault

/-! #### Acts that the state names -/

theorem State.chooseAct_memForm (h : MemoryForm s) : OutcomeForm s.chooseAct := by
  unfold State.chooseAct
  grind [perform_memForm, State.spend_memForm, OutcomeForm]

/-! #### One step -/

theorem step_memForm (h : MemoryForm s) : OutcomeForm (step s) := by
  unfold step
  grind [perform_memForm, State.chooseAct_memForm, memoryForm_of, memsForm_of, OutcomeForm]

end MemoryForm

end Sys2Proof.Machine

namespace Sys2Proof.Proofs.ConsistencyRules

open Sys2Proof.Machine

/-- Settles O58: every step is made of functions that each keep the form of memory. -/
theorem memoryFormKept : Obligations.MemoryFormKept := fun _ _ h e => step_memForm h _ e

end Sys2Proof.Proofs.ConsistencyRules

/-! PROOFS. Consistency rules: fences and FLUSHAGG (O21). -/

namespace Sys2Proof.Machine

/-! ### Words that execute once for the group (R28, R166, R169) -/

/-- A word that executes once for the group does what its meaning says when nothing stands in its way. -/
theorem State.scalarWord_run (s : State) {x : Ix} {o : SOp} (f : State → Ix → Res) (hlegal : o.legal = true)
    (hr : ScalarReady x o.acc (o.ss.map (fun r => r.1) ++ o.sd)) : s.scalarWord x o f = f s x := by
  obtain ⟨hacc, hfull⟩ := hr
  have hss : ∀ r ∈ o.ss, x.g.sEmptyAt r.1 = false := fun r hmem =>
    hfull r.1 (List.mem_append_left _ (List.mem_map_of_mem hmem))
  have htrap : (o.ss.any fun r => x.traps r.2 && (x.g.sEmptyAt r.1 && !(x.path.only.isSome && o.sd.contains r.1))) = false := by
    rw [List.any_eq_false]
    intro r hmem
    simp [hss r hmem]
  have hwait (m : Dword) : (o.ss.map (fun r => r.1) ++ o.sd).foldl
      (fun m r => if x.g.sEmptyAt r && !(x.path.only.isSome && o.sd.contains r) then m ||| dw (2 ^ r) else m) m = m := by
    refine List.foldlRecOn _ _ (motive := fun k => k = m) rfl fun k hk r hmem => ?_
    rw [hfull r hmem, Bool.false_and, if_neg Bool.false_ne_true]
    exact hk
  unfold State.scalarWord
  rw [hlegal, hacc]
  simp only [Bool.not_true, Bool.false_eq_true, if_false, htrap, hwait, ne_eq, not_true_eq_false]

/-- The same for a word without operands. -/
theorem bareWord_run {s : State} {x : Ix} (his : Issues s x) (hr : ScalarReady x {} []) {legal : Bool} (hlegal : legal = true)
    (f : State → Ix → Res) : s.bareWord legal f = .next (s.finish x (f s x)) := by
  rw [State.bareWord, word_run his]
  exact congrArg (fun r => Host.Outcome.next (s.finish x r)) (State.scalarWord_run s (o := { acc := {}, legal := legal, ss := [], sd := [] }) f hlegal hr)

/-! ### Words that change no group (R36, R37) -/

/-- A word whose effect changes neither a group nor memory completes. -/
theorem completes_aside {s T : State} {x : Ix} {c : Cost} {P : State → Group → Prop} (hs : s.issuer = some x) (hmem : SameMem s T)
    (hgroups : T.groups = s.groups)
    (hP : ∀ g, g.sameBut x.g → Aside s ((T.spendCycles x c).retire x none) x.g.gid → P ((T.spendCycles x c).retire x none) g) :
    Completes (.next (s.finish x (.done T c))) x P := by
  obtain ⟨_, hg, _⟩ := State.issuer_spec hs
  exact completes_done hs ((State.group_congr hgroups _).trans hg) rfl fun g hbut =>
    hP g hbut (aside_finish hmem (fun h _ => State.group_congr hgroups h) c none)

/-- A word that waits after an effect on other things than groups leaves its group as it was, its path at it with the wait. -/
theorem waits_of_groups {s T : State} {x : Ix} (hs : s.issuer = some x) (hgroups : T.groups = s.groups) (w : Wait) :
    Waits (.next (s.finish x (.wait T w))) x w := by
  obtain ⟨_, hg, hpath, _, _, _⟩ := State.issuer_spec hs
  have hgroup : (T.enterClause x).group x.g.gid = some (x.g.onPath x.path.id (fun t => { t with entered := t.fetched.isSome })) :=
    State.group_onGroup_same T x.g.gid (fun g => g.onPath x.path.id (fun t => { t with entered := t.fetched.isSome })) (fun _ => rfl)
      ((State.group_congr hgroups _).trans hg)
  have hentered := Group.path?_onPath x.g x.path.id (fun t => { t with entered := t.fetched.isSome }) (fun _ => rfl) hpath
  obtain ⟨k, u, hk, hbut, hu, hpc, hwidx, hfetched, hwait⟩ := State.endLeg_group _ x.p x.g.gid x.path.id w hgroup hentered
  exact ⟨_, k, u, rfl, hk, hbut, hu, hwait, hpc, hwidx, hfetched⟩

/-! ### Requests and departures (R141, R315) -/

/-- A state in which requests have been made or sent: only what the fabric's side keeps of them, and counters, have changed. -/
def Sends (s t : State) : Prop :=
  ∃ w r q a p cs n, t = { s with waitReqs := w, reqs := r, pseq := q, arrived := a, ports := p, cores := cs, nextId := n }

theorem sends_refl (s : State) : Sends s s := ⟨_, _, _, _, _, _, _, rfl⟩

theorem sends_trans {s t u : State} (h : Sends s t) (h' : Sends t u) : Sends s u := by
  obtain ⟨w, r, q, a, p, cs, n, rfl⟩ := h
  obtain ⟨w', r', q', a', p', cs', n', rfl⟩ := h'
  exact ⟨w', r', q', a', p', cs', n', rfl⟩

theorem State.sendPacket_sends (s : State) (p : Packet) : Sends s (s.sendPacket p) := by
  unfold State.sendPacket
  dsimp only
  split
  · exact ⟨_, _, _, _, _, _, _, rfl⟩
  · exact ⟨_, _, _, _, _, _, _, rfl⟩

theorem State.transmit_sends (s : State) (r : FabReq) : Sends s (s.transmit r) :=
  sends_trans ⟨_, _, _, _, _, _, _, rfl⟩ (State.sendPacket_sends _ _)

theorem State.pumpReqs_sends (s : State) : Sends s s.pumpReqs := by
  unfold State.pumpReqs
  refine List.foldlRecOn _ _ (motive := fun acc : State × List Nat => Sends s acc.1) (sends_refl s) fun acc hacc r _ => ?_
  dsimp only
  split
  · exact hacc
  split
  · exact hacc
  · exact sends_trans hacc (State.transmit_sends _ _)

theorem State.requestAs_sends (s : State) (id vf dev cw kind rw addr : Nat) (bs : List Byte) (b : ReqBody) (after : List Nat) :
    Sends s (s.requestAs id vf dev cw kind rw addr bs b after) :=
  sends_trans ⟨_, _, _, _, _, _, _, rfl⟩ (State.pumpReqs_sends _)

theorem State.request_sends (s : State) (vf dev cw kind rw addr : Nat) (bs : List Byte) (b : ReqBody) (after : List Nat) :
    Sends s (s.request vf dev cw kind rw addr bs b after) :=
  sends_trans ⟨_, _, _, _, _, _, _, rfl⟩ (State.requestAs_sends _ _ _ _ _ _ _ _ _ _ _)

theorem State.count_sends (s : State) (vf core ev n : Nat) : Sends s (s.count vf core ev n) := by
  obtain ⟨cs, h⟩ := State.count_shape s vf core ev n
  rw [h]
  exact ⟨_, _, _, _, _, _, _, rfl⟩

/-- A buffer that departs leaves its place. -/
theorem State.depart_sends (s : State) (b : AggBuf) : Sends { s with agg := s.agg.filter (fun k => k.id != b.id) } (s.depart b) :=
  sends_trans (State.count_sends _ _ _ _ _) (State.requestAs_sends _ _ _ _ _ _ _ _ _ _ _)

/-- A state that buffers have departed from: requests have been made, and the buffers that are left were there before. -/
def Departs (s t : State) : Prop := ∃ bs, (∀ b ∈ bs, b ∈ s.agg) ∧ Sends { s with agg := bs } t

theorem departs_refl (s : State) : Departs s s := ⟨s.agg, fun _ h => h, sends_refl s⟩

theorem departs_trans {s t u : State} (h : Departs s t) (h' : Departs t u) : Departs s u := by
  obtain ⟨bs, hbs, w, r, q, a, p, cs, n, rfl⟩ := h
  obtain ⟨bs', hbs', w', r', q', a', p', cs', n', rfl⟩ := h'
  exact ⟨bs', fun b hb => hbs b (hbs' b hb), w', r', q', a', p', cs', n', rfl⟩

theorem State.depart_departs (s : State) (b : AggBuf) : Departs s (s.depart b) :=
  ⟨_, fun _ h => (List.mem_filter.mp h).1, s.depart_sends b⟩

theorem State.departWhere_departs (s : State) (p : AggBuf → Bool) : Departs s (s.departWhere p).2 :=
  List.foldlRecOn _ _ (motive := fun t => Departs s t) (departs_refl s) fun t ht b _ => departs_trans ht (State.depart_departs t b)

/-- None of the buffers of a list is left after all of them have departed. -/
theorem State.not_mem_agg_of_departed {l : List AggBuf} {b : AggBuf} (h : b ∈ l) (s : State) :
    b ∉ (l.foldl (fun s b => s.depart b) s).agg := by
  induction l generalizing s with
  | nil => cases h
  | cons c l ih =>
    rcases List.mem_cons.mp h with rfl | h
    · have hgone : b ∉ (s.depart b).agg := by
        obtain ⟨_, _, _, _, _, _, _, hd⟩ := s.depart_sends b
        rw [hd]
        exact fun hb => by simpa using (List.mem_filter.mp hb).2
      have hleft : Departs (s.depart b) (l.foldl (fun s b => s.depart b) (s.depart b)) :=
        List.foldlRecOn _ _ (motive := fun t => Departs (s.depart b) t) (departs_refl _) fun t ht c _ =>
          departs_trans ht (State.depart_departs t c)
      obtain ⟨bs, hbs, _, _, _, _, _, _, _, hd⟩ := hleft
      rw [List.foldl_cons, hd]
      exact fun hb => hgone (hbs b hb)
    · exact ih h _

/-- The buffers that are left do not satisfy what made the others depart. -/
theorem State.departWhere_agg (s : State) (p : AggBuf → Bool) {b : AggBuf} (h : b ∈ (s.departWhere p).2.agg) : p b = false := by
  by_contra hp
  obtain ⟨bs, hbs, _, _, _, _, _, _, _, hd⟩ := s.departWhere_departs p
  have hmem : b ∈ s.agg := hbs b (by rw [hd] at h; exact h)
  exact State.not_mem_agg_of_departed (List.mem_filter.mpr ⟨hmem, by simpa using hp⟩) s h

section
variable {s t : State} (h : Departs s t)
include h

theorem Departs.sameMem : SameMem s t := by
  obtain ⟨_, _, _, _, _, _, _, _, _, rfl⟩ := h
  exact ⟨rfl, rfl, rfl, rfl⟩

theorem Departs.groups : t.groups = s.groups := by
  obtain ⟨_, _, _, _, _, _, _, _, _, rfl⟩ := h
  rfl

theorem Departs.flight : t.flight = s.flight := by
  obtain ⟨_, _, _, _, _, _, _, _, _, rfl⟩ := h
  rfl

theorem Departs.unacked : t.unacked = s.unacked := by
  obtain ⟨_, _, _, _, _, _, _, _, _, rfl⟩ := h
  rfl

end

/-! ### What a fence does and waits for (R128, R143, R144, R233) -/

theorem Group.aggFault_eq (g : Group) :
    (g.aggFault = none ↔ g.aggLog = [] ∧ g.aggLost = 0) ∧ ∀ f, g.aggFault = some f → f = FaultInfo.of 0x20 := by
  unfold Group.aggFault
  split
  · next h => simpa using h
  · next h => exact ⟨by simpa using h, fun f hf => (Option.some.inj hf).symm⟩

/-- Nothing that a fence waits for is pending: it completes, or takes the fault of a log that is not empty. -/
theorem State.fenceOn_clear {t : State} (x : Ix) {ids : List Nat} {scope : Nat} (check : Bool) (h : ∀ k ∈ ids, t.pendingAt scope k = false) :
    ((check = true → x.g.aggLog = [] ∧ x.g.aggLost = 0) → t.fenceOn x ids scope check = .done t Cost.one)
    ∧ (check = true → ¬(x.g.aggLog = [] ∧ x.g.aggLost = 0) → t.fenceOn x ids scope check = .trap (FaultInfo.of 0x20)) := by
  have hopen : (ids.filter (t.pendingAt scope)).isEmpty = true := by
    rw [List.isEmpty_iff, List.filter_eq_nil_iff]
    exact fun k hk => by simp [h k hk]
  obtain ⟨hnone, hsome⟩ := x.g.aggFault_eq
  unfold State.fenceOn
  dsimp only
  rw [hopen]
  refine ⟨fun hlog => ?_, fun hcheck hlog => ?_⟩
  · cases check with
    | false => rfl
    | true => simp [hnone.mpr (hlog rfl)]
  · subst hcheck
    obtain ⟨f, hf⟩ := Option.ne_none_iff_exists'.mp fun hno => hlog (hnone.mp hno)
    simp [hf, hsome f hf]

theorem State.fenceOn_open {t : State} (x : Ix) {ids : List Nat} {scope : Nat} (check : Bool) (h : ∃ k ∈ ids, t.pendingAt scope k = true) :
    t.fenceOn x ids scope check = .wait t (.fence (ids.filter (t.pendingAt scope)) scope check) := by
  obtain ⟨k, hk, hpend⟩ := h
  unfold State.fenceOn
  dsimp only
  rw [if_neg]
  rw [List.isEmpty_iff]
  exact List.ne_nil_of_mem (List.mem_filter.mpr ⟨hk, hpend⟩)

/-- An access that issued from a path of `mine` comes before what `mine`'s youngest issues now. -/
theorem Group.precedes_of_head {g : Group} {mine line : List Nat} {q : Nat} (h : line.head? = some q) (hq : q ∈ mine) :
    g.precedes mine line = true := by
  cases line with
  | nil => cases h
  | cons c l =>
    cases h
    simp [Group.precedes, hq]

section
variable (s : State) (x : Ix) (scope : Nat)

theorem State.fenceStart_departs : Departs s (s.fenceStart x scope).1 := s.departWhere_departs _

theorem State.fenceStart_access {a : Access} (h : a ∈ s.flight ++ s.unacked) (hgid : a.gid = x.g.gid) (hhelper : a.helper = false)
    (hline : ∃ q ∈ x.g.lineage x.path.id, a.line.head? = some q) : a.id ∈ (s.fenceStart x scope).2 := by
  obtain ⟨q, hq, hhead⟩ := hline
  have hd := s.departWhere_departs (s.fenceBufs x scope)
  have hearlier : a.earlier x.g (x.g.lineage x.path.id) = true := by
    simp [Access.earlier, hgid, hhelper, Group.precedes_of_head hhead hq]
  simp only [State.fenceStart, State.fenceIds, hd.flight, hd.unacked, List.mem_append]
  exact .inl (.inl (.inl (.inl (List.mem_map_of_mem (List.mem_filter.mpr ⟨h, hearlier⟩)))))

theorem State.fenceStart_seen {a : Access} (h : a ∈ s.flight) (hseen : a.id ∈ x.g.seen) (hscope : 2 ≤ x.g.fenceScope scope) :
    a.id ∈ (s.fenceStart x scope).2 := by
  have hd := s.departWhere_departs (s.fenceBufs x scope)
  have hids : a.id ∈ (s.departWhere (s.fenceBufs x scope)).2.seenIds x.g := by
    refine List.mem_filter.mpr ⟨hseen, ?_⟩
    rw [hd.flight]
    exact List.any_eq_true.mpr ⟨a, h, by simp⟩
  simp only [State.fenceStart, State.fenceIds, if_pos hscope, List.mem_append]
  exact .inl (.inl (.inl (.inr hids)))

theorem State.fenceStart_buffer {b : AggBuf} (h : b ∈ s.agg) (hcore : b.core = coreOf x.p) (hentry : ∃ e ∈ b.entries, e.gid = x.g.gid)
    (hscope : scope = 4 ∨ (scope = 3 ∧ b.dev = s.dev)) : b.id ∈ (s.fenceStart x scope).2 := by
  have hbuf : s.fenceBufs x scope b = true := by
    obtain ⟨e, he, hgid⟩ := hentry
    have hany : b.entries.any (fun e => e.gid == x.g.gid) = true := List.any_eq_true.mpr ⟨e, he, by simp [hgid]⟩
    simp [State.fenceBufs, hcore, hany, hscope]
  simp only [State.fenceStart, State.fenceIds, List.mem_append]
  exact .inr (List.mem_map_of_mem (List.mem_filter.mpr ⟨h, hbuf⟩))

end

/-- A word that makes buffers depart and then fences: it completes, takes the fault of the group's log, or waits. -/
theorem fence_runs {s t : State} {x : Ix} {o : Host.Outcome State Fault Refusal} {ids : List Nat} {scope : Nat} {check : Bool}
    (his : Issues s x) (hd : Departs s t) (ho : o = .next (s.finish x (t.fenceOn x ids scope check))) :
    ((∀ k ∈ ids, t.pendingAt scope k = false) → (check = true → x.g.aggLog = [] ∧ x.g.aggLost = 0) →
        Completes o x (fun u g => Aside s u x.g.gid ∧ g = { x.g with paths := g.paths }))
    ∧ ((∀ k ∈ ids, t.pendingAt scope k = false) → check = true → ¬(x.g.aggLog = [] ∧ x.g.aggLost = 0) →
        ∃ f, f.code = 0x20 ∧ FaultsWith o x f)
    ∧ ((∃ k ∈ ids, t.pendingAt scope k = true) → Waits o x (.fence (ids.filter (t.pendingAt scope)) scope check)) := by
  subst ho
  refine ⟨fun hclear hlog => ?_, fun hclear hcheck hlog => ⟨FaultInfo.of 0x20, rfl, ?_⟩, fun hopen => ?_⟩
  · rw [(t.fenceOn_clear x check hclear).1 hlog]
    exact completes_aside his.2.1 hd.sameMem hd.groups fun g hbut haside => ⟨haside, hbut⟩
  · rw [(t.fenceOn_clear x check hclear).2 hcheck hlog]
    exact trap_faults his.2.1 _
  · rw [t.fenceOn_open x check hopen]
    exact waits_of_groups his.2.1 hd.groups _

theorem exec_fence (q : BitVec 1) (sc : BitVec 3) (s : State) :
    exec (.fence q sc) s = s.bareWord (sc.toNat ≤ 4) (fun s x =>
      match x.g.pollWait with
      | some w => .wait s w
      | none => (s.fenceStart x sc.toNat).1.fenceOn x (s.fenceStart x sc.toNat).2 (x.g.fenceScope sc.toNat) (decide (3 ≤ sc.toNat))) := rfl

/-! ### FLUSHAGG (R234) -/

theorem State.flushAgg_departs (s : State) (x : Ix) : Departs s (s.flushAgg x) := s.departWhere_departs _

theorem flushagg_completes {s : State} {x : Ix} (his : Issues s x) (hr : ScalarReady x {} []) :
    Completes (exec .flushagg s) x (fun u g => Aside s u x.g.gid ∧ g = { x.g with paths := g.paths }
      ∧ ∀ b ∈ u.agg, b.core = coreOf x.p → ∀ e ∈ b.entries, e.gid ≠ x.g.gid) := by
  have hd := s.flushAgg_departs x
  rw [show exec .flushagg s = s.bareWord true (fun s x => .done (s.flushAgg x) Cost.one) from rfl, bareWord_run his hr rfl]
  refine completes_aside his.2.1 hd.sameMem hd.groups fun g hbut haside => ⟨haside, hbut, fun b hb hcore e he hgid => ?_⟩
  have hno := s.departWhere_agg _ (show b ∈ (s.flushAgg x).agg by simpa using hb)
  rw [hcore, beq_self_eq_true, Bool.true_and, List.any_eq_false] at hno
  exact hno e he (by simp [hgid])

/-! ### FENCE_COMPLETE (R233) -/

/-- A path that has gone `n` words on in its clause, or to the next clause after its last word. -/
theorem past_of_next {x : Ix} {t : Path} {n : Nat} (hcl : t.fetched = some x.cl) (hn : x.next = t.widx + n) :
    Past x (if x.cl.words.length ≤ t.widx + n then { t.goto x.cl.after with fresh := x.cl.hdr.ms } else { t with widx := t.widx + n }) := by
  unfold Past
  rw [hn]
  split <;> exact ⟨rfl, by simp [Path.goto, hcl]⟩

/-- A path that skips its word has gone past it. -/
theorem Path.skipWord_past {p : Nat} {g : Group} {t : Path} {x : Ix} (h : ixOf p g t = some x) : Past x t.skipWord := by
  obtain ⟨_, _, _, _, hcl⟩ := ixOf_spec h
  have hnext : x.next = t.widx + (match x.cl.words.drop t.widx with | w :: _ :: _ => if isPrefix w then 2 else 1 | _ => 1) := by
    unfold ixOf at h
    rw [hcl] at h
    dsimp only at h
    split at h
    · cases h
    · next w ws hws =>
      rw [hws]
      cases ws with
      | nil =>
        rw [if_neg (by simp)] at h
        exact (congrArg Ix.next (Option.some.inj h)).symm
      | cons v vs =>
        cases hpre : isPrefix w with
        | true =>
          rw [hpre] at h
          exact (congrArg Ix.next (Option.some.inj h)).symm.trans (congrArg (t.widx + ·) (if_pos hpre).symm)
        | false =>
          rw [hpre] at h
          exact (congrArg Ix.next (Option.some.inj h)).symm.trans (congrArg (t.widx + ·) (if_neg (by simp [hpre])).symm)
  unfold Path.skipWord
  split
  · next hnone => rw [hnone] at hcl; cases hcl
  · next cl hsome =>
    cases Option.some.inj (hsome.symm.trans hcl)
    exact past_of_next hcl hnext

theorem Path.skipWord_id (t : Path) : t.skipWord.id = t.id := by
  unfold Path.skipWord
  split
  · rfl
  · exact (apply_ite Path.id _ _ _).trans (ite_self t.id)

/-- A path of a group whose slots were made ready. -/
theorem State.path?_woken (s : State) {g : Group} {id : Nat} {t : Path} (h : g.path? id = some t) :
    ∃ p, (s.woken g).path? id = some p ∧ (t.wait = .none → p.wait = .none) ∧ ∀ x, Past x t → Past x p := by
  have hfind : (s.woken g).path? id
      = (g.path? id).map (fun p => if s.waitOver g p.id p.wait then p.readied (s.core (g.part / 4)).cycles else p) := by
    refine (List.find?_map ..).trans ?_
    refine congrArg₂ _ rfl (congrArg₂ List.find? (funext fun p => ?_) rfl)
    dsimp only [Function.comp]
    split <;> rfl
  rw [hfind, h]
  refine ⟨_, rfl, fun hw => ?_, fun x hx => ?_⟩
  · dsimp only
    split
    · rfl
    · exact hw
  · dsimp only
    split <;> exact hx

/-- FENCE_COMPLETE of a path whose fence waits for nothing any more. -/
theorem fenceComplete_runs {s : State} {g : Group} {path : Path} {ids : List Nat} {scope : Nat} {check : Bool} {x : Ix}
    (hp : s.manage.poweredDown = false) (hg : s.group g.gid = some g) (hpath : g.path? path.id = some path)
    (hwait : path.wait = .fence ids scope check) (hx : ixOf g.part g path = some x) (hrun : g.stopped = false)
    (hclear : ∀ k ∈ ids, s.pendingAt scope k = false) :
    ((check = true → g.aggLog = [] ∧ g.aggLost = 0) → ∃ t h p, exec (.fenceComplete g.gid path.id) s = .next t ∧ t.group g.gid = some h
        ∧ h.path? path.id = some p ∧ p.wait = .none ∧ Past x p)
    ∧ (check = true → ¬(g.aggLog = [] ∧ g.aggLost = 0) → ∃ f, f.code = 0x20 ∧ FaultsWith (exec (.fenceComplete g.gid path.id) s) x f) := by
  obtain ⟨_, rfl, _, _, _⟩ := ixOf_spec hx
  obtain ⟨hnone, hsome⟩ := x.g.aggFault_eq
  have hdone : (!x.g.stopped && ids.all (fun i => !s.pendingAt scope i)) = true := by
    rw [hrun, Bool.not_false, Bool.true_and, List.all_eq_true]
    exact fun k hk => by simp [hclear k hk]
  have hfound : (s.group x.g.gid).bind (fun g => (g.path? path.id).map (fun t => (g, t))) = some (x.g, path) := by
    rw [hg, Option.bind_some, hpath, Option.map_some]
  generalize hnow : (s.core (coreOf x.g.part)).cycles = now
  have hexec : exec (.fenceComplete x.g.gid path.id) s = match (if check then x.g.aggFault else none) with
      | some f => .next ((s.takeFault x.g.gid { f with faddr := x.addr }).onGroup x.g.gid (fun g => g.onPath path.id (fun t => t.readied now))).wake
      | none => .next (s.onGroup x.g.gid (fun g => g.onPath path.id (fun t => t.skipWord.readied now))).wake := by
    show execFenceComplete x.g.gid path.id s = _
    unfold execFenceComplete
    rw [hfound]
    dsimp only
    rw [hwait]
    dsimp only
    rw [hx, hdone, hnow]
    cases (if check then x.g.aggFault else none) with
    | none => exact event_due hp rfl
    | some f => exact event_due hp rfl
  rw [hexec]
  refine ⟨fun hlog => ?_, fun hcheck hlog => ⟨FaultInfo.of 0x20, rfl, ?_⟩⟩
  · have hfault : (if check then x.g.aggFault else none) = none := by
      cases check with
      | false => rfl
      | true => exact hnone.mpr (hlog rfl)
    have hafter := Group.path?_onPath x.g path.id (fun t => t.skipWord.readied now) Path.skipWord_id hpath
    obtain ⟨p, hfind, hready, hpast⟩ := State.path?_woken (s.onGroup x.g.gid (fun g => g.onPath path.id (fun t => t.skipWord.readied now))) hafter
    rw [hfault]
    have hgroup := State.group_onGroup_same s x.g.gid (fun g => g.onPath path.id (fun t => t.skipWord.readied now)) (fun _ => rfl) hg
    exact ⟨_, _, p, rfl, State.group_wake hgroup, hfind, hready rfl, hpast x (Path.skipWord_past hx)⟩
  · obtain ⟨f, hf⟩ := Option.ne_none_iff_exists'.mp fun hno => hlog (hnone.mp hno)
    cases hsome f hf
    obtain ⟨⟨c, hc⟩, hlive⟩ := State.takeFault_spec s { FaultInfo.of 0x20 with faddr := x.addr } hg
    rw [if_pos hcheck, hf]
    have hgroup := State.group_onGroup_same _ x.g.gid (fun g => g.onPath path.id (fun t => t.readied now)) (fun _ => rfl) hc
    exact ⟨_, _, rfl, State.group_wake hgroup, rfl, rfl, hlive⟩

end Sys2Proof.Machine

namespace Sys2Proof.Proofs.ConsistencyRules

open Sys2Proof.Machine

/-- Settles O21: a fence and FLUSHAGG.wait are departures and then one wait; FENCE_COMPLETE takes the path past the fence. -/
theorem fencesAndFlush : Obligations.FencesAndFlush := by
  unfold Obligations.FencesAndFlush
  refine ⟨fun q sc s x his hr => ⟨fun hsc hpoll => ?_, ?_, flushagg_completes his hr,
    fun a ha => s.fenceStart_access x _ ha, fun a ha => s.fenceStart_seen x _ ha, fun b hb hcore hentry hscope => ?_⟩,
    fun s g path ids scope check x => fenceComplete_runs⟩
  · refine fence_runs his (s.fenceStart_departs x _) ?_
    rw [exec_fence, bareWord_run his hr (decide_eq_true hsc)]
    simp only [Group.pollWait, hpoll, Option.map_none]
  · exact fence_runs his (s.flushAgg_departs x) (bareWord_run his hr rfl _)
  · refine s.fenceStart_buffer x _ hb hcore hentry ?_
    rcases hscope with rfl | ⟨rfl, hdev⟩
    · exact .inl rfl
    · exact .inr ⟨rfl, hdev⟩

end Sys2Proof.Proofs.ConsistencyRules

/-! PROOFS. Consistency rules: the words that issue an engine request (O23). -/

namespace Sys2Proof.Machine

/-! ### Words that change their own group -/

/-- A word whose effect changes its group by `F`, and no memory, completes; what else its effect left stands in the state after it. -/
theorem completes_changing {s T : State} {x : Ix} {c : Cost} {P : State → Group → Prop} (hs : s.issuer = some x) (F : Group → Group)
    (hF : ∀ g, (F g).gid = g.gid) (hpaths : (F x.g).paths = x.g.paths) (hmem : SameMem s T) (hT : T.groups = (s.onGroup x.g.gid F).groups)
    (hP : ∀ g, g.sameBut (F x.g) → Aside s ((T.spendCycles x c).retire x none) x.g.gid → P ((T.spendCycles x c).retire x none) g) :
    Completes (.next (s.finish x (.done T c))) x P := by
  obtain ⟨_, hg, _⟩ := State.issuer_spec hs
  refine completes_done hs ((State.group_congr hT _).trans (State.group_onGroup_same s x.g.gid F hF hg)) hpaths fun g hbut =>
    hP g hbut (aside_finish hmem (fun h hh => ?_) c none)
  rw [State.group_congr hT, State.group_onGroup_other s F hF hh]

/-! ### s registers marked empty (R166) -/

theorem Group.sEmptyAt_markS (g : Group) {r j : Nat} (hr : r < 64) (ticket : Bool) :
    (g.markS r ticket).sEmptyAt j = (g.sEmptyAt j || decide (r = j)) := by
  have hbit : (2 ^ r % 2 ^ 64).testBit j = decide (r = j) := by
    rw [Nat.mod_eq_of_lt (Nat.pow_lt_pow_right (by omega) hr), Nat.testBit_two_pow]
  unfold Group.sEmptyAt Group.markS dw
  dsimp only
  rw [BitVec.toNat_or, BitVec.toNat_ofNat, Nat.testBit_or, hbit]

/-! ### Requests in the copy request slot (R133, R134, R241) -/

theorem State.own_shape (s : State) (t : Xfer) : ∃ cs, s.own t = { s with cores := cs } :=
  foldl_keep (fun s p => s.ownLines (s.pieceDests t p)) (fun s t => ∃ cs, t = { s with cores := cs }) (fun s => ⟨s.cores, rfl⟩)
    (by rintro s _ _ ⟨_, rfl⟩ ⟨cs, rfl⟩; exact ⟨cs, rfl⟩) (fun s p => s.ownLines_shape _) t.rest s

/-- The state with a group's request in its copy request slot, its lines owned and its ticket empty. -/
def State.enqueue (s : State) (x : Ix) (t : BitVec 6) (q : EngReq) : State :=
  (State.named { s.own (s.queuedXfer x q) with xfers := s.xfers ++ [s.queuedXfer x q] }).onGroup x.g.gid (fun g => g.markS t.toNat true)

theorem State.enqueue_spec (s : State) (x : Ix) (t : BitVec 6) (q : EngReq) : SameMem s (s.enqueue x t q)
    ∧ (s.enqueue x t q).groups = (s.onGroup x.g.gid (fun g => g.markS t.toNat true)).groups
    ∧ (s.enqueue x t q).xfers = s.xfers ++ [s.queuedXfer x q] := by
  obtain ⟨cs, hown⟩ := s.own_shape (s.queuedXfer x q)
  unfold State.enqueue
  rw [hown]
  exact ⟨⟨rfl, rfl, rfl, rfl⟩, rfl, rfl⟩

/-- The words on engine requests, run: they wait for room in the slot, then for the group's earlier accesses; then the request is checked. -/
def State.engRes (s : State) (x : Ix) (t : BitVec 6) (q : EngReq) (fault : Option FaultInfo) : Res :=
  if !s.copyRoom x.g.gid then .wait s .copySlot
  else if s.outstanding x.g x.path.id || x.g.polling.isSome then .wait s (.order true)
  else match fault with
    | some f => .trap f
    | none => .done (s.enqueue x t q) Cost.alone

section
variable {s : State} {x : Ix} (t : BitVec 6) (q : EngReq) (fault : Option FaultInfo)

theorem State.engRes_noRoom (h : s.copyRoom x.g.gid = false) : s.engRes x t q fault = .wait s .copySlot := if_pos (by rw [h]; rfl)

theorem State.engRes_outstanding (hroom : s.copyRoom x.g.gid = true) (h : s.outstanding x.g x.path.id = true ∨ x.g.polling ≠ none) :
    s.engRes x t q fault = .wait s (.order true) :=
  (if_neg (by simp [hroom])).trans (if_pos (by rw [Bool.or_eq_true, Option.isSome_iff_ne_none]; exact h))

section
variable (hroom : s.copyRoom x.g.gid = true) (hout : s.outstanding x.g x.path.id = false) (hpoll : x.g.polling = none)
include hroom hout hpoll

theorem State.engRes_fault (f : FaultInfo) : s.engRes x t q (some f) = .trap f :=
  (if_neg (by simp [hroom])).trans (if_neg (by simp [hout, hpoll]))

theorem State.engRes_done : s.engRes x t q none = .done (s.enqueue x t q) Cost.alone :=
  (if_neg (by simp [hroom])).trans (if_neg (by simp [hout, hpoll]))

end

end

section
variable {s : State} {x : Ix} {t r : BitVec 6} {k : Option (BitVec 6)} {opcode fn reads : Nat} {check : State → Ix → EngReq → Option FaultInfo}

theorem engWord_run (his : Issues s x) (hrange : r.toNat ≤ 60) (hr : ScalarReady x {} (engReads r k reads ++ [t.toNat])) :
    s.engWord t r k opcode fn reads check
      = .next (s.finish x (s.engRes x t (x.engReq t r k opcode fn reads) (check s x (x.engReq t r k opcode fn reads)))) := by
  have hregs : ((engReads r k reads).map (fun i => (i, 3))).map (fun r : Nat × Nat => r.1) = engReads r k reads := by
    rw [List.map_map]
    exact List.map_id _
  unfold State.engWord
  rw [word_run his, State.scalarWord_run s _ (decide_eq_true hrange) (by rw [hregs]; exact hr)]
  rfl

/-- A request that no fault stops: it stands at the end of the slot as its registers give it, and its ticket is empty. -/
theorem engRes_completes (his : Issues s x) (hreads : reads = 2 ∨ reads = 4) (hroom : s.copyRoom x.g.gid = true)
    (hout : s.outstanding x.g x.path.id = false) (hpoll : x.g.polling = none) :
    Completes (.next (s.finish x (s.engRes x t (x.engReq t r k opcode fn reads) none))) x (fun u g => Aside s u x.g.gid
      ∧ (∃ e, u.xfers = s.xfers ++ [e] ∧ e.gid = x.g.gid ∧ e.vf = x.g.vf ∧ e.st = .queued ∧ e.bytes = 0 ∧ e.req.opcode = opcode
          ∧ e.req.fn = fn ∧ e.req.tkt = t.toNat ∧ e.req.r0 = x.g.sreg r.toNat ∧ e.req.r1 = x.g.sreg (r.toNat + 1)
          ∧ (reads = 4 → e.req.r2 = x.g.sreg (r.toNat + 2) ∧ e.req.r3 = x.g.sreg (r.toNat + 3))
          ∧ ∀ j, k = some j → e.req.task = x.g.sreg j.toNat)
      ∧ g = { x.g with sEmpty := g.sEmpty, sTicket := g.sTicket, paths := g.paths } ∧ g.sEmptyAt t.toNat = true
      ∧ ∀ j, j < 64 → j ≠ t.toNat → g.sEmptyAt j = x.g.sEmptyAt j) := by
  obtain ⟨hmem, hgroups, hxfers⟩ := s.enqueue_spec x t (x.engReq t r k opcode fn reads)
  rw [State.engRes_done t _ hroom hout hpoll]
  generalize s.enqueue x t (x.engReq t r k opcode fn reads) = T at hmem hgroups hxfers ⊢
  refine completes_changing his.2.1 (fun g => g.markS t.toNat true) (fun _ => rfl) rfl hmem hgroups fun g hbut haside => ?_
  have hempty (j : Nat) : g.sEmptyAt j = (x.g.sEmptyAt j || decide (t.toNat = j)) := by
    rw [hbut]
    exact x.g.sEmptyAt_markS t.isLt true
  refine ⟨haside, ⟨s.queuedXfer x (x.engReq t r k opcode fn reads), by simp [hxfers], rfl, rfl, rfl, rfl, rfl, rfl, rfl, if_pos (by omega),
    if_pos (by omega), fun h4 => ⟨if_pos (by omega), if_pos (by omega)⟩, fun j hj => by subst hj; rfl⟩, ?_, by simp [hempty],
    fun j _ hj => by simp [hempty, Ne.symm hj]⟩
  rw [hbut]
  rfl

/-- A word on a request, by its meaning. -/
theorem engWord_issues {i : Instr} (his : Issues s x) (hr : ScalarReady x {} (engReads r k reads ++ [t.toNat])) (hrange : r.toNat ≤ 60)
    (hreads : reads = 2 ∨ reads = 4) (hi : exec i s = s.engWord t r k opcode fn reads check) :
    (s.copyRoom x.g.gid = false → Waits (exec i s) x .copySlot)
    ∧ (s.copyRoom x.g.gid = true → (s.outstanding x.g x.path.id = true ∨ x.g.polling ≠ none) → Waits (exec i s) x (.order true))
    ∧ (s.copyRoom x.g.gid = true → s.outstanding x.g x.path.id = false → x.g.polling = none →
      (∀ f, check s x (x.engReq t r k opcode fn reads) = some f → FaultsWith (exec i s) x f)
      ∧ (check s x (x.engReq t r k opcode fn reads) = none → Completes (exec i s) x (fun u g => Aside s u x.g.gid
          ∧ (∃ e, u.xfers = s.xfers ++ [e] ∧ e.gid = x.g.gid ∧ e.vf = x.g.vf ∧ e.st = .queued ∧ e.bytes = 0 ∧ e.req.opcode = opcode
              ∧ e.req.fn = fn ∧ e.req.tkt = t.toNat ∧ e.req.r0 = x.g.sreg r.toNat ∧ e.req.r1 = x.g.sreg (r.toNat + 1)
              ∧ (reads = 4 → e.req.r2 = x.g.sreg (r.toNat + 2) ∧ e.req.r3 = x.g.sreg (r.toNat + 3))
              ∧ ∀ j, k = some j → e.req.task = x.g.sreg j.toNat)
          ∧ g = { x.g with sEmpty := g.sEmpty, sTicket := g.sTicket, paths := g.paths } ∧ g.sEmptyAt t.toNat = true
          ∧ ∀ j, j < 64 → j ≠ t.toNat → g.sEmptyAt j = x.g.sEmptyAt j))) := by
  rw [hi, engWord_run his hrange hr]
  refine ⟨fun hroom => ?_, fun hroom hwait => ?_, fun hroom hout hpoll => ⟨fun f hf => ?_, fun hok => ?_⟩⟩
  · rw [State.engRes_noRoom t _ _ hroom]
    exact wait_waits his.2.1 .copySlot
  · rw [State.engRes_outstanding t _ _ hroom hwait]
    exact wait_waits his.2.1 (.order true)
  · rw [hf, State.engRes_fault t _ hroom hout hpoll]
    exact trap_faults his.2.1 f
  · rw [hok]
    exact engRes_completes his hreads hroom hout hpoll

end

end Sys2Proof.Machine

namespace Sys2Proof.Proofs.ConsistencyRules

open Sys2Proof.Machine

/-- Settles O23: the nine words are one word with different registers and checks. -/
theorem engineRequests : Obligations.EngineRequests := by
  unfold Obligations.EngineRequests
  intro t r k hrange
  have issues {i : Instr} {k : Option (BitVec 6)} {opcode fn reads : Nat} {check : State → Ix → EngReq → Option FaultInfo}
      (hreads : reads = 2 ∨ reads = 4) (hi : ∀ s, exec i s = s.engWord t r k opcode fn reads check) (s : State) (x : Ix) (his : Issues s x)
      (hr : ScalarReady x {} (engReads r k reads ++ [t.toNat])) := engWord_issues his hr hrange hreads (hi s)
  exact ⟨issues (.inr rfl) fun _ => rfl, issues (.inr rfl) fun _ => rfl, issues (.inr rfl) fun _ => rfl, issues (.inr rfl) fun _ => rfl,
    issues (.inl rfl) fun _ => rfl, issues (.inr rfl) fun _ => rfl, issues (.inr rfl) fun _ => rfl, issues (.inr rfl) fun _ => rfl,
    issues (.inr rfl) fun _ => rfl⟩

end Sys2Proof.Proofs.ConsistencyRules

/-! PROOFS. Consistency rules: the TARM forms (O27). -/

namespace Sys2Proof.Machine

/-! ### Numbers in two's complement (R62) -/

/-- A number in the range of a type is the value of its own pattern. -/
theorem toSigned_ofSigned {n : Nat} {i : Int} (hn : 0 < n) (hlo : -(2 ^ (n - 1) : Int) ≤ i) (hhi : i < 2 ^ (n - 1)) :
    toSigned n (ofSigned n i) = i := by
  obtain ⟨k, rfl⟩ := Nat.exists_eq_succ_of_ne_zero hn.ne'
  have hpow : ((2 ^ (k + 1) : Nat) : Int) = 2 * 2 ^ k := by push_cast; ring
  have hpos : (0 : Int) < 2 ^ k := by positivity
  have hk : ((2 ^ k : Nat) : Int) = 2 ^ k := by push_cast; rfl
  simp only [Nat.succ_eq_add_one, Nat.add_sub_cancel] at hlo hhi
  unfold toSigned ofSigned
  simp only [Nat.succ_eq_add_one, Nat.add_sub_cancel]
  have hint : (2 : Int) ^ (k + 1) = ((2 ^ (k + 1) : Nat) : Int) := by push_cast; rfl
  rw [hint]
  generalize hM : (2 ^ (k + 1) : Nat) = M at hpow
  generalize hH : (2 ^ k : Nat) = H at hk
  rw [← hk] at hlo hhi hpos hpow
  rcases lt_or_ge i 0 with hneg | hneg
  · have hmod : i % (M : Int) = i + M := by
      rw [← Int.add_emod_right, Int.emod_eq_of_lt (by omega) (by omega)]
    rw [hmod, Nat.mod_eq_of_lt (by omega), if_neg (by omega)]
    omega
  · have hmod : i % (M : Int) = i := Int.emod_eq_of_lt hneg (by omega)
    rw [hmod, Nat.mod_eq_of_lt (by omega), if_pos (by omega)]
    omega

theorem toSigned_range {n : Nat} (hn : 0 < n) (v : Nat) : -(2 ^ (n - 1) : Int) ≤ toSigned n v ∧ toSigned n v < 2 ^ (n - 1) := by
  obtain ⟨k, rfl⟩ := Nat.exists_eq_succ_of_ne_zero hn.ne'
  have hpow : ((2 ^ (k + 1) : Nat) : Int) = 2 * 2 ^ k := by push_cast; ring
  have hk : ((2 ^ k : Nat) : Int) = 2 ^ k := by push_cast; rfl
  have hlt : v % 2 ^ (k + 1) < 2 ^ (k + 1) := Nat.mod_lt _ (by positivity)
  have hint : (2 : Int) ^ (k + 1) = ((2 ^ (k + 1) : Nat) : Int) := by push_cast; rfl
  unfold toSigned
  simp only [Nat.succ_eq_add_one, Nat.add_sub_cancel]
  rw [hint]
  generalize v % 2 ^ (k + 1) = r at hlt
  generalize (2 ^ (k + 1) : Nat) = M at hpow hlt
  generalize (2 ^ k : Nat) = H at hk
  rw [← hk] at hpow ⊢
  split <;> omega

theorem ofSigned_lt (n : Nat) (i : Int) : ofSigned n i < 2 ^ n := by
  have hint : (2 : Int) ^ n = ((2 ^ n : Nat) : Int) := by push_cast; rfl
  have hpos : 0 < (2 ^ n : Nat) := by positivity
  unfold ofSigned
  rw [hint]
  generalize (2 ^ n : Nat) = M at hpos
  have := Int.emod_lt_of_pos i (show (0 : Int) < M by omega)
  have := Int.emod_nonneg i (show (M : Int) ≠ 0 by omega)
  omega

/-! ### Fields written one after another -/

/-- The bytes of a list of fields: each a width in bytes and a number. -/
def packFields (fs : List (Nat × Nat)) : List Byte := fs.flatMap fun e => bytesOf e.1 e.2

/-- Their width. -/
def fieldsWidth (fs : List (Nat × Nat)) : Nat := (fs.map fun e => e.1).sum

theorem packFields_length (fs : List (Nat × Nat)) : (packFields fs).length = fieldsWidth fs := by
  simp [packFields, fieldsWidth, List.length_flatMap, bytesOf_length]

/-- A field reads back. -/
theorem readBytes_packFields (m : FMap Byte) (a : Nat) (fs : List (Nat × Nat)) (n v : Nat) (gs : List (Nat × Nat)) :
    readBytes (writeList m a (packFields (fs ++ (n, v) :: gs))) (a + fieldsWidth fs) n = v % 256 ^ n := by
  have h := readBytes_writeList_mid m a (packFields fs) (bytesOf n v) (packFields gs)
  rw [packFields_length, bytesOf_length, numOf_bytesOf] at h
  rwa [packFields, List.flatMap_append, List.flatMap_cons]

/-! ### A task record written reads back (R280) -/

/-- The fields of a record fit their places. -/
structure TaskRec.Fits (t : TaskRec) : Prop where
  counter : -(2 ^ 63 : Int) ≤ t.counter ∧ t.counter < 2 ^ 63
  wait : t.wait < 2 ^ 64
  thrLen : t.thr.length = 4
  thr : ∀ e ∈ t.thr, -(2 ^ 31 : Int) ≤ e ∧ e < 2 ^ 31
  actLen : t.act.length = 4
  act : ∀ e ∈ t.act, e < 2 ^ 64

/-- A record's fields in order. -/
def TaskRec.fields (t : TaskRec) : List (Nat × Nat) :=
  [(8, ofSigned 64 t.counter), (8, t.wait),
   (4, ofSigned 32 (t.thr.getD 0 0)), (4, ofSigned 32 (t.thr.getD 1 0)), (4, ofSigned 32 (t.thr.getD 2 0)), (4, ofSigned 32 (t.thr.getD 3 0)),
   (8, t.act.getD 0 0), (8, t.act.getD 1 0), (8, t.act.getD 2 0), (8, t.act.getD 3 0)]

theorem TaskRec.bytes_eq (t : TaskRec) : t.bytes = packFields t.fields := by
  simp [TaskRec.bytes, TaskRec.fields, packFields, tab, List.range_succ]

/-- What stands at the offsets of a record that has been written. -/
theorem TaskRec.readBytes_bytes (t : TaskRec) (m : FMap Byte) (a : Nat) :
    readBytes (writeList m a t.bytes) a 8 = ofSigned 64 t.counter ∧ readBytes (writeList m a t.bytes) (a + 8) 8 = t.wait % 2 ^ 64
    ∧ (∀ i, i < 4 → readBytes (writeList m a t.bytes) (a + (16 + 4 * i)) 4 = ofSigned 32 (t.thr.getD i 0))
    ∧ ∀ i, i < 4 → readBytes (writeList m a t.bytes) (a + (32 + 8 * i)) 8 = t.act.getD i 0 % 2 ^ 64 := by
  rw [t.bytes_eq]
  have read (fs : List (Nat × Nat)) (n v : Nat) (gs : List (Nat × Nat)) (h : t.fields = fs ++ (n, v) :: gs) :
      readBytes (writeList m a (packFields t.fields)) (a + fieldsWidth fs) n = v % 256 ^ n := by
    rw [h]
    exact readBytes_packFields m a fs n v gs
  have hc := Nat.mod_eq_of_lt (ofSigned_lt 64 t.counter)
  have ht (i : Nat) := Nat.mod_eq_of_lt (ofSigned_lt 32 (t.thr.getD i 0))
  refine ⟨(read [] 8 _ _ rfl).trans hc, read (t.fields.take 1) 8 _ _ rfl, fun i hi => ?_, fun i hi => ?_⟩
  · interval_cases i
    · exact (read (t.fields.take 2) 4 _ _ rfl).trans (ht 0)
    · exact (read (t.fields.take 3) 4 _ _ rfl).trans (ht 1)
    · exact (read (t.fields.take 4) 4 _ _ rfl).trans (ht 2)
    · exact (read (t.fields.take 5) 4 _ _ rfl).trans (ht 3)
  · interval_cases i
    · exact read (t.fields.take 6) 8 _ _ rfl
    · exact read (t.fields.take 7) 8 _ _ rfl
    · exact read (t.fields.take 8) 8 _ _ rfl
    · exact read (t.fields.take 9) 8 _ _ rfl

/-- A place whose bytes stand in HBM or in the scratchpad of a resident block. -/
def State.holds (s : State) (l : Loc) : Prop := (∃ a, l = .hbm a) ∨ ∃ b o, l = .scr b o ∧ s.block b ≠ none

theorem kept64_holds {s : State} {l : Loc} (h : Kept64 s l) : s.holds l := by
  rcases h with ⟨a, rfl, _⟩ | h
  · exact .inl ⟨a, rfl⟩
  · exact .inr h

theorem State.holds_congr {s t : State} {l : Loc} (hb : t.blocks = s.blocks) (h : s.holds l) : t.holds l := by
  unfold State.holds State.block at *
  rwa [hb]

/-- Such a place reads as the bytes of a map. -/
theorem State.readLoc_of_holds {s : State} {l : Loc} (h : s.holds l) :
    ∃ m a, ∀ k n, s.readLoc (l.add k) n = readBytes m (a + k) n := by
  rcases h with ⟨a, rfl⟩ | ⟨b, o, rfl, hb⟩
  · exact ⟨s.hbm, a, fun _ _ => rfl⟩
  · obtain ⟨k, hk⟩ := Option.ne_none_iff_exists'.mp hb
    exact ⟨k.data, o, fun _ n => State.readLoc_of_block hk n⟩

/-- After bytes are written there, it reads as them. -/
theorem State.readLoc_writeLoc_of_holds {s : State} {l : Loc} (h : s.holds l) (bs : List Byte) (core : Option Nat) (vf : Nat) :
    ∃ m a, ∀ k n, (s.writeLoc l bs core vf).readLoc (l.add k) n = readBytes (writeList m a bs) (a + k) n := by
  rcases h with ⟨a, rfl⟩ | ⟨b, o, rfl, hb⟩
  · obtain ⟨_, _, _, _, hw⟩ := s.writeLoc_hbm a bs core vf
    rw [hw]
    exact ⟨_, a, fun _ _ => rfl⟩
  · obtain ⟨k, hk⟩ := Option.ne_none_iff_exists'.mp hb
    have hblock := (State.block_writeLoc_scr (o := o) (s := s) bs core vf b).trans
      (by rw [hk, Option.map_some, if_pos (beq_iff_eq.mpr (State.block_uid hk))])
    exact ⟨k.data, o, fun _ n => State.readLoc_of_block hblock n⟩

theorem Loc.add_zero (l : Loc) : l.add 0 = l := by cases l <;> rfl

theorem tab_getD {α : Type} {l : List α} {n : Nat} (h : l.length = n) (d : α) : tab n (fun i => l.getD i d) = l := by
  subst h
  refine List.ext_getElem (by simp) fun i hi _ => ?_
  rw [tab_length] at hi
  simp [tab, hi]

theorem getD_of_forall {α : Type} {P : α → Prop} {l : List α} (h : ∀ e ∈ l, P e) {i : Nat} (hi : i < l.length) (d : α) : P (l.getD i d) := by
  rw [List.getD_eq_getElem _ _ hi]
  exact h _ (List.getElem_mem hi)

theorem tab_congr {α : Type} {n : Nat} {f g : Nat → α} (h : ∀ i, i < n → f i = g i) : tab n f = tab n g :=
  List.map_congr_left fun i hi => h i (List.mem_range.mp hi)

/-- A record that fits reads back as it was written. -/
theorem State.taskRec_putTask {s : State} {l : Loc} {t : TaskRec} (h : s.holds l) (ht : t.Fits) (vf : Nat) : (s.putTask l t vf).taskRec l = t := by
  obtain ⟨m, a, hread⟩ := State.readLoc_writeLoc_of_holds h t.bytes none vf
  obtain ⟨hc, hw, hthr, hact⟩ := t.readBytes_bytes m a
  have h0 : (s.putTask l t vf).readLoc l 8 = ofSigned 64 t.counter := by
    have := hread 0 8
    rw [Loc.add_zero] at this
    exact this.trans hc
  unfold State.taskRec
  rw [h0, toSigned_ofSigned (by omega) ht.counter.1 ht.counter.2]
  have hwait : (s.putTask l t vf).readLoc (l.add 8) 8 = t.wait := (hread 8 8).trans (hw.trans (Nat.mod_eq_of_lt ht.wait))
  have hthrs : tab 4 (fun i => toSigned 32 ((s.putTask l t vf).readLoc (l.add (16 + 4 * i)) 4)) = t.thr := by
    refine (tab_congr fun i hi => ?_).trans (tab_getD ht.thrLen 0)
    have hrange := getD_of_forall ht.thr (ht.thrLen.symm ▸ hi) 0
    rw [show (s.putTask l t vf).readLoc (l.add (16 + 4 * i)) 4 = _ from (hread _ 4).trans (hthr i hi), toSigned_ofSigned (by omega) hrange.1 hrange.2]
  have hacts : tab 4 (fun i => (s.putTask l t vf).readLoc (l.add (32 + 8 * i)) 8) = t.act := by
    refine (tab_congr fun i hi => ?_).trans (tab_getD ht.actLen 0)
    exact (hread _ 8).trans ((hact i hi).trans (Nat.mod_eq_of_lt (getD_of_forall ht.act (ht.actLen.symm ▸ hi) 0)))
  rw [hwait, hthrs, hacts]

theorem forall_mem_tab {α : Type} {P : α → Prop} {n : Nat} {f : Nat → α} (h : ∀ i, P (f i)) : ∀ e ∈ tab n f, P e := by
  intro e he
  obtain ⟨i, _, rfl⟩ := List.mem_map.mp he
  exact h i

/-- What stands at a record's place fits. -/
theorem State.taskRec_fits {s : State} {l : Loc} (h : s.holds l) : (s.taskRec l).Fits := by
  obtain ⟨m, a, hread⟩ := State.readLoc_of_holds h
  exact ⟨toSigned_range (n := 64) (by omega) _, by rw [State.taskRec, hread]; exact readBytes_lt _ _ _, tab_length _ _,
    forall_mem_tab fun i => toSigned_range (n := 32) (by omega) _, tab_length _ _, forall_mem_tab fun i => by rw [hread]; exact readBytes_lt _ _ _⟩

theorem State.taskRec_congr {s t : State} {l : Loc} (h : s.holds l) (hhbm : t.hbm = s.hbm) (hblocks : t.blocks = s.blocks) :
    t.taskRec l = s.taskRec l := by
  have hread (k n : Nat) : t.readLoc (l.add k) n = s.readLoc (l.add k) n := by
    rcases h with ⟨a, rfl⟩ | ⟨b, o, rfl, hb⟩
    · exact congrArg (fun m => readBytes m (a + k) n) hhbm
    · obtain ⟨j, hj⟩ := Option.ne_none_iff_exists'.mp hb
      have hj' : t.block b = some j := by unfold State.block at *; rwa [hblocks]
      exact (State.readLoc_of_block hj' n).trans (State.readLoc_of_block hj n).symm
  have h0 := hread 0 8
  rw [Loc.add_zero] at h0
  unfold State.taskRec
  simp only [h0, hread]

/-! ### Words on a task record (R138, R279) -/

section
variable {s : State} {x : Ix} {a : BitVec 6} {hasB : Bool} {regs : List Nat} {r : RecLoc} {l : Loc}

/-- A word on a record does what its meaning says when nothing stands in its way. -/
theorem recWord_run (his : Issues s x) (hr : RecReady s x hasB a regs r l) {ss : List (Nat × Nat)} {sd : List Nat}
    (hregs : ss.map (fun r => r.1) ++ sd = regs) {legal : Ix → Bool} (hlegal : legal x = true) (f : State → Ix → RecLoc → Res) :
    s.recWord a ss hasB sd legal true 64 f = .next (s.finish x (f s x r)) := by
  obtain ⟨hscalar, hout, hpoll, hptr, hfree, _, _⟩ := hr
  unfold State.recWord
  rw [word_run his, State.scalarWord_run s _ hlegal (by rw [List.map_cons, List.cons_append, hregs]; exact hscalar), hout, hpoll, hptr]
  show Host.Outcome.next (s.finish x (if (true && !s.recFree r) = true then _ else f s x r)) = _
  rw [hfree]
  rfl

/-- The state in which the access of a record is noted (R104). -/
def State.touchRec (s : State) (r : RecLoc) (l : Loc) : State := match r with | .glob v va => s.touch v va true l | _ => s

theorem State.touchRec_touched (s : State) (r : RecLoc) (l : Loc) : Touched s (s.touchRec r l) := by
  cases r with
  | glob v va => exact s.touch_touched v va true l
  | scr b o => exact touched_refl s
  | phys pa => exact touched_refl s

/-- A TARM form on a record of this device. -/
def State.tarmRes (s : State) (x : Ix) (a : BitVec 6) (r : RecLoc) (l : Loc) (new : Except Nat TaskRec) : Res :=
  if !(s.taskRec l).ok r.isScr then .trap (taskFault 6 (x.g.sreg a.toNat))
  else match new with
    | .error c => .trap (taskFault c (x.g.sreg a.toNat))
    | .ok t => .done ((s.touchRec r l).putTask l t x.g.vf) Cost.alone

theorem tarmWord_run (his : Issues s x) (hr : RecReady s x hasB a regs r l) {ss : List (Nat × Nat)} (hregs : ss.map (fun r => r.1) = regs)
    {legal : Bool} (hlegal : legal = true) (f : Ix → Bool → TaskRec → Except Nat TaskRec) :
    s.tarmWord a ss hasB legal f = .next (s.finish x (s.tarmRes x a r l (f x r.isScr (s.taskRec l)))) := by
  obtain ⟨_, _, _, _, _, hplace, hhere⟩ := id hr
  unfold State.tarmWord
  rw [recWord_run his hr (by rw [List.append_nil]; exact hregs) hlegal]
  dsimp only
  rw [hplace]
  cases l with
  | peer d p => exact absurd rfl (hhere d p)
  | hbm p => rfl
  | host p => rfl
  | scr b o => rfl
  | weight d p => rfl

/-- A task-record fault of a cause. -/
theorem taskFault_faults (his : Issues s x) {o : Host.Outcome State Fault Refusal} {c : Nat} (ptr : Dword)
    (ho : o = .next (s.finish x (.trap (taskFault c ptr)))) : ∃ f, f.code = 0x21 ∧ f.cause = c ∧ FaultsWith o x f :=
  ⟨taskFault c ptr, rfl, rfl, ho ▸ trap_faults his.2.1 _⟩

theorem State.tarmRes_malformed (hbad : (s.taskRec l).ok r.isScr = false) (new : Except Nat TaskRec) :
    s.tarmRes x a r l new = .trap (taskFault 6 (x.g.sreg a.toNat)) := if_pos (by rw [hbad]; rfl)

theorem State.tarmRes_ok (hok : (s.taskRec l).ok r.isScr = true) (t : TaskRec) :
    s.tarmRes x a r l (.ok t) = .done ((s.touchRec r l).putTask l t x.g.vf) Cost.alone := if_neg (by simp [hok])

theorem State.tarmRes_error (hok : (s.taskRec l).ok r.isScr = true) (c : Nat) :
    s.tarmRes x a r l (.error c) = .trap (taskFault c (x.g.sreg a.toNat)) := if_neg (by simp [hok])

/-- A TARM form that changes the record. -/
theorem tarmRes_completes (his : Issues s x) (hl : s.holds l) (hok : (s.taskRec l).ok r.isScr = true) {t : TaskRec} (ht : t.Fits) :
    Completes (.next (s.finish x (s.tarmRes x a r l (.ok t)))) x (fun u g => u.taskRec l = t
      ∧ g = { x.g with paths := g.paths } ∧ ∀ h, h ≠ x.g.gid → u.group h = s.group h) := by
  obtain ⟨_, hg, _⟩ := State.issuer_spec his.2.1
  have htouched := s.touchRec_touched r l
  rw [State.tarmRes_ok hok]
  generalize s.touchRec r l = m at htouched ⊢
  have hgroups : (m.putTask l t x.g.vf).groups = s.groups := by
    obtain ⟨_, _, _, _, _, _, _, rfl⟩ := htouched
    exact State.writeLoc_groups _ _ _ _ _
  have hholds : m.holds l := State.holds_congr (by obtain ⟨_, _, _, _, _, _, _, rfl⟩ := htouched; rfl) hl
  have hafter : (m.putTask l t x.g.vf).holds l := by
    rcases hholds with ⟨p, rfl⟩ | ⟨b, o, rfl, hb⟩
    · exact .inl ⟨p, rfl⟩
    · refine .inr ⟨b, o, rfl, fun hno => hb ?_⟩
      have hblock := State.block_writeLoc_scr (b := b) (o := o) (s := m) t.bytes none x.g.vf b
      exact Option.map_eq_none_iff.mp (hblock.symm.trans hno)
  refine completes_done his.2.1 ((State.group_congr hgroups _).trans hg) rfl fun g hbut => ⟨?_, hbut, fun h hh => ?_⟩
  · exact (State.taskRec_congr hafter (by simp) (by simp)).trans (State.taskRec_putTask hholds ht x.g.vf)
  · rw [State.retire_other _ x none hh, State.group_congr (State.spendCycles_groups _ x _), State.group_congr hgroups]

end

/-! ### The records that the forms leave (R281, R283) -/

theorem actArm_iff (w : Nat) : actArm w = true ↔ w / 2 ^ 61 % 2 = 1 := by
  rw [actArm, Nat.testBit_eq_decide_div_mod_eq, decide_eq_true_eq]

/-- The actions of a record disarmed. -/
def disarmed (act : List Nat) : List Nat := act.map fun w => if actArm w then w - 2 ^ 61 else w

theorem disarmed_fits {act : List Nat} (hlen : act.length = 4) (h : ∀ e ∈ act, e < 2 ^ 64) :
    (disarmed act).length = 4 ∧ ∀ e ∈ disarmed act, e < 2 ^ 64 := by
  refine ⟨(List.length_map _).trans hlen, fun e he => ?_⟩
  obtain ⟨w, hw, rfl⟩ := List.mem_map.mp he
  have := h w hw
  split <;> omega

/-- A slot armed after fewer than four others. -/
theorem TaskRec.fits_armed {t : TaskRec} (ht : t.Fits) {i : Nat} {thr : Int} (hthr : -(2 ^ 31 : Int) ≤ thr ∧ thr < 2 ^ 31) {w n : Nat}
    (hw : w < 2 ^ 64) (harm : actArm w = false) (hord : actOrd w = 0) (hn : n ≤ 3) :
    ({ t with thr := t.thr.set i thr, act := t.act.set i (w + 2 ^ 61 + n * 2 ^ 59) } : TaskRec).Fits := by
  have hbit : w / 2 ^ 61 % 2 = 0 := by
    have := mt (actArm_iff w).mpr (by simp [harm])
    omega
  have hfield : w / 2 ^ 59 % 2 ^ 2 = 0 := hord
  refine ⟨ht.counter, ht.wait, (List.length_set ..).trans ht.thrLen, fun e he => ?_, (List.length_set ..).trans ht.actLen, fun e he => ?_⟩
  · rcases List.mem_or_eq_of_mem_set he with he | rfl
    · exact ht.thr e he
    · exact hthr
  · rcases List.mem_or_eq_of_mem_set he with he | rfl
    · exact ht.act e he
    · omega

/-- With a slot free, fewer than four are armed. -/
theorem countP_armed_le {act : List Nat} (hlen : act.length = 4) {i : Nat} (hi : i < 4) (h : actArm (act.getD i 0) = false) :
    act.countP actArm ≤ 3 := by
  have hlt : act.countP actArm < act.length := by
    refine lt_of_le_of_ne List.countP_le_length fun heq => ?_
    have hall := List.countP_eq_length.mp heq
    have := getD_of_forall hall (i := i) (by omega) 0
    rw [h] at this
    cases this
  omega

/-- What TARM makes of a record, or the cause of its fault (R283). -/
def Ix.tarmNew (x : Ix) (b : BitVec 6) (scr : Bool) (t : TaskRec) : Except Nat TaskRec :=
  let w := (x.g.sreg b.toNat).toNat
  let thr := toSigned 64 (x.g.sreg (b.toNat + 1)).toNat
  if thr < -(2 ^ 31 : Int) || (2 ^ 31 : Int) ≤ thr || actArm w || actOrd w ≠ 0 || !actOk scr w then .error 3
  else match (List.range 4).find? (fun i => !actArm (t.act.getD i 0)) with
    | none => .error 2
    | some i => .ok { t with thr := t.thr.set i thr, act := t.act.set i (w + 2 ^ 61 + at' (t.act.countP actArm) 59) }

theorem exec_tarm (a b : BitVec 6) (s : State) :
    exec (.tarm a b) s = s.tarmWord a [(b.toNat, 1), (b.toNat + 1, 3)] true (b.toNat % 2 == 0) (fun x scr t => x.tarmNew b scr t) := rfl

/-- An action and threshold that TARM accepts. -/
def TarmGood (scr : Bool) (w : Nat) (thr : Int) : Prop :=
  -(2 ^ 31 : Int) ≤ thr ∧ thr < 2 ^ 31 ∧ actArm w = false ∧ actOrd w = 0 ∧ actOk scr w = true

section
variable {x : Ix} {b : BitVec 6} {scr : Bool} {t : TaskRec}

theorem Ix.tarmNew_eq_of_good (h : TarmGood scr (x.g.sreg b.toNat).toNat (toSigned 64 (x.g.sreg (b.toNat + 1)).toNat)) : x.tarmNew b scr t = match (List.range 4).find? (fun i => !actArm (t.act.getD i 0)) with
    | none => .error 2
    | some i => .ok { t with thr := t.thr.set i (toSigned 64 (x.g.sreg (b.toNat + 1)).toNat),
                             act := t.act.set i ((x.g.sreg b.toNat).toNat + 2 ^ 61 + at' (t.act.countP actArm) 59) } := by
  obtain ⟨hlo, hhi, harm, hord, hok⟩ := h
  refine if_neg ?_
  rw [harm, hok]
  simp only [hord, ne_eq, not_true_eq_false, decide_false, Bool.or_false, Bool.not_true, Bool.or_eq_true, decide_eq_true_eq]
  omega

theorem Ix.tarmNew_bad (h : ¬TarmGood scr (x.g.sreg b.toNat).toNat (toSigned 64 (x.g.sreg (b.toNat + 1)).toNat)) : x.tarmNew b scr t = .error 3 := by
  refine if_pos ?_
  by_contra hno
  simp only [Bool.or_eq_true, decide_eq_true_eq, Bool.not_eq_true', not_or, not_lt, not_le, Bool.not_eq_true, Bool.not_eq_false, not_not] at hno
  obtain ⟨⟨⟨⟨hlo, hhi⟩, harm⟩, hord⟩, hok⟩ := hno
  exact h ⟨hlo, hhi, harm, hord, hok⟩

theorem Ix.tarmNew_full (h : TarmGood scr (x.g.sreg b.toNat).toNat (toSigned 64 (x.g.sreg (b.toNat + 1)).toNat)) (hall : ∀ i, i < 4 → actArm (t.act.getD i 0) = true) : x.tarmNew b scr t = .error 2 := by
  have hnone : (List.range 4).find? (fun i => !actArm (t.act.getD i 0)) = none :=
    List.find?_eq_none.mpr fun i hi => by rw [hall i (List.mem_range.mp hi)]; exact Bool.false_ne_true
  rw [Ix.tarmNew_eq_of_good h, hnone]

theorem Ix.tarmNew_slot (h : TarmGood scr (x.g.sreg b.toNat).toNat (toSigned 64 (x.g.sreg (b.toNat + 1)).toNat)) {i : Nat} (hi : i < 4) (hfree : actArm (t.act.getD i 0) = false)
    (hbefore : ∀ j, j < i → actArm (t.act.getD j 0) = true) :
    x.tarmNew b scr t = .ok { t with thr := t.thr.set i (toSigned 64 (x.g.sreg (b.toNat + 1)).toNat),
                                     act := t.act.set i ((x.g.sreg b.toNat).toNat + 2 ^ 61 + t.act.countP actArm * 2 ^ 59) } := by
  have hsome : (List.range 4).find? (fun i => !actArm (t.act.getD i 0)) = some i :=
    List.find?_range_eq_some.mpr ⟨by rw [hfree]; rfl, List.mem_range.mpr hi, fun j hj => by rw [hbefore j hj]; rfl⟩
  rw [Ix.tarmNew_eq_of_good h, hsome]
  rfl

end

/-- What TARM.init makes of a record, or the cause of its fault (R283). -/
def Ix.tarmInitNew (x : Ix) (b : BitVec 6) (k : BitVec 1) (t : TaskRec) : Except Nat TaskRec :=
  if field t.wait 58 40 ≠ 0 then .error 5
  else .ok { t with counter := toSigned 64 (x.g.sk k b).toNat, act := disarmed t.act }

theorem Ix.tarmInitNew_waiting {x : Ix} {b : BitVec 6} {k : BitVec 1} {t : TaskRec} (h : t.wait / 2 ^ 40 % 2 ^ 19 ≠ 0) :
    x.tarmInitNew b k t = .error 5 := if_pos h

theorem Ix.tarmInitNew_free {x : Ix} {b : BitVec 6} {k : BitVec 1} {t : TaskRec} (h : t.wait / 2 ^ 40 % 2 ^ 19 = 0) :
    x.tarmInitNew b k t = .ok { t with counter := toSigned 64 (x.g.sk k b).toNat, act := disarmed t.act } := if_neg (not_not.mpr h)

theorem exec_tarmInit (a b : BitVec 6) (k : BitVec 1) (s : State) :
    exec (.tarmInit a b k) s = s.tarmWord a (skRead k b) true true (fun x _ t => x.tarmInitNew b k t) := rfl

theorem exec_tarmClr (a : BitVec 6) (s : State) :
    exec (.tarmClr a) s = s.tarmWord a [] false true (fun _ _ t => .ok { t with act := disarmed t.act }) := rfl

theorem TaskRec.fits_disarmed {t : TaskRec} (ht : t.Fits) : ({ t with act := disarmed t.act } : TaskRec).Fits :=
  have ⟨hlen, hact⟩ := disarmed_fits ht.actLen ht.act
  ⟨ht.counter, ht.wait, ht.thrLen, ht.thr, hlen, hact⟩

theorem TaskRec.fits_init {t : TaskRec} (ht : t.Fits) (v : Dword) : ({ t with counter := toSigned 64 v.toNat, act := disarmed t.act } : TaskRec).Fits :=
  have ⟨hlen, hact⟩ := disarmed_fits ht.actLen ht.act
  ⟨toSigned_range (n := 64) (by omega) _, ht.wait, ht.thrLen, ht.thr, hlen, hact⟩

/-- A 64-bit word's value in two's complement. -/
theorem toSigned_eq_toInt (v : Dword) : toSigned 64 v.toNat = v.toInt := by
  have := v.isLt
  unfold toSigned
  rw [BitVec.toInt_eq_toNat_cond, Nat.mod_eq_of_lt this]
  split <;> split <;> omega

end Sys2Proof.Machine

namespace Sys2Proof.Proofs.ConsistencyRules

open Sys2Proof.Machine

/-- Settles O27: the three forms read the record and then change it or fault; what they write fits a record and so reads back. -/
theorem arming : Obligations.Arming := by
  unfold Obligations.Arming
  intro a b k s x r l his hkept
  dsimp only
  have hholds := kept64_holds hkept
  have hfits := State.taskRec_fits hholds
  have harm (hr : RecReady s x true a [b.toNat, b.toNat + 1] r l) (heven : b.toNat % 2 = 0) : exec (.tarm a b) s
      = .next (s.finish x (s.tarmRes x a r l (x.tarmNew b r.isScr (s.taskRec l)))) := 
    (exec_tarm a b s).trans (tarmWord_run his hr rfl (by rw [heven]; rfl) _)
  have hclr (hr : RecReady s x false a [] r l) : exec (.tarmClr a) s
      = .next (s.finish x (s.tarmRes x a r l (.ok { s.taskRec l with act := disarmed (s.taskRec l).act }))) :=
    (exec_tarmClr a s).trans (tarmWord_run his hr rfl rfl _)
  have hinit (hr : RecReady s x true a (skRegs k b) r l) : exec (.tarmInit a b k) s
      = .next (s.finish x (s.tarmRes x a r l (x.tarmInitNew b k (s.taskRec l)))) :=
    (exec_tarmInit a b k s).trans (tarmWord_run his hr (by unfold skRead skRegs; split <;> rfl) rfl _)
  refine ⟨fun hbad => ⟨fun heven hr => ?_, fun hr => ?_, fun hr => ?_⟩, fun hok heven hr => ⟨fun hgood => ?_, fun hgood hall => ?_, fun i hgood hi hfree hbefore => ?_⟩,
    fun hok hr => ?_, fun hok hr => ⟨fun hwait => ?_, fun hwait => ?_⟩⟩
  · exact taskFault_faults his _ ((harm hr heven).trans (by rw [State.tarmRes_malformed hbad]))
  · exact taskFault_faults his _ ((hclr hr).trans (by rw [State.tarmRes_malformed hbad]))
  · exact taskFault_faults his _ ((hinit hr).trans (by rw [State.tarmRes_malformed hbad]))
  · exact taskFault_faults his _ ((harm hr heven).trans (by rw [Ix.tarmNew_bad hgood, State.tarmRes_error hok]))
  · exact taskFault_faults his _ ((harm hr heven).trans (by rw [Ix.tarmNew_full hgood hall, State.tarmRes_error hok]))
  · rw [harm hr heven, Ix.tarmNew_slot hgood hi hfree hbefore]
    obtain ⟨hlo, hhi, harmed, hord, _⟩ := hgood
    exact tarmRes_completes his hholds hok (TaskRec.fits_armed hfits ⟨hlo, hhi⟩ (x.g.sreg b.toNat).isLt harmed hord (countP_armed_le hfits.actLen hi hfree))
  · rw [hclr hr]
    exact tarmRes_completes his hholds hok (TaskRec.fits_disarmed hfits)
  · exact taskFault_faults his _ ((hinit hr).trans (by rw [Ix.tarmInitNew_waiting hwait, State.tarmRes_error hok]))
  · rw [hinit hr, Ix.tarmInitNew_free hwait, ← toSigned_eq_toInt]
    exact tarmRes_completes his hholds hok (TaskRec.fits_init hfits _)

end Sys2Proof.Proofs.ConsistencyRules

/-! PROOFS. Consistency rules: POLL, TSPAWN and the spawn queue (O29). -/

namespace Sys2Proof.Machine

/-! ### POLL (R286) -/

section
variable {s : State} {x : Ix} (d a b : BitVec 6) (k : BitVec 1)

/-- The group once its POLL is on its way. -/
def Group.pollBegun (d : Nat) (g : Group) : Group := { g.markS d false with polling := some d }

/-- The load of a POLL issues, or its value is on its way at once. -/
theorem State.issueLoad_poll (u : State) (x : Ix) {l : Loc} (hl : ∀ e p, l ≠ .peer e p) (va : Nat) (reg : Nat) (cmp : Dword) (before : List Access) :
    (u.issueLoad x l va 8 [] (.poll reg cmp) false before false).groups = u.groups
    ∧ (InFlight (u.issueLoad x l va 8 [] (.poll reg cmp) false before false) x.g.gid .load l 8 (fun e => e.dest = .poll reg cmp)
      ∨ ∃ f ∈ (u.issueLoad x l va 8 [] (.poll reg cmp) false before false).fills, f.gid = x.g.gid ∧ ∃ v, f.items = [.poll reg (dw v) cmp]) := by
  have fly (t : State) (h : t.groups = u.groups) : (t.fly x .load l va 8 [] (.poll reg cmp) false before false).groups = u.groups
      ∧ (InFlight (t.fly x .load l va 8 [] (.poll reg cmp) false before false) x.g.gid .load l 8 (fun e => e.dest = .poll reg cmp)
        ∨ ∃ f ∈ (t.fly x .load l va 8 [] (.poll reg cmp) false before false).fills, f.gid = x.g.gid ∧ ∃ v, f.items = [.poll reg (dw v) cmp]) :=
    ⟨h, .inl ⟨_, List.mem_append_right _ List.mem_cons_self, rfl, rfl, rfl, rfl, rfl⟩⟩
  have touched (t : State) (h : Touched u t) : t.groups = u.groups := by
    obtain ⟨_, _, _, _, _, _, _, rfl⟩ := h
    rfl
  cases l with
  | scr c o => exact fly u rfl
  | peer e p => exact absurd rfl (hl e p)
  | hbm p => exact fly _ (touched _ (u.touch_touched _ _ _ _))
  | host p => exact fly _ (touched _ (u.touch_touched _ _ _ _))
  | weight e p =>
    unfold State.issueLoad
    dsimp only
    split
    · exact fly u rfl
    · exact ⟨rfl, .inr ⟨_, List.mem_append_right _ List.mem_cons_self, rfl, _, rfl⟩⟩

/-- Where a POLL's word lies, or why not. -/
def State.pollPlace (s : State) (r : RecLoc) : AccRes :=
  match r with
  | .scr b o => .at_ (.scr b o)
  | .glob vf va => s.access vf va false 8
  | .phys _ => .miss false

/-- What POLL does of a record at a place of this device. -/
def State.pollRes (s : State) (x : Ix) (r : RecLoc) : Res :=
  match s.pollPlace r with
  | .fault code cause => .trap { FaultInfo.with code cause with daddr := r.va }
  | .miss dp => s.recMiss x r dp false [d.toNat]
  | .at_ (.peer dev pa) =>
    .done (((s.onGroup x.g.gid (Group.pollBegun d.toNat)).named.touch x.g.vf r.va false (.peer dev pa)).sendReads x.g.vf (coreOf x.p)
      [s.peerAccess x 0 .load (.peer dev pa) r.va 8 [] (.poll d.toNat (x.g.sk k b)) false]) Cost.alone
  | .at_ l => .done ((s.onGroup x.g.gid (Group.pollBegun d.toNat)).issueLoad x l r.va 8 [] (.poll d.toNat (x.g.sk k b)) false s.flight false) Cost.alone

theorem exec_poll (s : State) : exec (.poll d a b k) s = s.recWord a (skRead k b) true [d.toNat] (fun _ => true) false 8 (fun s x r =>
    match x.g.pollWait with
    | some w => .wait s w
    | none => s.pollRes d b k x r) := rfl

/-- A word on a record that waits for no earlier access. -/
theorem recWord_unordered (his : Issues s x) {ss : List (Nat × Nat)} {hasB : Bool} {sd : List Nat}
    (hr : ScalarReady x (Accept.scalar true hasB) (a.toNat :: (ss.map (fun r => r.1) ++ sd))) {legal : Ix → Bool} (hlegal : legal x = true)
    (align : Nat) (f : State → Ix → RecLoc → Res) :
    s.recWord a ss hasB sd legal false align f = .next (s.finish x (match pointerAt (s.share x.g) x.g.vf align (x.g.sreg a.toNat) with
      | .error e => .trap e
      | .ok r => f s x r)) := by
  unfold State.recWord
  rw [word_run his, State.scalarWord_run s _ hlegal (by rw [List.map_cons, List.cons_append]; exact hr)]
  cases pointerAt (s.share x.g) x.g.vf align (x.g.sreg a.toNat) with
  | error e => rfl
  | ok r => rfl

variable {d a b k}

theorem poll_run (his : Issues s x) (hr : ScalarReady x (Accept.scalar true true) (a.toNat :: skRegs k b ++ [d.toNat])) (hpoll : x.g.polling = none) :
    exec (.poll d a b k) s = .next (s.finish x (match pointerAt (s.share x.g) x.g.vf 8 (x.g.sreg a.toNat) with
      | .error e => .trap e
      | .ok r => s.pollRes d b k x r)) := by
  have hregs : (skRead k b).map (fun r => r.1) = skRegs k b := by
    unfold skRead skRegs
    split <;> rfl
  rw [exec_poll, recWord_unordered a his (by rw [hregs]; exact hr) rfl, Group.pollWait, hpoll]
  rfl

theorem poll_completes (his : Issues s x) {r : RecLoc} {l : Loc} (hplace : s.pollPlace r = .at_ l) (hhere : ∀ e p, l ≠ .peer e p) :
    Completes (.next (s.finish x (s.pollRes d b k x r))) x (fun t g =>
      g = { x.g with sEmpty := g.sEmpty, sTicket := g.sTicket, polling := some d.toNat, paths := g.paths } ∧ g.sEmptyAt d.toNat = true
      ∧ (∀ h, h ≠ x.g.gid → t.group h = s.group h)
      ∧ (InFlight t x.g.gid .load l 8 (fun e => e.dest = .poll d.toNat (x.g.sk k b))
        ∨ ∃ f ∈ t.fills, f.gid = x.g.gid ∧ ∃ v, f.items = [.poll d.toNat (dw v) (x.g.sk k b)])) := by
  obtain ⟨_, hg, _⟩ := State.issuer_spec his.2.1
  have hres : s.pollRes d b k x r = .done ((s.onGroup x.g.gid (Group.pollBegun d.toNat)).issueLoad x l r.va 8 []
      (.poll d.toNat (x.g.sk k b)) false s.flight false) Cost.alone := by
    unfold State.pollRes
    rw [hplace]
    cases l with
    | peer e p => exact absurd rfl (hhere e p)
    | hbm p => rfl
    | host p => rfl
    | scr c o => rfl
    | weight e p => rfl
  obtain ⟨hgroups, hload⟩ := (s.onGroup x.g.gid (Group.pollBegun d.toNat)).issueLoad_poll x hhere r.va d.toNat (x.g.sk k b) s.flight
  rw [hres]
  generalize (s.onGroup x.g.gid (Group.pollBegun d.toNat)).issueLoad x l r.va 8 [] (.poll d.toNat (x.g.sk k b)) false s.flight false = T
    at hgroups hload ⊢
  refine completes_done his.2.1 ((State.group_congr hgroups _).trans (State.group_onGroup_same s x.g.gid (Group.pollBegun d.toNat) (fun _ => rfl) hg)) rfl
    fun g hbut => ⟨by rw [hbut]; rfl, ?_, fun h hh => ?_, ?_⟩
  · rw [hbut]
    exact (x.g.sEmptyAt_markS d.isLt false).trans (by simp)
  · rw [State.retire_other _ x none hh, State.group_congr (State.spendCycles_groups _ x _), State.group_congr hgroups]
    exact State.group_onGroup_other s _ (fun _ => rfl) hh
  · unfold InFlight at *
    simpa using hload

end

/-! ### TSPAWN and the spawn queue (R287) -/

section
variable {s : State} {x : Ix} {a : BitVec 6}

/-- What TSPAWN does. -/
def State.tspawnRes (s : State) (x : Ix) (v : Dword) : Res :=
  if v = 0 || 2 ^ 52 ≤ v.toNat then .trap { FaultInfo.of 0x01 with daddr := v.toNat }
  else if v.toNat % 64 ≠ 0 then .trap { FaultInfo.of 0x02 with daddr := v.toNat }
  else if !s.spawnRoom x.g.vf then .wait s .spawn
  else .done (s.setCtx x.g.vf { s.ctx x.g.vf with spawnq := (s.ctx x.g.vf).spawnq ++ [v.toNat] }) Cost.alone

theorem exec_tspawn (a : BitVec 6) (s : State) : exec (.tspawn a) s = s.word .never (fun s x =>
    s.scalarWord x { acc := Accept.scalar true false, legal := true, ss := [(a.toNat, 0)], sd := [] } (fun s x =>
      s.tspawnRes x (x.g.sreg a.toNat))) := rfl

theorem tspawn_run (his : Issues s x) (hr : ScalarReady x (Accept.scalar true false) [a.toNat]) :
    exec (.tspawn a) s = .next (s.finish x (s.tspawnRes x (x.g.sreg a.toNat))) := by
  rw [exec_tspawn, word_run his, State.scalarWord_run s _ (by rfl) (by exact hr)]

section
variable {v : Dword}

theorem State.tspawnRes_range (h : v.toNat = 0 ∨ 2 ^ 52 ≤ v.toNat) : s.tspawnRes x v = .trap { FaultInfo.of 0x01 with daddr := v.toNat } := by
  refine if_pos ?_
  rw [Bool.or_eq_true, decide_eq_true_eq, decide_eq_true_eq]
  exact h.imp_left fun h => BitVec.eq_of_toNat_eq h

theorem State.tspawnRes_inRange (hzero : v.toNat ≠ 0) (hlt : v.toNat < 2 ^ 52) : s.tspawnRes x v
    = if v.toNat % 64 ≠ 0 then .trap { FaultInfo.of 0x02 with daddr := v.toNat }
      else if !s.spawnRoom x.g.vf then .wait s .spawn
      else .done (s.setCtx x.g.vf { s.ctx x.g.vf with spawnq := (s.ctx x.g.vf).spawnq ++ [v.toNat] }) Cost.alone := by
  refine if_neg ?_
  rw [Bool.or_eq_true, decide_eq_true_eq, decide_eq_true_eq]
  rintro (rfl | h)
  · exact hzero rfl
  · omega

end

/-- A record enters the spawn queue of its function. -/
theorem tspawn_completes (his : Issues s x) (v : Nat) :
    Completes (.next (s.finish x (.done (s.setCtx x.g.vf { s.ctx x.g.vf with spawnq := (s.ctx x.g.vf).spawnq ++ [v] }) Cost.alone))) x
      (fun t g => Aside s t x.g.gid ∧ g = { x.g with paths := g.paths }
        ∧ (t.ctx x.g.vf).spawnq = (s.ctx x.g.vf).spawnq ++ [v] ∧ ∀ w, w ≠ x.g.vf → t.ctx w = s.ctx w) := by
  generalize hc : ({ s.ctx x.g.vf with spawnq := (s.ctx x.g.vf).spawnq ++ [v] } : Ctx) = c
  have hctx (w : Nat) : ((((s.setCtx x.g.vf c).spendCycles x Cost.alone).retire x none).ctx w) = if x.g.vf = w then c else s.ctx w := by
    refine Eq.trans ?_ (s.ctx_setCtx x.g.vf w c)
    unfold State.ctx
    simp
  refine completes_aside his.2.1 ⟨rfl, rfl, rfl, rfl⟩ rfl fun g hbut haside => ⟨haside, hbut, ?_, fun w hw => ?_⟩
  · rw [hctx, if_pos rfl, ← hc]
  · rw [hctx, if_neg (Ne.symm hw)]

theorem spawnQueueEntry_enters {vf n : Nat} {ns : List Nat} (hp : s.manage.poweredDown = false) (hheld : (s.ctx vf).heldSpawns = n :: ns)
    (hroom : (s.ctx vf).spawnq.length < 64) :
    ∃ t, exec (.spawnQueueEntry vf) s = .next t ∧ (t.ctx vf).spawnq = (s.ctx vf).spawnq ++ [n] ∧ (t.ctx vf).heldSpawns = ns := by
  have hexec : exec (.spawnQueueEntry vf) s
      = s.event (s.spawnRoom vf) (s.setCtx vf { s.ctx vf with spawnq := (s.ctx vf).spawnq ++ [n], heldSpawns := ns }) := by
    show execSpawnQueueEntry vf s = _
    unfold execSpawnQueueEntry
    dsimp only
    rw [hheld]
  have hctx := s.ctx_setCtx vf vf { s.ctx vf with spawnq := (s.ctx vf).spawnq ++ [n], heldSpawns := ns }
  rw [if_pos rfl] at hctx
  refine ⟨_, hexec.trans (event_due hp (decide_eq_true hroom)), ?_, ?_⟩
  · exact congrArg Ctx.spawnq hctx
  · exact congrArg Ctx.heldSpawns hctx

end

end Sys2Proof.Machine

namespace Sys2Proof.Proofs.ConsistencyRules

open Sys2Proof.Machine

/-- Settles O29: POLL begins and issues one load; TSPAWN goes through its checks; the held action at the head of its list enters. -/
theorem pollAndSpawn : Obligations.PollAndSpawn := by
  unfold Obligations.PollAndSpawn
  refine ⟨fun d a b k s x his hr hpoll => ⟨fun r l hptr hplace hhere => ?_, fun f hf => ?_⟩, fun a s x his hr => ?_,
    fun vf n ns s => spawnQueueEntry_enters⟩
  · rw [poll_run his hr hpoll, hptr]
    refine poll_completes his ?_ hhere
    cases r with
    | scr c o => exact congrArg AccRes.at_ hplace.symm
    | glob vf va => exact hplace
    | phys pa => exact hplace.elim
  · rw [poll_run his hr hpoll, hf]
    exact trap_faults his.2.1 f
  · rw [tspawn_run his hr]
    dsimp only
    refine ⟨fun hrange => ⟨{ FaultInfo.of 0x01 with daddr := (x.g.sreg a.toNat).toNat }, rfl, rfl, ?_⟩,
      fun halign hlt => ⟨{ FaultInfo.of 0x02 with daddr := (x.g.sreg a.toNat).toNat }, rfl, rfl, ?_⟩,
      fun hzero halign hlt => ⟨fun hfull => ?_, fun hroom => ?_⟩⟩
    · rw [State.tspawnRes_range hrange]
      exact trap_faults his.2.1 _
    · rw [State.tspawnRes_inRange (by omega) hlt, if_pos halign]
      exact trap_faults his.2.1 _
    · rw [State.tspawnRes_inRange hzero hlt, if_neg (not_not.mpr halign), State.spawnRoom, decide_eq_false (by omega)]
      exact wait_waits his.2.1 .spawn
    · rw [State.tspawnRes_inRange hzero hlt, if_neg (not_not.mpr halign), State.spawnRoom, decide_eq_true hroom]
      exact tspawn_completes his _

end Sys2Proof.Proofs.ConsistencyRules

/-! PROOFS. Consistency rules: what an atomic leaves in memory (O39). -/

namespace Sys2Proof.Machine

/-! ### The integer types of atomics (R230) -/

theorem typed_mod (signed : Bool) (n v : Nat) : typed signed n (v % 2 ^ n) = typed signed n v := by
  unfold typed toSigned
  rw [Nat.mod_mod]

section
variable {type : Nat} (old x c : Nat)

theorem atomApply_add (h : type < 4) : atomApply 0 type old x c = (old + x) % 2 ^ atomBits type := by
  unfold atomApply
  rw [if_neg (by omega), if_neg (by omega)]
  exact (Nat.add_mod _ _ _).symm

theorem atomApply_min (h : type < 4) : atomApply 1 type old x c
    = if typed (type == 0 || type == 2) (atomBits type) old ≤ typed (type == 0 || type == 2) (atomBits type) x
      then old % 2 ^ atomBits type else x % 2 ^ atomBits type := by
  unfold atomApply
  rw [if_neg (by omega), if_neg (by omega)]
  dsimp only
  rw [typed_mod, typed_mod]
  rfl

theorem atomApply_max (h : type < 4) : atomApply 2 type old x c
    = if typed (type == 0 || type == 2) (atomBits type) old ≤ typed (type == 0 || type == 2) (atomBits type) x
      then x % 2 ^ atomBits type else old % 2 ^ atomBits type := by
  unfold atomApply
  rw [if_neg (by omega), if_neg (by omega)]
  dsimp only
  rw [typed_mod, typed_mod]
  rfl

/-- The lesser and the greater, as the type takes them. -/
theorem typed_atomApply_min_max (h : type < 4) : let val := typed (type == 0 || type == 2) (atomBits type)
    val (atomApply 1 type old x c) = min (val old) (val x) ∧ val (atomApply 2 type old x c) = max (val old) (val x) := by
  rw [atomApply_min old x c h, atomApply_max old x c h]
  dsimp only
  split
  · next hle => rw [typed_mod, typed_mod, min_eq_left hle, max_eq_right hle]; exact ⟨rfl, rfl⟩
  · next hgt => rw [typed_mod, typed_mod, min_eq_right (by omega), max_eq_left (by omega)]; exact ⟨rfl, rfl⟩

/-- The bits of the bitwise operations. -/
theorem atomApply_bits {k : Nat} (hk : k < atomBits type) :
    (atomApply 3 type old x c).testBit k = (old.testBit k && x.testBit k)
    ∧ (atomApply 4 type old x c).testBit k = (old.testBit k || x.testBit k)
    ∧ (atomApply 5 type old x c).testBit k = (old.testBit k ^^ x.testBit k) := by
  have bit (v : Nat) : (v % 2 ^ atomBits type).testBit k = v.testBit k := by rw [Nat.testBit_mod_two_pow, decide_eq_true hk, Bool.true_and]
  refine ⟨(Nat.testBit_and _ _ _).trans ?_, (Nat.testBit_or _ _ _).trans ?_, (Nat.testBit_xor _ _ _).trans ?_⟩ <;> rw [bit, bit]

end

end Sys2Proof.Machine

namespace Sys2Proof.Proofs.ConsistencyRules

open Sys2Proof.Machine

/-- Settles O39: each operation by its arm of `atomApply`, the order of positions by the recursion of `atomRun`. -/
theorem atomicResults : Obligations.AtomicResults := by
  unfold Obligations.AtomicResults
  intro type old x c htype
  have hval (v : Nat) : typed (type == 0 || type == 2) (atomBits type) v
      = if type = 0 ∨ type = 2 then toSigned (atomBits type) v else ((v % 2 ^ atomBits type : Nat) : Int) := by
    unfold typed
    exact if_congr (by simp) rfl rfl
  obtain ⟨hmin, hmax⟩ := typed_atomApply_min_max old x c htype
  simp only [hval] at hmin hmax
  exact ⟨atomApply_add old x c htype, hmin, hmax, fun k hk => atomApply_bits old x c hk, rfl, rfl, fun op a b => rfl⟩

end Sys2Proof.Proofs.ConsistencyRules

/-! PROOFS. Consistency rules: writes of the host (O52). -/

namespace Sys2Proof.Machine

/-! ### Writes of tier T2 lines (R370) -/

theorem oldWrite_nil (a : Nat) (bs : List Byte) : oldWrite [] a bs = [] := by
  induction bs generalizing a with
  | nil => rfl
  | cons b bs ih => exact ih (a + 1)

/-- A write of host memory by the part or the host itself. -/
theorem State.writeLoc_host_mem (s : State) (a : Nat) (bs : List Byte) (core : Option Nat) :
    (s.writeLoc (.host a) bs core noVf).hbm = s.hbm ∧ (s.writeLoc (.host a) bs core noVf).host = writeList s.host a bs
    ∧ (s.writeLoc (.host a) bs core noVf).hostOld = oldWrite s.hostOld a bs := by
  obtain ⟨cs, ds, n, h⟩ := State.markLines_cached
    { s.capture (.host a) bs.length noVf with host := writeList (s.capture (.host a) bs.length noVf).host a bs,
                                              hostOld := oldWrite (s.capture (.host a) bs.length noVf).hostOld a bs,
                                              codeOld := (s.capture (.host a) bs.length noVf).oldCode true a bs.length }
    (fun c => match core with | none => true | some k => c != k) true (linesOf a bs.length)
  have hw : s.writeLoc (.host a) bs core noVf = _ := h
  rw [hw, State.capture_noVf]
  exact ⟨rfl, rfl, rfl⟩

/-- A host write within a line is performed; over CXL the device sees it at once. -/
theorem hostSnoop_writes {s : State} (hp : s.manage.poweredDown = false) {a : Nat} {bs : List Byte} (hline : a % 128 + bs.length ≤ 128)
    (hfree : s.lineHeld (.host a) = false) : ∃ t, exec (.hostSnoop a bs) s = .next t ∧ t.hbm = s.hbm
      ∧ (∀ i, i < bs.length → fget emptyByte t.host (a + i) = bs.getD i 0)
      ∧ (∀ q, q < a ∨ a + bs.length ≤ q → fget emptyByte t.host q = fget emptyByte s.host q)
      ∧ (s.manage.cxl = true → s.hostOld = [] → t.hostOld = [] ∧ t.readLoc (.host a) bs.length = numOf bs) := by
  have hdue : (decide (a % 128 + bs.length ≤ 128) && !s.lineHeld (.host a)) = true := by rw [decide_eq_true hline, hfree]; rfl
  obtain ⟨hhbm, hhost, hold⟩ := s.writeLoc_host_mem a bs none
  generalize hT : (if s.manage.cxl then s.writeLoc (.host a) bs none noVf else s.hostLate a bs) = T
  have hmem : T.hbm = s.hbm ∧ T.host = writeList s.host a bs := by
    rw [← hT]
    split
    · exact ⟨hhbm, hhost⟩
    · exact ⟨rfl, rfl⟩
  refine ⟨T.wake, by rw [← hT]; exact event_due hp hdue, hmem.1, fun i hi => ?_, fun q hq => ?_, fun hcxl hnone => ?_⟩
  · rw [State.wake_host, hmem.2, fget_writeList, if_pos (by omega), Nat.add_sub_cancel_left]
    rfl
  · rw [State.wake_host, hmem.2, fget_writeList_other _ _ _ _ hq]
  · have hseen : T.hostOld = [] := by rw [← hT, if_pos hcxl, hold, hnone, oldWrite_nil]
    refine ⟨hseen, ?_⟩
    show T.hostRead a bs.length = numOf bs
    unfold State.hostRead
    rw [hseen, hmem.2]
    exact readBytes_writeList _ _ _

/-! ### Ring registers (R372-R374) -/

theorem State.ring_setRing_of_ne (s : State) (fn : Nat) {r q : Nat} (h : q ≠ r) (k : Ring) : (s.setRing fn r k).ring fn q = s.ring fn q := by
  unfold State.ring
  rw [State.ctx_setRing, if_pos rfl]
  exact (fget_fset _ _ _ _ _).trans (if_neg (Ne.symm h))

/-- A step that leaves one ring as `new`, and memory and the function's other rings as they were. -/
def RingLeaves (s : State) (o : Host.Outcome State Fault Refusal) (fn r : Nat) (new : Ring) : Prop :=
  ∃ t, o = .next t ∧ t.ring fn r = new ∧ t.hbm = s.hbm ∧ t.host = s.host ∧ ∀ q, q ≠ r → t.ring fn q = s.ring fn q

section
variable {s : State} {fn r : Nat} {due : Bool} (hp : s.manage.poweredDown = false) (hdue : due = true)
include hp hdue

theorem ringLeaves_setRing {u : State} (hctxs : u.ctxs = s.ctxs) (hhbm : u.hbm = s.hbm) (hhost : u.host = s.host) (k : Ring) :
    RingLeaves s (s.event due (u.setRing fn r k)) fn r k := by
  refine ⟨_, event_due hp hdue, State.ring_setRing u fn r k, hhbm, hhost, fun q hq => ?_⟩
  refine (State.ring_setRing_of_ne u fn hq k).trans ?_
  unfold State.ring State.ctx
  rw [hctxs]

theorem ringLeaves_set (k : Ring) : RingLeaves s (s.event due (s.setRing fn r k)) fn r k := ringLeaves_setRing hp hdue rfl rfl rfl k

theorem ringLeaves_same : RingLeaves s (s.event due s) fn r (s.ring fn r) := ⟨_, event_due hp hdue, rfl, rfl, rfl, fun _ _ => rfl⟩

end

/-- A function has its rings. -/
theorem State.hasRing_of {s : State} {fn r : Nat}
    (h : (fn = 0 ∧ (r = 0 ∨ r = 4 ∨ r = 5 ∨ r = 6)) ∨ (0 < fn ∧ fn < 64 ∧ r < 4 ∧ s.manage.mode ≠ 2)) : s.hasRing fn r = true ∧ fn < 64 ∧ r < 7 := by
  unfold State.hasRing
  rcases h with ⟨rfl, rfl | rfl | rfl | rfl⟩ | ⟨hfn, hlt, hr, hmode⟩
  · exact ⟨rfl, by omega, by omega⟩
  · exact ⟨rfl, by omega, by omega⟩
  · exact ⟨rfl, by omega, by omega⟩
  · exact ⟨rfl, by omega, by omega⟩
  · refine ⟨?_, hlt, by omega⟩
    rw [if_neg (by omega)]
    simp [hlt, hmode]
    omega

theorem hostProduced_iff (r : Nat) : hostProduced r = true ↔ r = 0 ∨ r = 2 ∨ r = 5 := by
  simp [hostProduced, or_assoc]

/-- What the host wrote is seen: only L1s and the words' old contents go. -/
theorem State.hostSeen_kept (s : State) :
    s.hostSeen.ctxs = s.ctxs ∧ s.hostSeen.hbm = s.hbm ∧ s.hostSeen.host = s.host ∧ s.hostSeen.hostOld = [] :=
  List.foldlRecOn s.hostOld (fun (s : State) e => s.dropL1 (fun _ => true) true (e.1 / 16))
    (motive := fun t => t.ctxs = s.ctxs ∧ t.hbm = s.hbm ∧ t.host = s.host ∧ t.hostOld = []) ⟨rfl, rfl, rfl, rfl⟩ fun _ h _ _ => h

/-- PI of a ring that the host feeds: the count, or a drop. -/
theorem exec_ringPiWrite_fed {s : State} {fn r : Nat} {v : Word} (hfed : hostProduced r = true) : exec (.ringPiWrite fn r v) s
    = s.event (s.hasRing fn r) (if 2 ^ (s.ring fn r).log2 < (v - (s.ring fn r).ci).toNat then s.setRing fn r (s.ring fn r).drop
      else (if r = 0 then s.hostSeen else s).setRing fn r { s.ring fn r with pi := v }) :=
  congrArg (s.event (s.hasRing fn r)) (if_neg (by simp [hfed]))

theorem dbit_zero (v : Dword) : dbit v 0 = (v.toNat % 2 == 1) := by
  unfold dbit
  rw [Nat.testBit_zero]
  rfl

/-- LOG2 as RCTL gives it, at least 4. -/
theorem log2_of_control (v : Dword) : (if dfield v 7 4 < 4 then 4 else dfield v 7 4) = max 4 (v.toNat / 16 % 16) := by
  show (if v.toNat / 16 % 16 < 4 then 4 else v.toNat / 16 % 16) = _
  split <;> omega

/-- RBASE holds whole pages. -/
theorem and_page (v : Dword) : v &&& ~~~0xFFF = dw (v.toNat / 4096 * 4096) := by
  refine BitVec.eq_of_getLsbD_eq fun i hi => ?_
  have hmask : (0xFFF : Dword).getLsbD i = decide (i < 12) := (Nat.testBit_two_pow_sub_one 12 i)
  have hpage : (v.toNat / 4096 * 4096).testBit i = (decide (12 ≤ i) && v.getLsbD i) := by
    rw [show (4096 : Nat) = 2 ^ 12 from rfl, Nat.testBit_mul_two_pow, Nat.testBit_div_two_pow]
    by_cases h : 12 ≤ i
    · rw [Nat.sub_add_cancel h]
      rfl
    · simp [h]
  rw [BitVec.getLsbD_and, BitVec.getLsbD_not, hmask, dw, BitVec.getLsbD_ofNat, hpage, decide_eq_true hi]
  by_cases h : i < 12
  · simp [h]
  · simp [h, Nat.le_of_not_lt h]

section
variable {s : State} {fn r : Nat} (hp : s.manage.poweredDown = false) (hring : s.hasRing fn r = true)
include hp hring

theorem ringPiWrite_takes {v : Word} (hfed : hostProduced r = true) (hle : (v - (s.ring fn r).ci).toNat ≤ 2 ^ (s.ring fn r).log2) :
    RingLeaves s (exec (.ringPiWrite fn r v) s) fn r { s.ring fn r with pi := v } := by
  obtain ⟨hctxs, hhbm, hhost, _⟩ := s.hostSeen_kept
  rw [exec_ringPiWrite_fed hfed, if_neg (by omega)]
  by_cases hr : r = 0
  · rw [if_pos hr]
    exact ringLeaves_setRing hp hring hctxs hhbm hhost _
  · rw [if_neg hr]
    exact ringLeaves_set hp hring _

theorem ringPiWrite_launch {v : Word} (hr : r = 0) (hle : (v - (s.ring fn r).ci).toNat ≤ 2 ^ (s.ring fn r).log2) :
    ∃ t, exec (.ringPiWrite fn r v) s = .next t ∧ t.hostOld = [] := by
  rw [exec_ringPiWrite_fed ((hostProduced_iff r).mpr (.inl hr)), if_neg (by omega), if_pos hr]
  exact ⟨_, event_due hp hring, s.hostSeen_kept.2.2.2⟩

theorem ringPiWrite_drops {v : Word} (hfed : hostProduced r = true) (hlt : 2 ^ (s.ring fn r).log2 < (v - (s.ring fn r).ci).toNat) :
    RingLeaves s (exec (.ringPiWrite fn r v) s) fn r (s.ring fn r).drop := by
  rw [exec_ringPiWrite_fed hfed, if_pos hlt]
  exact ringLeaves_set hp hring _

theorem ringPiWrite_ignored {v : Word} (hfed : hostProduced r = false) : RingLeaves s (exec (.ringPiWrite fn r v) s) fn r (s.ring fn r) := by
  rw [show exec (.ringPiWrite fn r v) s = s.event (s.hasRing fn r) s from congrArg (s.event (s.hasRing fn r)) (if_pos (by simp [hfed]))]
  exact ringLeaves_same hp hring

theorem ringCiWrite_ignored {v : Word} (hfed : hostProduced r = true) : RingLeaves s (exec (.ringCiWrite fn r v) s) fn r (s.ring fn r) := by
  rw [show exec (.ringCiWrite fn r v) s = s.event (s.hasRing fn r) s from congrArg (s.event (s.hasRing fn r)) (if_pos hfed)]
  exact ringLeaves_same hp hring

theorem ringCiWrite_takes {v : Word} (hfed : hostProduced r = false) :
    RingLeaves s (exec (.ringCiWrite fn r v) s) fn r { s.ring fn r with ci := v } := by
  rw [show exec (.ringCiWrite fn r v) s = s.event (s.hasRing fn r) (s.setRing fn r { s.ring fn r with ci := v }) from
    congrArg (s.event (s.hasRing fn r)) (if_neg (by simp [hfed]))]
  exact ringLeaves_set hp hring _

/-! ### RCTL and RBASE (R372) -/

theorem ringControlWrite_leaves (v : Dword) : RingLeaves s (exec (.ringControlWrite fn r v) s) fn r
    (let k := s.ring fn r
     let log2 := if k.en then k.log2 else if dfield v 7 4 < 4 then 4 else dfield v 7 4
     if dbit v 0 && !k.en then { k with log2 := log2, en := true, pi := 0, ci := 0, ovf := 0 } else { k with log2 := log2, en := dbit v 0 }) :=
  ringLeaves_set hp hring _

theorem ringControlWrite_outOfService (v : Dword) (hen : (s.ring fn r).en = false) : RingLeaves s (exec (.ringControlWrite fn r v) s) fn r
    (if v.toNat % 2 = 1 then { s.ring fn r with log2 := max 4 (v.toNat / 16 % 16), en := true, pi := 0, ci := 0, ovf := 0 }
     else { s.ring fn r with log2 := max 4 (v.toNat / 16 % 16) }) := by
  have h := ringControlWrite_leaves hp hring v
  dsimp only at h
  rw [log2_of_control, dbit_zero, hen, Bool.not_false, Bool.and_true, if_neg Bool.false_ne_true] at h
  by_cases hbit : v.toNat % 2 = 1
  · rw [hbit] at h
    rw [if_pos hbit]
    exact h
  · rw [show (v.toNat % 2 == 1) = false from beq_eq_false_iff_ne.mpr hbit, ← hen] at h
    rw [if_neg hbit]
    rw [hen, if_neg Bool.false_ne_true, ← hen] at h
    exact h

theorem ringControlWrite_inService (v : Dword) (hen : (s.ring fn r).en = true) :
    RingLeaves s (exec (.ringControlWrite fn r v) s) fn r { s.ring fn r with en := v.toNat % 2 == 1 } := by
  have h := ringControlWrite_leaves hp hring v
  dsimp only at h
  rw [dbit_zero, hen, Bool.not_true, Bool.and_false, if_neg Bool.false_ne_true, if_pos rfl] at h
  exact h

end

theorem ringAt_block {r b : Nat} (hr : r < 7) (hb : b < 32) : ringAt (0x100 + 32 * r + b) = some (r, b) := by
  unfold ringAt
  rw [if_pos (by rw [Bool.and_eq_true, decide_eq_true_eq, decide_eq_true_eq]; omega),
    show (256 + 32 * r + b - 256) / 32 = r by omega, show (256 + 32 * r + b - 256) % 32 = b by omega]

section
variable {s : State} {fn r : Nat} (hring : s.hasRing fn r = true ∧ fn < 64 ∧ r < 7)
include hring

/-- A write of RBASE, or of the bytes of a ring's block that are no register. -/
theorem exec_registerWriteOther_block {b : Nat} (hb : b = 0 ∨ b = 24) (w : Nat) (v : Dword) :
    exec (.registerWriteOther fn (0x100 + 32 * r + b) w v) s = s.event true
      (if b == 0 && w == 8 && !(s.ring fn r).en then s.setRing fn r { s.ring fn r with base := v &&& ~~~0xFFF } else s) := by
  obtain ⟨hhas, hfn, hr⟩ := hring
  show execRegisterWriteOther fn (0x100 + 32 * r + b) w v s = _
  unfold execRegisterWriteOther
  rw [ringAt_block hr (by omega)]
  dsimp only
  have hown : (s.hasRing fn r && ((b == 8 && w == 8) || (b == 16 && w == 4) || (b == 20 && w == 4))) = false := by
    rcases hb with rfl | rfl <;> simp
  rw [hown, decide_eq_true hfn, hhas]
  rfl

variable (hp : s.manage.poweredDown = false)
include hp

theorem rbase_set {v : Dword} (hen : (s.ring fn r).en = false) : RingLeaves s (exec (.registerWriteOther fn (0x100 + 32 * r) 8 v) s) fn r
    { s.ring fn r with base := dw (v.toNat / 4096 * 4096) } := by
  rw [show exec (.registerWriteOther fn (0x100 + 32 * r) 8 v) s = _ from exec_registerWriteOther_block hring (b := 0) (.inl rfl) 8 v, hen, ← and_page]
  exact ringLeaves_set hp rfl _

theorem registerWriteOther_ignored {b w : Nat} (hb : b = 0 ∨ b = 24) (h : b = 0 → w = 8 → (s.ring fn r).en = true) (v : Dword) :
    RingLeaves s (exec (.registerWriteOther fn (0x100 + 32 * r + b) w v) s) fn r (s.ring fn r) := by
  rw [exec_registerWriteOther_block hring hb, if_neg]
  · exact ringLeaves_same hp rfl
  · simp only [Bool.and_eq_true, beq_iff_eq, Bool.not_eq_true', not_and, Bool.not_eq_false]
    rintro ⟨h0, h8⟩
    exact h h0 h8

end

theorem registerWriteOther_outside {s : State} (hp : s.manage.poweredDown = false) {fn off : Nat} (hfn : fn < 64) (hoff : off < 0x100 ∨ 0x1E0 ≤ off)
    (w : Nat) (v : Dword) : exec (.registerWriteOther fn off w v) s = .next s.wake := by
  have hnone : ringAt off = none := if_neg (by rw [Bool.and_eq_true, decide_eq_true_eq, decide_eq_true_eq]; omega)
  show execRegisterWriteOther fn off w v s = _
  unfold execRegisterWriteOther
  rw [hnone]
  exact event_due hp (decide_eq_true hfn)

end Sys2Proof.Machine

namespace Sys2Proof.Proofs.ConsistencyRules

open Sys2Proof.Machine

/-- Settles O52: each register write is one change of one ring, or none. -/
theorem hostWrites : Obligations.HostWrites := by
  unfold Obligations.HostWrites
  intro s fn r hp
  refine ⟨fun a bs => hostSnoop_writes hp, fun hthere v => ?_, fun hthere v => ?_, fun off w v hfn hoff => registerWriteOther_outside hp hfn hoff w v⟩
  · have hring := (State.hasRing_of hthere).1
    have hnot (h : ¬(r = 0 ∨ r = 2 ∨ r = 5)) : hostProduced r = false := by
      rw [← Bool.not_eq_true, hostProduced_iff]
      exact h
    exact ⟨fun hfed hle => ringPiWrite_takes hp hring ((hostProduced_iff r).mpr hfed) hle, fun hr hle => ringPiWrite_launch hp hring hr hle,
      fun hfed hlt => ringPiWrite_drops hp hring ((hostProduced_iff r).mpr hfed) hlt, fun hfed => ringPiWrite_ignored hp hring (hnot hfed),
      fun hfed => ringCiWrite_ignored hp hring ((hostProduced_iff r).mpr hfed), fun hfed => ringCiWrite_takes hp hring (hnot hfed)⟩
  · have hring := State.hasRing_of hthere
    exact ⟨ringControlWrite_outOfService hp hring.1 v, ringControlWrite_inService hp hring.1 v, rbase_set hring hp,
      fun hen => registerWriteOther_ignored hring hp (b := 0) (.inl rfl) (fun _ _ => hen) v,
      fun w hw => registerWriteOther_ignored hring hp (b := 0) (.inl rfl) (fun _ h8 => absurd h8 hw) v,
      fun w => registerWriteOther_ignored hring hp (b := 24) (.inr rfl) (fun h0 => absurd h0 (by decide)) v⟩

end Sys2Proof.Proofs.ConsistencyRules

/-! PROOFS. Consistency rules: stopping and collecting (O45). -/
namespace Sys2Proof.Machine

/-! ### A stretch of bytes inside a longer one -/

/-- Memory that holds the bytes of a list holds those of a stretch of it. -/
theorem readBytes_stretch {m : FMap Byte} {a : Nat} {bs : List Byte} (h : readBytes m a bs.length = numOf bs) (i n : Nat)
    (hin : i + n ≤ bs.length) : readBytes m (a + i) n = numOf ((bs.drop i).take n) := by
  have hp : (bs.take i).length = i := List.length_take_of_le (by omega)
  have hq : ((bs.drop i).take n).length = n := List.length_take_of_le (by rw [List.length_drop]; omega)
  have hmid := readBytes_writeList_mid m a (bs.take i) ((bs.drop i).take n) ((bs.drop i).drop n)
  rw [List.take_append_drop, List.take_append_drop, hp, hq] at hmid
  rw [← hmid, readBytes_inside m a hin, readBytes_inside _ a hin, h, readBytes_writeList]

/-! ### A claim that cannot be met (R304, R305) -/

/-- The only claim of a partition whose residents all wait takes the deadlock when it cannot be met. -/
theorem State.released_deadlock {s : State} {p : Nat} {c : Gid × Nat × Nat} {g : Group} (hc : (s.part p).claims = [c])
    (hg : s.group c.1 = some g) (hmeets : s.poolMeets g c.2.2 = false) (hall : s.allClaiming p = true) :
    s.released p = s.deadlock p c := by
  unfold State.released
  rw [hc]
  unfold State.grantClaims
  simp [hc, hg, hmeets, hall]

/-- What the deadlock of a group leaves in HBM is what the stall of its tenure leaves. -/
theorem State.deadlock_hbm {s : State} {p : Nat} {c : Gid × Nat × Nat} {g : Group} (hg : s.group c.1 = some g) :
    (s.deadlock p c).hbm
      = ((s.setPart p { s.part p with claims := (s.part p).claims.filter (fun d => d.1 != c.1) }).stall c.1).hbm := by
  unfold State.deadlock State.takeFault
  dsimp only
  rw [show (s.setPart p { s.part p with claims := (s.part p).claims.filter (fun d => d.1 != c.1) }).group c.1 = some g from hg]
  exact (State.raiseHalt_mem _ _ _ _).1

/-- A tenure that the lock shows running becomes stalled in the lock (R296). -/
theorem State.stall_hbm {s : State} {gid : Gid} {g : Group} {a : Nat} (hg : s.group gid = some g) (hmode : g.cap.inMode = true)
    (hst : g.cap.stalled = false) (hrole : g.cap.role = 1) (hloc : s.locOf g.vf g.cap.record = some (.hbm a))
    (hrun : s.runsTenure g (.hbm a) 1 = true) (hrep : s.replay = none) :
    (s.stall gid).hbm = writeList s.hbm a (bytesOf 8 (lockState (readBytes s.hbm a 8) 2)) := by
  unfold State.stall
  simp only [hg, hmode, hst, Bool.not_true, Bool.or_self, Bool.false_eq_true, if_false]
  generalize hu : ({ s.onGroup gid _ with fills := _ } : State) = u
  have hloc' : u.locOf g.vf g.cap.record = some (.hbm a) := by rw [← hu]; exact hloc
  have hrun' : u.runsTenure g (.hbm a) 1 = true := by rw [← hu]; exact hrun
  have hmem : u.hbm = s.hbm := by rw [← hu]; rfl
  have hrep' : u.replay = none := by rw [← hu]; exact hrep
  simp only [hloc', hrole, if_true, hrun']
  obtain ⟨co, cs, ds, n, hw⟩ := u.writeLoc_hbm a (bytesOf 8 (lockState (u.readLoc (.hbm a) 8) 2)) none g.vf
  rw [State.capture_idle hrep'] at hw
  rw [State.writeNum, hw]
  show writeList u.hbm a (bytesOf 8 (lockState (readBytes u.hbm a 8) 2)) = _
  rw [hmem]

/-! ### The collector (R355) -/

theorem State.finishPreempts_hbm (s : State) (vf n : Nat) : (s.finishPreempts vf n).hbm = s.hbm := by
  unfold State.finishPreempts
  refine List.foldlRecOn _ _ (motive := fun t : State => t.hbm = s.hbm) rfl fun t ht c _ => ?_
  obtain ⟨_, _, _, _, _, _, _, h⟩ := t.pushOrDrop_entered 0 6 [dw (at' 0 56 + cmdTag c), dw n]
  exact (congrArg State.hbm h).trans ht

/-- What the collector leaves in HBM: the save area as written, and what the resources that return change. -/
theorem collectorComplete_hbm {s t : State} {vf : Nat} {pre : Bool} (hst : (s.ctx vf).st = .stopping pre)
    (h : exec (.collectorComplete vf) s = .next t) :
    t.hbm = ((s.writeLoc (.hbm (s.ctx vf).saveBase.toNat) (s.stopImage vf pre).1 none noVf).takeAway vf (s.stopImage vf pre).1
      (s.stopImage vf pre).2).hbm := by
  change execCollectorComplete vf s = _ at h
  unfold execCollectorComplete at h
  simp only [hst] at h
  unfold State.event at h
  split at h
  · cases h
  · split at h
    · cases h
      rw [State.wake_hbm, State.finishPreempts_hbm]
      rfl
    · cases h

/-! ### A partition listed twice -/

/-- A group of partition 0. -/
def rowGroup (gid : Gid) (vf : Nat) : Group := { (placedLaunch State.reset).group gid 0 0 0 0 0 0 0 with vf := vf }

/-- Function 1 stops, its only group has acknowledged. The map of partitions lists partition 0 twice, so the claim in its second entry is not
seen before the collector takes the first one away. The claiming group, of function 0, runs a capsule whose lock lies in the save area. -/
def hiddenClaim : State :=
  { State.reset with
    hbm := [(0x1000, 0x01), (0x1001, 0x20), (0x2000, 0x01), (0x2001, 0x30), (0x3000, 0x03)]
    ctxs := [(0, { Ctx.reset with root := 1 }), (1, { Ctx.reset with st := .stopping false, acked := [.group 9], saveBase := 0x100000 })]
    groups := [{ rowGroup 9 1 with s := [(0, 0x8100000)] },
      { rowGroup 8 0 with park := .regclm 1000000 0 0 0 false, cap := { CapState.none with record := 0x100140, role := 1, inMode := true } }]
    parts := [(0, Part.reset), (0, { Part.reset with claims := [(8, 0, 1000000)] })] }

theorem hiddenClaim_claims (p : Nat) : (hiddenClaim.part p).claims = [] := by
  show (fget Part.reset [(0, Part.reset), (0, _)] p).claims = []
  simp only [fget]
  split
  · rfl
  · rfl

/-- The record of the stopped group. -/
def hiddenRecord : List Byte := (hiddenClaim.groupRecord (hiddenClaim.groups.headD (rowGroup 9 1))).bytes false

theorem hiddenRecord_first : (hiddenClaim.stopRecords 1)[0]?.map (fun r => r.bytes false) = some hiddenRecord := rfl
theorem hiddenRecord_lock : (hiddenRecord.drop 192).take 8 = bytesOf 8 0x8100000 := by decide
theorem hiddenImage_lock : ((hiddenClaim.stopImage 1 false).1.drop 320).take 8 = bytesOf 8 0x8100000 := by decide
theorem hiddenImage_offset : (hiddenClaim.stopImage 1 false).2[0]? = some 128 := by decide
theorem hiddenClaim_due : (∀ u ∈ hiddenClaim.unitsOf 1, u ∈ (hiddenClaim.ctx 1).acked) ∧ hiddenClaim.driven 1 = true := by decide


/-- The group that holds the claim and the tenure. -/
def claimHolder : Group :=
  { rowGroup 8 0 with park := .regclm 1000000 0 0 0 false, cap := { CapState.none with record := 0x100140, role := 1, inMode := true } }

theorem claimHolder_unmet {s : State} (h : s.groups = [claimHolder]) : s.poolMeets claimHolder 1000000 = false := by
  unfold State.poolMeets State.rowsUsed State.resident
  rw [h]
  decide

theorem claimHolder_allClaiming {s : State} (h : s.groups = [claimHolder]) : s.allClaiming 0 = true := by
  unfold State.allClaiming State.resident
  rw [h]
  rfl

/-- The save area as written, and nothing of function 1 left: the hidden claim is now the claim of partition 0. -/
theorem hiddenClaim_takeAway (m : FMap Byte) (co : List CodeOld) (cs : FMap Core) (ds : List DirtyLine) (n : Nat) (i : List Byte) (o : List Nat) :
    ∃ u : State, ({ hiddenClaim with hbm := m, codeOld := co, cores := cs, dirty := ds, free := n } : State).takeAway 1 i o = u.released 0
      ∧ (u.part 0).claims = [(8, 0, 1000000)] ∧ u.groups = [claimHolder]
      ∧ u.hbm = m ∧ u.ctx 0 = { Ctx.reset with root := 1 } ∧ u.tlb = [] ∧ u.manage = Manage.reset ∧ u.replay = none := by
  unfold State.takeAway
  dsimp only
  rw [show ((hiddenClaim.groups.filter (fun g => g.vf == 1)).map (·.part)).eraseDups = [0] from rfl, List.foldl_cons, List.foldl_nil]
  exact ⟨_, rfl, rfl, rfl, rfl, rfl, rfl, rfl, rfl⟩

/-- The number of an entry of a table at a level of the walk (R101). -/
def walkIndex (fuel va : Nat) : Nat := if 4 - fuel = 0 then field va 51 48 else va / 2 ^ levelShift (4 - fuel) % 512

/-- An entry that names a table leads there. -/
theorem walkFrom_table {s : State} (c : Ctx) {va fuel table a e : Nat} (ha : table + 8 * walkIndex fuel va = a) (he : readBytes s.hbm a 8 = e)
    (hkind : e.testBit 0 = true ∧ e.testBit 10 = false ∧ field e 2 1 = 0 ∧ (4 - fuel == 4) = false ∧ (e - at' (field e 51 12) 12 != 1) = false)
    (hin : s.inHbm (field e 51 12 * 4096) 4096 = true) :
    s.walkFrom c va (fuel + 1) table = s.walkFrom c va fuel (field e 51 12 * 4096) := by
  obtain ⟨hv, hd, hk, hl, hz⟩ := hkind
  subst ha
  unfold walkIndex at he
  rw [State.walkFrom]
  simp only [he, hv, hd, hk, hz, hin]
  simp at hl
  simp [hl]

/-- An entry for a page of its level ends the walk. -/
theorem walkFrom_page {s : State} (c : Ctx) {va fuel table a e : Nat} (ha : table + 8 * walkIndex fuel va = a) (he : readBytes s.hbm a 8 = e)
    (hkind : e.testBit 0 = true ∧ e.testBit 10 = false ∧ field e 2 1 = 1 ∧ 2 ≤ 4 - fuel)
    (hok : s.leafOk c (4 - fuel) e (2 ^ levelShift (4 - fuel)) = true) :
    s.walkFrom c va (fuel + 1) table = .leaf (dw e) a (2 ^ levelShift (4 - fuel)) := by
  obtain ⟨hv, hd, hk, hl⟩ := hkind
  subst ha
  unfold walkIndex at he ⊢
  rw [State.walkFrom]
  simp only [he, hv, hd, hk, hok, hl]
  simp

/-- Without cached translations an access meets what the page table says (R105). -/
theorem State.lookup_uncached {s : State} (h : s.tlb = []) (vf va : Nat) : s.lookup vf va = s.walk vf va := by
  unfold State.lookup State.walks
  rw [h]
  rfl

/-- A page table in HBM that maps the first GiB to itself. -/
theorem walk_first_gib {s : State} (hroot : s.ctx 0 = { Ctx.reset with root := 1 }) (hm : s.manage = Manage.reset)
    (h0 : readBytes s.hbm 0x1000 8 = 0x2001) (h1 : readBytes s.hbm 0x2000 8 = 0x3001) (h2 : readBytes s.hbm 0x3000 8 = 3) :
    s.walk 0 0x100140 = .leaf 3 0x3000 (2 ^ 30) := by
  have hin : ∀ a n, s.inHbm a n = State.reset.inHbm a n := by
    intro a n
    unfold State.inHbm State.dieOn
    rw [hm]
    rfl
  have hok : s.leafOk { Ctx.reset with root := 1 } 2 3 (2 ^ 30) = State.reset.leafOk { Ctx.reset with root := 1 } 2 3 (2 ^ 30) := by
    unfold State.leafOk
    simp only [hin]
  unfold State.walk
  rw [hroot]
  exact (walkFrom_table _ (a := 0x1000) (by decide) h0 (by decide) (by rw [hin]; decide)).trans
    ((walkFrom_table _ (a := 0x2000) (by decide) h1 (by decide) (by rw [hin]; decide)).trans
      (walkFrom_page _ (a := 0x3000) (by decide) h2 (by decide) (hok.trans (by decide))))

/-- With the lock of the claiming group's capsule in the save area, the deadlock of its claim changes the save area. -/
theorem released_marks_lock {u : State} (hc : (u.part 0).claims = [(8, 0, 1000000)]) (hgs : u.groups = [claimHolder])
    (hroot : u.ctx 0 = { Ctx.reset with root := 1 }) (htlb : u.tlb = []) (hm : u.manage = Manage.reset) (hrep : u.replay = none)
    (h0 : readBytes u.hbm 0x1000 8 = 0x2001) (h1 : readBytes u.hbm 0x2000 8 = 0x3001) (h2 : readBytes u.hbm 0x3000 8 = 3)
    (hlock : readBytes u.hbm 0x100140 8 = 0x8100000) : readBytes (u.released 0).hbm 0x100140 8 = 0x8200000 := by
  have hg : u.group 8 = some claimHolder := by
    unfold State.group
    rw [hgs]
    rfl
  have hloc : u.locOf claimHolder.vf claimHolder.cap.record = some (.hbm 0x100140) := by
    unfold State.locOf
    rw [State.lookup_uncached htlb, show u.walk claimHolder.vf claimHolder.cap.record = _ from walk_first_gib hroot hm h0 h1 h2]
    decide
  have hrun : u.runsTenure claimHolder (.hbm 0x100140) 1 = true := by
    unfold State.runsTenure State.readLoc
    dsimp only
    rw [hlock, if_pos (show claimHolder.cap.role = 1 from rfl)]
    decide
  rw [State.released_deadlock hc hg (claimHolder_unmet hgs) (claimHolder_allClaiming hgs), State.deadlock_hbm hg,
    State.stall_hbm (s := u.setPart 0 _) hg rfl rfl rfl hloc hrun hrep]
  show readBytes (writeList u.hbm 0x100140 (bytesOf 8 (lockState (readBytes u.hbm 0x100140 8) 2))) 0x100140 8 = _
  rw [hlock, readBytes_written]
  decide

/-- What the collector leaves of the lock. -/
theorem hiddenClaim_marked {t : State} (h : exec (.collectorComplete 1) hiddenClaim = .next t) : readBytes t.hbm 0x100140 8 = 0x8200000 := by
  have hlock := hiddenImage_lock
  have ht := collectorComplete_hbm (show (hiddenClaim.ctx 1).st = .stopping false from rfl) h
  generalize (hiddenClaim.stopImage 1 false).1 = image at hlock ht
  generalize (hiddenClaim.stopImage 1 false).2 = offs at ht
  obtain ⟨co, cs, ds, n, hw⟩ := hiddenClaim.writeLoc_hbm_noVf 0x100000 image none
  obtain ⟨u, hu, hc, hgs, hmem, hroot, htlb, hm, hrep⟩ := hiddenClaim_takeAway (writeList hiddenClaim.hbm 0x100000 image) co cs ds n image offs
  have hbelow (a : Nat) (ha : a + 8 ≤ 0x100000) : readBytes u.hbm a 8 = readBytes hiddenClaim.hbm a 8 := by
    rw [hmem, readBytes_writeList_other _ _ _ _ _ (Or.inl ha)]
  have hlong : 328 ≤ image.length := by
    have := congrArg List.length hlock
    rw [List.length_take, List.length_drop, bytesOf_length] at this
    omega
  rw [ht, show (hiddenClaim.ctx 1).saveBase.toNat = 0x100000 from rfl, hw, hu]
  refine released_marks_lock hc hgs hroot htlb hm hrep ?_ ?_ ?_ ?_
  · rw [hbelow _ (by decide)]; decide
  · rw [hbelow _ (by decide)]; decide
  · rw [hbelow _ (by decide)]; decide
  · rw [hmem, show (0x100140 : Nat) = 0x100000 + 320 from rfl, readBytes_stretch (readBytes_writeList _ _ _) 320 8 hlong, hlock]
    decide

end Sys2Proof.Machine

namespace Sys2Proof.Proofs.ConsistencyRules

open Sys2Proof.Machine

/-- Refutes O45: that no partition has claims is said of the first entry that the state's map lists for each. In a state whose map lists a
partition twice (no canonical form, but the statement takes every state), a claim of the second entry comes to light when the collector takes
the first one away; it ends in claim-deadlock (R304), and the lock of the faulting group's capsule, which lies in the save area, is marked
stalled (R296) after the records were written. -/
theorem not_stopSteps : ¬ Obligations.StopSteps := by
  unfold Obligations.StopSteps
  intro h
  obtain ⟨-, hcollect, -⟩ := h hiddenClaim rfl
  obtain ⟨-, hdone⟩ := hcollect 1 false rfl
  obtain ⟨t, hstep, _, _, _, _, _, _, _, _, _, _, hbytes⟩ := hdone hiddenClaim_due.1 hiddenClaim_due.2
  obtain ⟨-, hrecords⟩ := hbytes hiddenClaim_claims
  obtain ⟨r, hr, hbytes⟩ := Option.map_eq_some_iff.mp hiddenRecord_first
  obtain ⟨o, ho, -, hrecord⟩ := hrecords 0 r hr
  obtain rfl : (128 : Nat) = o := Option.some.inj (hiddenImage_offset.symm.trans ho)
  rw [hbytes] at hrecord
  have hmarked := hiddenClaim_marked hstep
  have hlock := hiddenRecord_lock
  generalize hiddenRecord = b at hrecord hlock
  have hlong : 200 ≤ b.length := by
    have := congrArg List.length hlock
    rw [List.length_take, List.length_drop, bytesOf_length] at this
    omega
  have hwritten := readBytes_stretch hrecord 192 8 hlong
  rw [hlock] at hwritten
  exact absurd (hmarked.symm.trans hwritten) (by decide)

end Sys2Proof.Proofs.ConsistencyRules
